-- ==== Sys2Proof/Word.lean ====
section
/-! DEFINITION. The word types of the Z1 and the address of a core in the 64-cluster grid (spec 00). -/

namespace Sys2Proof

/-- A 64-bit word: a scalar register, a hoist mask, a control register (00 R4). -/
abbrev Word := BitVec 64

/-- One byte of any memory (00 R5: little-endian throughout). -/
abbrev Byte := BitVec 8

/-- A 32-bit instruction-scratchpad word, a vector lane, a format word. -/
abbrev Half := BitVec 32

/-- The 2,048 bits of a vector register: lane i is bits [32i + 31 : 32i] (09 R239, 17 R406). -/
abbrev Lanes := BitVec 2048

end Sys2Proof
end

