-- ==== Sys2Proof/Config.lean ====
section
/-! DEFINITION. The values an implementation leaves open: opaque constants with no body that any proof can see. -/

namespace Sys2Proof.Config

/-- UNVERIFIED (log entry 1). A value the spec leaves undefined: a register read inside its latency bound (09 R216),
an edge read before its push lands (11 R282), a drain inside its bound (11 R287), a register that a resumed frame does
not name (10 R257). The first argument is the State's count of draws, or the count of active cycles of the core whose program
draws it (09 R238), and the second says which value is meant. Nothing is known of it. -/
opaque freeWord : Nat → Nat → BitVec 2048

/-- UNVERIFIED (log entry 1). A choice the spec leaves to the machine: whether a discarded dirty byte had already been
written back (07 R176), whether a fetch returns the old or the new word (09 R221, 10 R254, R255).
Nothing is known of it. -/
opaque freeBit : Nat → Nat → Bool

end Sys2Proof.Config
end

