-- ==== Sys2Proof/Syntax.lean ====
section
/-! DEFINITION. The instructions: one constructor per row of spec/opcode_table.json, over the operand forms of the
encoding layouts (spec 14). Slot operations carry their decoded fields; a device event has no field of its own, its data
stand beside it in an EvArg. -/

namespace Sys2Proof

/-- The guard field (14 Table Enc.3; R352): a predicate q0-q15, or a flag f0-f3 in a barrel operation, maybe inverted. -/
structure Guard where
  neg : Bool
  pred : BitVec 4
  deriving DecidableEq, Repr

/-- How a named literal is read (14 Table Enc.5): sign-extended, zero-extended, or a 64-bit pair. -/
inductive LitForm where
  | sxt | zxt | pair
  deriving DecidableEq, Repr

/-- The second operand (14 R343; R352): a register, an immediate (5 bits in a primary slot, 32 in a barrel operation,
24 as a barrel offset), a literal of the bundle's pool, or a word of a constant window (barrel only). -/
inductive Src where
  | reg (r : BitVec 6)
  | imm (v : BitVec 32)
  | lit (form : LitForm) (index : BitVec 3)
  | cw (window : BitVec 3) (offset : BitVec 17)
  deriving DecidableEq, Repr

/-- Addressing mode of an M operation (14 R345). -/
inductive Mode where
  | loc | core | weave | glob
  deriving DecidableEq, Repr

/-- Ordering code of an atomic or FENCE (14 R345). -/
inductive Ord where
  | rlx | acq | rel | ar
  deriving DecidableEq, Repr

/-- Compare condition: the fn of CMP, CMPN and FCMP (15 Table Ctl.3) and the condition of VCMP (14 Table Enc.9). -/
inductive Cond where
  | c0 | c1 | c2 | c3
  deriving DecidableEq, Repr

/-- Element type of a V operation (14 Table Enc.8). -/
inductive VType where
  | i32 | n32 | f32 | bf16 | f16 | i16 | i8 | n8
  deriving DecidableEq, Repr

/-- Rounding field (12 Table Formats.7). -/
inductive Rnd where
  | rne | rtz | rup | rdn
  deriving DecidableEq, Repr

/-- Operator of VRED and VSCAN: the code of bits [10:8] (17 R422). -/
abbrev RedOp := BitVec 3

/-- Layout SA (14 Table Enc.6). -/
structure AluForm where
  g : Guard
  d : BitVec 6
  a : BitVec 6
  b : Src
  deriving DecidableEq, Repr

/-- Layout SU: one source. -/
structure UnForm where
  g : Guard
  d : BitVec 6
  a : BitVec 6
  deriving DecidableEq, Repr

/-- Layout SP of CMP, CMPN and FCMP: a predicate destination. -/
structure CmpForm where
  g : Guard
  cc : Cond
  d : BitVec 4
  a : BitVec 6
  b : Src
  deriving DecidableEq, Repr

/-- Layout SL: LI. -/
structure LiForm where
  g : Guard
  d : BitVec 6
  b : Src
  deriving DecidableEq, Repr

/-- Layout SP of PAND, POR and PXOR. -/
structure PredForm where
  g : Guard
  d : BitVec 4
  a : BitVec 4
  b : BitVec 4
  deriving DecidableEq, Repr

/-- Layout SP of PNOT and PMOV. -/
structure PredUnForm where
  g : Guard
  d : BitVec 4
  a : BitVec 4
  deriving DecidableEq, Repr

/-- Layout SP of PSET: the value is 0 or 1 (15 R365). -/
structure PSetForm where
  g : Guard
  d : BitVec 4
  v : Bool
  deriving DecidableEq, Repr

/-- Layout SC: a scalar register and a control-register number. -/
structure CRegForm where
  g : Guard
  r : BitVec 6
  c : BitVec 12
  deriving DecidableEq, Repr

/-- Layout SN: NOW and CYC. -/
structure TimeForm where
  g : Guard
  d : BitVec 6
  deriving DecidableEq, Repr

/-- Layout SH: a scalar register and a hoist number 0-511. -/
structure HoistForm where
  g : Guard
  r : BitVec 6
  h : BitVec 9
  deriving DecidableEq, Repr

/-- Layouts MA, MS, MC and MP (14 Table Enc.7, Table Enc.19): data register, base, index or offset, mode, predicate or
flag code, ordering, and (barrel only) scope. -/
structure MemForm where
  g : Guard
  d : BitVec 6
  a : BitVec 6
  i : Src
  mode : Mode
  p : BitVec 3
  ord : Ord
  scope : BitVec 3
  deriving DecidableEq, Repr

/-- Layout MV: LDV and STV. -/
structure VMemForm where
  g : Guard
  v : BitVec 5
  a : BitVec 6
  i : Src
  mode : Mode
  deriving DecidableEq, Repr

/-- Layout MG: VGATH and VSCAT. -/
structure GathForm where
  g : Guard
  v : BitVec 5
  a : BitVec 6
  vi : BitVec 5
  mode : Mode
  deriving DecidableEq, Repr

/-- FENCE (14 R345). -/
structure FenceForm where
  g : Guard
  ord : Ord
  scope : BitVec 3
  deriving DecidableEq, Repr

/-- Layout VV (14 Table Enc.9). -/
structure VForm where
  g : Guard
  d : BitVec 5
  a : BitVec 5
  b : BitVec 5
  m : BitVec 3
  t : VType
  deriving DecidableEq, Repr

/-- Layout V1 with a zero code: VABS, VNEG, VNOT, VARGMX. -/
structure V1Form where
  g : Guard
  d : BitVec 5
  a : BitVec 5
  m : BitVec 3
  t : VType
  deriving DecidableEq, Repr

/-- Layout V1 with a rounding code: VEXP2-VSQRT, of TYPE f32 only. -/
structure VRndForm where
  g : Guard
  d : BitVec 5
  a : BitVec 5
  r : Rnd
  m : BitVec 3
  deriving DecidableEq, Repr

/-- Layout VK: a mask destination. -/
structure VCmpForm where
  g : Guard
  cc : Cond
  n : BitVec 3
  a : BitVec 5
  b : BitVec 5
  m : BitVec 3
  t : VType
  deriving DecidableEq, Repr

/-- Layout VC: VCVT with its source type. -/
structure VCvtForm where
  g : Guard
  d : BitVec 5
  a : BitVec 5
  s : VType
  r : Rnd
  m : BitVec 3
  t : VType
  deriving DecidableEq, Repr

/-- Layout VU: VUNPK with its target type. -/
structure VUnpkForm where
  g : Guard
  d : BitVec 5
  a : BitVec 5
  u : VType
  m : BitVec 3
  t : VType
  deriving DecidableEq, Repr

/-- Layout VQ: VQDEC with its codebook (false Q4N, true Q4L). -/
structure VQdecForm where
  g : Guard
  d : BitVec 5
  a : BitVec 5
  book : Bool
  m : BitVec 3
  deriving DecidableEq, Repr

/-- Layout VR: VRED and VSCAN. -/
structure VRedForm where
  g : Guard
  d : BitVec 5
  a : BitVec 5
  x : RedOp
  r : Rnd
  m : BitVec 3
  t : VType
  deriving DecidableEq, Repr

/-- Layout VP: VSHUF and VCX with their pattern or distance code. -/
structure VPatForm where
  g : Guard
  d : BitVec 5
  a : BitVec 5
  c : BitVec 5
  m : BitVec 3
  t : VType
  deriving DecidableEq, Repr

/-- Layout VS: VBC and VINS, with a scalar source. -/
structure VScalForm where
  g : Guard
  d : BitVec 5
  s : BitVec 6
  m : BitVec 3
  t : VType
  deriving DecidableEq, Repr

/-- Layout VX: VEXT, with a scalar destination. -/
structure VExtForm where
  g : Guard
  s : BitVec 6
  a : BitVec 5
  m : BitVec 3
  t : VType
  deriving DecidableEq, Repr

/-- Layout V0: VIOTA, of TYPE i32 (false) or n32 (true). -/
structure VIotaForm where
  g : Guard
  d : BitVec 5
  m : BitVec 3
  n : Bool
  deriving DecidableEq, Repr

/-- Layout MM: MAND, MOR, MXOR. -/
structure MaskForm where
  g : Guard
  d : BitVec 3
  a : BitVec 3
  b : BitVec 3
  deriving DecidableEq, Repr

/-- Layout MM of MNOT. -/
structure MaskUnForm where
  g : Guard
  d : BitVec 3
  a : BitVec 3
  deriving DecidableEq, Repr

/-- Layout MT: MPOP, MFIRST, MTOS. -/
structure MaskOutForm where
  g : Guard
  s : BitVec 6
  a : BitVec 3
  deriving DecidableEq, Repr

/-- Layout MF: MFROM. -/
structure MaskInForm where
  g : Guard
  d : BitVec 3
  s : BitVec 6
  deriving DecidableEq, Repr

/-- A source of an X operation (14 Table Enc.13): none, the vector pair v(2n), v(2n+1), the descriptor pair s(2n),
s(2n+1), or keep. -/
inductive XSrc where
  | none
  | vec (n : BitVec 4)
  | desc (n : BitVec 5)
  | keep
  deriving DecidableEq, Repr

/-- Both words of MBEAT (14 Tables Enc.12 and Enc.13). -/
structure BeatForm where
  g : Guard
  fsel : BitVec 4
  oneshot : Bool
  sparse : Bool
  bank : Bool
  pushA : Bool
  pushB : Bool
  acc : Bool
  fold : Bool
  shA : Bool
  shB : Bool
  drain : Bool
  amt : BitVec 7
  a : XSrc
  b : XSrc
  dconv : BitVec 3
  drnd : Bool
  dsat : Bool
  dshift : BitVec 5
  dkind : Bool
  dest : BitVec 6
  deriving DecidableEq, Repr

/-- MSCL. -/
structure SclForm where
  g : Guard
  a : XSrc
  b : XSrc
  deriving DecidableEq, Repr

/-- MCLR. -/
structure ClrForm where
  g : Guard
  bank : Bool
  deriving DecidableEq, Repr

/-- MSWAP. -/
structure SwapForm where
  g : Guard
  deriving DecidableEq, Repr

/-- MSAVE and MLOAD: the part bits [13:8] of word 0 (bit 5 k0, 4 k1, 3 ea, 2 eb, 1 sa, 0 sb) and the address register. -/
structure ImgForm where
  g : Guard
  parts : BitVec 6
  dest : BitVec 6
  deriving DecidableEq, Repr

/-- Layout OFF: BR, CALL, MSEEK. -/
structure OffForm where
  g : Guard
  off : BitVec 21
  deriving DecidableEq, Repr

/-- Layout REG and the register kinds of HOLDC and FMT. -/
structure RegForm where
  g : Guard
  r : BitVec 6
  deriving DecidableEq, Repr

/-- Layout NONE. -/
structure NoneForm where
  g : Guard
  deriving DecidableEq, Repr

/-- Layout LOOP. -/
structure LoopForm where
  g : Guard
  l : BitVec 2
  n : BitVec 7
  e : BitVec 12
  deriving DecidableEq, Repr

/-- Layout LOOPX. -/
structure LoopxForm where
  g : Guard
  l : BitVec 2
  r : BitVec 6
  e : BitVec 12
  deriving DecidableEq, Repr

/-- Layout HOLD, kind 0. -/
structure HoldForm where
  g : Guard
  n : BitVec 20
  deriving DecidableEq, Repr

/-- Layout CODE: TRAP. -/
structure CodeForm where
  g : Guard
  c : BitVec 12
  deriving DecidableEq, Repr

/-- Layout FORMAT, kind 0 of SETF. -/
structure SetfForm where
  g : Guard
  f : BitVec 4
  r : BitVec 6
  deriving DecidableEq, Repr

/-- Layout FORMAT, kind 1 of SETF. -/
structure SetfLitForm where
  g : Guard
  f : BitVec 4
  l : BitVec 3
  deriving DecidableEq, Repr

/-- Layout FORMAT, kind 1 of FMT. -/
structure FmtLitForm where
  g : Guard
  l : BitVec 3
  deriving DecidableEq, Repr

/-- An E word with d and a (19 Table Engine.1). -/
structure E2Form where
  g : Guard
  d : BitVec 6
  a : BitVec 6
  deriving DecidableEq, Repr

/-- An E word with d, a and b. -/
structure E3Form where
  g : Guard
  d : BitVec 6
  a : BitVec 6
  b : BitVec 6
  deriving DecidableEq, Repr

/-- TSPAWN and TWAKE: fn 1 targets core B of the cluster. -/
structure ESpawnForm where
  g : Guard
  d : BitVec 6
  a : BitVec 6
  b : BitVec 6
  other : Bool
  deriving DecidableEq, Repr

/-- HREAD with its field code (19 Table Engine.6). -/
structure HreadForm where
  g : Guard
  d : BitVec 6
  a : BitVec 6
  c : BitVec 6
  deriving DecidableEq, Repr

/-- VSEND and VRECV with their channel code. -/
structure MeshForm where
  g : Guard
  v : BitVec 5
  ch : BitVec 6
  deriving DecidableEq, Repr

/-- LIVE: a mask register or an immediate mask (19 R467). -/
structure LiveForm where
  g : Guard
  b : Src
  deriving DecidableEq, Repr

/-- MIGR. -/
structure MigrForm where
  g : Guard
  a : BitVec 6
  deriving DecidableEq, Repr

/-- JMP (14 Table Enc.20). -/
structure JmpForm where
  g : Guard
  off : BitVec 32
  deriving DecidableEq, Repr

/-- JR. -/
structure JrForm where
  a : BitVec 6
  deriving DecidableEq, Repr

/-- JAL. -/
structure JalForm where
  d : BitVec 6
  off : BitVec 32
  deriving DecidableEq, Repr

/-- JALR. -/
structure JalrForm where
  d : BitVec 6
  a : BitVec 6
  deriving DecidableEq, Repr

/-- SLEEPU: an instant in a register, or a duration in ns. -/
structure SleepForm where
  t : Src
  deriving DecidableEq, Repr

/-- SYSC. -/
structure SyscForm where
  c : BitVec 16
  deriving DecidableEq, Repr

/-- TRAPG. -/
structure TrapgForm where
  c : BitVec 12
  deriving DecidableEq, Repr

/-- Who makes a host-side access (03 R59, R62-R65): a function of the device, the management controller, a peer device. -/
inductive Who where
  | fn (n : BitVec 4)
  | mgmt
  | peer (device : BitVec 6)
  deriving DecidableEq, Repr

/-- A link flit of 128 bytes, byte i in bits [8i + 7 : 8i] (02 R40). -/
abbrev Flit := BitVec 1024

/-- What a training attempt of a link found (02 R38): a width of 8, 4 or 2 lanes with the neighbour's device number, or
no width that passed within 10 ms. -/
inductive Training where
  | up (lanes : BitVec 4) (peer : BitVec 6)
  | failed
  deriving DecidableEq, Repr

/-- A firmware image kind with two banks (03 R76). -/
abbrev ImageKind := BitVec 4

/-- The outcome of one boot step (03 R71, R72): passed, passed with units marked unavailable, passed in its alternate
form, or failed. -/
inductive BootOutcome where
  | pass
  | unavailable (mask : BitVec 64)
  | alternate
  | fail
  deriving DecidableEq, Repr

/-- The header of a submitted halyard frame as read from the frame window (06 R140): its bytes 0-127. -/
abbrev FrameData := BitVec 1024

/-- Where a memory error was found (07 R178-R181). -/
inductive ErrorSite where
  | core (core : BitVec 10)
  | barrel (core : BitVec 10)
  | slice (slice : BitVec 8)
  | engine (cluster : BitVec 6)
  | scratchpad (core : BitVec 10) (offset : BitVec 20)
  | memory (address : BitVec 52)
  | link (link : BitVec 4)
  deriving DecidableEq, Repr

/-- The data of a device event: what the outside world or the unit that performs the event supplies. A row of the table
without an encoding has no fields, so its data stand beside it; each event reads the fields its meaning names. -/
structure EvArg where
  /-- who makes a host-side access -/
  who : Who := .mgmt
  /-- a global core (00 R2) -/
  core : BitVec 10 := 0
  /-- a barrel thread; 8 means the primary -/
  thread : BitVec 4 := 0
  /-- a context -/
  ctx : BitVec 6 := 0
  /-- an index: a cluster, link, slice, quadrant, schedule entry, occurrence, halyard, job slot or queue -/
  ix : Nat := 0
  /-- a register value, an address or a time -/
  value : Word := 0
  /-- a second value -/
  aux : Word := 0
  /-- a link flit or the header of a frame -/
  flit : Flit := 0
  /-- the bytes of a host write -/
  data : Lanes := 0
  site : ErrorSite := .slice 0
  train : Training := .failed
  outcome : BootOutcome := .pass
  flag : Bool := false
  deriving DecidableEq, Repr

/-- The instructions: one constructor per row of spec/opcode_table.json. -/
inductive Instr where

  /-- ADD (R359): Adds two 64-bit operands. -/
  | add (f : AluForm)
  /-- SUB (R359): Subtracts two 64-bit operands. -/
  | sub (f : AluForm)
  /-- ADDW (R359): Adds and sign-extends the low 32 bits. -/
  | addw (f : AluForm)
  /-- SUBW (R359): Subtracts and sign-extends the low 32 bits. -/
  | subw (f : AluForm)
  /-- MUL (R359): Multiplies, keeping the low 64 bits. -/
  | mul (f : AluForm)
  /-- MULH (R359): Returns the high 64 bits of the signed product. -/
  | mulh (f : AluForm)
  /-- MULHN (R359): Returns the high 64 bits of the unsigned product. -/
  | mulhn (f : AluForm)
  /-- DIV (R360): Signed division truncating toward zero, without trap on zero. -/
  | div (f : AluForm)
  /-- DIVN (R360): Unsigned division, all ones on zero divisor. -/
  | divn (f : AluForm)
  /-- REM (R360): Signed remainder with the dividend's sign. -/
  | rem (f : AluForm)
  /-- REMN (R360): Unsigned remainder. -/
  | remn (f : AluForm)
  /-- AND (R359): Bitwise AND. -/
  | and (f : AluForm)
  /-- OR (R359): Bitwise OR. -/
  | or (f : AluForm)
  /-- XOR (R359): Bitwise XOR. -/
  | xor (f : AluForm)
  /-- ANDN (R359): A AND NOT B. -/
  | andn (f : AluForm)
  /-- ORN (R359): A OR NOT B. -/
  | orn (f : AluForm)
  /-- SHL (R359): Shift left by B[5:0]. -/
  | shl (f : AluForm)
  /-- SHR (R359): Logical shift right by B[5:0]. -/
  | shr (f : AluForm)
  /-- SRA (R359): Arithmetic shift right by B[5:0]. -/
  | sra (f : AluForm)
  /-- ROTR (R359): Rotate right by B[5:0]. -/
  | rotr (f : AluForm)
  /-- CLZ (R361): Counts leading zero bits. -/
  | clz (f : UnForm)
  /-- CTZ (R361): Counts trailing zero bits. -/
  | ctz (f : UnForm)
  /-- POPC (R361): Counts one bits. -/
  | popc (f : UnForm)
  /-- BREV (R361): Reverses the bit order. -/
  | brev (f : UnForm)
  /-- MIN (R359): Signed minimum. -/
  | min (f : AluForm)
  /-- MAX (R359): Signed maximum. -/
  | max (f : AluForm)
  /-- MINN (R359): Unsigned minimum. -/
  | minn (f : AluForm)
  /-- MAXN (R359): Unsigned maximum. -/
  | maxn (f : AluForm)
  /-- CMP (R364): Signed or equality compare writing a predicate. -/
  | cmp (f : CmpForm)
  /-- CMPN (R364): Unsigned or bit-test compare writing a predicate. -/
  | cmpn (f : CmpForm)
  /-- MOV (R361): Copies a same-side register. -/
  | mov (f : UnForm)
  /-- LI (R363): Loads an immediate or literal constant. -/
  | li (f : LiForm)
  /-- MOVX (R363): Copies a register from either side with one cross-side read. -/
  | movx (f : UnForm)
  /-- EXTR (R362): Extracts a bitfield. -/
  | extr (f : AluForm)
  /-- INSR (R362): Inserts a bitfield into the destination. -/
  | insr (f : AluForm)
  /-- SXT (R362): Sign-extends from a given width. -/
  | sxt (f : AluForm)
  /-- ZXT (R362): Zero-extends from a given width. -/
  | zxt (f : AluForm)
  /-- LEA (R359): Adds eight times B to A. -/
  | lea (f : AluForm)
  /-- PAND (R365): Predicate AND. -/
  | pand (f : PredForm)
  /-- POR (R365): Predicate OR. -/
  | por (f : PredForm)
  /-- PXOR (R365): Predicate XOR. -/
  | pxor (f : PredForm)
  /-- PNOT (R365): Predicate NOT. -/
  | pnot (f : PredUnForm)
  /-- PMOV (R365): Predicate copy. -/
  | pmov (f : PredUnForm)
  /-- PSET (R365): Sets a predicate to 0 or 1. -/
  | pset (f : PSetForm)
  /-- FADD (R366): Binary32 addition rounded to nearest even. -/
  | fadd (f : AluForm)
  /-- FSUB (R366): Binary32 subtraction. -/
  | fsub (f : AluForm)
  /-- FMUL (R366): Binary32 multiplication. -/
  | fmul (f : AluForm)
  /-- FFMA (R366): Binary32 fused multiply-add into the destination with one rounding. -/
  | ffma (f : AluForm)
  /-- FMIN (R366): Binary32 minimum under R310. -/
  | fmin (f : AluForm)
  /-- FMAX (R366): Binary32 maximum under R310. -/
  | fmax (f : AluForm)
  /-- FCMP (R367): Binary32 compare writing a predicate. -/
  | fcmp (f : CmpForm)
  /-- FCVT_I2F (R368): Converts a signed 64-bit integer to binary32. -/
  | fcvtI2f (f : UnForm)
  /-- FCVT_N2F (R368): Converts an unsigned 64-bit integer to binary32. -/
  | fcvtN2f (f : UnForm)
  /-- FCVT_F2I (R368): Converts binary32 to a signed 64-bit integer, clamping with NV. -/
  | fcvtF2i (f : UnForm)
  /-- FCVT_F2N (R368): Converts binary32 to an unsigned 64-bit integer, clamping with NV. -/
  | fcvtF2n (f : UnForm)
  /-- MFC (R369): Reads a control register. -/
  | mfc (f : CRegForm)
  /-- MTC (R369): Writes a control register, effective two cycles later. -/
  | mtc (f : CRegForm)
  /-- NOW (R370): Reads NOW at issue. -/
  | now (f : TimeForm)
  /-- CYC (R370): Reads CYCLE at issue. -/
  | cyc (f : TimeForm)
  /-- MIX (R371): Computes the Zelua mix of counter A and key B. -/
  | mix (f : AluForm)
  /-- HSET (R402): Writes a hoist mask register. -/
  | hset (f : HoistForm)
  /-- HGET (R402): Reads a hoist mask register. -/
  | hget (f : HoistForm)
  /-- LDB (R386): Loads a sign-extended byte. -/
  | ldb (f : MemForm)
  /-- LDBN (R386): Loads a zero-extended byte. -/
  | ldbn (f : MemForm)
  /-- LDH (R386): Loads a sign-extended halfword. -/
  | ldh (f : MemForm)
  /-- LDHN (R386): Loads a zero-extended halfword. -/
  | ldhn (f : MemForm)
  /-- LDW (R386): Loads a sign-extended word. -/
  | ldw (f : MemForm)
  /-- LDWN (R386): Loads a zero-extended word. -/
  | ldwn (f : MemForm)
  /-- LDD (R386): Loads a doubleword. -/
  | ldd (f : MemForm)
  /-- STB (R386): Stores a byte. -/
  | stb (f : MemForm)
  /-- STH (R386): Stores a halfword. -/
  | sth (f : MemForm)
  /-- STW (R386): Stores a word. -/
  | stw (f : MemForm)
  /-- STD (R386): Stores a doubleword. -/
  | std (f : MemForm)
  /-- LDV (R388): Loads 256 bytes into a vector register. -/
  | ldv (f : VMemForm)
  /-- STV (R388): Stores a vector register as 256 bytes. -/
  | stv (f : VMemForm)
  /-- VGATH (R389): Gathers one 4-byte value per lane. -/
  | vgath (f : GathForm)
  /-- VSCAT (R389): Scatters one 4-byte value per lane. -/
  | vscat (f : GathForm)
  /-- LDA (R392): Loads 8 bytes with acquire. -/
  | lda (f : MemForm)
  /-- STRL (R392): Stores 8 bytes with release. -/
  | strl (f : MemForm)
  /-- PRAISE (R392): Stores a pennant with release and wakes waiters. -/
  | praise (f : MemForm)
  /-- PTEST (R392): Reads a pennant with acquire and sets a predicate if nonzero. -/
  | ptest (f : MemForm)
  /-- PWAIT (R393): Reads a pennant and waits, bounded, until it is written nonzero. -/
  | pwait (f : MemForm)
  /-- LRW (R394): Joins a granule's reservation queue and reads it with acquire when holding. -/
  | lrw (f : MemForm)
  /-- SCH (R395): Stores with release and hands the held reservation to the next waiter. -/
  | sch (f : MemForm)
  /-- AADD (R396): Atomic add returning the old word. -/
  | aadd (f : MemForm)
  /-- AAND (R396): Atomic AND. -/
  | aand (f : MemForm)
  /-- AOR (R396): Atomic OR. -/
  | aor (f : MemForm)
  /-- AXOR (R396): Atomic XOR. -/
  | axor (f : MemForm)
  /-- AMIN (R396): Atomic signed minimum. -/
  | amin (f : MemForm)
  /-- AMAX (R396): Atomic signed maximum. -/
  | amax (f : MemForm)
  /-- AMINN (R396): Atomic unsigned minimum. -/
  | aminn (f : MemForm)
  /-- AMAXN (R396): Atomic unsigned maximum. -/
  | amaxn (f : MemForm)
  /-- AXCH (R396): Atomic exchange. -/
  | axch (f : MemForm)
  /-- ACAS (R396): Atomic compare-and-swap with s(d+1) as the new value. -/
  | acas (f : MemForm)
  /-- FENCE (R398): Orders accesses as an acquire, release or both without an access. -/
  | fence (f : FenceForm)
  /-- CFLUSH (R399): Writes back a dirty scavenger cache line. -/
  | cflush (f : MemForm)
  /-- CINV (R399): Writes back and invalidates a scavenger cache line. -/
  | cinv (f : MemForm)
  /-- CPRE (R399): Hints a fill of a scavenger cache line. -/
  | cpre (f : MemForm)
  /-- PLD (R400): Service thread reads 8 bytes of physical memory with acquire at system scope. -/
  | pld (f : MemForm)
  /-- STT (R401): Service thread installs a translation at a slice and wakes the miss requester. -/
  | stt (f : MemForm)
  /-- VADD (R410): Vector add per element. -/
  | vadd (f : VForm)
  /-- VSUB (R410): Vector subtract per element. -/
  | vsub (f : VForm)
  /-- VMUL (R410): Vector multiply per element. -/
  | vmul (f : VForm)
  /-- VMULH (R410): Vector integer high multiply. -/
  | vmulh (f : VForm)
  /-- VFMA (R411): Vector fused multiply-add into vd. -/
  | vfma (f : VForm)
  /-- VFMS (R411): Vector fused multiply-subtract from vd. -/
  | vfms (f : VForm)
  /-- VMIN (R410): Vector minimum. -/
  | vmin (f : VForm)
  /-- VMAX (R410): Vector maximum. -/
  | vmax (f : VForm)
  /-- VABS (R412): Vector absolute value. -/
  | vabs (f : V1Form)
  /-- VNEG (R412): Vector negation. -/
  | vneg (f : V1Form)
  /-- VAND (R413): Lane-wise AND. -/
  | vand (f : VForm)
  /-- VOR (R413): Lane-wise OR. -/
  | vor (f : VForm)
  /-- VXOR (R413): Lane-wise XOR. -/
  | vxor (f : VForm)
  /-- VNOT (R413): Lane-wise NOT. -/
  | vnot (f : V1Form)
  /-- VSHL (R413): Vector shift left per element. -/
  | vshl (f : VForm)
  /-- VSHR (R413): Vector logical shift right. -/
  | vshr (f : VForm)
  /-- VSRA (R413): Vector arithmetic shift right. -/
  | vsra (f : VForm)
  /-- VCMP (R414): Vector compare writing a lane mask. -/
  | vcmp (f : VCmpForm)
  /-- VCMPX (R415): Vector compare by total order writing a lane mask. -/
  | vcmpx (f : VCmpForm)
  /-- VSEL (R416): Selects lanes from two vectors by a mask. -/
  | vsel (f : VForm)
  /-- VCVT (R417): Converts elements between types. -/
  | vcvt (f : VCvtForm)
  /-- VPACK (R418): Packs two vectors into narrower elements. -/
  | vpack (f : VForm)
  /-- VUNPK (R419): Widens elements into vd and vd + 1. -/
  | vunpk (f : VUnpkForm)
  /-- VQDEC (R420): Decodes 64 codebook codes to levels. -/
  | vqdec (f : VQdecForm)
  /-- VEXP2 (R421): Correctly rounded 2 to the x. -/
  | vexp2 (f : VRndForm)
  /-- VLOG2 (R421): Correctly rounded base-2 logarithm. -/
  | vlog2 (f : VRndForm)
  /-- VRCP (R421): Correctly rounded reciprocal. -/
  | vrcp (f : VRndForm)
  /-- VRSQ (R421): Correctly rounded reciprocal square root. -/
  | vrsq (f : VRndForm)
  /-- VSQRT (R421): Correctly rounded square root. -/
  | vsqrt (f : VRndForm)
  /-- VRED (R422): Reduces active lanes in a fixed pairwise tree into lane 0. -/
  | vred (f : VRedForm)
  /-- VSCAN (R423): Inclusive prefix over active lanes. -/
  | vscan (f : VRedForm)
  /-- VPERM (R425): Permutes lanes by index vector. -/
  | vperm (f : VForm)
  /-- VSHUF (R426): Moves lanes by a fixed pattern code. -/
  | vshuf (f : VPatForm)
  /-- VBC (R427): Broadcasts a scalar to active lanes. -/
  | vbc (f : VScalForm)
  /-- VEXT (R427): Extracts the lowest active lane to a scalar. -/
  | vext (f : VExtForm)
  /-- VINS (R427): Inserts a scalar into the lowest active lane. -/
  | vins (f : VScalForm)
  /-- VCX (R428): One compare-exchange step of a sorting network. -/
  | vcx (f : VPatForm)
  /-- VARGMX (R424): Finds the largest active element and its index. -/
  | vargmx (f : V1Form)
  /-- VRAND (R429): Applies the Zelua mix per lane. -/
  | vrand (f : VForm)
  /-- VIOTA (R430): Writes each active lane's count of active lanes below it. -/
  | viota (f : VIotaForm)
  /-- MAND (R431): Lane-mask AND. -/
  | mand (f : MaskForm)
  /-- MOR (R431): Lane-mask OR. -/
  | mor (f : MaskForm)
  /-- MXOR (R431): Lane-mask XOR. -/
  | mxor (f : MaskForm)
  /-- MNOT (R431): Lane-mask NOT. -/
  | mnot (f : MaskUnForm)
  /-- MPOP (R431): Counts the one bits of a mask. -/
  | mpop (f : MaskOutForm)
  /-- MFIRST (R431): Index of a mask's lowest one bit. -/
  | mfirst (f : MaskOutForm)
  /-- MFROM (R431): Sets a mask from a scalar. -/
  | mfrom (f : MaskInForm)
  /-- MTOS (R431): Copies a mask to a scalar. -/
  | mtos (f : MaskOutForm)
  /-- MBEAT (R439): Steers one array beat of push, accumulate, fold, shift and drain verbs. -/
  | mbeat (f : BeatForm)
  /-- MSCL (R442): Loads the scale edges from block scales. -/
  | mscl (f : SclForm)
  /-- MCLR (R443): Clears an accumulator bank. -/
  | mclr (f : ClrForm)
  /-- MSWAP (R443): Exchanges the two accumulator banks. -/
  | mswap (f : SwapForm)
  /-- MSAVE (R444): Writes named parts of the array image to the scratchpad. -/
  | msave (f : ImgForm)
  /-- MLOAD (R444): Reads named parts of the array image from the scratchpad. -/
  | mload (f : ImgForm)
  /-- BR (R373): Branch to a word offset with two delay bundles. -/
  | br (f : OffForm)
  /-- BRI (R373): Branch to a register-held word index. -/
  | bri (f : RegForm)
  /-- CALL (R373): Branch writing the return point to ln. -/
  | call (f : OffForm)
  /-- CALLI (R373): Indirect call writing ln. -/
  | calli (f : RegForm)
  /-- RET (R373): Transfers to ln. -/
  | ret (f : NoneForm)
  /-- LOOP (R375): Arms a hardware loop with an immediate count. -/
  | loop (f : LoopForm)
  /-- LOOPX (R375): Arms a hardware loop with a register count. -/
  | loopx (f : LoopxForm)
  /-- HOLDC_IMM (R377): Holds until the run count reaches an immediate. -/
  | holdcImm (f : HoldForm)
  /-- HOLDC_REG (R377): Holds until the run count reaches a register value. -/
  | holdcReg (f : RegForm)
  /-- HOLDU (R377): Holds until NOW reaches a register value. -/
  | holdu (f : RegForm)
  /-- HALT (R378): Stops the primary after its bundle commits. -/
  | halt (f : NoneForm)
  /-- TRAP (R379): Raises the issue trap TRAP with a software code. -/
  | trap (f : CodeForm)
  /-- BRK (R379): Raises the breakpoint trap. -/
  | brk (f : NoneForm)
  /-- IRET (R380): Returns from a user-interrupt handler. -/
  | iret (f : NoneForm)
  /-- UIEN (R380): Enables user interrupts. -/
  | uien (f : NoneForm)
  /-- UIDIS (R380): Disables user interrupts. -/
  | uidis (f : NoneForm)
  /-- IFENCE (R381): Makes later fetches see copied instruction words, with a 2-cycle hold. -/
  | ifence (f : NoneForm)
  /-- PHASE (R382): Phase boundary choosing stage and variant from member measures. -/
  | phase (f : RegForm)
  /-- MSEEK (R436): Sets c.mpc to a metadata word. -/
  | mseek (f : OffForm)
  /-- SETF_REG (R432): Writes a format register from a scalar register. -/
  | setfReg (f : SetfForm)
  /-- SETF_LIT (R432): Writes a format register from a literal. -/
  | setfLit (f : SetfLitForm)
  /-- FMT_REG (R433): Sets the pending one-shot format from a register. -/
  | fmtReg (f : RegForm)
  /-- FMT_LIT (R433): Sets the pending one-shot format from a literal. -/
  | fmtLit (f : FmtLitForm)
  /-- CPY (R451): Issues a copy job from a scratchpad descriptor. -/
  | cpy (f : E2Form)
  /-- CPY_V (R451): Issues a copy job from a virtual-address descriptor. -/
  | cpyV (f : E2Form)
  /-- CPYQ (R452): Returns a job's status without waiting. -/
  | cpyq (f : E2Form)
  /-- CPYW (R452): Waits for a job to finish and returns its status. -/
  | cpyw (f : E2Form)
  /-- CPYK (R452): Cancels an unfinished job. -/
  | cpyk (f : E2Form)
  /-- HBIND_OPEN (R456): Opens a CLOSED halyard from its record. -/
  | hbindOpen (f : E3Form)
  /-- HBIND_BIND (R456): Binds a halyard live to the issuing gang. -/
  | hbindBind (f : E2Form)
  /-- HBIND_PARK (R456): Parks a LIVE halyard, writing its record back. -/
  | hbindPark (f : E2Form)
  /-- HBIND_CLOSE (R456): Closes a halyard, cancelling bound jobs. -/
  | hbindClose (f : E2Form)
  /-- HREAD (R457): Reads a halyard field with acquire. -/
  | hread (f : HreadForm)
  /-- HFRAME (R458): Commits tokens of the next input entry as inputs. -/
  | hframe (f : E3Form)
  /-- HTENT (R458): Sets the tentative limit T to G + n. -/
  | htent (f : E3Form)
  /-- HCOMMIT (R458): Commits a token list as samples. -/
  | hcommit (f : E3Form)
  /-- HCUT (R459): Requests a frame-mode cut and waits for it. -/
  | hcut (f : E2Form)
  /-- HCUT_T (R459): Requests a tentative-mode cut and waits for it. -/
  | hcutT (f : E2Form)
  /-- HCKPT (R458): Marks a checkpoint valid. -/
  | hckpt (f : E3Form)
  /-- HPLAY_HOLD (R458): Sets the halyard HOLD bit. -/
  | hplayHold (f : E3Form)
  /-- HPLAY_SOURCE (R458): Sets the halyard PLAYSRC bit. -/
  | hplaySource (f : E3Form)
  /-- HPLAY_HORIZON (R458): Raises the halyard HORIZON. -/
  | hplayHorizon (f : E3Form)
  /-- SQPUT (R460): Appends a 64-byte buffer to a stage queue. -/
  | sqput (f : E3Form)
  /-- SQGET (R460): Removes a stage-queue head entry into a buffer. -/
  | sqget (f : E3Form)
  /-- SQLEN (R460): Reads a stage queue's occupancy. -/
  | sqlen (f : E3Form)
  /-- SQLEN_ARM_HIGH (R460): Reads occupancy and arms a high threshold interrupt. -/
  | sqlenArmHigh (f : E3Form)
  /-- SQLEN_ARM_LOW (R460): Reads occupancy and arms a low threshold interrupt. -/
  | sqlenArmLow (f : E3Form)
  /-- TSPAWN (R462): Appends a frame to a core's ready queue with release. -/
  | tspawn (f : ESpawnForm)
  /-- TWAKE (R462): Appends a parked or trapped frame to a ready queue. -/
  | twake (f : ESpawnForm)
  /-- TRACE (R463): Writes a trace record. -/
  | trace (f : E3Form)
  /-- VSEND (R464): Injects a vector as four static-mesh beats. -/
  | vsend (f : MeshForm)
  /-- VRECV (R465): Takes four received beats of a channel into a vector. -/
  | vrecv (f : MeshForm)
  /-- LIVE (R467): Sets a barrel thread's live mask. -/
  | live (f : LiveForm)
  /-- MIGR (R467): Migrates a barrel thread to a named core. -/
  | migr (f : MigrForm)
  /-- JMP (R383): Barrel relative jump. -/
  | jmp (f : JmpForm)
  /-- JR (R383): Barrel register jump. -/
  | jr (f : JrForm)
  /-- JAL (R383): Barrel relative jump with link. -/
  | jal (f : JalForm)
  /-- JALR (R383): Barrel register jump with link. -/
  | jalr (f : JalrForm)
  /-- SLEEPU (R468): Barrel thread sleeps until a NOW deadline. -/
  | sleepu (f : SleepForm)
  /-- TYIELD (R468): Saves the frame and requeues it, freeing the slot. -/
  | tyield
  /-- TYIELD_PARK (R468): Saves the frame PARKED and frees the slot. -/
  | tyieldPark
  /-- TEXIT (R468): Marks the frame EXITED and frees the slot. -/
  | texit
  /-- SYSC (R468): Parks the frame and writes a SYSCALL record. -/
  | sysc (f : SyscForm)
  /-- TRAPG (R468): Raises the thread trap TRAP with a code. -/
  | trapg (f : TrapgForm)
  /-- COLD_RESET (R35): A cold reset clears CYCLE, NOW, TIMESTAT and reservations, loads the reset cost table and equal grants, and leaves every core ungated. -/
  | coldReset
  /-- WARM_RESET (R35): A warm reset, also made by a conventional reset of the host link, zeroes CYCLE, clears reservations and stops every core, but keeps NOW, grants, cost table and scratchpads. -/
  | warmReset
  /-- FUNCTION_LEVEL_RESET (R61): A function-level reset of a VF or of the PF kills every launch of its contexts and clears their windows and MSI-X tables. -/
  | functionLevelReset
  /-- TOKEN_PERIOD_START (R17): At every cycle with CYCLE mod 1,000 = 0, every cluster pool is reset to its grant and leftover tokens are discarded. -/
  | tokenPeriodStart
  /-- GRANT_WRITE (R18): A write of GRANTn sets a cluster grant unless it would break the module budget or fall below the reserved sum. -/
  | grantWrite
  /-- POWER_CAP (R68): A PLDM power cap sets the grant sum to (W - 300) x 1,000,000 tokens, split equally, taking effect under R23. -/
  | powerCap
  /-- GATING_PREPARE (R28): After 64,000 consecutive idle cycles a core enters the prepare phase of power gating. -/
  | gatingPrepare
  /-- GATING_COMMIT (R28): Sixteen cycles after prepare the core powers off its array, pipelines and barrel issue, keeping storage in retention. -/
  | gatingCommit
  /-- UNGATING_COMPLETE (R28): Ungating started by a wake completes after 2,000 cycles and the held work proceeds. -/
  | ungatingComplete
  /-- TIME_SOURCE_LOCK (R32): The first lock to a time source steps NOW to the source time if no launch has run, otherwise the offset is removed by slew. -/
  | timeSourceLock
  /-- TIME_SOURCE_LOSS (R33): Loss of the time source in use keeps the last slew, sets HOLDOVER and takes the next available source without a step. -/
  | timeSourceLoss
  /-- TIMECFG_WRITE (R79): A write of TIMECFG sets the source order, and is dropped if it names a code above 3 or a source twice. -/
  | timecfgWrite
  /-- LINK_TRAINING_DONE (R38): Link training ends at the first width of 8, 4 or 2 lanes that passes, or makes the link DOWN after 10 ms. -/
  | linkTrainingDone
  /-- LINK_RETRAIN (R39): A link retrains after 8 unacknowledged replays of a flit or 64 uncorrectable codewords within 65,536 ns. -/
  | linkRetrain
  /-- IDLE (R41): An IDLE flit is received on VC 0 and carries no payload. -/
  | idle
  /-- READ (R42): A READ flit is received and performed at the destination's home slice, or forwarded or answered with a fault. -/
  | read
  /-- READRSP (R42): A READRSP flit returns read data or a fault to the originating copy job. -/
  | readrsp
  /-- WRITE (R42): A WRITE flit is received and performed at the destination's home slice with the carried scope. -/
  | write
  /-- WRITEACK (R48): A WRITEACK flit acknowledges a peer write to the originating job. -/
  | writeack
  /-- ATOMIC (R42): An ATOMIC flit is received and its atomic performed at the destination's home slice. -/
  | atomic
  /-- ATOMICRSP (R48): An ATOMICRSP flit returns the result of a peer atomic to the originating job. -/
  | atomicrsp
  /-- MESSAGE (R50): A MESSAGE flit carries designated-peer claims, ownership handovers or launch coordination between command processors and management units. -/
  | message
  /-- TIME (R52): A TIME flit from a neighbour yields offset and delay samples that discipline NOW when the neighbour is the time source. -/
  | time
  /-- LINKCTL (R41): A LINKCTL flit is received on VC 0 and is never buffered or resent. -/
  | linkctl
  /-- ROUTE_WRITE (R45): A write of ROUTEd sets the route entry for destination d, and an entry for the device's own number is ignored. -/
  | routeWrite
  /-- ROUTE_STALL_DISCARD (R46): A virtual channel that makes no progress on a link for 1 ms has its waiting flits discarded into ROUTEDROP. -/
  | routeStallDiscard
  /-- LINK_REQUEST_TIMEOUT (R49): A peer request without response after 1 ms fails with a LINKTIMEOUT fault record for its job. -/
  | linkRequestTimeout
  /-- MESSAGE_RETRY (R50): A MESSAGE reported as failed is sent again by its sender after 1 ms. -/
  | messageRetry
  /-- TIME_FLIT_SEND (R51): When NOW mod 65,536 = 0, each side of an UP or DEGRADED link sends a TIME flit with t_send, t_rx and t_nb. -/
  | timeFlitSend
  /-- NEIGHBOUR_SOURCE_LOST (R53): Four missing TIME samples in a row make the neighbour time source lost. -/
  | neighbourSourceLost
  /-- BAR4_READ (R60): A host read through BAR 4 is translated and performed at system scope, or on a scratchpad through the aperture. -/
  | bar4Read
  /-- BAR4_WRITE (R60): A host write through BAR 4 is translated and performed at system scope, or window-checked on a scratchpad through the aperture. -/
  | bar4Write
  /-- CLAIM (R64): OWNER.CMD CLAIM makes the writer the owner when the device is unowned. -/
  | claim
  /-- RELEASE (R64): OWNER.CMD RELEASE by the owner leaves the device unowned while running launches continue. -/
  | release
  /-- HANDOVER (R64): OWNER.CMD HANDOVER by the owner with NEXT set opens a handover to NEXT for 1 s. -/
  | handover
  /-- ACCEPT (R64): OWNER.CMD ACCEPT by the claimant named in NEXT during an open handover makes it the owner. -/
  | accept
  /-- HANDOVER_LAPSE (R65): A handover not accepted within 1 s lapses and NEXT returns to 0. -/
  | handoverLapse
  /-- REGISTER_WRITE (R62): A write to a register without behaviour of its own is performed, or dropped for writer rights or a broken limit and counted in OWNVIOL where applicable. -/
  | registerWrite
  /-- PLDM_SENSOR_READ (R67): A PLDM monitoring request returns the telemetry sensors with the NOW of their sample. -/
  | pldmSensorRead
  /-- TELEMETRY_REFRESH (R67): The management unit refreshes telemetry values at least every 1 ms. -/
  | telemetryRefresh
  /-- FIRMWARE_UPDATE (R76): A PLDM type 5 update writes and verifies the inactive bank, which takes effect at the next reset. -/
  | firmwareUpdate
  /-- CLEAR_BOOT_MARK (R73): The owner clears an unavailable or alternate-form mark through PLDM so the unit is tried again at the next boot. -/
  | clearBootMark
  /-- SPDM_REQUEST (R77): An SPDM request through the DOE mailbox is answered with measurements signed by the alias key, or an error when no signature remains. -/
  | spdmRequest
  /-- TRACEBASE_WRITE (R69): A write of TRACEBASEq sets the ring base and resets TRACEHEADq when the base changes. -/
  | tracebaseWrite
  /-- TRACECFG_WRITE (R79): A write of TRACECFGq sets EN, MODE and SIZE, is dropped for a SIZE outside 16 to 32, and resets TRACEHEADq on a size change. -/
  | tracecfgWrite
  /-- BOOT_STEP (R71): A boot step completes and its outcome is written to the boot record before the next step begins. -/
  | bootStep
  /-- BOOT_FAIL_RESET (R72): A mandatory step failing in its usual form makes the management unit reset the module within 100 ms, keeping the boot record. -/
  | bootFailReset
  /-- FUNCTION_ENABLE (R80): Enabling a function makes its context ACTIVE with reset register values. -/
  | functionEnable
  /-- CREATE (R82): CTXCTL CREATE makes a FREE context ACTIVE with invalid entries, disabled windows and zero counters. -/
  | create
  /-- DESTROY (R82): CTXCTL DESTROY makes a context STOPPING, kills its launches, clears its entries' VALID and closes its halyards. -/
  | destroy
  /-- CONTEXT_FREE (R82): A STOPPING context becomes FREE once its kills and closes are done. -/
  | contextFree
  /-- SCHEDULE_ENTRY_WRITE (R84): A write to schedule-entry bytes is performed in arrival order, or dropped and counted in ENTRYERR while VALID is 1. -/
  | scheduleEntryWrite
  /-- VALID_SET (R85): Setting VALID arms an entry, placing a shared occurrence in its launch queue after its first checks. -/
  | validSet
  /-- VALID_CLEAR (R86): Clearing VALID cancels every occurrence whose preparation has not begun. -/
  | validClear
  /-- PREPARATION_BEGIN (R86): At NOW at or after instant - 100,000, a time-triggered occurrence is read, checked and reserved, and its loads, ungating and pre-emptions begin. -/
  | preparationBegin
  /-- IMAGE_LOAD (R95): Once a core is free, the copy unit loads code, tags, segments, constant-window bases and arguments into it. -/
  | imageLoad
  /-- OCCURRENCE_START (R87): At the first CYCLE after preparation with NOW at or after the instant, every guidon issues the entry bundle and followers 4 cycles later. -/
  | occurrenceStart
  /-- OCCURRENCE_END (R97): Once all cores halted or were killed and all jobs and writes are done, the completion record is written with release and the vector sent. -/
  | occurrenceEnd
  /-- FRAME_SUBMIT (R99): A nonzero write to a slot's GO byte submits the frame, stamped with its arrival NOW, or drops it under R100. -/
  | frameSubmit
  /-- ROUND_START (R115): At CYCLE mod 100,000 = 0 each cluster credits contending contexts by weight and clamps the credits. -/
  | roundStart
  /-- SHARED_START (R104): A selected shared occurrence starts after its reservations, router and image loads and checks complete. -/
  | sharedStart
  /-- STOP_CYCLE (R121): At the stop cycle every guidon stops issue at its next bundle boundary and followers 4 cycles later. -/
  | stopCycle
  /-- SNAPSHOT_COMPLETE (R122): The copy unit finishes writing the unit's snapshot to the snapshot store and the cores become free. -/
  | snapshotComplete
  /-- UNIT_RESUME (R124): A pre-empted unit whose cores are free and power fits starts its restore, or restarts from entry under class 3. -/
  | unitResume
  /-- RESTORE_COMPLETE (R124): After the snapshot is restored every guidon issues its stopped bundle on one CYCLE and followers 4 cycles later. -/
  | restoreComplete
  /-- WATCHDOG_PREEMPT (R127): The watchdog count reaching the pre-empt limit pre-empts the occurrence with reason WATCHDOG and a WDPREEMPT record. -/
  | watchdogPreempt
  /-- WATCHDOG_KILL (R128): The watchdog count reaching the kill limit kills the occurrence and writes a WDKILL record. -/
  | watchdogKill
  /-- WATCHDOG_FENCE (R129): The count reaching the fence limit fences every unstopped core of the occurrence and writes the KILLED completion without waiting for jobs. -/
  | watchdogFence
  /-- PHASE_HOLD_END (R113): Eight cycles after PHASE the HOLD freeze ends and the guidon issues the target bundle. -/
  | phaseHoldEnd
  /-- PLAYBACK_ADVANCE (R138): Each cycle the engine advances P over played positions up to G, CUTPOS and HORIZON, raising DRAINED when P reaches G. -/
  | playbackAdvance
  /-- MERGE_FRAME (R140): A MERGE frame is sequence-checked, queued in the input queue with horizon update, and raises FRAME. -/
  | mergeFrame
  /-- CUT_FRAME (R142): A CUT frame is queued with its CUTPOINT, lowering CUTPOS, and raises CUT. -/
  | cutFrame
  /-- END_FRAME (R140): An END frame is queued and raises END without closing the halyard. -/
  | endFrame
  /-- CUT_COMPLETE (R144): The cut action completes when every slice has acknowledged its discards, ending the issuer's wait. -/
  | cutComplete
  /-- MESH_BEAT (R159): At its phase a router entry moves a beat to the next router or core receive buffer, and an unnamed beat is discarded into MESHDROP. -/
  | meshBeat
  /-- MAILBOX_POST (R168): A slice posts a held translation miss to the walker mailbox once it has room. -/
  | mailboxPost
  /-- PAGEFAULT (R169): A walker report of a page or permission fault makes the command processor write a PAGEFAULT record while the requester waits. -/
  | pagefault
  /-- TRANSLATION_TIMEOUT (R169): A fault wait of 10 ms without RESUME fails the requester with XLATE or its equivalent. -/
  | translationTimeout
  /-- INVPAGE (R170): XINVAL INVPAGE invalidates the context's translations and lines of a 64 KiB page. -/
  | invpage
  /-- INVHUGE (R170): XINVAL INVHUGE invalidates the context's translations and lines of a 512 MiB page. -/
  | invhuge
  /-- INVALL (R170): XINVAL INVALL invalidates all translations and lines of the context. -/
  | invall
  /-- XINVAL_RESUME (R170): XINVAL RESUME with a fault identifier makes the faulted walk run again. -/
  | xinvalResume
  /-- XINVAL_FAIL (R170): XINVAL FAIL with a fault identifier fails the waiting requester. -/
  | xinvalFail
  /-- INVALIDATION_COMPLETE (R170): An invalidation finishes at every slice and XSTAT.BUSY is cleared. -/
  | invalidationComplete
  /-- DOMCFG_WRITE (R166): A valid write of DOMCFGd starts a domain change with PENDING set. -/
  | domcfgWrite
  /-- DOMSEL_WRITE (R165): A write of a context's DOMSEL in use starts a domain change. -/
  | domselWrite
  /-- DOMAIN_CHANGE_COMPLETE (R166): After reservation queues drain and the ranged write-back ends, the new domain value is installed, PENDING cleared and waiting requests proceed. -/
  | domainChangeComplete
  /-- CORRECTED_ERROR (R179): A corrected SRAM error freezes the core and gang 24 cycles, or delays one slice or engine access, and is counted. -/
  | correctedError
  /-- ECC_FREEZE_END (R179): An ECC freeze ends after 24 cycles. -/
  | eccFreezeEnd
  /-- UNCORRECTABLE_ERROR (R180): An uncorrectable error poisons the affected 64-bit word, raising UNCORR only where it is consumed. -/
  | uncorrectableError
  /-- RESERVATION_REVOKE (R208): A reservation not released by SCH within 4,096 cycles is revoked and passed to the next waiter. -/
  | reservationRevoke
  /-- RACE_TAG_SWEEP (R201): When an agent's release count reaches a multiple of 16,384, granules tagged more than 16,384 behind are reset to (0xFF, 0). -/
  | raceTagSweep
  /-- ACCESS_TRAP (R231): An access trap found at a bank, slice or engine is taken at the next bundle boundary, suppressing only that access. -/
  | accessTrap
  /-- UI_TIMER_FIRE (R227): When NOW reaches a nonzero c.uitime the timer cause is queued and c.uitime is cleared. -/
  | uiTimerFire
  /-- USER_INTERRUPT_TAKE (R229): The oldest enabled pending cause is taken at an allowed boundary, switching to the shadow bank and the handler. -/
  | userInterruptTake
  /-- TRAPCTL_RESUME (R232): TRAPCTL RESUME makes a unit held by BRK or TRAP issue its stopped bundle again. -/
  | trapctlResume
  /-- TRAPCTL_KILL (R232): TRAPCTL KILL kills the occurrence of a unit held by BRK or TRAP. -/
  | trapctlKill
  /-- HOIST_ARRIVAL (R403): A guidon reaching a bundle with HOISTEN checks its masks and arrives held at the hoist, or raises HOISTMASK. -/
  | hoistArrival
  /-- HOIST_RELEASE (R237): When all participants have arrived, the hoist bundle issues 2 or 14 cycles after the latest arrival. -/
  | hoistRelease
  /-- HOLD_RELEASE (R377): A HOLDC or HOLDU deadline is reached and the bundle after the hold issues. -/
  | holdRelease
  /-- PWAIT_WAKE (R393): A write leaving the watched word nonzero ends a PWAIT, which reads the word again with acquire. -/
  | pwaitWake
  /-- PWAIT_TIMEOUT (R393): A PWAIT whose bound of wait cycles has passed ends and reads the word with acquire. -/
  | pwaitTimeout
  /-- FRAME_RESUME (R257): A free scavenger slot resumes the oldest frame from the dock or ready queue and loads its registers. -/
  | frameResume
  /-- SLEEP_EXPIRY (R468): A thread sleeping in SLEEPU wakes when NOW reaches its deadline. -/
  | sleepExpiry
  /-- MIGRATION_DEPARTURE (R261): A migrating thread, once its operations complete, drops reservations, releases and leaves in a packet of up to five flits. -/
  | migrationDeparture
  /-- MIGRATION_ARRIVAL (R262): An arriving thread is resumed, docked, moored or dropped as an orphan. -/
  | migrationArrival
  /-- MOORING_MOVE (R263): The service thread moves the oldest moored frame into the arrival dock when it has room. -/
  | mooringMove
  /-- COPY_JOB_START (R451): The copy unit reads and checks a job's descriptor, failing it with DESC, XLATE or POISON before any access. -/
  | copyJobStart
  /-- COPY_ELEMENT (R450): A copy job moves one element with window, race, fence and translation checks. -/
  | copyElement
  /-- COPY_JOB_FINISH (R454): A finished job performs its release, sets its state and sends its user interrupt. -/
  | copyJobFinish
  /-- OCCURRENCE_INSTANT (R89): NOW reaches the instant of a time-triggered occurrence that has not started, so BUSY, THERMAL or PREPARE lateness is established and, with LATE = 1, the skip is decided. -/
  | occurrenceInstant
  /-- POWER_LOSS (R74): Module power is lost from outside, leaving the boot record, the ensign index and the active firmware bank as R74, R76 and R77 state. -/
  | powerLoss
  /-- FUNCTION_DISABLE (R80): Disabling a function ends its context, which exists only while the function is enabled, and withdraws its entry range. -/
  | functionDisable
  /-- TIME_SOURCE_SAMPLE (R33): A pulse-per-second edge with time of day, or a PTM exchange, gives an offset sample that sets TIMESTAT.OFFSET and steers the slew. -/
  | timeSourceSample
  /-- PLDM_BASE_REQUEST (R66): A PLDM type 0 request over MCTP is answered, and an unsupported PLDM type or command gets ERROR_UNSUPPORTED_PLDM_CMD. -/
  | pldmBaseRequest
  /-- SLICE_RESPONSE (R163): A response of the dynamic network, a fill or an acknowledgement, reaches a slice or a barrel thread and completes a waiting global access. -/
  | sliceResponse
  deriving DecidableEq, Repr

end Sys2Proof
end

