-- ==== Sys2Proof/WellFormed.lean ====
section
/-! DEFINITION. Which instructions have an encoding: as a primary slot (Instr.wfSlot) and as a barrel operation
(Instr.wfBarrel), from the layouts of spec 14. -/

namespace Sys2Proof

/-- The integer element types (14 Table Enc.16, set I). -/
def intType : VType → Bool
  | .f32 | .bf16 | .f16 => false
  | _ => true

/-- Elements per lane (17 Table Vector.1). -/
def elems : VType → Nat
  | .i32 | .n32 | .f32 => 1
  | .bf16 | .f16 | .i16 => 2
  | .i8 | .n8 => 4

/-- Operator and rounding of VRED and VSCAN: code 111 is reserved (17 R422), integer types take RNE only (17 R409). -/
def redOk (x : RedOp) (r : Rnd) (t : VType) : Bool := !(x = 7) && (!intType t || r = .rne)

/-- Source, rounding and target of VCVT: equal element counts, RNE between integer types (17 R417, R409). -/
def cvtOk (s : VType) (r : Rnd) (t : VType) : Bool := elems s = elems t && (!(intType s && intType t) || r = .rne)

/-- Source and target of VUNPK (17 R419). -/
def unpkOk (s u : VType) : Bool :=
  match s, u with
  | .bf16, .f32 => true
  | .f16, .f32 => true
  | .i16, .i32 => true
  | .i8, .i16 => true
  | .n8, .i16 => true
  | _, _ => false

/-- VCX codes: a distance 0-5 and a direction bit (17 R428). -/
def vcxOk (c : BitVec 5) : Bool := (c.extractLsb' 0 3).toNat ≤ 5 && c.getLsbD 4 = false

/-- A register operand. -/
def isReg : Src → Bool
  | .reg _ => true
  | _ => false

/-- A b operand a primary slot can hold (14 Table Enc.5): a 5-bit immediate, no constant window. -/
def primSrc : Src → Bool
  | .reg _ => true
  | .imm v => (v.extractLsb' 0 5).signExtend 32 = v
  | .lit _ _ => true
  | .cw _ _ => false

/-- A primary's use of GLOBAL is illegal (09 R222). -/
def primMode (m : Mode) : Bool := !(m = .glob)

/-- X sources have no further restriction. -/
def xsrcOk : XSrc → Bool
  | _ => true

/-- A barrel guard names f0-f3. -/
def barG (g : Guard) : Bool := g.pred.toNat ≤ 3

/-- A register number x0-x31. -/
def x5 (r : BitVec 6) : Bool := r.getLsbD 5 = false

/-- A flag number f0-f3. -/
def f2 (p : BitVec 4) : Bool := p.toNat ≤ 3

/-- An operand of a barrel S operation (14 Table Enc.18). -/
def barSrcOk : Src → Bool
  | .reg r => x5 r
  | .imm _ => true
  | .cw _ _ => true
  | .lit _ _ => false

/-- An index of a barrel M operation (14 Table Enc.19): a register, or a 24-bit signed offset. -/
def barIdxOk : Src → Bool
  | .reg r => x5 r
  | .imm v => (v.extractLsb' 0 24).signExtend 32 = v
  | _ => false

/-- The mask operand of LIVE (19 R467). -/
def liveSrcOk : Src → Bool
  | .reg r => x5 r
  | .imm _ => true
  | _ => false

/-- The operand of SLEEPU (14 Table Enc.20). -/
def sleepSrcOk : Src → Bool
  | .reg r => x5 r
  | .imm _ => true
  | _ => false

/-- i has a primary slot encoding with these operands (14 R341-R351, 17 R406, R409). -/
def Instr.wfSlot : Instr → Bool
  | .add f => primSrc f.b
  | .sub f => primSrc f.b
  | .addw f => primSrc f.b
  | .subw f => primSrc f.b
  | .mul f => primSrc f.b
  | .mulh f => primSrc f.b
  | .mulhn f => primSrc f.b
  | .div f => primSrc f.b
  | .divn f => primSrc f.b
  | .rem f => primSrc f.b
  | .remn f => primSrc f.b
  | .and f => primSrc f.b
  | .or f => primSrc f.b
  | .xor f => primSrc f.b
  | .andn f => primSrc f.b
  | .orn f => primSrc f.b
  | .shl f => primSrc f.b
  | .shr f => primSrc f.b
  | .sra f => primSrc f.b
  | .rotr f => primSrc f.b
  | .clz _ => true
  | .ctz _ => true
  | .popc _ => true
  | .brev _ => true
  | .min f => primSrc f.b
  | .max f => primSrc f.b
  | .minn f => primSrc f.b
  | .maxn f => primSrc f.b
  | .cmp f => primSrc f.b
  | .cmpn f => primSrc f.b
  | .mov _ => true
  | .li f => primSrc f.b && !isReg f.b
  | .movx _ => true
  | .extr f => primSrc f.b
  | .insr f => primSrc f.b
  | .sxt f => primSrc f.b
  | .zxt f => primSrc f.b
  | .lea f => primSrc f.b
  | .pand _ => true
  | .por _ => true
  | .pxor _ => true
  | .pnot _ => true
  | .pmov _ => true
  | .pset _ => true
  | .fadd f => primSrc f.b
  | .fsub f => primSrc f.b
  | .fmul f => primSrc f.b
  | .ffma f => primSrc f.b
  | .fmin f => primSrc f.b
  | .fmax f => primSrc f.b
  | .fcmp f => primSrc f.b
  | .fcvtI2f _ => true
  | .fcvtN2f _ => true
  | .fcvtF2i _ => true
  | .fcvtF2n _ => true
  | .mfc _ => true
  | .mtc _ => true
  | .now _ => true
  | .cyc _ => true
  | .mix f => primSrc f.b
  | .hset _ => true
  | .hget _ => true
  | .ldb f => primSrc f.i && primMode f.mode && f.p = 0 && f.ord = .rlx && f.scope = 0
  | .ldbn f => primSrc f.i && primMode f.mode && f.p = 0 && f.ord = .rlx && f.scope = 0
  | .ldh f => primSrc f.i && primMode f.mode && f.p = 0 && f.ord = .rlx && f.scope = 0
  | .ldhn f => primSrc f.i && primMode f.mode && f.p = 0 && f.ord = .rlx && f.scope = 0
  | .ldw f => primSrc f.i && primMode f.mode && f.p = 0 && f.ord = .rlx && f.scope = 0
  | .ldwn f => primSrc f.i && primMode f.mode && f.p = 0 && f.ord = .rlx && f.scope = 0
  | .ldd f => primSrc f.i && primMode f.mode && f.p = 0 && f.ord = .rlx && f.scope = 0
  | .stb f => primSrc f.i && primMode f.mode && f.p = 0 && f.ord = .rlx && f.scope = 0
  | .sth f => primSrc f.i && primMode f.mode && f.p = 0 && f.ord = .rlx && f.scope = 0
  | .stw f => primSrc f.i && primMode f.mode && f.p = 0 && f.ord = .rlx && f.scope = 0
  | .std f => primSrc f.i && primMode f.mode && f.p = 0 && f.ord = .rlx && f.scope = 0
  | .ldv f => primSrc f.i && primMode f.mode
  | .stv f => primSrc f.i && primMode f.mode
  | .vgath f => primMode f.mode
  | .vscat f => primMode f.mode
  | .lda f => f.i = .imm 0 && primMode f.mode && f.p = 0 && f.ord = .rlx && f.scope = 0
  | .strl f => f.i = .imm 0 && primMode f.mode && f.p = 0 && f.ord = .rlx && f.scope = 0
  | .praise f => f.i = .imm 0 && primMode f.mode && f.p = 0 && f.ord = .rlx && f.scope = 0
  | .ptest f => f.i = .imm 0 && primMode f.mode && f.ord = .rlx && f.scope = 0
  | .pwait f => f.i = .imm 0 && primMode f.mode && f.ord = .rlx && f.scope = 0
  | .lrw f => f.i = .imm 0 && primMode f.mode && f.ord = .rlx && f.scope = 0
  | .sch f => f.i = .imm 0 && primMode f.mode && f.ord = .rlx && f.scope = 0
  | .aadd f => f.i = .imm 0 && primMode f.mode && f.p = 0 && f.scope = 0
  | .aand f => f.i = .imm 0 && primMode f.mode && f.p = 0 && f.scope = 0
  | .aor f => f.i = .imm 0 && primMode f.mode && f.p = 0 && f.scope = 0
  | .axor f => f.i = .imm 0 && primMode f.mode && f.p = 0 && f.scope = 0
  | .amin f => f.i = .imm 0 && primMode f.mode && f.p = 0 && f.scope = 0
  | .amax f => f.i = .imm 0 && primMode f.mode && f.p = 0 && f.scope = 0
  | .aminn f => f.i = .imm 0 && primMode f.mode && f.p = 0 && f.scope = 0
  | .amaxn f => f.i = .imm 0 && primMode f.mode && f.p = 0 && f.scope = 0
  | .axch f => f.i = .imm 0 && primMode f.mode && f.p = 0 && f.scope = 0
  | .acas f => f.i = .imm 0 && primMode f.mode && f.p = 0 && f.scope = 0 && !(f.d.extractLsb' 0 5 = 31)
  | .fence f => f.scope = 0
  | .vadd _ => true
  | .vsub _ => true
  | .vmul _ => true
  | .vmulh f => intType f.t
  | .vfma f => !intType f.t
  | .vfms f => !intType f.t
  | .vmin _ => true
  | .vmax _ => true
  | .vabs _ => true
  | .vneg _ => true
  | .vand _ => true
  | .vor _ => true
  | .vxor _ => true
  | .vnot _ => true
  | .vshl f => intType f.t
  | .vshr f => intType f.t
  | .vsra f => intType f.t
  | .vcmp f => !(f.n = 0)
  | .vcmpx f => !(f.n = 0)
  | .vsel _ => true
  | .vcvt f => cvtOk f.s f.r f.t
  | .vpack _ => true
  | .vunpk f => unpkOk f.t f.u && f.d.getLsbD 0 = false
  | .vqdec _ => true
  | .vexp2 _ => true
  | .vlog2 _ => true
  | .vrcp _ => true
  | .vrsq _ => true
  | .vsqrt _ => true
  | .vred f => redOk f.x f.r f.t
  | .vscan f => redOk f.x f.r f.t
  | .vperm _ => true
  | .vshuf f => f.c.toNat ≤ 21
  | .vbc _ => true
  | .vext _ => true
  | .vins _ => true
  | .vcx f => vcxOk f.c
  | .vargmx _ => true
  | .vrand f => f.t = .n32
  | .viota _ => true
  | .mand f => !(f.d = 0)
  | .mor f => !(f.d = 0)
  | .mxor f => !(f.d = 0)
  | .mnot f => !(f.d = 0)
  | .mpop _ => true
  | .mfirst _ => true
  | .mfrom f => !(f.d = 0)
  | .mtos _ => true
  | .mbeat f => xsrcOk f.a && xsrcOk f.b && (f.drain || (f.dconv = 0 && !f.drnd && !f.dsat && f.dshift = 0 && !f.dkind && f.dest = 0)) &&
      (f.dconv.toNat ≥ 5 || f.dshift = 0) && (f.dkind || f.dest.getLsbD 5 = false)
  | .mscl f => !(f.a = .keep) && !(f.b = .keep)
  | .mclr _ => true
  | .mswap _ => true
  | .msave f => !(f.parts = 0)
  | .mload f => !(f.parts = 0)
  | .br _ => true
  | .bri _ => true
  | .call _ => true
  | .calli _ => true
  | .ret _ => true
  | .loop _ => true
  | .loopx _ => true
  | .holdcImm _ => true
  | .holdcReg _ => true
  | .holdu _ => true
  | .halt _ => true
  | .trap _ => true
  | .brk _ => true
  | .iret _ => true
  | .uien _ => true
  | .uidis _ => true
  | .ifence _ => true
  | .phase _ => true
  | .mseek _ => true
  | .setfReg _ => true
  | .setfLit _ => true
  | .fmtReg _ => true
  | .fmtLit _ => true
  | .cpy _ => true
  | .cpyV _ => true
  | .cpyq _ => true
  | .cpyw _ => true
  | .cpyk _ => true
  | .hbindOpen _ => true
  | .hbindBind _ => true
  | .hbindPark _ => true
  | .hbindClose _ => true
  | .hread _ => true
  | .hframe _ => true
  | .htent _ => true
  | .hcommit _ => true
  | .hcut _ => true
  | .hcutT _ => true
  | .hckpt _ => true
  | .hplayHold _ => true
  | .hplaySource _ => true
  | .hplayHorizon _ => true
  | .sqput _ => true
  | .sqget _ => true
  | .sqlen _ => true
  | .sqlenArmHigh _ => true
  | .sqlenArmLow _ => true
  | .tspawn _ => true
  | .twake _ => true
  | .trace _ => true
  | .vsend _ => true
  | .vrecv _ => true
  | _ => false

/-- i has a barrel encoding with these operands (14 R352, R353; 10 R242). -/
def Instr.wfBarrel : Instr → Bool
  | .add f => barG f.g && x5 f.d && x5 f.a && barSrcOk f.b
  | .sub f => barG f.g && x5 f.d && x5 f.a && barSrcOk f.b
  | .addw f => barG f.g && x5 f.d && x5 f.a && barSrcOk f.b
  | .subw f => barG f.g && x5 f.d && x5 f.a && barSrcOk f.b
  | .mul f => barG f.g && x5 f.d && x5 f.a && barSrcOk f.b
  | .mulh f => barG f.g && x5 f.d && x5 f.a && barSrcOk f.b
  | .mulhn f => barG f.g && x5 f.d && x5 f.a && barSrcOk f.b
  | .div f => barG f.g && x5 f.d && x5 f.a && barSrcOk f.b
  | .divn f => barG f.g && x5 f.d && x5 f.a && barSrcOk f.b
  | .rem f => barG f.g && x5 f.d && x5 f.a && barSrcOk f.b
  | .remn f => barG f.g && x5 f.d && x5 f.a && barSrcOk f.b
  | .and f => barG f.g && x5 f.d && x5 f.a && barSrcOk f.b
  | .or f => barG f.g && x5 f.d && x5 f.a && barSrcOk f.b
  | .xor f => barG f.g && x5 f.d && x5 f.a && barSrcOk f.b
  | .andn f => barG f.g && x5 f.d && x5 f.a && barSrcOk f.b
  | .orn f => barG f.g && x5 f.d && x5 f.a && barSrcOk f.b
  | .shl f => barG f.g && x5 f.d && x5 f.a && barSrcOk f.b
  | .shr f => barG f.g && x5 f.d && x5 f.a && barSrcOk f.b
  | .sra f => barG f.g && x5 f.d && x5 f.a && barSrcOk f.b
  | .rotr f => barG f.g && x5 f.d && x5 f.a && barSrcOk f.b
  | .clz f => barG f.g && x5 f.d && x5 f.a
  | .ctz f => barG f.g && x5 f.d && x5 f.a
  | .popc f => barG f.g && x5 f.d && x5 f.a
  | .brev f => barG f.g && x5 f.d && x5 f.a
  | .min f => barG f.g && x5 f.d && x5 f.a && barSrcOk f.b
  | .max f => barG f.g && x5 f.d && x5 f.a && barSrcOk f.b
  | .minn f => barG f.g && x5 f.d && x5 f.a && barSrcOk f.b
  | .maxn f => barG f.g && x5 f.d && x5 f.a && barSrcOk f.b
  | .cmp f => barG f.g && f2 f.d && x5 f.a && barSrcOk f.b
  | .cmpn f => barG f.g && f2 f.d && x5 f.a && barSrcOk f.b
  | .mov f => barG f.g && x5 f.d && x5 f.a
  | .li f => barG f.g && x5 f.d && barSrcOk f.b && !isReg f.b
  | .extr f => barG f.g && x5 f.d && x5 f.a && barSrcOk f.b
  | .insr f => barG f.g && x5 f.d && x5 f.a && barSrcOk f.b
  | .sxt f => barG f.g && x5 f.d && x5 f.a && barSrcOk f.b
  | .zxt f => barG f.g && x5 f.d && x5 f.a && barSrcOk f.b
  | .lea f => barG f.g && x5 f.d && x5 f.a && barSrcOk f.b
  | .pand f => barG f.g && f2 f.d && f2 f.a && f2 f.b
  | .por f => barG f.g && f2 f.d && f2 f.a && f2 f.b
  | .pxor f => barG f.g && f2 f.d && f2 f.a && f2 f.b
  | .pnot f => barG f.g && f2 f.d && f2 f.a
  | .pmov f => barG f.g && f2 f.d && f2 f.a
  | .pset f => barG f.g && f2 f.d
  | .fadd f => barG f.g && x5 f.d && x5 f.a && barSrcOk f.b
  | .fsub f => barG f.g && x5 f.d && x5 f.a && barSrcOk f.b
  | .fmul f => barG f.g && x5 f.d && x5 f.a && barSrcOk f.b
  | .ffma f => barG f.g && x5 f.d && x5 f.a && barSrcOk f.b
  | .fmin f => barG f.g && x5 f.d && x5 f.a && barSrcOk f.b
  | .fmax f => barG f.g && x5 f.d && x5 f.a && barSrcOk f.b
  | .fcmp f => barG f.g && f2 f.d && x5 f.a && barSrcOk f.b
  | .fcvtI2f f => barG f.g && x5 f.d && x5 f.a
  | .fcvtN2f f => barG f.g && x5 f.d && x5 f.a
  | .fcvtF2i f => barG f.g && x5 f.d && x5 f.a
  | .fcvtF2n f => barG f.g && x5 f.d && x5 f.a
  | .mfc f => barG f.g && x5 f.r
  | .now f => barG f.g && x5 f.d
  | .cyc f => barG f.g && x5 f.d
  | .mix f => barG f.g && x5 f.d && x5 f.a && barSrcOk f.b
  | .hget f => barG f.g && x5 f.r
  | .ldb f => barG f.g && x5 f.d && x5 f.a && barIdxOk f.i && f.scope.toNat ≤ 4 && f.p = 0 && f.ord = .rlx && f.scope = 0
  | .ldbn f => barG f.g && x5 f.d && x5 f.a && barIdxOk f.i && f.scope.toNat ≤ 4 && f.p = 0 && f.ord = .rlx && f.scope = 0
  | .ldh f => barG f.g && x5 f.d && x5 f.a && barIdxOk f.i && f.scope.toNat ≤ 4 && f.p = 0 && f.ord = .rlx && f.scope = 0
  | .ldhn f => barG f.g && x5 f.d && x5 f.a && barIdxOk f.i && f.scope.toNat ≤ 4 && f.p = 0 && f.ord = .rlx && f.scope = 0
  | .ldw f => barG f.g && x5 f.d && x5 f.a && barIdxOk f.i && f.scope.toNat ≤ 4 && f.p = 0 && f.ord = .rlx && f.scope = 0
  | .ldwn f => barG f.g && x5 f.d && x5 f.a && barIdxOk f.i && f.scope.toNat ≤ 4 && f.p = 0 && f.ord = .rlx && f.scope = 0
  | .ldd f => barG f.g && x5 f.d && x5 f.a && barIdxOk f.i && f.scope.toNat ≤ 4 && f.p = 0 && f.ord = .rlx && f.scope = 0
  | .stb f => barG f.g && x5 f.d && x5 f.a && barIdxOk f.i && f.scope.toNat ≤ 4 && f.p = 0 && f.ord = .rlx && f.scope = 0
  | .sth f => barG f.g && x5 f.d && x5 f.a && barIdxOk f.i && f.scope.toNat ≤ 4 && f.p = 0 && f.ord = .rlx && f.scope = 0
  | .stw f => barG f.g && x5 f.d && x5 f.a && barIdxOk f.i && f.scope.toNat ≤ 4 && f.p = 0 && f.ord = .rlx && f.scope = 0
  | .std f => barG f.g && x5 f.d && x5 f.a && barIdxOk f.i && f.scope.toNat ≤ 4 && f.p = 0 && f.ord = .rlx && f.scope = 0
  | .lda f => barG f.g && x5 f.d && x5 f.a && barIdxOk f.i && f.scope.toNat ≤ 4 && f.p = 0 && f.ord = .rlx
  | .strl f => barG f.g && x5 f.d && x5 f.a && barIdxOk f.i && f.scope.toNat ≤ 4 && f.p = 0 && f.ord = .rlx
  | .praise f => barG f.g && x5 f.d && x5 f.a && barIdxOk f.i && f.scope.toNat ≤ 4 && f.p = 0 && f.ord = .rlx
  | .ptest f => barG f.g && x5 f.d && x5 f.a && barIdxOk f.i && f.scope.toNat ≤ 4 && f.p.toNat ≤ 3 && f.ord = .rlx
  | .pwait f => barG f.g && x5 f.d && x5 f.a && barIdxOk f.i && f.scope.toNat ≤ 4 && f.p.toNat ≤ 3 && f.ord = .rlx
  | .lrw f => barG f.g && x5 f.d && x5 f.a && barIdxOk f.i && f.scope.toNat ≤ 4 && f.p.toNat ≤ 3 && f.ord = .rlx
  | .sch f => barG f.g && x5 f.d && x5 f.a && barIdxOk f.i && f.scope.toNat ≤ 4 && f.p.toNat ≤ 3 && f.ord = .rlx
  | .aadd f => barG f.g && x5 f.d && x5 f.a && barIdxOk f.i && f.scope.toNat ≤ 4 && f.p = 0
  | .aand f => barG f.g && x5 f.d && x5 f.a && barIdxOk f.i && f.scope.toNat ≤ 4 && f.p = 0
  | .aor f => barG f.g && x5 f.d && x5 f.a && barIdxOk f.i && f.scope.toNat ≤ 4 && f.p = 0
  | .axor f => barG f.g && x5 f.d && x5 f.a && barIdxOk f.i && f.scope.toNat ≤ 4 && f.p = 0
  | .amin f => barG f.g && x5 f.d && x5 f.a && barIdxOk f.i && f.scope.toNat ≤ 4 && f.p = 0
  | .amax f => barG f.g && x5 f.d && x5 f.a && barIdxOk f.i && f.scope.toNat ≤ 4 && f.p = 0
  | .aminn f => barG f.g && x5 f.d && x5 f.a && barIdxOk f.i && f.scope.toNat ≤ 4 && f.p = 0
  | .amaxn f => barG f.g && x5 f.d && x5 f.a && barIdxOk f.i && f.scope.toNat ≤ 4 && f.p = 0
  | .axch f => barG f.g && x5 f.d && x5 f.a && barIdxOk f.i && f.scope.toNat ≤ 4 && f.p = 0
  | .acas f => barG f.g && x5 f.d && x5 f.a && barIdxOk f.i && f.scope.toNat ≤ 4 && f.p = 0 && !(f.d = 31)
  | .cflush f => barG f.g && x5 f.d && x5 f.a && barIdxOk f.i && f.scope.toNat ≤ 4 && f.p = 0 && f.ord = .rlx && f.scope = 0 && f.mode = .glob && f.d = 0
  | .cinv f => barG f.g && x5 f.d && x5 f.a && barIdxOk f.i && f.scope.toNat ≤ 4 && f.p = 0 && f.ord = .rlx && f.scope = 0 && f.mode = .glob && f.d = 0
  | .cpre f => barG f.g && x5 f.d && x5 f.a && barIdxOk f.i && f.scope.toNat ≤ 4 && f.p = 0 && f.ord = .rlx && f.scope = 0 && f.mode = .glob && f.d = 0
  | .pld f => barG f.g && x5 f.d && x5 f.a && barIdxOk f.i && f.scope.toNat ≤ 4 && f.p = 0 && f.ord = .rlx && f.scope = 0 && f.mode = .glob
  | .stt f => barG f.g && x5 f.d && x5 f.a && barIdxOk f.i && f.scope.toNat ≤ 4 && f.p = 0 && f.ord = .rlx && f.scope = 0 && f.mode = .glob && isReg f.i
  | .fence f => barG f.g && f.scope.toNat ≤ 4
  | .cpy f => barG f.g && x5 f.d && x5 f.a
  | .cpyV f => barG f.g && x5 f.d && x5 f.a
  | .cpyq f => barG f.g && x5 f.d && x5 f.a
  | .cpyw f => barG f.g && x5 f.d && x5 f.a
  | .cpyk f => barG f.g && x5 f.d && x5 f.a
  | .sqput f => barG f.g && x5 f.d && x5 f.a && x5 f.b
  | .sqget f => barG f.g && x5 f.d && x5 f.a && x5 f.b
  | .sqlen f => barG f.g && x5 f.d && x5 f.a && x5 f.b
  | .trace f => barG f.g && x5 f.d && x5 f.a && x5 f.b
  | .tspawn f => barG f.g && x5 f.d && x5 f.a && x5 f.b
  | .twake f => barG f.g && x5 f.d && x5 f.a && x5 f.b
  | .hread f => barG f.g && x5 f.d && x5 f.a
  | .live f => barG f.g && liveSrcOk f.b
  | .migr f => barG f.g && x5 f.a
  | .jmp f => barG f.g
  | .jr f => x5 f.a
  | .jal f => x5 f.d
  | .jalr f => x5 f.d && x5 f.a
  | .sleepu f => sleepSrcOk f.t
  | .tyield => true
  | .tyieldPark => true
  | .texit => true
  | .sysc _ => true
  | .trapg _ => true
  | _ => false

/-- i has an encoding. -/
def Instr.wf (i : Instr) : Bool := i.wfSlot || i.wfBarrel

end Sys2Proof
end

