-- ==== Sys2Proof/Decode.lean ====
section
/-! DEFINITION. The decoder of primary slot words and of barrel operations, total on any bits and rejecting by name,
and the encoder, both written from the layouts of spec 14. -/

namespace Sys2Proof

/-- Why a word is no instruction (14 R341, R342, R344-R356): each is the cause ILLOP. -/
inductive Illegal where
  /-- an opcode the class's map does not list, or one of another agent -/
  | opcode
  /-- an unused or reserved field that is not zero -/
  | field
  /-- a reserved operand form or operand kind -/
  | operand
  /-- a TYPE, rounding or type code outside the set -/
  | type
  /-- an fn value the operation does not assign -/
  | fn
  /-- a mode the operation does not allow -/
  | mode
  deriving DecidableEq, Repr

/-- What decoding answers. -/
inductive Decoded where
  | ok (i : Instr)
  | illegal (why : Illegal)
  deriving DecidableEq, Repr

/-- The instruction of an accepted word. -/
def Decoded.instr? : Decoded → Option Instr
  | .ok i => some i
  | .illegal _ => none

/-- Accept i only if the fields the layout leaves unused are zero (14 R342). -/
def okIf (zero : Bool) (i : Instr) : Decoded := if zero then .ok i else .illegal .field

/-! ### Sub-fields -/

/-- Guard of a slot word (14 Table Enc.3). -/
def guardOf (w : BitVec 32) : Guard := ⟨w.getLsbD 25, w.extractLsb' 21 4⟩

/-- The b field with its kind bit, bits [8:2] (14 Table Enc.5); none for the reserved form code 11. -/
def srcOf (w : BitVec 32) : Option Src :=
  let b := w.extractLsb' 3 6
  let n := w.extractLsb' 3 3
  if w.getLsbD 2 = false then some (.reg b)
  else if w.getLsbD 8 = false then some (.imm ((w.extractLsb' 3 5).signExtend 32))
  else match (w.extractLsb' 6 2).toNat with
    | 0 => some (.lit .sxt n)
    | 1 => some (.lit .zxt n)
    | 2 => some (.lit .pair n)
    | _ => none

/-- Mode code (14 R345). -/
def modeOf (c : BitVec 2) : Mode :=
  match c.toNat with
  | 0 => .loc
  | 1 => .core
  | 2 => .weave
  | _ => .glob

/-- Ordering code (14 R345). -/
def ordOf (c : BitVec 2) : Ord :=
  match c.toNat with
  | 0 => .rlx
  | 1 => .acq
  | 2 => .rel
  | _ => .ar

/-- Condition code. -/
def condOf (c : BitVec 2) : Cond :=
  match c.toNat with
  | 0 => .c0
  | 1 => .c1
  | 2 => .c2
  | _ => .c3

/-- Element type (14 Table Enc.8). -/
def vtypeOf (c : BitVec 3) : VType :=
  match c.toNat with
  | 0 => .i32
  | 1 => .n32
  | 2 => .f32
  | 3 => .bf16
  | 4 => .f16
  | 5 => .i16
  | 6 => .i8
  | _ => .n8

/-- Rounding code (12 Table Formats.7). -/
def rndOf (c : BitVec 2) : Rnd :=
  match c.toNat with
  | 0 => .rne
  | 1 => .rtz
  | 2 => .rup
  | _ => .rdn

/-- An X source from its kind and index (14 R350, R351); the kinds none and keep read no index (DEDUCED, log entry 11). -/
def xsrcOf (kind : BitVec 2) (index : BitVec 5) : Option XSrc :=
  match kind.toNat with
  | 0 => some .none
  | 1 => if index.getLsbD 4 = false then some (.vec (index.extractLsb' 0 4)) else none
  | 2 => some (.desc index)
  | _ => some .keep

/-! ### Opcode maps (14 Tables Enc.14 to Enc.17, Enc.21, Enc.20) -/

/-- S operations of layout SA. -/
def ctorSA (op : BitVec 6) : Option (AluForm → Instr) :=
  match op.toNat with
  | 0x01 => some .add
  | 0x02 => some .sub
  | 0x03 => some .addw
  | 0x04 => some .subw
  | 0x05 => some .mul
  | 0x06 => some .mulh
  | 0x07 => some .mulhn
  | 0x08 => some .div
  | 0x09 => some .divn
  | 0x0A => some .rem
  | 0x0B => some .remn
  | 0x0C => some .and
  | 0x0D => some .or
  | 0x0E => some .xor
  | 0x0F => some .andn
  | 0x10 => some .orn
  | 0x11 => some .shl
  | 0x12 => some .shr
  | 0x13 => some .sra
  | 0x14 => some .rotr
  | 0x19 => some .min
  | 0x1A => some .max
  | 0x1B => some .minn
  | 0x1C => some .maxn
  | 0x22 => some .extr
  | 0x23 => some .insr
  | 0x24 => some .sxt
  | 0x25 => some .zxt
  | 0x26 => some .lea
  | 0x2D => some .fadd
  | 0x2E => some .fsub
  | 0x2F => some .fmul
  | 0x30 => some .ffma
  | 0x31 => some .fmin
  | 0x32 => some .fmax
  | 0x39 => some .mix
  | _ => none

/-- S operations of layout SU but FCVT. -/
def ctorSU (op : BitVec 6) : Option (UnForm → Instr) :=
  match op.toNat with
  | 0x15 => some .clz
  | 0x16 => some .ctz
  | 0x17 => some .popc
  | 0x18 => some .brev
  | 0x1F => some .mov
  | 0x21 => some .movx
  | _ => none

/-- CMP, CMPN and FCMP. -/
def ctorCmp (op : BitVec 6) : Option (CmpForm → Instr) :=
  match op.toNat with
  | 0x1D => some .cmp
  | 0x1E => some .cmpn
  | 0x33 => some .fcmp
  | _ => none

/-- PAND, POR and PXOR. -/
def ctorPred (op : BitVec 6) : Option (PredForm → Instr) :=
  match op.toNat with
  | 0x27 => some .pand
  | 0x28 => some .por
  | 0x29 => some .pxor
  | _ => none

/-- PNOT and PMOV. -/
def ctorPredUn (op : BitVec 6) : Option (PredUnForm → Instr) :=
  match op.toNat with
  | 0x2A => some .pnot
  | 0x2B => some .pmov
  | _ => none

/-- The scalar loads and stores, layout MA. -/
def ctorMA (op : BitVec 6) : Option (MemForm → Instr) :=
  match op.toNat with
  | 0x01 => some .ldb
  | 0x02 => some .ldbn
  | 0x03 => some .ldh
  | 0x04 => some .ldhn
  | 0x05 => some .ldw
  | 0x06 => some .ldwn
  | 0x07 => some .ldd
  | 0x08 => some .stb
  | 0x09 => some .sth
  | 0x0A => some .stw
  | 0x0B => some .std
  | _ => none

/-- LDA, STRL and PRAISE: layout MS without a predicate. -/
def ctorSync (op : BitVec 6) : Option (MemForm → Instr) :=
  match op.toNat with
  | 0x10 => some .lda
  | 0x11 => some .strl
  | 0x12 => some .praise
  | _ => none

/-- PTEST, PWAIT, LRW and SCH: layout MS with a predicate. -/
def ctorSyncPred (op : BitVec 6) : Option (MemForm → Instr) :=
  match op.toNat with
  | 0x13 => some .ptest
  | 0x14 => some .pwait
  | 0x15 => some .lrw
  | 0x16 => some .sch
  | _ => none

/-- The atomics. -/
def ctorAtomic (op : BitVec 6) : Option (MemForm → Instr) :=
  match op.toNat with
  | 0x17 => some .aadd
  | 0x18 => some .aand
  | 0x19 => some .aor
  | 0x1A => some .axor
  | 0x1B => some .amin
  | 0x1C => some .amax
  | 0x1D => some .aminn
  | 0x1E => some .amaxn
  | 0x1F => some .axch
  | 0x20 => some .acas
  | _ => none

/-- The cache operations, layout MC, barrel only. -/
def ctorMC (op : BitVec 6) : Option (MemForm → Instr) :=
  match op.toNat with
  | 0x22 => some .cflush
  | 0x23 => some .cinv
  | 0x24 => some .cpre
  | _ => none

/-- PLD and STT, layout MP, service thread only. -/
def ctorMP (op : BitVec 6) : Option (MemForm → Instr) :=
  match op.toNat with
  | 0x25 => some .pld
  | 0x26 => some .stt
  | _ => none

/-- V operations of layout VV but VRAND. -/
def ctorVV (op : BitVec 6) : Option (VForm → Instr) :=
  match op.toNat with
  | 0x01 => some .vadd
  | 0x02 => some .vsub
  | 0x03 => some .vmul
  | 0x04 => some .vmulh
  | 0x05 => some .vfma
  | 0x06 => some .vfms
  | 0x07 => some .vmin
  | 0x08 => some .vmax
  | 0x0B => some .vand
  | 0x0C => some .vor
  | 0x0D => some .vxor
  | 0x0F => some .vshl
  | 0x10 => some .vshr
  | 0x11 => some .vsra
  | 0x14 => some .vsel
  | 0x16 => some .vpack
  | 0x20 => some .vperm
  | _ => none

/-- V operations of layout V1 without a rounding code. -/
def ctorV1 (op : BitVec 6) : Option (V1Form → Instr) :=
  match op.toNat with
  | 0x09 => some .vabs
  | 0x0A => some .vneg
  | 0x0E => some .vnot
  | 0x26 => some .vargmx
  | _ => none

/-- V operations of layout V1 with a rounding code. -/
def ctorVRnd (op : BitVec 6) : Option (VRndForm → Instr) :=
  match op.toNat with
  | 0x19 => some .vexp2
  | 0x1A => some .vlog2
  | 0x1B => some .vrcp
  | 0x1C => some .vrsq
  | 0x1D => some .vsqrt
  | _ => none

/-- VCMP and VCMPX. -/
def ctorVK (op : BitVec 6) : Option (VCmpForm → Instr) :=
  match op.toNat with
  | 0x12 => some .vcmp
  | 0x13 => some .vcmpx
  | _ => none

/-- VRED and VSCAN. -/
def ctorVR (op : BitVec 6) : Option (VRedForm → Instr) :=
  match op.toNat with
  | 0x1E => some .vred
  | 0x1F => some .vscan
  | _ => none

/-- VSHUF and VCX. -/
def ctorVP (op : BitVec 6) : Option (VPatForm → Instr) :=
  match op.toNat with
  | 0x21 => some .vshuf
  | 0x25 => some .vcx
  | _ => none

/-- VBC and VINS. -/
def ctorVS (op : BitVec 6) : Option (VScalForm → Instr) :=
  match op.toNat with
  | 0x22 => some .vbc
  | 0x24 => some .vins
  | _ => none

/-- MAND, MOR and MXOR. -/
def ctorMM (op : BitVec 6) : Option (MaskForm → Instr) :=
  match op.toNat with
  | 0x29 => some .mand
  | 0x2A => some .mor
  | 0x2B => some .mxor
  | _ => none

/-- MPOP, MFIRST and MTOS. -/
def ctorMT (op : BitVec 6) : Option (MaskOutForm → Instr) :=
  match op.toNat with
  | 0x2D => some .mpop
  | 0x2E => some .mfirst
  | 0x30 => some .mtos
  | _ => none

/-- BR, CALL and MSEEK. -/
def ctorOff (op : BitVec 6) : Option (OffForm → Instr) :=
  match op.toNat with
  | 0x01 => some .br
  | 0x03 => some .call
  | 0x12 => some .mseek
  | _ => none

/-- BRI, CALLI, HOLDU and PHASE. -/
def ctorReg (op : BitVec 6) : Option (RegForm → Instr) :=
  match op.toNat with
  | 0x02 => some .bri
  | 0x04 => some .calli
  | 0x09 => some .holdu
  | 0x11 => some .phase
  | _ => none

/-- The C operations without operands. -/
def ctorNone (op : BitVec 6) : Option (NoneForm → Instr) :=
  match op.toNat with
  | 0x05 => some .ret
  | 0x0A => some .halt
  | 0x0C => some .brk
  | 0x0D => some .iret
  | 0x0E => some .uien
  | 0x0F => some .uidis
  | 0x10 => some .ifence
  | _ => none

/-- E operations with d and a, by opcode and fn (19 Table Engine.1). -/
def ctorE2 (op : BitVec 6) (fn : BitVec 3) : Option (E2Form → Instr) :=
  match op.toNat, fn.toNat with
  | 0x01, 0 => some .cpy
  | 0x01, 1 => some .cpyV
  | 0x02, 0 => some .cpyq
  | 0x03, 0 => some .cpyw
  | 0x04, 0 => some .cpyk
  | 0x05, 1 => some .hbindBind
  | 0x05, 2 => some .hbindPark
  | 0x05, 3 => some .hbindClose
  | 0x0A, 0 => some .hcut
  | 0x0A, 1 => some .hcutT
  | _, _ => none

/-- E operations with d, a and b. -/
def ctorE3 (op : BitVec 6) (fn : BitVec 3) : Option (E3Form → Instr) :=
  match op.toNat, fn.toNat with
  | 0x05, 0 => some .hbindOpen
  | 0x07, 0 => some .hframe
  | 0x08, 0 => some .htent
  | 0x09, 0 => some .hcommit
  | 0x0B, 0 => some .hckpt
  | 0x0C, 0 => some .hplayHold
  | 0x0C, 1 => some .hplaySource
  | 0x0C, 2 => some .hplayHorizon
  | 0x0D, 0 => some .sqput
  | 0x0E, 0 => some .sqget
  | 0x0F, 0 => some .sqlen
  | 0x0F, 1 => some .sqlenArmHigh
  | 0x0F, 2 => some .sqlenArmLow
  | 0x12, 0 => some .trace
  | _, _ => none


/-! ### Primary slot words -/

/-- An S-class slot word (14 R343, R344). -/
def decodeS (w : BitVec 32) : Decoded :=
  let op := w.extractLsb' 26 6
  let g := guardOf w
  let d := w.extractLsb' 15 6
  let a := w.extractLsb' 9 6
  let fn := w.extractLsb' 0 2
  match ctorSA op with
  | some c =>
    match srcOf w with
    | some b => if fn = 0 then .ok (c ⟨g, d, a, b⟩) else .illegal .fn
    | none => .illegal .operand
  | none =>
  match ctorSU op with
  | some c => okIf (w.extractLsb' 0 9 = 0) (c ⟨g, d, a⟩)
  | none =>
  match ctorCmp op with
  | some c =>
    match srcOf w with
    | some b => okIf (w.extractLsb' 19 2 = 0) (c ⟨g, condOf fn, w.extractLsb' 15 4, a, b⟩)
    | none => .illegal .operand
  | none =>
  match ctorPred op with
  | some c => okIf (w.extractLsb' 19 2 = 0 && w.extractLsb' 13 2 = 0 && w.extractLsb' 7 2 = 0 && w.extractLsb' 0 3 = 0)
      (c ⟨g, w.extractLsb' 15 4, w.extractLsb' 9 4, w.extractLsb' 3 4⟩)
  | none =>
  match ctorPredUn op with
  | some c => okIf (w.extractLsb' 19 2 = 0 && w.extractLsb' 13 2 = 0 && w.extractLsb' 0 9 = 0)
      (c ⟨g, w.extractLsb' 15 4, w.extractLsb' 9 4⟩)
  | none =>
  match op.toNat with
  | 0x20 =>
    match srcOf w with
    | some (.reg _) => .illegal .operand
    | some b => okIf (a = 0 && fn = 0) (.li ⟨g, d, b⟩)
    | none => .illegal .operand
  | 0x2C => okIf (w.extractLsb' 19 2 = 0 && a = 0 && w.extractLsb' 4 5 = 0 && w.extractLsb' 0 3 = 4)
      (.pset ⟨g, w.extractLsb' 15 4, w.getLsbD 3⟩)
  | 0x34 =>
    if w.extractLsb' 2 7 = 0 then
      match fn.toNat with
      | 0 => .ok (.fcvtI2f ⟨g, d, a⟩)
      | 1 => .ok (.fcvtN2f ⟨g, d, a⟩)
      | 2 => .ok (.fcvtF2i ⟨g, d, a⟩)
      | _ => .ok (.fcvtF2n ⟨g, d, a⟩)
    else .illegal .field
  | 0x35 => okIf (w.extractLsb' 0 3 = 0) (.mfc ⟨g, d, w.extractLsb' 3 12⟩)
  | 0x36 => okIf (w.extractLsb' 0 3 = 0) (.mtc ⟨g, d, w.extractLsb' 3 12⟩)
  | 0x37 => okIf (w.extractLsb' 0 15 = 0) (.now ⟨g, d⟩)
  | 0x38 => okIf (w.extractLsb' 0 15 = 0) (.cyc ⟨g, d⟩)
  | 0x3A => okIf (w.extractLsb' 0 6 = 0) (.hset ⟨g, a, w.extractLsb' 6 3 ++ w.extractLsb' 15 6⟩)
  | 0x3B => okIf (w.extractLsb' 0 6 = 0) (.hget ⟨g, d, w.extractLsb' 6 3 ++ w.extractLsb' 9 6⟩)
  | _ => .illegal .opcode

/-- An M-class slot word of a primary (14 R345); GLOBAL is illegal there (09 R222), as are MC and MP operations. -/
def decodeM (w : BitVec 32) : Decoded :=
  let op := w.extractLsb' 26 6
  let g := guardOf w
  let d := w.extractLsb' 15 6
  let a := w.extractLsb' 9 6
  let mode := modeOf (w.extractLsb' 0 2)
  let ord := ordOf (w.extractLsb' 4 2)
  match ctorMA op with
  | some c =>
    match srcOf w with
    | some b => if mode = .glob then .illegal .mode else .ok (c ⟨g, d, a, b, mode, 0, .rlx, 0⟩)
    | none => .illegal .operand
  | none =>
  match ctorSync op with
  | some c => if mode = .glob then .illegal .mode
      else okIf (w.extractLsb' 2 7 = 0) (c ⟨g, d, a, .imm 0, mode, 0, .rlx, 0⟩)
  | none =>
  match ctorSyncPred op with
  | some c => if mode = .glob then .illegal .mode
      else okIf (w.extractLsb' 2 4 = 0) (c ⟨g, d, a, .imm 0, mode, w.extractLsb' 6 3, .rlx, 0⟩)
  | none =>
  match ctorAtomic op with
  | some c => if mode = .glob then .illegal .mode
      else okIf (w.extractLsb' 6 3 = 0 && w.extractLsb' 2 2 = 0 && !(op = 0x20 && d.extractLsb' 0 5 = 31))
        (c ⟨g, d, a, .imm 0, mode, 0, ord, 0⟩)
  | none =>
  match op.toNat with
  | 0x0C | 0x0D =>
    match srcOf w with
    | some b =>
      if mode = .glob then .illegal .mode
      else if w.getLsbD 20 then .illegal .field
      else .ok (if op = 0x0C then .ldv ⟨g, w.extractLsb' 15 5, a, b, mode⟩ else .stv ⟨g, w.extractLsb' 15 5, a, b, mode⟩)
    | none => .illegal .operand
  | 0x0E | 0x0F =>
    if mode = .glob then .illegal .mode
    else if w.getLsbD 20 || w.getLsbD 8 || w.getLsbD 2 then .illegal .field
    else .ok (if op = 0x0E then .vgath ⟨g, w.extractLsb' 15 5, a, w.extractLsb' 3 5, mode⟩
      else .vscat ⟨g, w.extractLsb' 15 5, a, w.extractLsb' 3 5, mode⟩)
  | 0x21 => okIf (d = 0 && a = 0 && w.extractLsb' 6 3 = 0 && w.extractLsb' 0 4 = 0) (.fence ⟨g, ord, 0⟩)
  | _ => .illegal .opcode

/-- The TYPE set of a VV operation (14 Table Enc.16). -/
def vvTypes (op : BitVec 6) (t : VType) : Bool :=
  match op.toNat with
  | 0x04 | 0x0F | 0x10 | 0x11 => intType t
  | 0x05 | 0x06 => !intType t
  | _ => true

/-- A V-class slot word (14 R346, Table Enc.9). -/
def decodeV (w : BitVec 32) : Decoded :=
  let op := w.extractLsb' 26 6
  let g := guardOf w
  let d := w.extractLsb' 16 5
  let a := w.extractLsb' 11 5
  let b := w.extractLsb' 6 5
  let m := w.extractLsb' 3 3
  let t := vtypeOf (w.extractLsb' 0 3)
  let r := rndOf (w.extractLsb' 6 2)
  match ctorVV op with
  | some c => if vvTypes op t then .ok (c ⟨g, d, a, b, m, t⟩) else .illegal .type
  | none =>
  match ctorV1 op with
  | some c => okIf (b = 0) (c ⟨g, d, a, m, t⟩)
  | none =>
  match ctorVRnd op with
  | some c => if t = .f32 then okIf (w.extractLsb' 8 3 = 0) (c ⟨g, d, a, r, m⟩) else .illegal .type
  | none =>
  match ctorVK op with
  | some c => okIf (!(w.extractLsb' 16 3 = 0)) (c ⟨g, condOf (w.extractLsb' 19 2), w.extractLsb' 16 3, a, b, m, t⟩)
  | none =>
  match ctorVR op with
  | some c => if redOk (w.extractLsb' 8 3) r t then .ok (c ⟨g, d, a, w.extractLsb' 8 3, r, m, t⟩) else .illegal .type
  | none =>
  match ctorVP op with
  | some c => if (if op = 0x21 then b.toNat ≤ 21 else vcxOk b) then .ok (c ⟨g, d, a, b, m, t⟩) else .illegal .operand
  | none =>
  match ctorVS op with
  | some c => okIf (w.extractLsb' 6 4 = 0) (c ⟨g, d, w.extractLsb' 10 6, m, t⟩)
  | none =>
  match ctorMM op with
  | some c => okIf (w.extractLsb' 19 2 = 0 && w.extractLsb' 14 2 = 0 && w.extractLsb' 9 2 = 0 && w.extractLsb' 0 6 = 0
      && !(w.extractLsb' 16 3 = 0))
      (c ⟨g, w.extractLsb' 16 3, w.extractLsb' 11 3, w.extractLsb' 6 3⟩)
  | none =>
  match ctorMT op with
  | some c => okIf (w.getLsbD 14 = false && w.extractLsb' 0 11 = 0) (c ⟨g, w.extractLsb' 15 6, w.extractLsb' 11 3⟩)
  | none =>
  match op.toNat with
  | 0x15 =>
    if cvtOk (vtypeOf (w.extractLsb' 8 3)) r t then .ok (.vcvt ⟨g, d, a, vtypeOf (w.extractLsb' 8 3), r, m, t⟩)
    else .illegal .type
  | 0x17 =>
    if unpkOk t (vtypeOf (w.extractLsb' 6 3)) then
      okIf (w.extractLsb' 9 2 = 0 && d.getLsbD 0 = false) (.vunpk ⟨g, d, a, vtypeOf (w.extractLsb' 6 3), m, t⟩)
    else .illegal .type
  | 0x18 => if t = .i32 then okIf (w.extractLsb' 7 4 = 0) (.vqdec ⟨g, d, a, w.getLsbD 6, m⟩) else .illegal .type
  | 0x23 => okIf (w.extractLsb' 6 4 = 0) (.vext ⟨g, w.extractLsb' 15 6, w.extractLsb' 10 5, m, t⟩)
  | 0x27 => if t = .n32 then .ok (.vrand ⟨g, d, a, b, m, t⟩) else .illegal .type
  | 0x28 => if t = .i32 || t = .n32 then okIf (w.extractLsb' 6 10 = 0) (.viota ⟨g, d, m, w.getLsbD 0⟩) else .illegal .type
  | 0x2C => okIf (w.extractLsb' 19 2 = 0 && w.extractLsb' 14 2 = 0 && w.extractLsb' 0 11 = 0
      && !(w.extractLsb' 16 3 = 0))
      (.mnot ⟨g, w.extractLsb' 16 3, w.extractLsb' 11 3⟩)
  | 0x2F => okIf (w.extractLsb' 19 2 = 0 && w.extractLsb' 0 10 = 0 && !(w.extractLsb' 16 3 = 0)) (.mfrom ⟨g, w.extractLsb' 16 3, w.extractLsb' 10 6⟩)
  | _ => .illegal .opcode

/-- The two words of an X slot (14 R350, R351). The combinations of R278 are checked at issue. -/
def decodeX (w u : BitVec 32) : Decoded :=
  let g := guardOf w
  match xsrcOf (u.extractLsb' 30 2) (u.extractLsb' 25 5), xsrcOf (u.extractLsb' 23 2) (u.extractLsb' 18 5) with
  | some a, some b =>
    match (w.extractLsb' 26 6).toNat with
    | 0x01 =>
      let drain := w.getLsbD 7
      let dconv := u.extractLsb' 15 3
      let dshift := u.extractLsb' 8 5
      let dkind := u.getLsbD 7
      okIf (u.getLsbD 0 = false && (drain || u.extractLsb' 1 17 = 0) && (dconv.toNat ≥ 5 || dshift = 0)
          && (dkind || u.getLsbD 6 = false))
        (.mbeat ⟨g, w.extractLsb' 17 4, w.getLsbD 16, w.getLsbD 15, w.getLsbD 14, w.getLsbD 13, w.getLsbD 12,
          w.getLsbD 11, w.getLsbD 10, w.getLsbD 9, w.getLsbD 8, drain, w.extractLsb' 0 7, a, b,
          dconv, u.getLsbD 14, u.getLsbD 13, dshift, dkind, u.extractLsb' 1 6⟩)
    | 0x02 => okIf (w.extractLsb' 0 21 = 0 && u.extractLsb' 0 18 = 0 && !(a = .keep) && !(b = .keep)) (.mscl ⟨g, a, b⟩)
    | 0x03 => okIf (w.extractLsb' 15 6 = 0 && w.extractLsb' 0 14 = 0 && u = 0) (.mclr ⟨g, w.getLsbD 14⟩)
    | 0x04 => okIf (w.extractLsb' 0 21 = 0 && u = 0) (.mswap ⟨g⟩)
    | 0x05 => okIf (w.extractLsb' 14 7 = 0 && w.extractLsb' 0 8 = 0 && !(w.extractLsb' 8 6 = 0)
        && u.extractLsb' 8 24 = 0 && u.getLsbD 7 && u.getLsbD 0 = false) (.msave ⟨g, w.extractLsb' 8 6, u.extractLsb' 1 6⟩)
    | 0x06 => okIf (w.extractLsb' 14 7 = 0 && w.extractLsb' 0 8 = 0 && !(w.extractLsb' 8 6 = 0)
        && u.extractLsb' 8 24 = 0 && u.getLsbD 7 && u.getLsbD 0 = false) (.mload ⟨g, w.extractLsb' 8 6, u.extractLsb' 1 6⟩)
    | _ => .illegal .opcode
  | _, _ => if (w.extractLsb' 26 6).toNat = 0 || (w.extractLsb' 26 6).toNat > 6 then .illegal .opcode else .illegal .operand

/-- A C-class slot word (14 R349). -/
def decodeC (w : BitVec 32) : Decoded :=
  let op := w.extractLsb' 26 6
  let g := guardOf w
  match ctorOff op with
  | some c => .ok (c ⟨g, w.extractLsb' 0 21⟩)
  | none =>
  match ctorReg op with
  | some c => okIf (w.extractLsb' 0 15 = 0) (c ⟨g, w.extractLsb' 15 6⟩)
  | none =>
  match ctorNone op with
  | some c => okIf (w.extractLsb' 0 21 = 0) (c ⟨g⟩)
  | none =>
  match op.toNat with
  | 0x06 => .ok (.loop ⟨g, w.extractLsb' 19 2, w.extractLsb' 12 7, w.extractLsb' 0 12⟩)
  | 0x07 => okIf (w.getLsbD 12 = false) (.loopx ⟨g, w.extractLsb' 19 2, w.extractLsb' 13 6, w.extractLsb' 0 12⟩)
  | 0x08 =>
    if w.getLsbD 20 then okIf (w.extractLsb' 0 14 = 0) (.holdcReg ⟨g, w.extractLsb' 14 6⟩)
    else .ok (.holdcImm ⟨g, w.extractLsb' 0 20⟩)
  | 0x0B => okIf (w.extractLsb' 12 9 = 0) (.trap ⟨g, w.extractLsb' 0 12⟩)
  | 0x13 =>
    if w.getLsbD 16 then okIf (w.extractLsb' 0 13 = 0) (.setfLit ⟨g, w.extractLsb' 17 4, w.extractLsb' 13 3⟩)
    else okIf (w.extractLsb' 0 10 = 0) (.setfReg ⟨g, w.extractLsb' 17 4, w.extractLsb' 10 6⟩)
  | 0x14 =>
    if w.getLsbD 16 then okIf (w.extractLsb' 17 4 = 0 && w.extractLsb' 0 13 = 0) (.fmtLit ⟨g, w.extractLsb' 13 3⟩)
    else okIf (w.extractLsb' 17 4 = 0 && w.extractLsb' 0 10 = 0) (.fmtReg ⟨g, w.extractLsb' 10 6⟩)
  | _ => .illegal .opcode

/-- An E-class slot word of a primary (14 R348, 19 Table Engine.1). -/
def decodeE (w : BitVec 32) : Decoded :=
  let op := w.extractLsb' 26 6
  let fn := w.extractLsb' 0 3
  let g := guardOf w
  let d := w.extractLsb' 15 6
  let a := w.extractLsb' 9 6
  let b := w.extractLsb' 3 6
  match ctorE2 op fn with
  | some c => okIf (b = 0) (c ⟨g, d, a⟩)
  | none =>
  match ctorE3 op fn with
  | some c => .ok (c ⟨g, d, a, b⟩)
  | none =>
  match op.toNat with
  | 0x06 => if fn = 0 then .ok (.hread ⟨g, d, a, b⟩) else .illegal .fn
  | 0x10 => if fn.extractLsb' 1 2 = 0 then .ok (.tspawn ⟨g, d, a, b, fn.getLsbD 0⟩) else .illegal .fn
  | 0x11 => if fn.extractLsb' 1 2 = 0 then .ok (.twake ⟨g, d, a, b, fn.getLsbD 0⟩) else .illegal .fn
  | 0x13 => if fn = 0 then okIf (b = 0 && w.getLsbD 20 = false) (.vsend ⟨g, w.extractLsb' 15 5, a⟩) else .illegal .fn
  | 0x14 => if fn = 0 then okIf (b = 0 && w.getLsbD 20 = false) (.vrecv ⟨g, w.extractLsb' 15 5, a⟩) else .illegal .fn
  | n => if 1 ≤ n && n ≤ 0x12 then .illegal .fn else .illegal .opcode

/-! ### Barrel operations (14 R352, R353, Tables Enc.18 to Enc.20) -/

/-- Guard of a barrel operation: a flag f0-f3. -/
def barGuard (w : BitVec 64) : Guard := ⟨w.getLsbD 55, (w.extractLsb' 53 2).setWidth 4⟩

/-- The operand of a barrel S operation by operand kind; none for kind 11 and for a field that must be zero. -/
def barSrc (w : BitVec 64) : Option Src :=
  let imm := w.extractLsb' 0 32
  let xb := w.extractLsb' 38 5
  match (w.extractLsb' 36 2).toNat with
  | 0 => if imm = 0 then some (.reg (xb.setWidth 6)) else none
  | 1 => if xb = 0 then some (.imm imm) else none
  | 2 => if xb = 0 && imm.extractLsb' 20 12 = 0 then some (.cw (imm.extractLsb' 17 3) (imm.extractLsb' 0 17)) else none
  | _ => none

/-- A barrel S operation: the primary's opcodes without MOVX, MTC and HSET (14 Table Enc.14). -/
def decodeBarS (w : BitVec 64) : Decoded :=
  let op := w.extractLsb' 56 6
  let g := barGuard w
  let d := (w.extractLsb' 48 5).setWidth 6
  let a := (w.extractLsb' 43 5).setWidth 6
  let kind := w.extractLsb' 36 2
  let fn := w.extractLsb' 32 4
  let imm := w.extractLsb' 0 32
  let bZero := w.extractLsb' 36 7 = 0 && imm = 0
  if op = 0x21 || op = 0x36 || op = 0x3A then .illegal .opcode
  else match ctorSA op with
  | some c =>
    match barSrc w with
    | some b => if fn = 0 then .ok (c ⟨g, d, a, b⟩) else .illegal .fn
    | none => .illegal .operand
  | none =>
  match ctorSU op with
  | some c => okIf (bZero && fn = 0) (c ⟨g, d, a⟩)
  | none =>
  match ctorCmp op with
  | some c =>
    match barSrc w with
    | some b => okIf (w.extractLsb' 50 3 = 0 && fn.extractLsb' 2 2 = 0)
        (c ⟨g, condOf (fn.extractLsb' 0 2), (w.extractLsb' 48 2).setWidth 4, a, b⟩)
    | none => .illegal .operand
  | none =>
  match ctorPred op with
  | some c => okIf (w.extractLsb' 50 3 = 0 && w.extractLsb' 45 3 = 0 && w.extractLsb' 40 3 = 0 && kind = 0 && fn = 0 && imm = 0)
      (c ⟨g, (w.extractLsb' 48 2).setWidth 4, (w.extractLsb' 43 2).setWidth 4, (w.extractLsb' 38 2).setWidth 4⟩)
  | none =>
  match ctorPredUn op with
  | some c => okIf (w.extractLsb' 50 3 = 0 && w.extractLsb' 45 3 = 0 && bZero && fn = 0)
      (c ⟨g, (w.extractLsb' 48 2).setWidth 4, (w.extractLsb' 43 2).setWidth 4⟩)
  | none =>
  match op.toNat with
  | 0x20 =>
    match barSrc w with
    | some (.reg _) => .illegal .operand
    | some b => okIf (a = 0 && fn = 0) (.li ⟨g, d, b⟩)
    | none => .illegal .operand
  | 0x2C => okIf (w.extractLsb' 50 3 = 0 && w.extractLsb' 43 5 = 0 && w.extractLsb' 36 7 = 1 && fn = 0 && imm.extractLsb' 1 31 = 0)
      (.pset ⟨g, (w.extractLsb' 48 2).setWidth 4, imm.getLsbD 0⟩)
  | 0x34 =>
    if bZero && fn.extractLsb' 2 2 = 0 then
      match fn.toNat with
      | 0 => .ok (.fcvtI2f ⟨g, d, a⟩)
      | 1 => .ok (.fcvtN2f ⟨g, d, a⟩)
      | 2 => .ok (.fcvtF2i ⟨g, d, a⟩)
      | _ => .ok (.fcvtF2n ⟨g, d, a⟩)
    else .illegal .field
  | 0x35 => okIf (a = 0 && w.extractLsb' 36 7 = 1 && fn = 0 && imm.extractLsb' 12 20 = 0) (.mfc ⟨g, d, imm.extractLsb' 0 12⟩)
  | 0x37 => okIf (a = 0 && bZero && fn = 0) (.now ⟨g, d⟩)
  | 0x38 => okIf (a = 0 && bZero && fn = 0) (.cyc ⟨g, d⟩)
  | 0x3B => okIf (a = 0 && w.extractLsb' 36 7 = 1 && fn = 0 && imm.extractLsb' 9 23 = 0) (.hget ⟨g, d, imm.extractLsb' 0 9⟩)
  | _ => .illegal .opcode

/-- The index or offset of a barrel M operation (14 Table Enc.19): an index register, or a signed 24-bit offset. -/
def barIndex (w : BitVec 64) : Option Src :=
  match (w.extractLsb' 36 2).toNat with
  | 0 => if w.extractLsb' 0 24 = 0 then some (.reg ((w.extractLsb' 38 5).setWidth 6)) else none
  | 1 => if w.extractLsb' 38 5 = 0 then some (.imm ((w.extractLsb' 0 24).signExtend 32)) else none
  | _ => none

/-- A barrel M operation (14 R352, Table Enc.19). -/
def decodeBarM (w : BitVec 64) : Decoded :=
  let op := w.extractLsb' 56 6
  let g := barGuard w
  let d := (w.extractLsb' 48 5).setWidth 6
  let a := (w.extractLsb' 43 5).setWidth 6
  let mode := modeOf (w.extractLsb' 32 2)
  let ordBits := w.extractLsb' 34 2
  let flag := w.extractLsb' 30 2
  let scope := w.extractLsb' 27 3
  let resZero := w.extractLsb' 24 3 = 0
  match barIndex w with
  | none => .illegal .operand
  | some i =>
    if scope.toNat ≥ 5 || !resZero then .illegal .field
    else match ctorMA op with
    | some c => okIf (flag = 0 && scope = 0 && ordBits = 0) (c ⟨g, d, a, i, mode, 0, .rlx, 0⟩)
    | none =>
    match ctorSync op with
    | some c => okIf (flag = 0 && ordBits = 0) (c ⟨g, d, a, i, mode, 0, .rlx, scope⟩)
    | none =>
    match ctorSyncPred op with
    | some c => okIf (ordBits = 0) (c ⟨g, d, a, i, mode, flag.setWidth 3, .rlx, scope⟩)
    | none =>
    match ctorAtomic op with
    | some c => okIf (flag = 0 && !(op = 0x20 && d = 31)) (c ⟨g, d, a, i, mode, 0, ordOf ordBits, scope⟩)
    | none =>
    match ctorMC op with
    | some c => if mode = .glob then okIf (flag = 0 && scope = 0 && ordBits = 0 && d = 0) (c ⟨g, d, a, i, mode, 0, .rlx, 0⟩)
        else .illegal .mode
    | none =>
    match ctorMP op with
    | some c => if mode = .glob then
          okIf (flag = 0 && scope = 0 && ordBits = 0 && (op = 0x25 || w.extractLsb' 36 2 = 0)) (c ⟨g, d, a, i, mode, 0, .rlx, 0⟩)
        else .illegal .mode
    | none =>
      if op = 0x21 then okIf (d = 0 && a = 0 && mode = .loc && flag = 0 && (i = .reg 0 || i = .imm 0)) (.fence ⟨g, ordOf ordBits, scope⟩)
      else .illegal .opcode

/-- A barrel E operation (10 R242, 19 R446). -/
def decodeBarE (w : BitVec 64) : Decoded :=
  let op := w.extractLsb' 56 6
  let g := barGuard w
  let d := (w.extractLsb' 48 5).setWidth 6
  let a := (w.extractLsb' 43 5).setWidth 6
  let b := (w.extractLsb' 38 5).setWidth 6
  let kind := w.extractLsb' 36 2
  let fn := w.extractLsb' 32 4
  let imm := w.extractLsb' 0 32
  let reg := kind = 0 && imm = 0
  match op.toNat with
  | 0x01 =>
    if fn = 0 then okIf (reg && b = 0) (.cpy ⟨g, d, a⟩)
    else if fn = 1 then okIf (reg && b = 0) (.cpyV ⟨g, d, a⟩)
    else .illegal .fn
  | 0x02 => okIf (reg && b = 0 && fn = 0) (.cpyq ⟨g, d, a⟩)
  | 0x03 => okIf (reg && b = 0 && fn = 0) (.cpyw ⟨g, d, a⟩)
  | 0x04 => okIf (reg && b = 0 && fn = 0) (.cpyk ⟨g, d, a⟩)
  | 0x06 => okIf (kind = 1 && b = 0 && fn = 0 && imm.extractLsb' 6 26 = 0) (.hread ⟨g, d, a, imm.extractLsb' 0 6⟩)
  | 0x0D => okIf (reg && fn = 0) (.sqput ⟨g, d, a, b⟩)
  | 0x0E => okIf (reg && fn = 0) (.sqget ⟨g, d, a, b⟩)
  | 0x0F => okIf (reg && fn = 0) (.sqlen ⟨g, d, a, b⟩)
  | 0x10 => okIf (reg && fn.extractLsb' 1 3 = 0) (.tspawn ⟨g, d, a, b, fn.getLsbD 0⟩)
  | 0x11 => okIf (reg && fn.extractLsb' 1 3 = 0) (.twake ⟨g, d, a, b, fn.getLsbD 0⟩)
  | 0x12 => okIf (reg && fn = 0) (.trace ⟨g, d, a, b⟩)
  | 0x15 =>
    if kind = 0 then okIf (imm = 0 && d = 0 && a = 0 && fn = 0) (.live ⟨g, .reg b⟩)
    else if kind = 1 then okIf (b = 0 && d = 0 && a = 0 && fn = 0) (.live ⟨g, .imm imm⟩)
    else .illegal .operand
  | 0x16 => okIf (reg && b = 0 && d = 0 && fn = 0) (.migr ⟨g, a⟩)
  | _ => .illegal .opcode

/-- A barrel G operation (14 Table Enc.20, 15 R383). -/
def decodeBarG (w : BitVec 64) : Decoded :=
  let d := (w.extractLsb' 48 5).setWidth 6
  let a := (w.extractLsb' 43 5).setWidth 6
  let b := w.extractLsb' 38 5
  let kind := w.extractLsb' 36 2
  let fn := w.extractLsb' 32 4
  let imm := w.extractLsb' 0 32
  let noGuard := w.extractLsb' 53 3 = 0
  match (w.extractLsb' 56 6).toNat with
  | 0x01 => okIf (d = 0 && a = 0 && b = 0 && kind = 1 && fn = 0) (.jmp ⟨barGuard w, imm⟩)
  | 0x02 => okIf (noGuard && d = 0 && b = 0 && kind = 0 && fn = 0 && imm = 0) (.jr ⟨a⟩)
  | 0x03 => okIf (noGuard && a = 0 && b = 0 && kind = 1 && fn = 0) (.jal ⟨d, imm⟩)
  | 0x04 => okIf (noGuard && b = 0 && kind = 0 && fn = 0 && imm = 0) (.jalr ⟨d, a⟩)
  | 0x05 =>
    if kind = 0 then okIf (noGuard && d = 0 && b = 0 && fn = 0 && imm = 0) (.sleepu ⟨.reg a⟩)
    else okIf (noGuard && d = 0 && a = 0 && b = 0 && fn = 0 && kind = 1) (.sleepu ⟨.imm imm⟩)
  | 0x06 =>
    if fn = 0 then okIf (noGuard && d = 0 && a = 0 && b = 0 && kind = 0 && imm = 0) .tyield
    else okIf (noGuard && d = 0 && a = 0 && b = 0 && kind = 0 && imm = 0 && fn = 1) .tyieldPark
  | 0x07 => okIf (noGuard && d = 0 && a = 0 && b = 0 && kind = 0 && fn = 0 && imm = 0) .texit
  | 0x08 => okIf (noGuard && d = 0 && a = 0 && b = 0 && kind = 1 && fn = 0 && imm.extractLsb' 16 16 = 0) (.sysc ⟨imm.extractLsb' 0 16⟩)
  | 0x09 => okIf (noGuard && d = 0 && a = 0 && b = 0 && kind = 1 && fn = 0 && imm.extractLsb' 12 20 = 0) (.trapg ⟨imm.extractLsb' 0 12⟩)
  | _ => .illegal .opcode

/-- A barrel operation by its class (14 Table Enc.18). -/
def decodeBarrel (w : BitVec 64) : Decoded :=
  match (w.extractLsb' 62 2).toNat with
  | 0 => decodeBarS w
  | 1 => decodeBarM w
  | 2 => decodeBarE w
  | _ => decodeBarG w

/-- PLD or STT by its opcode alone: PRIV outside thread 7, before any other check (14 R356, 16 R385). -/
def barPrivileged (w : BitVec 64) : Bool :=
  w.extractLsb' 62 2 = 1 && (w.extractLsb' 56 6 = 0x25 || w.extractLsb' 56 6 = 0x26)

/-! ### The encoder -/

/-- Guard bits [25:21]. -/
def encGuard (g : Guard) : BitVec 5 := BitVec.ofBool g.neg ++ g.pred

/-- Bits [8:2]: the b field and its kind (14 Table Enc.5). -/
def encSrc : Src → BitVec 7
  | .reg r => r ++ 0#1
  | .imm v => 0#1 ++ v.extractLsb' 0 5 ++ 1#1
  | .lit .sxt n => 4#3 ++ n ++ 1#1
  | .lit .zxt n => 5#3 ++ n ++ 1#1
  | .lit .pair n => 6#3 ++ n ++ 1#1
  | .cw _ _ => 0#7

/-- Mode code. -/
def encMode : Mode → BitVec 2
  | .loc => 0
  | .core => 1
  | .weave => 2
  | .glob => 3

/-- Ordering code. -/
def encOrd : Ord → BitVec 2
  | .rlx => 0
  | .acq => 1
  | .rel => 2
  | .ar => 3

/-- Condition code. -/
def encCond : Cond → BitVec 2
  | .c0 => 0
  | .c1 => 1
  | .c2 => 2
  | .c3 => 3

/-- Element type code. -/
def encVType : VType → BitVec 3
  | .i32 => 0
  | .n32 => 1
  | .f32 => 2
  | .bf16 => 3
  | .f16 => 4
  | .i16 => 5
  | .i8 => 6
  | .n8 => 7

/-- Rounding code. -/
def encRnd : Rnd → BitVec 2
  | .rne => 0
  | .rtz => 1
  | .rup => 2
  | .rdn => 3

/-- X source: kind and index. -/
def encXSrc : XSrc → BitVec 7
  | .none => 0
  | .vec n => 1#2 ++ 0#1 ++ n
  | .desc n => 2#2 ++ n
  | .keep => 3#2 ++ 0#5

def encSA (op : BitVec 6) (f : AluForm) : BitVec 32 := op ++ encGuard f.g ++ f.d ++ f.a ++ encSrc f.b ++ 0#2
def encSU (fn : BitVec 2) (op : BitVec 6) (f : UnForm) : BitVec 32 := op ++ encGuard f.g ++ f.d ++ f.a ++ 0#7 ++ fn
def encCmp (op : BitVec 6) (f : CmpForm) : BitVec 32 := op ++ encGuard f.g ++ 0#2 ++ f.d ++ f.a ++ encSrc f.b ++ encCond f.cc
def encPred (op : BitVec 6) (f : PredForm) : BitVec 32 := op ++ encGuard f.g ++ 0#2 ++ f.d ++ 0#2 ++ f.a ++ 0#2 ++ f.b ++ 0#3
def encPredUn (op : BitVec 6) (f : PredUnForm) : BitVec 32 := op ++ encGuard f.g ++ 0#2 ++ f.d ++ 0#2 ++ f.a ++ 0#9
def encLi (f : LiForm) : BitVec 32 := 0x20#6 ++ encGuard f.g ++ f.d ++ 0#6 ++ encSrc f.b ++ 0#2
def encPset (f : PSetForm) : BitVec 32 := 0x2C#6 ++ encGuard f.g ++ 0#2 ++ f.d ++ 0#6 ++ 0#5 ++ BitVec.ofBool f.v ++ 4#3
def encCReg (op : BitVec 6) (f : CRegForm) : BitVec 32 := op ++ encGuard f.g ++ f.r ++ f.c ++ 0#3
def encTime (op : BitVec 6) (f : TimeForm) : BitVec 32 := op ++ encGuard f.g ++ f.d ++ 0#15
def encHset (f : HoistForm) : BitVec 32 := 0x3A#6 ++ encGuard f.g ++ f.h.extractLsb' 0 6 ++ f.r ++ f.h.extractLsb' 6 3 ++ 0#6
def encHget (f : HoistForm) : BitVec 32 := 0x3B#6 ++ encGuard f.g ++ f.r ++ f.h.extractLsb' 0 6 ++ f.h.extractLsb' 6 3 ++ 0#6
def encMA (op : BitVec 6) (f : MemForm) : BitVec 32 := op ++ encGuard f.g ++ f.d ++ f.a ++ encSrc f.i ++ encMode f.mode
def encMS (op : BitVec 6) (f : MemForm) : BitVec 32 := op ++ encGuard f.g ++ f.d ++ f.a ++ f.p ++ encOrd f.ord ++ 0#2 ++ encMode f.mode
def encMV (op : BitVec 6) (f : VMemForm) : BitVec 32 := op ++ encGuard f.g ++ 0#1 ++ f.v ++ f.a ++ encSrc f.i ++ encMode f.mode
def encMG (op : BitVec 6) (f : GathForm) : BitVec 32 := op ++ encGuard f.g ++ 0#1 ++ f.v ++ f.a ++ 0#1 ++ f.vi ++ 0#1 ++ encMode f.mode
def encFence (f : FenceForm) : BitVec 32 := 0x21#6 ++ encGuard f.g ++ 0#15 ++ encOrd f.ord ++ 0#4
def encVV (op : BitVec 6) (f : VForm) : BitVec 32 := op ++ encGuard f.g ++ f.d ++ f.a ++ f.b ++ f.m ++ encVType f.t
def encV1 (op : BitVec 6) (f : V1Form) : BitVec 32 := op ++ encGuard f.g ++ f.d ++ f.a ++ 0#5 ++ f.m ++ encVType f.t
def encVRnd (op : BitVec 6) (f : VRndForm) : BitVec 32 := op ++ encGuard f.g ++ f.d ++ f.a ++ 0#3 ++ encRnd f.r ++ f.m ++ 2#3
def encVK (op : BitVec 6) (f : VCmpForm) : BitVec 32 := op ++ encGuard f.g ++ encCond f.cc ++ f.n ++ f.a ++ f.b ++ f.m ++ encVType f.t
def encVC (f : VCvtForm) : BitVec 32 := 0x15#6 ++ encGuard f.g ++ f.d ++ f.a ++ encVType f.s ++ encRnd f.r ++ f.m ++ encVType f.t
def encVU (f : VUnpkForm) : BitVec 32 := 0x17#6 ++ encGuard f.g ++ f.d ++ f.a ++ 0#2 ++ encVType f.u ++ f.m ++ encVType f.t
def encVQ (f : VQdecForm) : BitVec 32 := 0x18#6 ++ encGuard f.g ++ f.d ++ f.a ++ 0#4 ++ BitVec.ofBool f.book ++ f.m ++ 0#3
def encVR (op : BitVec 6) (f : VRedForm) : BitVec 32 := op ++ encGuard f.g ++ f.d ++ f.a ++ f.x ++ encRnd f.r ++ f.m ++ encVType f.t
def encVP (op : BitVec 6) (f : VPatForm) : BitVec 32 := op ++ encGuard f.g ++ f.d ++ f.a ++ f.c ++ f.m ++ encVType f.t
def encVS (op : BitVec 6) (f : VScalForm) : BitVec 32 := op ++ encGuard f.g ++ f.d ++ f.s ++ 0#4 ++ f.m ++ encVType f.t
def encVX (f : VExtForm) : BitVec 32 := 0x23#6 ++ encGuard f.g ++ f.s ++ f.a ++ 0#4 ++ f.m ++ encVType f.t
def encV0 (f : VIotaForm) : BitVec 32 := 0x28#6 ++ encGuard f.g ++ f.d ++ 0#10 ++ f.m ++ 0#2 ++ BitVec.ofBool f.n
def encMM (op : BitVec 6) (f : MaskForm) : BitVec 32 := op ++ encGuard f.g ++ 0#2 ++ f.d ++ 0#2 ++ f.a ++ 0#2 ++ f.b ++ 0#6
def encMN (f : MaskUnForm) : BitVec 32 := 0x2C#6 ++ encGuard f.g ++ 0#2 ++ f.d ++ 0#2 ++ f.a ++ 0#11
def encMT (op : BitVec 6) (f : MaskOutForm) : BitVec 32 := op ++ encGuard f.g ++ f.s ++ 0#1 ++ f.a ++ 0#11
def encMF (f : MaskInForm) : BitVec 32 := 0x2F#6 ++ encGuard f.g ++ 0#2 ++ f.d ++ f.s ++ 0#10
def encOff (op : BitVec 6) (f : OffForm) : BitVec 32 := op ++ encGuard f.g ++ f.off
def encReg (op : BitVec 6) (f : RegForm) : BitVec 32 := op ++ encGuard f.g ++ f.r ++ 0#15
def encNone (op : BitVec 6) (f : NoneForm) : BitVec 32 := op ++ encGuard f.g ++ 0#21
def encLoop (f : LoopForm) : BitVec 32 := 0x06#6 ++ encGuard f.g ++ f.l ++ f.n ++ f.e
def encLoopx (f : LoopxForm) : BitVec 32 := 0x07#6 ++ encGuard f.g ++ f.l ++ f.r ++ 0#1 ++ f.e
def encHoldImm (f : HoldForm) : BitVec 32 := 0x08#6 ++ encGuard f.g ++ 0#1 ++ f.n
def encHoldReg (f : RegForm) : BitVec 32 := 0x08#6 ++ encGuard f.g ++ 1#1 ++ f.r ++ 0#14
def encTrap (f : CodeForm) : BitVec 32 := 0x0B#6 ++ encGuard f.g ++ 0#9 ++ f.c
def encSetfReg (f : SetfForm) : BitVec 32 := 0x13#6 ++ encGuard f.g ++ f.f ++ 0#1 ++ f.r ++ 0#10
def encSetfLit (f : SetfLitForm) : BitVec 32 := 0x13#6 ++ encGuard f.g ++ f.f ++ 1#1 ++ f.l ++ 0#13
def encFmtReg (f : RegForm) : BitVec 32 := 0x14#6 ++ encGuard f.g ++ 0#5 ++ f.r ++ 0#10
def encFmtLit (f : FmtLitForm) : BitVec 32 := 0x14#6 ++ encGuard f.g ++ 0#4 ++ 1#1 ++ f.l ++ 0#13
def encE2 (fn : BitVec 3) (op : BitVec 6) (f : E2Form) : BitVec 32 := op ++ encGuard f.g ++ f.d ++ f.a ++ 0#6 ++ fn
def encE3 (fn : BitVec 3) (op : BitVec 6) (f : E3Form) : BitVec 32 := op ++ encGuard f.g ++ f.d ++ f.a ++ f.b ++ fn
def encSpawn (op : BitVec 6) (f : ESpawnForm) : BitVec 32 := op ++ encGuard f.g ++ f.d ++ f.a ++ f.b ++ 0#2 ++ BitVec.ofBool f.other
def encHread (f : HreadForm) : BitVec 32 := 0x06#6 ++ encGuard f.g ++ f.d ++ f.a ++ f.c ++ 0#3
def encMesh (op : BitVec 6) (f : MeshForm) : BitVec 32 := op ++ encGuard f.g ++ 0#1 ++ f.v ++ f.ch ++ 0#9

/-- Word 0 of MBEAT. -/
def encBeat0 (f : BeatForm) : BitVec 32 :=
  0x01#6 ++ encGuard f.g ++ f.fsel ++ BitVec.ofBool f.oneshot ++ BitVec.ofBool f.sparse ++ BitVec.ofBool f.bank ++
  BitVec.ofBool f.pushA ++ BitVec.ofBool f.pushB ++ BitVec.ofBool f.acc ++ BitVec.ofBool f.fold ++ BitVec.ofBool f.shA ++
  BitVec.ofBool f.shB ++ BitVec.ofBool f.drain ++ f.amt
/-- Word 1 of MBEAT. -/
def encBeat1 (f : BeatForm) : BitVec 32 :=
  encXSrc f.a ++ encXSrc f.b ++ f.dconv ++ BitVec.ofBool f.drnd ++ BitVec.ofBool f.dsat ++ f.dshift ++ BitVec.ofBool f.dkind ++
  f.dest ++ 0#1
/-- Words of MSCL. -/
def encScl (f : SclForm) : BitVec 32 × BitVec 32 := (0x02#6 ++ encGuard f.g ++ 0#21, encXSrc f.a ++ encXSrc f.b ++ 0#18)
/-- Words of MSAVE and MLOAD. -/
def encImg (op : BitVec 6) (f : ImgForm) : BitVec 32 × BitVec 32 :=
  (op ++ encGuard f.g ++ 0#7 ++ f.parts ++ 0#8, 0#24 ++ 1#1 ++ f.dest ++ 0#1)

/-- The slot word of an S-class operation; none for any other instruction. -/
def encodeS : Instr → Option (BitVec 32)
  | .add f => some <| encSA 0x01 f
  | .sub f => some <| encSA 0x02 f
  | .addw f => some <| encSA 0x03 f
  | .subw f => some <| encSA 0x04 f
  | .mul f => some <| encSA 0x05 f
  | .mulh f => some <| encSA 0x06 f
  | .mulhn f => some <| encSA 0x07 f
  | .div f => some <| encSA 0x08 f
  | .divn f => some <| encSA 0x09 f
  | .rem f => some <| encSA 0x0A f
  | .remn f => some <| encSA 0x0B f
  | .and f => some <| encSA 0x0C f
  | .or f => some <| encSA 0x0D f
  | .xor f => some <| encSA 0x0E f
  | .andn f => some <| encSA 0x0F f
  | .orn f => some <| encSA 0x10 f
  | .shl f => some <| encSA 0x11 f
  | .shr f => some <| encSA 0x12 f
  | .sra f => some <| encSA 0x13 f
  | .rotr f => some <| encSA 0x14 f
  | .min f => some <| encSA 0x19 f
  | .max f => some <| encSA 0x1A f
  | .minn f => some <| encSA 0x1B f
  | .maxn f => some <| encSA 0x1C f
  | .extr f => some <| encSA 0x22 f
  | .insr f => some <| encSA 0x23 f
  | .sxt f => some <| encSA 0x24 f
  | .zxt f => some <| encSA 0x25 f
  | .lea f => some <| encSA 0x26 f
  | .fadd f => some <| encSA 0x2D f
  | .fsub f => some <| encSA 0x2E f
  | .fmul f => some <| encSA 0x2F f
  | .ffma f => some <| encSA 0x30 f
  | .fmin f => some <| encSA 0x31 f
  | .fmax f => some <| encSA 0x32 f
  | .mix f => some <| encSA 0x39 f
  | .clz f => some <| encSU 0 0x15 f
  | .ctz f => some <| encSU 0 0x16 f
  | .popc f => some <| encSU 0 0x17 f
  | .brev f => some <| encSU 0 0x18 f
  | .mov f => some <| encSU 0 0x1F f
  | .movx f => some <| encSU 0 0x21 f
  | .fcvtI2f f => some <| encSU 0 0x34 f
  | .fcvtN2f f => some <| encSU 1 0x34 f
  | .fcvtF2i f => some <| encSU 2 0x34 f
  | .fcvtF2n f => some <| encSU 3 0x34 f
  | .cmp f => some <| encCmp 0x1D f
  | .cmpn f => some <| encCmp 0x1E f
  | .fcmp f => some <| encCmp 0x33 f
  | .pand f => some <| encPred 0x27 f
  | .por f => some <| encPred 0x28 f
  | .pxor f => some <| encPred 0x29 f
  | .pnot f => some <| encPredUn 0x2A f
  | .pmov f => some <| encPredUn 0x2B f
  | .li f => some <| encLi f
  | .pset f => some <| encPset f
  | .mfc f => some <| encCReg 0x35 f
  | .mtc f => some <| encCReg 0x36 f
  | .now f => some <| encTime 0x37 f
  | .cyc f => some <| encTime 0x38 f
  | .hset f => some <| encHset f
  | .hget f => some <| encHget f
  | _ => none

/-- The slot word of an M-class operation; none for any other instruction. -/
def encodeM : Instr → Option (BitVec 32)
  | .ldb f => some <| encMA 0x01 f
  | .ldbn f => some <| encMA 0x02 f
  | .ldh f => some <| encMA 0x03 f
  | .ldhn f => some <| encMA 0x04 f
  | .ldw f => some <| encMA 0x05 f
  | .ldwn f => some <| encMA 0x06 f
  | .ldd f => some <| encMA 0x07 f
  | .stb f => some <| encMA 0x08 f
  | .sth f => some <| encMA 0x09 f
  | .stw f => some <| encMA 0x0A f
  | .std f => some <| encMA 0x0B f
  | .lda f => some <| encMS 0x10 f
  | .strl f => some <| encMS 0x11 f
  | .praise f => some <| encMS 0x12 f
  | .ptest f => some <| encMS 0x13 f
  | .pwait f => some <| encMS 0x14 f
  | .lrw f => some <| encMS 0x15 f
  | .sch f => some <| encMS 0x16 f
  | .aadd f => some <| encMS 0x17 f
  | .aand f => some <| encMS 0x18 f
  | .aor f => some <| encMS 0x19 f
  | .axor f => some <| encMS 0x1A f
  | .amin f => some <| encMS 0x1B f
  | .amax f => some <| encMS 0x1C f
  | .aminn f => some <| encMS 0x1D f
  | .amaxn f => some <| encMS 0x1E f
  | .axch f => some <| encMS 0x1F f
  | .acas f => some <| encMS 0x20 f
  | .ldv f => some <| encMV 0x0C f
  | .stv f => some <| encMV 0x0D f
  | .vgath f => some <| encMG 0x0E f
  | .vscat f => some <| encMG 0x0F f
  | .fence f => some <| encFence f
  | _ => none

/-- The slot word of a V-class operation; none for any other instruction. -/
def encodeV : Instr → Option (BitVec 32)
  | .vadd f => some <| encVV 0x01 f
  | .vsub f => some <| encVV 0x02 f
  | .vmul f => some <| encVV 0x03 f
  | .vmulh f => some <| encVV 0x04 f
  | .vfma f => some <| encVV 0x05 f
  | .vfms f => some <| encVV 0x06 f
  | .vmin f => some <| encVV 0x07 f
  | .vmax f => some <| encVV 0x08 f
  | .vand f => some <| encVV 0x0B f
  | .vor f => some <| encVV 0x0C f
  | .vxor f => some <| encVV 0x0D f
  | .vshl f => some <| encVV 0x0F f
  | .vshr f => some <| encVV 0x10 f
  | .vsra f => some <| encVV 0x11 f
  | .vsel f => some <| encVV 0x14 f
  | .vpack f => some <| encVV 0x16 f
  | .vperm f => some <| encVV 0x20 f
  | .vrand f => some <| encVV 0x27 f
  | .vabs f => some <| encV1 0x09 f
  | .vneg f => some <| encV1 0x0A f
  | .vnot f => some <| encV1 0x0E f
  | .vargmx f => some <| encV1 0x26 f
  | .vexp2 f => some <| encVRnd 0x19 f
  | .vlog2 f => some <| encVRnd 0x1A f
  | .vrcp f => some <| encVRnd 0x1B f
  | .vrsq f => some <| encVRnd 0x1C f
  | .vsqrt f => some <| encVRnd 0x1D f
  | .vcmp f => some <| encVK 0x12 f
  | .vcmpx f => some <| encVK 0x13 f
  | .vcvt f => some <| encVC f
  | .vunpk f => some <| encVU f
  | .vqdec f => some <| encVQ f
  | .vred f => some <| encVR 0x1E f
  | .vscan f => some <| encVR 0x1F f
  | .vshuf f => some <| encVP 0x21 f
  | .vcx f => some <| encVP 0x25 f
  | .vbc f => some <| encVS 0x22 f
  | .vins f => some <| encVS 0x24 f
  | .vext f => some <| encVX f
  | .viota f => some <| encV0 f
  | .mand f => some <| encMM 0x29 f
  | .mor f => some <| encMM 0x2A f
  | .mxor f => some <| encMM 0x2B f
  | .mnot f => some <| encMN f
  | .mpop f => some <| encMT 0x2D f
  | .mfirst f => some <| encMT 0x2E f
  | .mtos f => some <| encMT 0x30 f
  | .mfrom f => some <| encMF f
  | _ => none

/-- The slot word of a control operation; none for any other instruction. -/
def encodeC : Instr → Option (BitVec 32)
  | .br f => some <| encOff 0x01 f
  | .call f => some <| encOff 0x03 f
  | .mseek f => some <| encOff 0x12 f
  | .bri f => some <| encReg 0x02 f
  | .calli f => some <| encReg 0x04 f
  | .holdu f => some <| encReg 0x09 f
  | .phase f => some <| encReg 0x11 f
  | .ret f => some <| encNone 0x05 f
  | .halt f => some <| encNone 0x0A f
  | .brk f => some <| encNone 0x0C f
  | .iret f => some <| encNone 0x0D f
  | .uien f => some <| encNone 0x0E f
  | .uidis f => some <| encNone 0x0F f
  | .ifence f => some <| encNone 0x10 f
  | .loop f => some <| encLoop f
  | .loopx f => some <| encLoopx f
  | .holdcImm f => some <| encHoldImm f
  | .holdcReg f => some <| encHoldReg f
  | .trap f => some <| encTrap f
  | .setfReg f => some <| encSetfReg f
  | .setfLit f => some <| encSetfLit f
  | .fmtReg f => some <| encFmtReg f
  | .fmtLit f => some <| encFmtLit f
  | _ => none

/-- The slot word of an E-class operation; none for any other instruction. -/
def encodeE : Instr → Option (BitVec 32)
  | .cpy f => some <| encE2 0 0x01 f
  | .cpyV f => some <| encE2 1 0x01 f
  | .cpyq f => some <| encE2 0 0x02 f
  | .cpyw f => some <| encE2 0 0x03 f
  | .cpyk f => some <| encE2 0 0x04 f
  | .hbindOpen f => some <| encE3 0 0x05 f
  | .hbindBind f => some <| encE2 1 0x05 f
  | .hbindPark f => some <| encE2 2 0x05 f
  | .hbindClose f => some <| encE2 3 0x05 f
  | .hread f => some <| encHread f
  | .hframe f => some <| encE3 0 0x07 f
  | .htent f => some <| encE3 0 0x08 f
  | .hcommit f => some <| encE3 0 0x09 f
  | .hcut f => some <| encE2 0 0x0A f
  | .hcutT f => some <| encE2 1 0x0A f
  | .hckpt f => some <| encE3 0 0x0B f
  | .hplayHold f => some <| encE3 0 0x0C f
  | .hplaySource f => some <| encE3 1 0x0C f
  | .hplayHorizon f => some <| encE3 2 0x0C f
  | .sqput f => some <| encE3 0 0x0D f
  | .sqget f => some <| encE3 0 0x0E f
  | .sqlen f => some <| encE3 0 0x0F f
  | .sqlenArmHigh f => some <| encE3 1 0x0F f
  | .sqlenArmLow f => some <| encE3 2 0x0F f
  | .tspawn f => some <| encSpawn 0x10 f
  | .twake f => some <| encSpawn 0x11 f
  | .trace f => some <| encE3 0 0x12 f
  | .vsend f => some <| encMesh 0x13 f
  | .vrecv f => some <| encMesh 0x14 f
  | _ => none

/-- The one-word primary slot word of an instruction; none for X operations, barrel-only operations and events. -/
def encodeSlot (i : Instr) : Option (BitVec 32) :=
  encodeS i <|> encodeM i <|> encodeV i <|> encodeC i <|> encodeE i

/-- The two X-slot words of an X operation. -/
def encodeX : Instr → Option (BitVec 32 × BitVec 32)
  | .mbeat f => some (encBeat0 f, encBeat1 f)
  | .mscl f => some (encScl f)
  | .mclr f => some (0x03#6 ++ encGuard f.g ++ 0#6 ++ BitVec.ofBool f.bank ++ 0#14, 0)
  | .mswap f => some (0x04#6 ++ encGuard f.g ++ 0#21, 0)
  | .msave f => some (encImg 0x05 f)
  | .mload f => some (encImg 0x06 f)
  | _ => none

/-- The 64 bits of a barrel operation from its fields (14 Table Enc.18). -/
def barWord (cls : BitVec 2) (op : BitVec 6) (g : Guard) (d a b : BitVec 6) (kind : BitVec 2) (fn : BitVec 4) (imm : BitVec 32) :
    BitVec 64 :=
  cls ++ op ++ BitVec.ofBool g.neg ++ g.pred.extractLsb' 0 2 ++ d.extractLsb' 0 5 ++ a.extractLsb' 0 5 ++ b.extractLsb' 0 5 ++
  kind ++ fn ++ imm

/-- The guard that always holds: f0. -/
def gTrue : Guard := ⟨false, 0⟩

/-- xb, kind and immediate of a barrel S operand. -/
def barOpnd : Src → BitVec 6 × BitVec 2 × BitVec 32
  | .reg r => (r, 0, 0)
  | .imm v => (0, 1, v)
  | .cw w o => (0, 2, 0#12 ++ w ++ o)
  | .lit _ _ => (0, 0, 0)

def barSA (op : BitVec 6) (f : AluForm) : BitVec 64 :=
  barWord 0 op f.g f.d f.a (barOpnd f.b).1 (barOpnd f.b).2.1 0 (barOpnd f.b).2.2
def barSU (fn : BitVec 2) (op : BitVec 6) (f : UnForm) : BitVec 64 := barWord 0 op f.g f.d f.a 0 0 (0#2 ++ fn) 0
def barCmp (op : BitVec 6) (f : CmpForm) : BitVec 64 :=
  barWord 0 op f.g (0#2 ++ f.d) f.a (barOpnd f.b).1 (barOpnd f.b).2.1 (0#2 ++ encCond f.cc) (barOpnd f.b).2.2
def barPred (op : BitVec 6) (f : PredForm) : BitVec 64 := barWord 0 op f.g (0#2 ++ f.d) (0#2 ++ f.a) (0#2 ++ f.b) 0 0 0
def barPredUn (op : BitVec 6) (f : PredUnForm) : BitVec 64 := barWord 0 op f.g (0#2 ++ f.d) (0#2 ++ f.a) 0 0 0 0
def barLi (f : LiForm) : BitVec 64 := barWord 0 0x20 f.g f.d 0 (barOpnd f.b).1 (barOpnd f.b).2.1 0 (barOpnd f.b).2.2
def barPset (f : PSetForm) : BitVec 64 := barWord 0 0x2C f.g (0#2 ++ f.d) 0 0 1 0 (0#31 ++ BitVec.ofBool f.v)
def barNum (op : BitVec 6) (g : Guard) (d : BitVec 6) (n : BitVec 32) : BitVec 64 := barWord 0 op g d 0 0 1 0 n
def barTime (op : BitVec 6) (f : TimeForm) : BitVec 64 := barWord 0 op f.g f.d 0 0 0 0 0

/-- xb, kind and OFFSET of a barrel M index. -/
def barIdx : Src → BitVec 6 × BitVec 2 × BitVec 24
  | .reg r => (r, 0, 0)
  | .imm v => (0, 1, v.extractLsb' 0 24)
  | _ => (0, 0, 0)

def barMem (op : BitVec 6) (f : MemForm) : BitVec 64 :=
  barWord 1 op f.g f.d f.a (barIdx f.i).1 (barIdx f.i).2.1 (encOrd f.ord ++ encMode f.mode)
    (f.p.extractLsb' 0 2 ++ f.scope ++ 0#3 ++ (barIdx f.i).2.2)
def barFence (f : FenceForm) : BitVec 64 := barWord 1 0x21 f.g 0 0 0 0 (encOrd f.ord ++ 0#2) (0#2 ++ f.scope ++ 0#27)
def barE2 (fn : BitVec 4) (op : BitVec 6) (f : E2Form) : BitVec 64 := barWord 2 op f.g f.d f.a 0 0 fn 0
def barE3 (op : BitVec 6) (f : E3Form) : BitVec 64 := barWord 2 op f.g f.d f.a f.b 0 0 0
def barSpawn (op : BitVec 6) (f : ESpawnForm) : BitVec 64 := barWord 2 op f.g f.d f.a f.b 0 (0#3 ++ BitVec.ofBool f.other) 0
def barHread (f : HreadForm) : BitVec 64 := barWord 2 0x06 f.g f.d f.a 0 1 0 (0#26 ++ f.c)
def barLive (f : LiveForm) : BitVec 64 := barWord 2 0x15 f.g 0 0 (barOpnd f.b).1 (barOpnd f.b).2.1 0 (barOpnd f.b).2.2
def barMigr (f : MigrForm) : BitVec 64 := barWord 2 0x16 f.g 0 f.a 0 0 0 0
def barJmp (f : JmpForm) : BitVec 64 := barWord 3 0x01 f.g 0 0 0 1 0 f.off
def barJr (f : JrForm) : BitVec 64 := barWord 3 0x02 gTrue 0 f.a 0 0 0 0
def barJal (f : JalForm) : BitVec 64 := barWord 3 0x03 gTrue f.d 0 0 1 0 f.off
def barJalr (f : JalrForm) : BitVec 64 := barWord 3 0x04 gTrue f.d f.a 0 0 0 0
def barSleep (f : SleepForm) : BitVec 64 :=
  match f.t with
  | .imm v => barWord 3 0x05 gTrue 0 0 0 1 0 v
  | .reg r => barWord 3 0x05 gTrue 0 r 0 0 0 0
  | _ => 0
def barSys (op : BitVec 6) (fn : BitVec 4) : BitVec 64 := barWord 3 op gTrue 0 0 0 0 fn 0
def barCode (op : BitVec 6) (n : BitVec 32) : BitVec 64 := barWord 3 op gTrue 0 0 0 1 0 n

/-- The 64 bits of a barrel operation; none for what no barrel thread may issue. -/
def encodeBarrel : Instr → Option (BitVec 64)
  | .add f => some <| barSA 0x01 f
  | .sub f => some <| barSA 0x02 f
  | .addw f => some <| barSA 0x03 f
  | .subw f => some <| barSA 0x04 f
  | .mul f => some <| barSA 0x05 f
  | .mulh f => some <| barSA 0x06 f
  | .mulhn f => some <| barSA 0x07 f
  | .div f => some <| barSA 0x08 f
  | .divn f => some <| barSA 0x09 f
  | .rem f => some <| barSA 0x0A f
  | .remn f => some <| barSA 0x0B f
  | .and f => some <| barSA 0x0C f
  | .or f => some <| barSA 0x0D f
  | .xor f => some <| barSA 0x0E f
  | .andn f => some <| barSA 0x0F f
  | .orn f => some <| barSA 0x10 f
  | .shl f => some <| barSA 0x11 f
  | .shr f => some <| barSA 0x12 f
  | .sra f => some <| barSA 0x13 f
  | .rotr f => some <| barSA 0x14 f
  | .min f => some <| barSA 0x19 f
  | .max f => some <| barSA 0x1A f
  | .minn f => some <| barSA 0x1B f
  | .maxn f => some <| barSA 0x1C f
  | .extr f => some <| barSA 0x22 f
  | .insr f => some <| barSA 0x23 f
  | .sxt f => some <| barSA 0x24 f
  | .zxt f => some <| barSA 0x25 f
  | .lea f => some <| barSA 0x26 f
  | .fadd f => some <| barSA 0x2D f
  | .fsub f => some <| barSA 0x2E f
  | .fmul f => some <| barSA 0x2F f
  | .ffma f => some <| barSA 0x30 f
  | .fmin f => some <| barSA 0x31 f
  | .fmax f => some <| barSA 0x32 f
  | .mix f => some <| barSA 0x39 f
  | .clz f => some <| barSU 0 0x15 f
  | .ctz f => some <| barSU 0 0x16 f
  | .popc f => some <| barSU 0 0x17 f
  | .brev f => some <| barSU 0 0x18 f
  | .mov f => some <| barSU 0 0x1F f
  | .fcvtI2f f => some <| barSU 0 0x34 f
  | .fcvtN2f f => some <| barSU 1 0x34 f
  | .fcvtF2i f => some <| barSU 2 0x34 f
  | .fcvtF2n f => some <| barSU 3 0x34 f
  | .cmp f => some <| barCmp 0x1D f
  | .cmpn f => some <| barCmp 0x1E f
  | .fcmp f => some <| barCmp 0x33 f
  | .pand f => some <| barPred 0x27 f
  | .por f => some <| barPred 0x28 f
  | .pxor f => some <| barPred 0x29 f
  | .pnot f => some <| barPredUn 0x2A f
  | .pmov f => some <| barPredUn 0x2B f
  | .li f => some <| barLi f
  | .pset f => some <| barPset f
  | .mfc f => some <| barNum 0x35 f.g f.r (f.c.setWidth 32)
  | .hget f => some <| barNum 0x3B f.g f.r (f.h.setWidth 32)
  | .now f => some <| barTime 0x37 f
  | .cyc f => some <| barTime 0x38 f
  | .ldb f => some <| barMem 0x01 f
  | .ldbn f => some <| barMem 0x02 f
  | .ldh f => some <| barMem 0x03 f
  | .ldhn f => some <| barMem 0x04 f
  | .ldw f => some <| barMem 0x05 f
  | .ldwn f => some <| barMem 0x06 f
  | .ldd f => some <| barMem 0x07 f
  | .stb f => some <| barMem 0x08 f
  | .sth f => some <| barMem 0x09 f
  | .stw f => some <| barMem 0x0A f
  | .std f => some <| barMem 0x0B f
  | .lda f => some <| barMem 0x10 f
  | .strl f => some <| barMem 0x11 f
  | .praise f => some <| barMem 0x12 f
  | .ptest f => some <| barMem 0x13 f
  | .pwait f => some <| barMem 0x14 f
  | .lrw f => some <| barMem 0x15 f
  | .sch f => some <| barMem 0x16 f
  | .aadd f => some <| barMem 0x17 f
  | .aand f => some <| barMem 0x18 f
  | .aor f => some <| barMem 0x19 f
  | .axor f => some <| barMem 0x1A f
  | .amin f => some <| barMem 0x1B f
  | .amax f => some <| barMem 0x1C f
  | .aminn f => some <| barMem 0x1D f
  | .amaxn f => some <| barMem 0x1E f
  | .axch f => some <| barMem 0x1F f
  | .acas f => some <| barMem 0x20 f
  | .cflush f => some <| barMem 0x22 f
  | .cinv f => some <| barMem 0x23 f
  | .cpre f => some <| barMem 0x24 f
  | .pld f => some <| barMem 0x25 f
  | .stt f => some <| barMem 0x26 f
  | .fence f => some <| barFence f
  | .cpy f => some <| barE2 0 0x01 f
  | .cpyV f => some <| barE2 1 0x01 f
  | .cpyq f => some <| barE2 0 0x02 f
  | .cpyw f => some <| barE2 0 0x03 f
  | .cpyk f => some <| barE2 0 0x04 f
  | .sqput f => some <| barE3 0x0D f
  | .sqget f => some <| barE3 0x0E f
  | .sqlen f => some <| barE3 0x0F f
  | .trace f => some <| barE3 0x12 f
  | .tspawn f => some <| barSpawn 0x10 f
  | .twake f => some <| barSpawn 0x11 f
  | .hread f => some <| barHread f
  | .live f => some <| barLive f
  | .migr f => some <| barMigr f
  | .jmp f => some <| barJmp f
  | .jr f => some <| barJr f
  | .jal f => some <| barJal f
  | .jalr f => some <| barJalr f
  | .sleepu f => some <| barSleep f
  | .tyield => some <| barSys 0x06 0
  | .tyieldPark => some <| barSys 0x06 1
  | .texit => some <| barSys 0x07 0
  | .sysc f => some <| barCode 0x08 (f.c.setWidth 32)
  | .trapg f => some <| barCode 0x09 (f.c.setWidth 32)
  | _ => none

/-- The 32-bit words of a primary operation in the order of memory: one word, or two for an X operation. -/
def encode (i : Instr) : List (BitVec 32) :=
  match encodeSlot i with
  | some w => [w]
  | none =>
    match encodeX i with
    | some (w, u) => [w, u]
    | none => []

/-! ### The host's table words -/

/-- The class a table word is read in: the table gives one word to rows of several classes, so the word alone does not
say its slot. DESIGN CHOICE (log entry 8): the first class of S, M, V, C, E that accepts it. -/
def decodeAny (w : BitVec 32) : Option Instr :=
  match decodeS w with
  | .ok i => some i
  | .illegal _ =>
  match decodeM w with
  | .ok i => some i
  | .illegal _ =>
  match decodeV w with
  | .ok i => some i
  | .illegal _ =>
  match decodeC w with
  | .ok i => some i
  | .illegal _ => (decodeE w).instr?

/-- The instruction the decoder reads from a table word: 32 bits as a primary slot word; 64 bits as a barrel operation,
else as the two words of an X slot (log entry 8). A row without bits has no encoding. -/
def decodeTableWord (nbits w : Nat) : Option Instr :=
  if nbits = 0 then none
  else if nbits ≤ 32 then decodeAny (BitVec.ofNat 32 w)
  else
    match decodeBarrel (BitVec.ofNat 64 w) with
    | .ok i => some i
    | .illegal _ => (decodeX (BitVec.ofNat 32 w) (BitVec.ofNat 32 (w / 2 ^ 32))).instr?

end Sys2Proof
end

