-- ==== Sys2Proof/Machine/Tab.lean ====
section
/-! DEFINITION. Sparse tables: lists of (key, value) pairs in one canonical form, keys strictly rising and no value
equal to what an unlisted key reads as. Every register file and every memory of the model is one. -/

namespace Sys2Proof

/-- A sparse table from numbers. -/
abbrev Tab (α : Type) := List (Nat × α)

/-- The value at key k; d is what an unlisted key reads as. -/
def tabGet {α : Type} (d : α) : Tab α → Nat → α
  | [], _ => d
  | (j, v) :: r, k => if j = k then v else tabGet d r k

/-- List v at key k, in its place. -/
def tabSet {α : Type} : Tab α → Nat → α → Tab α
  | [], k, v => [(k, v)]
  | (j, w) :: r, k, v => if k < j then (k, v) :: (j, w) :: r else if j = k then (k, v) :: r else (j, w) :: tabSet r k v

/-- Remove every entry whose key satisfies p: those keys read as the default. -/
def tabDrop {α : Type} (p : Nat → Bool) (t : Tab α) : Tab α := t.filter (fun e => !p e.1)

/-- Write v at key k; the default is not listed. -/
def tabPut {α : Type} [DecidableEq α] (d : α) (t : Tab α) (k : Nat) (v : α) : Tab α :=
  if v = d then tabDrop (· = k) t else tabSet t k v

/-- Keys strictly rising above lo, no default listed. -/
def tabWfFrom {α : Type} [DecidableEq α] (d : α) : Nat → Tab α → Bool
  | _, [] => true
  | lo, (j, v) :: r => lo ≤ j && v ≠ d && tabWfFrom d (j + 1) r

/-- The canonical form. -/
def tabWf {α : Type} [DecidableEq α] (d : α) (t : Tab α) : Bool := tabWfFrom d 0 t

/-- Put an entry before a table of greater keys; the default is not listed. -/
def tabCons {α : Type} [DecidableEq α] (d : α) (k : Nat) (v : α) (t : Tab α) : Tab α := if v = d then t else (k, v) :: t

/-- The table of a list of values at keys k, k + 1, ... -/
def tabOfList {α : Type} [DecidableEq α] (d : α) : Nat → List α → Tab α
  | _, [] => []
  | k, v :: r => tabCons d k v (tabOfList d (k + 1) r)

/-- Replace the n keys from lo on by a list of values; keys beyond the list read as the default. -/
def tabReplace {α : Type} [DecidableEq α] (d : α) (lo n : Nat) (l : List α) (t : Tab α) : Tab α :=
  (t.filter fun e => e.1 < lo) ++ tabOfList d lo (l.take n) ++ t.filter fun e => lo + n ≤ e.1

/-- Change every listed value; f takes its key too. Unlisted keys keep reading as the default. -/
def tabMap {α : Type} [DecidableEq α] (d : α) (f : Nat → α → α) : Tab α → Tab α
  | [] => []
  | (k, v) :: r => if f k v = d then tabDrop (· = k) (tabMap d f r) else (k, f k v) :: tabMap d f r

end Sys2Proof
end

