-- ==== Sys2Proof/Machine/CoreState.lean ====
section
/-! DEFINITION. The state of one core: its primary (spec 09, 11, 15) and its barrel (spec 10). -/

namespace Sys2Proof.Machine

/-- The slots of a bundle in program order (09 Table Primary.1; 08 R186). -/
inductive Slot where
  | c | s0 | s1 | m0 | m1 | v | x | e
  deriving DecidableEq, Repr

/-- Freeze reasons with a code (09 Table Primary.7). -/
inductive Freeze where
  | ecc | hoist | jobwait | hold | pwait | lrw | service | thermal | preemptPending
  deriving DecidableEq, Repr

/-- Trap causes (09 Table Primary.10). -/
inductive Cause where
  | illbundle | illop | brtgt | landcol | sprange | misalign | nack | memrace | hoistmask | illfmt | routemiss | priv
  | uncorr | handlerlong | brk | trap | qreserve | xlate
  deriving DecidableEq, Repr

/-- Code of a cause (09 Table Primary.10). -/
def Cause.code : Cause → BitVec 8
  | .illbundle => 0x01
  | .illop => 0x02
  | .brtgt => 0x03
  | .landcol => 0x04
  | .sprange => 0x05
  | .misalign => 0x06
  | .nack => 0x07
  | .memrace => 0x08
  | .hoistmask => 0x09
  | .illfmt => 0x0A
  | .routemiss => 0x0B
  | .priv => 0x0C
  | .uncorr => 0x0D
  | .handlerlong => 0x0E
  | .brk => 0x0F
  | .trap => 0x10
  | .qreserve => 0x11
  | .xlate => 0x13

/-- A trap with what the trap registers hold: cause, slots, information and address (09 Table Primary.10). -/
structure TrapInfo where
  cause : Cause
  mask : BitVec 8
  info : Word
  addr : Word
  deriving DecidableEq, Repr

/-- A register or other result destination of a primary (09 R216, R218; 14 R355 for LANDCOL codes). s carries the
physical scalar register: 0-63, and 64-71 for shadow s24-s31; q carries 0-15, and 16 for shadow q7. -/
inductive Dest where
  | s (n : Nat)
  | q (n : Nat)
  | v (n : BitVec 5)
  | m (n : BitVec 3)
  | ft (n : BitVec 4)
  | lc (n : BitVec 2)
  | ln
  | mpc
  | creg (n : BitVec 12)
  | flags
  deriving DecidableEq, Repr

/-- A result on its way to its destination: it is visible to bundles issued at tick due or later (09 R216, R217). -/
structure Pend where
  dest : Dest
  val : Lanes
  born : Nat
  due : Nat
  vflags : BitVec 5
  mstat : BitVec 4
  deriving DecidableEq, Repr

/-- The atomic operations (16 Table Mem.6). -/
inductive AtomOp where
  | add | and | or | xor | min | max | minn | maxn | xch | cas
  deriving DecidableEq, Repr

/-- What an access does at its bank, slice or engine. -/
inductive AccOp where
  | load (bytes : Nat) (signed : Bool)
  | store (bytes : Nat)
  | lda
  | strl
  | praise
  | ptest
  | pwait (bound : BitVec 32)
  | pwaitLast
  | lrw
  | lrwRead
  | sch
  | atomic (op : AtomOp) (ord : Ord)
  | ldv
  | stv
  /-- a gather or scatter with its index vector -/
  | gath (vi : Lanes)
  | scat (vi : Lanes)
  /-- a beat with its resolved format, metadata word, the edges it pushes from registers, and c.mpc after it -/
  | beat (f : BeatForm) (fmt : Half) (mword : Half) (a b : BitVec 4096) (mpc : Option (BitVec 16))
  | pushA (shift : Nat)
  | pushB (shift : Nat)
  | drain
  | scl (f : SclForm) (a b : BitVec 4096)
  | save (f : ImgForm)
  | image (f : ImgForm)
  /-- the acquire or the release of a FENCE (08 R193; 16 R391) -/
  | fence (acq : Bool)
  /-- the release and the acquire of a hoist release (08 R194; 16 R391) -/
  | hoistRel
  | hoistAcq
  /-- SQPUT or SQGET at its buffer's bank (19 R461) -/
  | sq (put : Bool) (q : BitVec 5)
  /-- the release that the issue of the copy job in a slot makes, once every earlier access has been performed (21 R475) -/
  | jobRel (slot : Nat)
  /-- TSPAWN's write of STATE, a release, after which the pointer in the ready queue of a core is visible (19 R462) -/
  | spawn (target : BitVec 10)
  /-- the write of an atomic, that of a SCH, and the end of an LRW or of an atomic that writes nothing, two active cycles after the read: until then
  the bank serves no other access to the word (16 R390) -/
  | atomWrite (rel : Bool)
  | schWrite
  | wordEnd
  deriving DecidableEq, Repr

/-- A piece of an access: bytes at an offset of a core's scratchpad, and their place in the data. -/
structure Piece where
  core : BitVec 10
  off : BitVec 20
  len : Nat
  pos : Nat
  deriving DecidableEq, Repr

/-- An access of a primary that has issued and not yet reached its bank (16 R390). -/
structure Access where
  op : AccOp
  slot : Slot
  left : Nat
  born : Nat
  /-- releases of the primary that were counted since this access issued, and that follow it in program order (08 R200, R455) -/
  lag : Nat
  /-- in CORE or WEAVE mode: it crosses the crossbar (07 R156) -/
  remote : Bool
  /-- its service of several words at one bank port has been waited for (07 R155; 16 R389) -/
  paid : Bool
  /-- its checks have been made with those of the other half of its operation (16 R388) -/
  checked : Bool
  due : Nat
  dest : Option Dest
  pdest : Option Dest
  addr : Word
  bundle : BitVec 16
  pieces : List Piece
  data : Lanes
  data2 : Word
  scope : BitVec 3
  deriving DecidableEq, Repr

/-- The trap of an access that has read a poisoned word: the tick at which its value would land, and its destinations (07 R180). -/
structure LateTrap where
  due : Nat
  dest : Option Dest
  pdest : Option Dest
  trap : TrapInfo
  deriving DecidableEq, Repr

/-- A hardware loop register (15 R375): count, start word, end word, armed, order of arming, and whether a handler armed
it (R376). -/
structure LoopReg where
  count : BitVec 32
  start : BitVec 16
  endw : BitVec 16
  armed : Bool
  age : Nat
  handler : Bool
  deriving DecidableEq, Repr

/-- A taken transfer whose delay bundles have not all issued (09 R219): target, delay bundles left, and whether it is an
IRET (R230). -/
structure Xfer where
  target : BitVec 16
  left : Nat
  iret : Bool
  deriving DecidableEq, Repr

/-- A hold of the control slot: HOLDC's run count, HOLDU's instant, IFENCE's two cycles, PHASE's eight cycles with the word
that follows it, the member's measure and the watched occupancy (15 R377, R381; 05 R112, R113). -/
inductive Hold where
  | runCount (n : Word)
  | instant (n : Word)
  | fence (left : Nat)
  | phase (left : Nat) (next : BitVec 16) (measure : BitVec 32) (occupancy : Option Nat)
  deriving DecidableEq, Repr

/-- A guidon's C-slot outcome as forwarded to its followers (09 R220, R236): whether it executed, and its operand. -/
structure COut where
  fired : Bool
  value : Word
  deriving DecidableEq, Repr

/-- A bundle being issued: its header word, index, operations still to perform, literals, scope, and the outcome of its
control slot in a gang. -/
structure Bundle where
  pc : BitVec 16
  hdr : Half
  len : Nat
  ops : List (Slot × Instr)
  lits : List Half
  scope : BitVec 3
  cout : Option COut
  /-- the metadata word the guidon forwards (18 R436) -/
  mword : Option (BitVec 34)
  /-- its BRK and TRAP count as not executing (15 R379) -/
  skipTrap : Bool
  /-- c.status as it stands at its issue (15 R369) -/
  status : Word
  /-- where the bundle that follows stands unless something changes it -/
  next : BitVec 16
  /-- HALT has executed in it (15 R378) -/
  halt : Bool
  /-- the guidon's tick at its issue -/
  gborn : Nat
  deriving DecidableEq, Repr

/-- An E operation whose action or wait goes on after its issue (19 R446, R455): its bundle and scope, the operands it read
at issue, its tick and cycle of issue, and the guidon's tick of issue. -/
structure EWait where
  i : Instr
  pc : BitVec 16
  scope : BitVec 3
  a : Word
  b : Word
  born : Nat
  at_ : Nat
  /-- its engine cycle has passed and it still waits -/
  late : Bool
  deriving DecidableEq, Repr

/-- A bundle on its way to a follower: non-frozen cycles left, and the bundle (09 R236). -/
structure Feed where
  left : Nat
  b : Bundle
  /-- the guidon has taken a user interrupt before this bundle: the cause, and the word index of the bundle that would have issued next (09 R229) -/
  ui : Option (Word × BitVec 16)
  deriving DecidableEq, Repr

/-- Whether a core's primary runs (09 R225, R232; 05 R121). -/
inductive Run where
  | idle | running | halted | trapped | held | preempted | killed
  deriving DecidableEq, Repr

/-- A primary PWAIT after its first read (16 R393): the access, wait cycles left (none: no bound), and whether a qualifying write
has been performed. -/
structure PWaitSt where
  acc : Access
  left : Option Nat
  woken : Bool
  deriving DecidableEq, Repr

/-- A mesh injection in progress (19 R464): channel, vector, beats already injected, phase of the first. -/
structure Inject where
  ch : BitVec 6
  val : Lanes
  sent : Nat
  phase : Nat
  deriving DecidableEq, Repr

/-- What a barrel thread is doing (10 R241, R258; 16 R404). -/
inductive TState where
  /-- holds no frame -/
  | free
  | running
  /-- asleep until NOW reaches the instant -/
  | sleep (at_ : Word)
  /-- in PWAIT: watched word (physical key), wait cycles left -/
  | pwait (glob : Bool) (key : Nat) (left : Option Nat)
  /-- in LRW: queued and waiting to hold -/
  | lrw
  /-- a CPYW or CPY, an HREAD or a stage-queue operation that waits for its engine -/
  | engine
  /-- a translation miss or fault: the slice's miss entry -/
  | miss (slice : BitVec 8) (entry : BitVec 6)
  /-- a fill or acknowledgement of the dynamic network is awaited -/
  | response (line : Nat)
  /-- departing by migration to a core; resume at this operation again (false) or at the next (true) -/
  | depart (core : BitVec 10) (next : Bool) (extra : BitVec 32)
  /-- loading its frame; wake: the pointer was appended by TWAKE (10 R257, R484; 19 R462) -/
  | resume (wake : Bool)
  deriving DecidableEq, Repr

/-- A scratchpad access of a thread on its way to its bank (10 R246, R248): its slot class, the cycle of its issue, its mode and bytes, whether
it stores or is an atomic, LRW or SCH, whether such a one is already refused, and whether it is served. -/
structure Post where
  cls : Nat
  at_ : Nat
  mode : Mode
  piece : Piece
  write : Bool
  atom : Bool
  lost : Bool
  served : Bool
  deriving DecidableEq, Repr

/-- A barrel thread (10 R240). -/
structure Thread where
  x : Tab Word
  f : BitVec 4
  pc : BitVec 57
  live : Half
  frame : Word
  st : TState
  /-- cycle of the last issue, or of becoming ready (10 R244) -/
  last : Nat
  /-- occurrence the held frame belongs to -/
  occ : Nat
  /-- an attempt was denied and may be offered again from this cycle (10 R246) -/
  retry : Nat
  /-- a fetched or waited translation failed: the operation traps with XLATE (07 R169) -/
  xfail : Option Word
  /-- the operation that has issued into its slot and is not complete: it goes on without a new charge -/
  issued : Option Instr
  /-- the slot class into which it issued -/
  cls : Nat
  /-- a thread trap that has been raised and whose save waits: its cause and information (10 R266, R484) -/
  trapped : Option (Cause × Word)
  /-- its PWAIT's wait is over: the next read is the last (16 R393) -/
  lastRead : Bool
  /-- its access on its way to a bank -/
  post : Option Post
  /-- the cycle in which its last such access was served -/
  servedAt : Nat
  deriving DecidableEq, Repr

/-- A migrating thread's packet (10 R261), or a moored frame in the dock, whose registers are still in memory (R263). -/
structure Packet where
  dest : BitVec 10
  occ : Nat
  ctx : BitVec 6
  frame : Word
  pc : BitVec 57
  live : Half
  f : BitVec 4
  x : Tab Word
  moored : Bool
  /-- a fault wait of its mooring has failed (07 R169) -/
  xfail : Bool
  deriving DecidableEq, Repr

/-- An agent of the memory model (08 R183). -/
inductive Ag where
  | prim (core : BitVec 10)
  | thread (core : BitVec 10) (t : BitVec 4)
  | job (cluster : BitVec 6) (slot : BitVec 6)
  | halyard (cluster : BitVec 6)
  | queue (cluster : BitVec 6)
  | host
  | peer
  deriving DecidableEq, Repr

/-- What a release leaves at the word it wrote, for the acquire that reads it (08 R191, R199): the releasing agent, its
scope, and the counts an acquirer takes. acq lists agent code and count, cacq cluster and count, far the counts of agents of other clusters by 256 ×
cluster + code; a count of 0 that has been reached is listed. -/
structure RelInfo where
  ag : Ag
  scope : BitVec 3
  acq : Tab (Option (BitVec 16))
  cacq : Tab (Option (BitVec 16))
  far : Tab (Option (BitVec 16))
  deriving DecidableEq, Repr

/-- A line of the scavenger data cache (10 R253): its virtual and physical line, the leaf entry it was filled under, its
bytes, dirty bytes, and whether it is held for a near atomic (08 R209). rel: by word, the releases that a read of the copy's word reads (08
R193). -/
structure DLine where
  vline : Nat
  line : Nat
  ctx : BitVec 6
  leaf : Word
  data : BitVec 512
  dirty : BitVec 64
  /-- words that hold an uncorrectable error, and words stored whole since the fill (07 R180) -/
  poison : Byte
  whole : Byte
  rel : Tab (List RelInfo)
  excl : Bool
  deriving DecidableEq, Repr

/-- A line of the instruction cache or constant cache: virtual line, bytes and poisoned words as filled (10 R254, R255; 07 R180). -/
structure ILine where
  line : Nat
  data : BitVec 512
  poison : Byte
  deriving DecidableEq, Repr

/-- Power gating of a core (01 R27, R28). -/
inductive Gate where
  | on
  | prepare (left : Nat)
  | off
  | ungating (left : Nat)
  deriving DecidableEq, Repr

/-- The denial and offer counters of the scavenger barrel, five slot classes each (10 R251). -/
structure Residue where
  offered : Tab Word
  taken : Tab Word
  bankdeny : Tab Word
  netdeny : Tab Word
  tokdeny : Tab Word
  deriving DecidableEq, Repr

/-- An entry of a ready queue (10 R257; 19 R462): the frame pointer; wake: appended by TWAKE; maker: the core whose primary's TSPAWN has
appended it and has not yet written STATE, so that no slot sees it; late: that write awaits its translation; failed: the wait has failed. -/
structure Ready where
  fp : Word
  wake : Bool
  maker : Option (BitVec 10)
  late : Bool
  failed : Bool
  deriving DecidableEq, Repr

/-- A pointer that a slot may take, put into the queue by TYIELD, TWAKE or a thread's TSPAWN. -/
def Ready.of (fp : Word) (wake : Bool) : Ready := { fp := fp, wake := wake, maker := none, late := false, failed := false }

/-- A pointer that the primary of core c has appended and whose STATE it has not written yet. -/
def Ready.made (fp : Word) (c : BitVec 10) : Ready := { fp := fp, wake := false, maker := some c, late := false, failed := false }

/-- One core (09 R214, R239; 10 R240; 11 R275). -/
structure Core where
  -- registers
  sreg : Tab Word
  preds : BitVec 17
  vreg : Tab Lanes
  mreg : Tab Word
  ft : Tab Half
  loops : Tab LoopReg
  ln : Word
  hreg : Tab Word
  pc : BitVec 16
  mpc : BitVec 16
  -- c.status
  frz : Option Freeze
  inui : Bool
  uie : Bool
  pendFmt : Option Half
  active : Word
  freeze : Word
  -- gang
  gangSize : Nat
  guidon : BitVec 10
  rank : Nat
  stage : BitVec 16
  variant : BitVec 8
  feed : List Feed
  -- user interrupts
  uivec : Word
  uicause : Word
  uien : BitVec 5
  uilost : BitVec 16
  uitime : Word
  uiq : List Word
  handlerCount : Nat
  -- traps
  trapcause : Word
  trapmask : Word
  trapinfo : Word
  trapaddr : Word
  -- flags and windows
  vflags : BitVec 5
  mstat : BitVec 4
  /-- registers and accumulator cells that hold an uncorrectable error, by number (07 R180) -/
  rpoison : Tab Bool
  win : Tab Word
  /-- the windows before the first MTC to one that took effect in a cycle, with that cycle (09 R223) -/
  winWas : Option (Nat × Tab Word)
  cw : Tab Word
  res : Residue
  /-- the counts as they stood at the end of the last cycle, as MFC reads them (20 R470) -/
  resWas : Residue
  -- array
  ea : Tab Word
  eb : Tab Word
  sa : Tab Half
  sb : Tab Half
  acc : Tab Word
  /-- ticks from which a drain sees the last accumulate and the last fold into k0 and k1 (11 R287) -/
  accTick : Tab Nat
  foldTick : Tab Nat
  /-- tick from which a remotely pushed edge may be read (11 R282) -/
  eaDue : Nat
  ebDue : Nat
  -- pipeline
  tick : Nat
  pend : List Pend
  accs : List Access
  /-- traps of poisoned values that wait until the value would land (07 R180) -/
  lateTraps : List LateTrap
  bund : Option Bundle
  xfer : Option Xfer
  traps : List TrapInfo
  -- freezes
  eccLeft : Nat
  serviceLeft : Nat
  hold : Option Hold
  hoistHeld : Option (Nat × Nat)
  pwait : Option PWaitSt
  lrwWait : Option Access
  /-- an E operation that waits with reason JOBWAIT -/
  ewait : Option EWait
  /-- halyard actions on their way to the engine cycle (19 R455) -/
  hacts : List EWait
  /-- results of the halyard instructions this guidon issued, by tick of issue, for its followers (19 R447) -/
  hres : Tab (Option (Word × Word))
  stopPending : Bool
  -- run state
  run : Run
  /-- how a stopped core ran before a pre-emption -/
  was : Run
  /-- no user interrupt is taken before the first resumed bundle has issued (05 Table Scheduler.6) -/
  uiHold : Bool
  occ : Option Nat
  /-- the stopped bundle that TRAPCTL RESUME lets issue, and whether a handler's: its BRK and TRAP count as not executing (09 R232; 15 R379) -/
  skipTrap : Option (BitVec 16 × Bool)
  /-- the control registers as the primary sees them in a cycle, for its barrel threads (15 R369) -/
  ctlWas : Option (Nat × Tab Word)
  /-- present mask of the last bundle issued, and its cycle (10 R243) -/
  used : BitVec 8
  usedAt : Nat
  /-- a freeze that offers no slot holds in its gang (10 R243) -/
  mute : Bool
  /-- cycle of the last credit charge (05 R116) -/
  charged : Nat
  /-- instruction words written by copy jobs since the last IFENCE, with the old word and tag (09 R221) -/
  imemOld : Tab (Option (BitVec 34))
  -- mesh
  recv : Tab (List (BitVec 512))
  ovf : BitVec 64
  inject : List Inject
  -- barrel
  threads : Tab Thread
  readyq : List Ready
  dock : List Packet
  dcache : List DLine
  icache : List ILine
  ccache : List ILine
  predictor : Tab (BitVec 2)
  /-- last thread picked in a cycle before pickedAt, the last cycle with a pick, and the last thread picked in it (10 R244) -/
  lastPick : Nat
  pickedAt : Nat
  pickedNow : Nat
  -- gating
  /-- cycle from which the core has been idle -/
  idle : Nat
  gate : Gate
  deriving DecidableEq, Repr

/-- A thread slot that holds no frame, with every register 0 (DESIGN CHOICE, log entry 3). -/
def Thread.reset : Thread :=
  { x := [], f := 0, pc := 0, live := 0, frame := 0, st := .free, last := 0, occ := 0, retry := 0, xfail := none, issued := none, cls := 0, trapped := none,
    lastRead := false, post := none, servedAt := 0 }

/-- A disarmed loop register. -/
def LoopReg.reset : LoopReg := { count := 0, start := 0, endw := 0, armed := false, age := 0, handler := false }

/-- Residue counters at zero (10 R251). -/
def Residue.reset : Residue := { offered := [], taken := [], bankdeny := [], netdeny := [], tokdeny := [] }

/-- A core after a cold reset (09 Table Primary.14; 10 R270). -/
def Core.reset : Core :=
  { sreg := [], preds := 0, vreg := [], mreg := [], ft := [], loops := [], ln := 0, hreg := [], pc := 0, mpc := 0,
    frz := none, inui := false, uie := false, pendFmt := none, active := 0, freeze := 0,
    gangSize := 0, guidon := 0, rank := 0, stage := 0, variant := 0, feed := [],
    uivec := 0, uicause := 0, uien := 0, uilost := 0, uitime := 0, uiq := [], handlerCount := 0,
    trapcause := 0, trapmask := 0, trapinfo := 0, trapaddr := 0,
    vflags := 0, mstat := 0, rpoison := [], win := [], winWas := none, cw := [], res := .reset, resWas := .reset,
    ea := [], eb := [], sa := [], sb := [], acc := [], accTick := [], foldTick := [], eaDue := 0, ebDue := 0,
    tick := 0, pend := [], accs := [], lateTraps := [], bund := none, xfer := none, traps := [],
    eccLeft := 0, serviceLeft := 0, hold := none, hoistHeld := none, pwait := none, lrwWait := none, ewait := none, hacts := [], hres := [],
    stopPending := false, run := .idle, was := .idle, uiHold := false, occ := none, skipTrap := none, ctlWas := none, used := 0, usedAt := 0, mute := false, charged := 0, imemOld := [], recv := [], ovf := 0, inject := [],
    threads := [], readyq := [], dock := [], dcache := [], icache := [], ccache := [], predictor := [], lastPick := 0, pickedAt := 0, pickedNow := 0,
    idle := 0, gate := .on }

end Sys2Proof.Machine
end

