-- ==== Sys2Proof/Machine/MemState.lean ====
section
/-! DEFINITION. The state of memory, of the slices and of the clusters' engines (spec 06, 07, 08, 19). -/

namespace Sys2Proof.Machine

/-- A granule's or line's race tag (08 R200, R202): writer and count. -/
structure RaceTag where
  writer : Byte
  count : BitVec 16
  deriving DecidableEq, Repr

/-- No writer (08 R198 code 0xFF). -/
def RaceTag.none : RaceTag := { writer := 0xFF, count := 0 }

/-- An installed translation (07 R168): context, level (false 64 KiB, true 512 MiB), virtual page number and leaf entry. -/
structure Trans where
  ctx : BitVec 6
  huge : Bool
  page : Nat
  leaf : Word
  deriving DecidableEq, Repr

/-- Who waits for a translation (07 R168, R169): a barrel thread, a copy job, a BAR 4 request, a halyard engine, the command
processor's preparation, a thread's packet being moored, the mooring list under a key, the frame of a primary's TSPAWN for core (10 R484), or a
peer's request. -/
inductive Requester where
  | thread (core : BitVec 10) (t : BitVec 4)
  | job (cluster : BitVec 6) (slot : BitVec 6)
  | host (fn : BitVec 4) (id : Nat)
  | halyard (dir : Nat)
  | prep (occ : Nat)
  | packet (n : Nat)
  | moor (key : Nat)
  | spawn (core : BitVec 10) (fp : Word)
  | peer (id : Nat)
  deriving DecidableEq, Repr

/-- Access kinds of a mailbox entry (07 Table Fabric.8). -/
inductive AccessKind where
  | read | write | image | atomic
  deriving DecidableEq, Repr

/-- Where a miss entry stands: held in the slice, posted to the walker, being reported as a fault, failed, or filling a line (07 R174). -/
inductive MissStage where
  | held | posted | fault | failed | fill
  deriving DecidableEq, Repr

/-- A miss entry of a slice (07 R168, R174): context, page, access and requester; the fault identifier and deadline once the
fault has been reported. also: the requesters that have joined it since. -/
structure Miss where
  ctx : BitVec 6
  page : Nat
  kind : AccessKind
  who : Requester
  also : List Requester
  stage : MissStage
  permission : Bool
  faultId : BitVec 12
  deadline : Word
  deriving DecidableEq, Repr

/-- A mailbox entry (07 Table Fabric.8). -/
structure Mail where
  slice : BitVec 8
  entry : BitVec 6
  deriving DecidableEq, Repr

/-- The walk of a walker's oldest mailbox entry (07 R169): the level and the base of the table to read next, and the leaf once it is known, with
whether it is of 512 MiB. -/
structure Walk where
  level : Nat
  root : Nat
  leaf : Option (Word × Bool)
  deriving DecidableEq, Repr

/-- A waiter of a reservation queue (08 R206): its agent, granule, and the cycle in which it began to hold. -/
structure Waiter where
  core : BitVec 10
  /-- 0-7 a barrel thread, 8 the primary -/
  thread : BitVec 4
  /-- the occurrence of the agent (05 Table Scheduler.6) -/
  occ : Option Nat
  granule : Nat
  held : Option Nat
  deriving DecidableEq, Repr

/-- An LRW that a domain change holds at its thread, with the thread's operation and its address (07 R166). -/
structure LrwHold where
  core : BitVec 10
  thread : BitVec 3
  pc : BitVec 57
  ctx : BitVec 6
  va : Nat
  deriving DecidableEq, Repr

/-- States of a copy job (19 Table Engine.4); free is a slot without a job. -/
inductive JobState where
  | free | queued | running | done | faulted | cancelled
  deriving DecidableEq, Repr

/-- One dimension of a copy descriptor (19 Table Engine.2). -/
structure Dim where
  ext : BitVec 32
  sstr : BitVec 48
  dstr : BitVec 48
  deriving DecidableEq, Repr

/-- A copy job (19 R448-R454). -/
structure Job where
  st : JobState
  burgee : BitVec 16
  core : BitVec 10
  /-- the issuing barrel thread, 8 for the primary -/
  thread : BitVec 4
  ctx : BitVec 6
  occ : Nat
  /-- CPY.v: the descriptor is at a virtual address -/
  virt : Bool
  desc : Word
  /-- the release of the issue has been counted (21 R475) -/
  counted : Bool
  /-- cycle from which the descriptor may be read, and the issuer's tick of issue -/
  ready : Nat
  born : Nat
  src : Word
  dst : Word
  control : Word
  dims : List Dim
  tags : Word
  next : Nat
  total : Nat
  doneCnt : Nat
  cause : Byte
  /-- a poison record has been written -/
  poisonRec : Bool
  /-- what is waited for: a miss entry, or the tag of a peer request -/
  missAt : Option (BitVec 8 × BitVec 6)
  peerTag : Option (BitVec 16)
  /-- the peer's answer that completes the waiting element -/
  answer : Option (List Byte)
  /-- the cause with which a peer request failed, 0 for none -/
  peerBad : Byte
  xfail : Option Word
  /-- cycle in which the job finished (19 R451) -/
  seq : Nat
  deriving DecidableEq, Repr

/-- A free job slot. -/
def Job.reset : Job :=
  { st := .free, burgee := 0, core := 0, thread := 0, ctx := 0, occ := 0, virt := false, desc := 0, counted := false, ready := 0, born := 0, src := 0,
    dst := 0, control := 0, dims := [], tags := 0, next := 0, total := 0, doneCnt := 0, cause := 0, poisonRec := false,
    missAt := none, peerTag := none, answer := none, peerBad := 0, xfail := none, seq := 0 }

/-- An armed queue threshold of a core (19 R460): high or low, and its value. -/
structure Threshold where
  core : BitVec 10
  high : Bool
  at_ : BitVec 16
  deriving DecidableEq, Repr

/-- A stage queue of a launch in a cluster (05 R106, R108): its place in the pool, capacity, counts of puts and gets, armed
thresholds, and the last cycle with a put or get with the occupancy at its start (05 R112, R114). -/
structure StageQ where
  base : Nat
  cap : Nat
  head : Nat
  tail : Nat
  arms : List Threshold
  mark : Nat × Nat
  deriving DecidableEq, Repr

/-- A core held at a hoist (16 R403): hoist number, its masks, and its arrival cycle. -/
structure HoistWait where
  core : BitVec 10
  hoist : BitVec 9
  cmask : BitVec 16
  xmask : Word
  arrived : Nat
  deriving DecidableEq, Repr

/-- One cluster's engines and counts (01 R17-R21; 08 R199-R206; 19). -/
structure Cluster where
  jobs : Tab Job
  nextBurgee : BitVec 16
  /-- REL of each agent code of the cluster -/
  rel : Tab (BitVec 16)
  /-- ACQ(a, b) under key 256 a + b; none: nothing of b acquired yet, which counts as 0 -/
  acq : Tab (Option (BitVec 16))
  /-- counts of agents of other clusters that an agent a has acquired, under key 16384 a + 256 × cluster + code: what happens before reaches back through
  another cluster (08 R203; DEDUCED, log entry 117) -/
  far : Tab (Option (BitVec 16))
  crel : BitVec 16
  cacq : Tab (Option (BitVec 16))
  /-- stage queues under key 32 × occurrence + j -/
  queues : Tab StageQ
  /-- tokens left in this period, reserved sum, grant, and overdraw counter -/
  grant : BitVec 32
  pool : Nat
  reserved : BitVec 32
  overdraw : Word
  /-- tokens each core's primary has debited in this period -/
  debit : Tab Nat
  deriving DecidableEq, Repr

/-- A stage queue that is not declared. -/
def StageQ.reset : StageQ := { base := 0, cap := 0, head := 0, tail := 0, arms := [], mark := (0, 0) }

/-- A cluster after a cold reset (01 R35: grant and pool 20,312,500). -/
def Cluster.reset : Cluster :=
  { jobs := [], nextBurgee := 0, rel := [], acq := [], far := [], crel := 0, cacq := [], queues := [], grant := 20312500,
    pool := 20312500, reserved := 0, overdraw := 0, debit := [] }

/-- A slice (07 R168, R174; 08 R206): miss entries, and translations in the order of their last use. -/
structure Slice where
  misses : Tab (Option Miss)
  tlb : List Trans
  deriving DecidableEq, Repr

/-- A slice after reset. -/
def Slice.reset : Slice := { misses := [], tlb := [] }

/-- How a slice holds a line (07 R164, R172): the context that filled it, whether its tag is without a context (SHARED), its virtual line
and its home slice. -/
structure LineOwn where
  ctx : BitVec 6
  shared : Bool
  vline : Nat
  slice : BitVec 8
  deriving DecidableEq, Repr

/-- A line of global memory with a slice's marks: how it is held, if it is, race tag (08 R202), the core that holds it for near atomics and
the core of the last atomic at the home slice (08 R209). -/
structure LineMark where
  own : Option LineOwn
  tag : RaceTag
  near : Option (BitVec 10)
  lastAtom : Option (BitVec 10)
  deriving DecidableEq, Repr

/-- An unmarked line. -/
def LineMark.reset : LineMark := { own := none, tag := .none, near := none, lastAtom := none }

/-- Memory (07; 08; 09 R222, R221). -/
structure Mem where
  /-- physical memory as every agent reads it below the scavenger caches -/
  phys : List Host.Cell
  /-- bytes written above DRAM and not yet accepted by a DRAM controller: the byte DRAM still holds (07 R164, R176) -/
  dirty : Tab (Option Byte)
  /-- poisoned 8-byte words: physical address / 8 -/
  poison : Tab Bool
  /-- whether DRAM holds a word as poisoned that has been written above it (07 R176, R180) -/
  dramPoison : Tab (Option Bool)
  /-- data scratchpads: key 2^20 × core + offset -/
  spad : List Host.Cell
  spoison : Tab Bool
  stags : Tab RaceTag
  /-- instruction scratchpads: key 65,536 × core + word, tag in bits [33:32] -/
  imem : Tab (BitVec 34)
  ipoison : Tab Bool
  lines : Tab LineMark
  slices : Tab Slice
  /-- read replicas: quadrant and line whose replica holds the bytes (07 R173) -/
  replicas : List (Nat × Nat)
  mail : Tab (List Mail)
  /-- the walkers' walks, by core: each of its core's oldest mailbox entry -/
  walks : Tab (Option Walk)
  nextFault : BitVec 12
  /-- reservation queues: 32 × core + bank for scratchpads, 2^20 + slice for slices (08 R206) -/
  resq : Tab (List Waiter)
  /-- LRWs held by domain changes, in the order in which they were held (07 R166) -/
  lrwHeld : List LrwHold
  /-- releases that a read of a word reads: scratchpad key / 8, or 2^48 + physical address / 8 (08 R191) -/
  relInfo : Tab (List RelInfo)
  /-- the last release to a granule of 8 bytes, for the next holder of its reservation (08 R206) -/
  lastRel : Tab (Option RelInfo)
  /-- releases read by plain or relaxed reads, per agent, for an acquire fence (08 R193) -/
  seen : Tab (List RelInfo)
  /-- the release fences a later plain or relaxed write of an agent publishes, the last of each scope (08 R193) -/
  fenceRel : Tab (List RelInfo)
  deriving DecidableEq, Repr

/-- Memory after a cold reset: nothing listed. -/
def Mem.reset : Mem :=
  { phys := [], dirty := [], poison := [], dramPoison := [], spad := [], spoison := [], stags := [], imem := [], ipoison := [], lines := [],
    slices := [], replicas := [], mail := [], walks := [], nextFault := 0, resq := [], lrwHeld := [], relInfo := [], lastRel := [], seen := [], fenceRel := [] }

/-- The canonical form of the byte and word stores: keys strictly rising, nothing listed that equals what an unlisted key reads as. -/
def Mem.wf (m : Mem) : Bool := tabWf 0 m.phys && tabWf 0 m.spad && tabWf 0 m.imem

/-- States of a halyard (06 Table Halyards.1, R151). -/
inductive HalState where
  | closed | parked | live | faulted
  deriving DecidableEq, Repr

/-- One layer of a KV map (06 R136). -/
structure KvLayer where
  base : Word
  stride : BitVec 32
  deriving DecidableEq, Repr

/-- A cut whose discards are still being acknowledged (06 R144): cycle of completion, whether it has completed, results. -/
structure CutWait where
  done : Nat
  ended : Bool
  r0 : Word
  r1 : Word
  deriving DecidableEq, Repr

/-- A frame on its way to its halyard (04 R99): directory key, bytes, the NOW of its arrival, and P in the cycle of its arrival, of a parked
halyard once its bind has found it (06 R142, R152). -/
structure QFrame where
  dir : Nat
  bytes : BitVec 2048
  at_ : Word
  p : Option Word
  deriving DecidableEq, Repr

/-- A halyard: its directory entry and, while it is open, the engine's copy of its record (06 R132, R148, R151). -/
structure Hal where
  st : HalState
  addr : Word
  g : Word
  p : Word
  t : Word
  i : Word
  a : Word
  cutpos : Word
  playend : Word
  horizon : Word
  logbase : Word
  playbase : Word
  qbase : Word
  kvtab : Word
  ckbase : Word
  evpen : Word
  lead : Word
  tokns : BitVec 32
  dlim : BitVec 32
  loglg : Byte
  qlg : Byte
  cklg : Byte
  ckcount : Byte
  kvlayers : BitVec 16
  kvcap : BitVec 32
  cksize : BitVec 32
  evpmask : BitVec 16
  evimask : BitVec 16
  mode : Byte
  nextseq : BitVec 32
  drops : BitVec 32
  lates : BitVec 32
  lastck : Word
  ckvalid : Word
  tmax : Word
  /-- bound guidon -/
  bound : Option (BitVec 10)
  kv : List KvLayer
  /-- positions of the checkpoint slots (06 R148) -/
  ckpos : Tab Word
  /-- queued entries that a parked halyard's next bind looks at: entry number, HORIZON when the frame was queued, and P at the frame's arrival if
  the halyard was live then (06 R152) -/
  uncut : List (Nat × Word × Option Word)
  cut : Option CutWait
  /-- occurrence of the binding -/
  owner : Option Nat
  /-- a fault wait of the engine has failed (07 R169) -/
  xfail : Bool
  deriving DecidableEq, Repr

/-- A closed halyard. -/
def Hal.reset : Hal :=
  { st := .closed, addr := 0, g := 0, p := 0, t := 0, i := 0, a := 0, cutpos := 0, playend := 0, horizon := 0, logbase := 0,
    playbase := 0, qbase := 0, kvtab := 0, ckbase := 0, evpen := 0, lead := 0, tokns := 0, dlim := 0, loglg := 0, qlg := 0,
    cklg := 0, ckcount := 0, kvlayers := 0, kvcap := 0, cksize := 0, evpmask := 0, evimask := 0, mode := 0, nextseq := 0,
    drops := 0, lates := 0, lastck := 0, ckvalid := 0, tmax := 0, bound := none, kv := [], ckpos := [], uncut := [], cut := none, owner := none, xfail := false }

end Sys2Proof.Machine
end

