-- ==== Sys2Proof/Machine/SchedState.lean ====
section
/-! DEFINITION. The state of the command processor: contexts, schedule table, occurrences, domains, the static mesh
(spec 04, 05, 07). -/

namespace Sys2Proof.Machine

/-- Context states (04 Table Command.2). -/
inductive CtxState where
  | free | active | stopping
  deriving DecidableEq, Repr

/-- A context (04 R80-R82; 07 R165, R170). -/
structure Ctx where
  st : CtxState
  ptroot : Word
  aperbase : Word
  evbase : Word
  evcfg : Word
  evhead : Word
  evtail : Word
  stbase : Word
  clusters : Word
  weight : Word
  entryerr : BitVec 16
  framedrop : BitVec 16
  evlost : BitVec 16
  domsel : Word
  busy : Bool
  /-- a function-level reset clears its registers when it is FREE (03 R61) -/
  flr : Bool
  /-- an invalidation being performed: range kind (1, 2, 3) and page -/
  inval : Option (Nat × Nat)
  /-- launch queues 0-3, head first: occurrences, and pre-empted units as occurrence and 1 + first core (04 R85; 05 R117) -/
  lq : Tab (List (Nat × Nat))
  deriving DecidableEq, Repr

/-- A context's registers at reset, at function enable and at CREATE (04 R80); STBASE is set by the caller. -/
def Ctx.reset : Ctx :=
  { st := .free, ptroot := 0, aperbase := 0, evbase := 0, evcfg := 0, evhead := 0, evtail := 0, stbase := 0,
    clusters := BitVec.allOnes 64, weight := 1, entryerr := 0, framedrop := 0, evlost := 0, domsel := 0, busy := false, flr := false,
    inval := none, lq := [] }

/-- The phases of an occurrence's life (04 R85-R97; 05 R104, R121-R128). -/
inductive OccPhase where
  /-- a shared occurrence in its launch queue -/
  | queued
  /-- preparation in progress: loads still to make -/
  | preparing
  /-- prepared: waits for its instant -/
  | ready
  /-- found late with LATE = 1: its record is still being read, for the completion record (04 R89) -/
  | skipped
  | running
  /-- stopped under class 3: waits to start again (05 R125) -/
  | restart
  /-- killed: its cores have stopped -/
  | killing
  | ended
  deriving DecidableEq, Repr

/-- Where the pre-emption of a unit stands (05 R121-R124): the stop cycle chosen, the snapshot being written until a cycle, in
the store, taken out for its resume, being restored until a cycle. -/
inductive UnitStage where
  | stopping (s : Nat)
  | snapshot (done : Nat)
  | stored
  | chosen
  | restoring (done : Nat)
  deriving DecidableEq, Repr

/-- A co-scheduling unit that is being or has been pre-empted (05 R103), with the router phase at its stop (07 R162). -/
structure UnitStop where
  cores : List (BitVec 10)
  stage : UnitStage
  phase : Nat
  deriving DecidableEq, Repr

/-- Completion status (04 R97). -/
inductive OccStatus where
  | ok | killed | trapped | skipped | refused
  deriving DecidableEq, Repr

/-- A core's saved record (09 R234; 10 R269): the core, its scratchpad bytes and granule tags, and REL and ACQ. -/
structure Saved where
  core : BitVec 10
  state : Core
  spad : List Host.Cell
  spoison : Tab Bool
  stags : Tab RaceTag
  rel : Tab (BitVec 16)
  acq : Tab (Option (BitVec 16))
  far : Tab (Option (BitVec 16))
  /-- the releases that its scratchpad's words were written by, and those its agents have read or are to publish (08 R191, R193, R206) -/
  relInfo : Tab (List RelInfo)
  lastRel : Tab (Option RelInfo)
  seen : Tab (List RelInfo)
  fenceRel : Tab (List RelInfo)
  deriving DecidableEq, Repr

/-- A beat of the static mesh (07 R159): router, input port, channel's bits, and the cycle at which it stands there. -/
structure Beat where
  router : BitVec 6
  port : BitVec 3
  core : BitVec 4
  val : BitVec 512
  at_ : Nat
  occ : Nat
  ch : BitVec 6
  deriving DecidableEq, Repr

/-- An entry of a loaded router program (07 Table Fabric.4) with its router and owner. -/
structure RouterEntry where
  router : BitVec 6
  core : BitVec 4
  chan : BitVec 6
  out : BitVec 3
  inp : BitVec 3
  phase : BitVec 10
  deriving DecidableEq, Repr

/-- A loaded router program (07 R158, R162): period, SYNC hoist, entries, and the cycle of phase 0. held: the beats that were on their way when the
launch's last unit stopped, each with the cycles that it had still to go (19 R466). -/
structure Router where
  period : Nat
  sync : BitVec 16
  entries : List RouterEntry
  /-- phase as a count modulo period, at cycle at_ -/
  phase : Nat
  at_ : Nat
  held : List Beat
  deriving DecidableEq, Repr

/-- An occurrence of a schedule entry (04, 05). -/
structure Occ where
  entry : BitVec 12
  num : Nat
  /-- the entry's arming that it belongs to, how many occurrences that arming has, and the cycle in which its preparation began
  (04 R85, R86) -/
  arm : Nat
  limit : Option Nat
  bornAt : Nat
  ctx : BitVec 6
  phase : OccPhase
  shared : Bool
  instant : Word
  record : Word
  clusters : Word
  cores : BitVec 16
  flags : BitVec 16
  -- the launch record (04 Table Command.7)
  image : Word
  routerAddr : Word
  doneaddr : Word
  entryWord : BitVec 16
  gang : Nat
  power : Nat
  pclass : Nat
  keep : Bool
  levels : List (BitVec 32)
  stages : List (BitVec 16)
  variants : BitVec 16
  vector : BitVec 16
  wdPre : BitVec 32
  wdKill : BitVec 32
  wdFence : BitVec 32
  queueCaps : List (BitVec 16)
  halyards : List (BitVec 32)
  args : List Word
  router : Option Router
  -- preparation
  /-- steps of preparation done: the record 1, the router program 2, its fit and the power and queue reservations 3, the halyards 4,
  the image 5 -/
  prep : Nat
  late : Option (BitVec 3)
  /-- NOW at which its skip was decided -/
  skipNow : Word
  /-- its NOW has reached the instant -/
  atInstant : Bool
  /-- cores whose load has not been made -/
  toLoad : List (BitVec 10)
  /-- power and queue reservations are held -/
  reserved : Bool
  prepWait : Option (BitVec 8 × BitVec 6)
  xfail : Bool
  -- run
  status : OccStatus
  cause : Byte
  wdCount : Nat
  /-- watchdog steps taken: 1 pre-empt, 2 kill, 4 fence -/
  wdDone : Nat
  /-- stop cycle of a kill or of a class 3 stop -/
  stopAt : Option Nat
  stopKill : Bool
  units : List UnitStop
  saved : List Saved
  deriving DecidableEq, Repr

/-- A domain register (07 Table Fabric.6). -/
structure Dom where
  base : Byte
  mask : Byte
  pending : Bool
  deriving DecidableEq, Repr

/-- DOMCFG at reset (07 Table Fabric.6). -/
def Dom.reset : Dom := { base := 0, mask := 0xFF, pending := false }

/-- A domain change in progress (07 R166): a DOMCFG value, or a context's DOMSEL value. -/
inductive DomChange where
  | cfg (d : BitVec 6) (base mask : Byte)
  | sel (ctx : BitVec 6) (value : Word)
  deriving DecidableEq, Repr

/-- Key of the mooring list of an occurrence for a core: where two occurrences of one context have frames moored for a core, each has a list of
its own (DEDUCED from 05 R128 and 10 R263, log entry 101). -/
def moorKey (id : Nat) (c : BitVec 10) : Nat := 1024 * id + c.toNat

/-- The command processor (04, 05, 06 R151, 07 R158-R170, 10 R263). -/
structure Sched where
  ctxs : Tab Ctx
  /-- functions enabled (03 R57) -/
  fnOn : BitVec 16
  /-- the 4,096 × 32 bytes of the schedule table (04 R83) -/
  table : List Host.Cell
  /-- frame-window bytes: key 2^24 × function + offset (04 R99) -/
  frames : List Host.Cell
  /-- frames submitted to a live halyard and not yet taken by its engine: directory key, header and payload, arrival -/
  frameq : List QFrame
  /-- next occurrence number of an entry, and the base instant of a shared one (04 R85) -/
  nextOcc : Tab Nat
  /-- how often an entry has been armed -/
  arming : Tab Nat
  baseInstant : Tab Word
  /-- NOW of the cycle before VALID was set (04 R86) -/
  validPrev : Tab Word
  /-- entry and occurrence that last ran on a core (04 R96) -/
  lastRun : Tab (Option (BitVec 12 × Nat))
  occs : Tab (Option Occ)
  nextOccId : Nat
  /-- cores have become free since the last selection (05 R117) -/
  freed : Bool
  /-- credits: key 64 × cluster + context (05 R115) -/
  credits : Tab Int
  fenced : Tab Bool
  /-- halyard directory: key 4,096 × context + halyard (06 R151) -/
  hals : Tab Hal
  /-- mooring lists: key 1,024 × occurrence + core; head and tail (10 R263) -/
  moor : Tab (Word × Word)
  /-- mooring lists whose head's fault wait has failed (07 R169) -/
  moorFail : Tab Bool
  /-- mooring lists whose move has issued and awaits its frame's translation (10 R263, R484) -/
  moorBusy : Tab Bool
  packets : Tab (Option Packet)
  nextPacket : Nat
  doms : Tab Dom
  domChanges : List DomChange
  hoists : List HoistWait
  beats : List Beat
  meshdrop : Tab Word
  deriving DecidableEq, Repr

/-- The command processor after a cold reset: context 0 ACTIVE, the PF enabled (DESIGN CHOICE, log entry 3). -/
def Sched.reset : Sched :=
  { ctxs := [(0, { Ctx.reset with st := .active })], fnOn := 1, table := [], frames := [], frameq := [], nextOcc := [], arming := [], freed := false,
    baseInstant := [], validPrev := [], lastRun := [], occs := [], nextOccId := 0, credits := [], fenced := [], hals := [], moor := [], moorFail := [], moorBusy := [], packets := [],
    nextPacket := 0, doms := [], domChanges := [], hoists := [], beats := [], meshdrop := [] }

end Sys2Proof.Machine
end

