-- ==== Sys2Proof/Machine/DeviceState.lean ====
section
/-! DEFINITION. The state of the module around the cores: time base, power, links, ownership, management and trace
(spec 01, 02, 03). -/

namespace Sys2Proof.Machine

/-- The time base (01 R30-R34). -/
structure TimeBase where
  cycle : Word
  now : Word
  /-- NOW of the cycle before -/
  prev : Word
  /-- TIMESTAT (01 Table Package.6) -/
  offset : BitVec 32
  slew : BitVec 16
  source : BitVec 4
  link : BitVec 4
  holdover : Bool
  stepped : Bool
  locked : Bool
  /-- TIMECFG (03 Table Host.9) -/
  anylink : Bool
  cfgLink : BitVec 4
  third : BitVec 4
  second : BitVec 4
  first : BitVec 4
  /-- nanoseconds still to be removed by slew, and cycles since the last slew step (at most 10,000 counted) -/
  residue : Int
  sinceSlew : Nat
  /-- sources 1-3 available -/
  avail : BitVec 4
  /-- last measured time of each source minus NOW, in ns (01 R32, R33) -/
  offs : Tab Int
  /-- a launch has issued an entry bundle since reset (01 R32) -/
  launched : Bool
  deriving DecidableEq, Repr

/-- The time base after a cold reset (01 R35; 03 Table Host.9). -/
def TimeBase.reset : TimeBase :=
  { cycle := 0, now := 0, prev := 0, offset := 0, slew := 0, source := 0, link := 0, holdover := false, stepped := false, locked := false,
    anylink := true, cfgLink := 0, third := 3, second := 2, first := 1, residue := 0, sinceSlew := 10000, avail := 0, offs := [],
    launched := false }

/-- The rows of the cost table at reset (01 Table Package.4). -/
def costReset : List (BitVec 32) := [4, 12, 30, 60, 20, 150, 340, 200, 120, 4, 4, 20, 200, 60, 40]

/-- Power and temperature (01 R16-R25; 03 R68). -/
structure Power where
  cost : List (BitVec 32)
  /-- cap in force, in W -/
  cap : Nat
  /-- the grant sum the cap asks for and that lower reserved sums do not yet allow (01 R23) -/
  capPending : Bool
  /-- clusters whose grants the cap in force is still to raise -/
  capRaise : Word
  /-- junction sensors: key 8 × quadrant + sensor, 1/16 °C, as the environment sets them -/
  sensors : Tab (BitVec 16)
  inlet : BitVec 16
  outlet : BitVec 16
  /-- quadrants in a thermal freeze, quadrants with the 95 °C warning given -/
  frozen : BitVec 4
  warned : BitVec 4
  on : Bool
  deriving DecidableEq, Repr

/-- Power after a cold reset: cap 1,600 W (DESIGN CHOICE, log entry 3), sensors 0. -/
def Power.reset : Power :=
  { cost := costReset, cap := 1600, capPending := false, capRaise := 0, sensors := [], inlet := 0, outlet := 0, frozen := 0, warned := 0, on := true }

/-- A Fyzil link (02 R38-R43, R51-R54). -/
structure Link where
  /-- LINKSTAT.STATE: 0 DOWN, 1 TRAINING, 2 UP, 3 DEGRADED, 4 DISABLED -/
  state : BitVec 4
  lanes : BitVec 4
  peer : BitVec 6
  trains : BitVec 4
  crcerr : BitVec 16
  retry : BitVec 16
  fecunc : BitVec 8
  nextSeq : BitVec 12
  lastSeq : BitVec 12
  replay : List Flit
  /-- how often each buffered flit has been replayed, by SEQ (02 R39) -/
  tries : Tab Nat
  /-- uncorrectable codewords in a period of 65,536 ns, and the number of that period (02 R39) -/
  uncorr : Nat
  uncorrIn : Nat
  /-- the neighbour's last TIME flit: its t_send, and NOW at its arrival -/
  lastTime : Option (Word × Word)
  missed : Nat
  /-- the delay δ of the last sample, in ns (02 R52) -/
  delay : Int
  /-- credits held at the neighbour per virtual channel, as training agrees on them (02 R44; log entry 7) -/
  credits : Tab Nat
  /-- NOW at which the training in progress began (02 R38) -/
  trainFrom : Word
  /-- flits waiting for the link, oldest first -/
  waiting : List Flit
  /-- NOW at the last progress of each virtual channel that has waiting flits -/
  since : Tab Word
  deriving DecidableEq, Repr

/-- A link before training. -/
def Link.reset : Link :=
  { state := 0, lanes := 0, peer := 0, trains := 0, crcerr := 0, retry := 0, fecunc := 0, nextSeq := 0, lastSeq := 0xFFF,
    replay := [], tries := [], uncorr := 0, uncorrIn := 0, lastTime := none, missed := 0, delay := 0, credits := [], trainFrom := 0, waiting := [], since := [] }

/-- An outstanding peer request (02 R49). -/
structure PeerReq where
  tag : BitVec 16
  cluster : BitVec 6
  slot : BitVec 6
  sent : Word
  deriving DecidableEq, Repr

/-- A peer request that waits for a translation here (02 R48; 07 R168). -/
structure PeerWait where
  id : Nat
  flit : Flit
  deriving DecidableEq, Repr

/-- Links and routing (02). -/
structure Links where
  devnum : BitVec 6
  /-- route entry of destination d: VALID in bit 7, LINK in bits 3:0 -/
  routes : Tab Byte
  routedrop : Word
  links : Tab Link
  reqs : List PeerReq
  nextTag : BitVec 12
  /-- flits sent: link and flit, newest last (output) -/
  out : List (BitVec 4 × Flit)
  /-- messages to be sent again: link, flit, NOW from which -/
  msgRetry : List (Flit × Word)
  /-- the last messages of this device by TAG, and the next TAG (02 R50; log entry 7) -/
  msgSent : Tab Flit
  msgTag : BitVec 12
  peerWaits : List PeerWait
  nextWait : Nat
  deriving DecidableEq, Repr

/-- Links after a cold reset. -/
def Links.reset : Links :=
  { devnum := 0, routes := [], routedrop := 0, links := [], reqs := [], nextTag := 0, out := [], msgRetry := [], msgSent := [], msgTag := 0, peerWaits := [], nextWait := 0 }

/-- Ownership (03 R62-R65). -/
structure Owner where
  holder : BitVec 2
  next : BitVec 2
  changes : Byte
  peerdev : BitVec 6
  /-- an open handover lapses when NOW reaches the instant -/
  handover : Option Word
  ownviol : Word
  deriving DecidableEq, Repr

/-- Ownership after a cold reset (03 R65); PEERDEV is DESIGN CHOICE 0, log entry 3. -/
def Owner.reset : Owner := { holder := 0, next := 0, changes := 0, peerdev := 0, handover := none, ownviol := 0 }

/-- The recorded outcome of a boot step (03 R74). -/
inductive BootRec where
  | notRun | passed | passedAlt | failed | skipped
  deriving DecidableEq, Repr

/-- A boot step's entry in the boot record. -/
structure BootEntry where
  outcome : BootRec
  attempts : Nat
  mask : BitVec 32
  deriving DecidableEq, Repr

/-- A step not run. -/
def BootEntry.reset : BootEntry := { outcome := .notRun, attempts := 0, mask := 0 }

/-- One copy of the boot record in flash (03 R74). -/
structure BootCopy where
  /-- its CRC-64 matches: a write that lost power in the middle leaves it false -/
  valid : Bool
  seq : Nat
  steps : Tab BootEntry
  trips : List (Word × BitVec 2)
  ensign : Nat
  deriving DecidableEq, Repr

/-- An empty boot record. -/
def BootCopy.reset : BootCopy := { valid := true, seq := 0, steps := [], trips := [], ensign := 0 }

/-- A management telemetry event (02 R55; 03 R65; 01 Table Package.5; 10 R265). -/
inductive TelEvent where
  | ownership (now : Word) (holder : BitVec 2)
  | linkDown (now : Word) (link : BitVec 4)
  | warning (now : Word) (quadrant : BitVec 2)
  | walkerRestart (now : Word) (core : BitVec 10)
  /-- boot has stopped at a step (03 R71) -/
  | bootStopped (now : Word) (step : Nat)
  deriving DecidableEq, Repr

/-- What the device returns to its host side (output): BAR reads, PLDM and SPDM answers. -/
inductive Answer where
  | data (v : Word)
  | poisoned (v : Word)
  | completerAbort
  | unsupported
  | sensor (v : Word) (now : Word)
  | pldmError
  | pldmBase
  /-- an accepted effecter, firmware or boot-mark command (03 R66) -/
  | pldmOk
  | refused
  | measurement (index : Nat)
  | spdmError
  deriving DecidableEq, Repr

/-- The telemetry sample shown (03 R67, Table Host.8): offset from 0x0_3000 and value. -/
abbrev Telemetry := Tab Word

/-- A host access through BAR 4 that waits for a translation (03 R60). -/
structure HostWait where
  id : Nat
  fn : BitVec 4
  va : Word
  size : Nat
  write : Bool
  data : Word
  deriving DecidableEq, Repr

/-- How the host link has trained (03 R56, Table Host.1): generation 4 to 7, lanes 16, 8 or 4, and FLIT mode. -/
structure HostLink where
  gen : Nat
  width : Nat
  flit : Bool
  deriving DecidableEq, Repr

/-- A vector of an MSI-X table (03 R58): address, data and mask bit. -/
structure MsixVec where
  addr : Word
  data : Half
  masked : Bool
  deriving DecidableEq, Repr

/-- A vector that nothing has programmed (DESIGN CHOICE, log entry 3: not masked). -/
def MsixVec.reset : MsixVec := { addr := 0, data := 0, masked := false }

/-- The management unit and the host side (03). -/
structure Mgmt where
  copyA : BootCopy
  copyB : BootCopy
  /-- next boot step 1-9; 10 when the device is ready -/
  bootStep : Nat
  /-- the step in progress runs in its alternate form -/
  alt : Bool
  stopped : Bool
  /-- a warm boot, which skips the kept steps -/
  warm : Bool
  /-- a mandatory step has failed in its usual form: the module is reset by this instant (03 R72) -/
  failReset : Option Word
  /-- per image kind: the active bank (false A), and a verified other bank that becomes active at the next reset (03 R76) -/
  bank : Tab Bool
  nextBank : Tab (Option Bool)
  /-- per image kind: the bank that this boot runs (03 R76) -/
  running : Tab Bool
  /-- the LPDDR 6 channels that this boot leaves out of the physical map (03 R72, R73) -/
  lpddrOut : BitVec 32
  hostLink : Option HostLink
  aliasUsed : Nat
  aliasMade : Bool
  tel : Telemetry
  telEvents : List TelEvent
  /-- MSI-X messages sent: function and vector, newest last -/
  msix : List (BitVec 4 × BitVec 16)
  /-- functions whose MSI-X table is programmed -/
  msixOn : BitVec 16
  /-- the MSI-X tables: vector v of function n under 512 × n + v (03 R58) -/
  msixTab : Tab MsixVec
  /-- messages held back by a mask bit, oldest first -/
  msixPend : List (BitVec 4 × BitVec 16)
  /-- log2 of the bytes of the PF's BAR 4 (03 R58, Table Host.2) -/
  barLog : Nat
  answers : List (Nat × Answer)
  nextAnswer : Nat
  hostWaits : List HostWait
  /-- corrected and uncorrectable counts per quadrant (03 Table Host.8) -/
  eccC : Tab Word
  eccU : Tab Word
  deriving DecidableEq, Repr

/-- The management unit after a cold reset: boot begins at step 1 (03 R71), and the boot record is empty (DESIGN CHOICE, log
entry 3). Until the first sample the sensors and telemetry registers of 03 R67 read 0 (DESIGN CHOICE, log entry 104). -/
def Mgmt.reset : Mgmt :=
  { copyA := .reset, copyB := .reset, bootStep := 1, alt := false, stopped := false, warm := false, failReset := none, bank := [],
    nextBank := [], running := [], lpddrOut := 0, hostLink := none, aliasUsed := 0, aliasMade := false, tel := [], telEvents := [], msix := [], msixOn := BitVec.allOnes 16, msixTab := [], msixPend := [], barLog := 34, answers := [],
    nextAnswer := 0, hostWaits := [], eccC := [], eccU := [] }

/-- A quadrant's trace ring (03 R69, R70, Table Host.8). -/
structure TraceQ where
  base : BitVec 52
  en : Bool
  stop : Bool
  size : BitVec 5
  head : Word
  lost : Word
  /-- bytes of records in the ring that have not been overwritten, up to its size -/
  used : Nat
  /-- next SEQ of each SOURCE -/
  seq : Tab (BitVec 32)
  deriving DecidableEq, Repr

/-- A trace ring after a cold reset. -/
def TraceQ.reset : TraceQ := { base := 0, en := false, stop := false, size := 16, head := 0, lost := 0, used := 0, seq := [] }

end Sys2Proof.Machine
end

