-- ==== Sys2Proof/Machine/State.lean ====
section
/-! DEFINITION. The state of the machine, its reasons to stop, and the state after a cold reset. -/

namespace Sys2Proof.Machine

/-- Why the machine stops. No rule of the spec stops the device: every trap, refusal and error it describes is a next
state. -/
inductive Fault where
  /-- A slot operation was executed for a core number that names no gang member able to issue it. Reserved: nothing raises
  it, which is safe. -/
  | noAgent
  deriving DecidableEq, Repr

/-- Why the model gives no meaning. -/
inductive Refusal where
  /-- The instruction has no meaning yet: raised by an arm of Dispatch, safe. -/
  | notModelled (mnemonic : String)
  deriving DecidableEq, Repr

/-- Who performs a slot operation (08 R183): the primary of a core, or a barrel thread of it. -/
inductive Agent where
  | prim (core : BitVec 10)
  | thread (core : BitVec 10) (t : BitVec 3)
  deriving DecidableEq, Repr

/-- What surrounds the operation being performed: its agent and slot, and for a primary its bundle's header index, literals,
scope, forwarded outcome and metadata word, the slots that meet the trap being raised, the bundle's next word, and whether
the operation is performed again after its issue, then with the operands it read, its tick and its cycle of issue; the guidon's
tick of issue and c.status as it stood then; for a barrel thread its residue class. -/
structure Cur where
  agent : Agent
  slot : Slot
  pc : BitVec 16
  lits : List Half
  scope : BitVec 3
  cout : Option COut
  mword : Option (BitVec 34)
  mask : BitVec 8
  next : BitVec 16
  retry : Bool
  opA : Word
  opB : Word
  born : Nat
  issued : Nat
  gborn : Nat
  status : Word
  cls : Nat
  /-- the operation belongs to the bundle that is being issued -/
  inBundle : Bool
  deriving DecidableEq, Repr

/-- No operation: core 0's primary, slot S0, nothing around it. -/
def Cur.reset : Cur :=
  { agent := .prim 0, slot := .s0, pc := 0, lits := [], scope := 0, cout := none, mword := none, mask := 0, next := 0,
    retry := false, opA := 0, opB := 0, born := 0, issued := 0, gborn := 0, status := 0, cls := 0, inBundle := false }

/-- What the current cycle still has to do. -/
inductive Task where
  /-- a device event with its data -/
  | event (i : Instr) (a : EvArg)
  /-- the events that the cycle brings by itself -/
  | due
  /-- decide the freezes of the cycle and queue the cores -/
  | settle
  /-- name the freezes, with the cores whose accesses are late, and queue the cores -/
  | go (late : List (BitVec 10))
  /-- a core's primary issues, or goes on with its bundle -/
  | issue (core : BitVec 10)
  /-- a primary E operation that waited is performed again -/
  | retry (core : BitVec 10)
  /-- a core's threads that wait inside an operation perform it again -/
  | threads (core : BitVec 10)
  /-- a slot class of a core is offered to its barrel -/
  | offer (core : BitVec 10) (cls : Nat)
  /-- an operation of a core's service thread has run (10 R264) -/
  | rest (core : BitVec 10)
  /-- the cycle ends: what wakes cores is noted, and gating that is due commits (01 R28) -/
  | close
  deriving DecidableEq, Repr

/-- The machine. freeCount, inbox, agenda, cur and ev are the model's own. -/
structure State where
  time : TimeBase
  power : Power
  links : Links
  owner : Owner
  mgmt : Mgmt
  trace : Tab TraceQ
  sched : Sched
  mem : Mem
  clusters : Tab Cluster
  cores : Tab Core
  /-- draws of free values: Config.freeWord and Config.freeBit are applied to it (log entry 1) -/
  freeCount : Nat
  /-- inputs from outside not yet taken -/
  inbox : List (Instr × EvArg)
  agenda : List Task
  cur : Cur
  ev : EvArg
  deriving DecidableEq, Repr

/-- The machine right after a cold reset: the token period of CYCLE 0 begins (01 R17). -/
def State.reset : State :=
  { time := .reset, power := .reset, links := .reset, owner := .reset, mgmt := .reset, trace := [], sched := .reset,
    mem := .reset, clusters := [], cores := [], freeCount := 0, inbox := [], agenda := [.event .tokenPeriodStart {}], cur := .reset, ev := {} }

end Sys2Proof.Machine
end

