-- ==== Sys2Proof/Machine/Bits.lean ====
section
/-! DEFINITION. Bit-field, sign-extension, lane and byte-order helpers (00 R5, Table Scope.3; 15 R357). -/

namespace Sys2Proof.Machine

/-- SXT(x, n): bits [n-1:0] of x, sign-extended to 64 bits (00 Table Scope.3). -/
def sxtN (x : Word) (n : Nat) : Word := (x.setWidth n).signExtend 64

/-- ZXT(x, n): bits [n-1:0] of x, zero-extended to 64 bits. -/
def zxtN (x : Word) (n : Nat) : Word := (x.setWidth n).setWidth 64

/-- W(x) of an integer: x mod 2^64 (15 R357). -/
def wrap (x : Int) : Word := BitVec.ofInt 64 x

/-- A 64-bit register holding a 1-bit answer. -/
def ofFlag (b : Bool) : Word := if b then 1 else 0

/-- SAT(x, lo, hi) (00 Table Scope.3). -/
def satInt (x lo hi : Int) : Int := if x < lo then lo else if x > hi then hi else x

/-- Little-endian value of a list of bytes (00 R5). -/
def leNat : List Byte → Nat
  | [] => 0
  | b :: r => b.toNat + 256 * leNat r

/-- The first n bytes of v, lowest first (00 R5). -/
def leBytes : Nat → Nat → List Byte
  | 0, _ => []
  | n + 1, v => BitVec.ofNat 8 v :: leBytes n (v / 256)

/-- Lane i of a vector: bits [32i + 31 : 32i] (17 R406). -/
def laneOf (v : Lanes) (i : Nat) : Half := v.extractLsb' (32 * i) 32

/-- The vector whose lane i is f i, for i below n. -/
def lanesFrom (f : Nat → Half) : Nat → Nat
  | 0 => 0
  | n + 1 => lanesFrom f n + (f n).toNat * 2 ^ (32 * n)

/-- The vector whose lane i is f i. -/
def ofLanes (f : Nat → Half) : Lanes := BitVec.ofNat 2048 (lanesFrom f 64)

/-- The 64-bit mask whose bit i is f i, for i below n. -/
def maskFrom (f : Nat → Bool) : Nat → Nat
  | 0 => 0
  | n + 1 => maskFrom f n + if f n then 2 ^ n else 0

/-- The 64-bit mask whose bit i is f i. -/
def ofMask (f : Nat → Bool) : Word := BitVec.ofNat 64 (maskFrom f 64)

/-- The number of i below n for which f holds. -/
def countTrue (f : Nat → Bool) : Nat → Nat
  | 0 => 0
  | n + 1 => countTrue f n + if f n then 1 else 0

/-- One bits of x (15 Table Ctl.2 POPC). -/
def popcount {w : Nat} (x : BitVec w) : Nat := countTrue (fun i => x.getLsbD i) w

/-- The first i in the list with p i. -/
def firstTrue (p : Nat → Bool) : List Nat → Option Nat
  | [] => none
  | i :: r => if p i then some i else firstTrue p r

/-- Trailing zero bits of a 64-bit x; 64 for 0 (15 Table Ctl.2 CTZ). -/
def trailingZeros (x : Word) : Nat := (firstTrue (fun i => x.getLsbD i) (List.range 64)).getD 64

/-- Leading zero bits of x; 64 for 0 (15 Table Ctl.2 CLZ). -/
def leadingZeros (x : Word) : Nat := (firstTrue (fun i => x.getLsbD (63 - i)) (List.range 64)).getD 64

/-- Bit i moved to bit 63 - i (15 Table Ctl.2 BREV). -/
def bitReverse (x : Word) : Word := ofMask (fun i => x.getLsbD (63 - i))

/-- ceil(a / b). -/
def ceilDiv (a b : Nat) : Nat := (a + b - 1) / b

/-- The set bits of a mask below n, ascending (00 R3). -/
def setBits {w : Nat} (m : BitVec w) (n : Nat) : List Nat := (List.range n).filter (fun i => m.getLsbD i)

/-- A register value with bits [hi:lo] replaced by v. -/
def putField {w : Nat} (x : BitVec w) (lo len : Nat) (v : Nat) : BitVec w :=
  BitVec.ofNat w (x.toNat % 2 ^ lo + (v % 2 ^ len) * 2 ^ lo + (x.toNat / 2 ^ (lo + len)) * 2 ^ (lo + len))

/-- Bits [lo + len - 1 : lo] of x as a number. -/
def fieldOf {w : Nat} (x : BitVec w) (lo len : Nat) : Nat := x.toNat / 2 ^ lo % 2 ^ len

/-- One more, saturating at the width's largest value (04 Table Command.2: counters saturate). -/
def satInc {w : Nat} (x : BitVec w) : BitVec w := if x = BitVec.allOnes w then x else x + 1

/-- Replace the elements for which p holds. -/
def mapIf {α : Type} (p : α → Bool) (f : α → α) (l : List α) : List α := l.map (fun a => if p a then f a else a)

/-- Split a list into chunks of n, m of them. -/
def chunks {α : Type} (n : Nat) : Nat → List α → List (List α)
  | 0, _ => []
  | m + 1, l => l.take n :: chunks n m (l.drop n)

end Sys2Proof.Machine
end

