-- ==== Sys2Proof/Machine/Float.lean ====
section
/-! DEFINITION. Floating formats, exact values and their one rounding (spec 12). Flags are the five bits of c.vflags: 16 NV,
8 DZ, 4 OF, 2 UF, 1 NX (12 Table Formats.8). -/

namespace Sys2Proof.Machine

/-- A floating format: exponent and mantissa bits, bias, largest finite magnitude, whether it has infinities and NaNs
(12 Table Formats.3, Table Formats.6). -/
structure Fmt where
  e : Nat
  m : Nat
  bias : Nat
  maxf : Nat
  hasInf : Bool
  nan : Option Nat
  deriving DecidableEq, Repr

/-- E2M1. -/
def fmtF4 : Fmt := ⟨2, 1, 1, 0x7, false, none⟩
/-- E2M3. -/
def fmtF6A : Fmt := ⟨2, 3, 1, 0x1F, false, none⟩
/-- E3M2. -/
def fmtF6B : Fmt := ⟨3, 2, 3, 0x1F, false, none⟩
/-- E4M3: no infinity, one NaN magnitude. -/
def fmtF8A : Fmt := ⟨4, 3, 7, 0x7E, false, some 0x7F⟩
/-- E5M2. -/
def fmtF8B : Fmt := ⟨5, 2, 15, 0x7B, true, some 0x7E⟩
/-- E8M7. -/
def fmtBF16 : Fmt := ⟨8, 7, 127, 0x7F7F, true, some 0x7FC0⟩
/-- binary16. -/
def fmtF16 : Fmt := ⟨5, 10, 15, 0x7BFF, true, some 0x7E00⟩
/-- binary32. -/
def fmtF32 : Fmt := ⟨8, 23, 127, 0x7F7FFFFF, true, some 0x7FC00000⟩

/-- Bits of an element. -/
def Fmt.width (f : Fmt) : Nat := 1 + f.e + f.m
/-- The sign bit's weight. -/
def Fmt.signBit (f : Fmt) : Nat := 2 ^ (f.e + f.m)
/-- The magnitude of infinity. -/
def Fmt.infBits (f : Fmt) : Nat := (2 ^ f.e - 1) * 2 ^ f.m
/-- NAN(f): the canonical NaN, +0 in a format that has none (12 R307, Table Formats.6). -/
def Fmt.nanBits (f : Fmt) : Nat := f.nan.getD 0
/-- Exponent of the subnormal grid: 1 - bias - M (12 R297). -/
def Fmt.grid (f : Fmt) : Int := 1 - (f.bias : Int) - (f.m : Int)

/-- An element's value: a finite one is num × 2^exp with a sign (12 R297). -/
inductive FVal where
  | nan (signalling : Bool)
  | inf (neg : Bool)
  | fin (neg : Bool) (num : Nat) (exp : Int)
  deriving DecidableEq, Repr

/-- The value of stored bits (12 R297, R310, Table Formats.3). -/
def decodeF (f : Fmt) (bits : Nat) : FVal :=
  let neg := bits / f.signBit % 2 = 1
  let e := bits / 2 ^ f.m % 2 ^ f.e
  let m := bits % 2 ^ f.m
  if f.hasInf && e = 2 ^ f.e - 1 then
    (if m = 0 then .inf neg else .nan (m < 2 ^ (f.m - 1)))
  else if f.nan.isSome && !f.hasInf && e = 2 ^ f.e - 1 && m = 2 ^ f.m - 1 then .nan false
  else if e = 0 then .fin neg m f.grid
  else .fin neg (m + 2 ^ f.m) (f.grid + (e : Int) - 1)

/-- Is it a NaN? -/
def FVal.isNan : FVal → Bool
  | .nan _ => true
  | _ => false

/-- Is it a signalling NaN? -/
def FVal.isSnan : FVal → Bool
  | .nan b => b
  | _ => false

/-- The sign of a number. -/
def FVal.neg : FVal → Bool
  | .nan _ => false
  | .inf n => n
  | .fin n _ _ => n

/-- NV. -/
def flNV : BitVec 5 := 16
/-- DZ. -/
def flDZ : BitVec 5 := 8
/-- OF. -/
def flOF : BitVec 5 := 4
/-- UF. -/
def flUF : BitVec 5 := 2
/-- NX. -/
def flNX : BitVec 5 := 1

/-- Floor of log2 of p / q, for p and q above 0. -/
def ratLog2 (p q : Nat) : Int :=
  let l : Int := (Nat.log2 p : Int) - (Nat.log2 q : Int)
  let below := if l ≥ 0 then p < q * 2 ^ l.toNat else p * 2 ^ (-l).toNat < q
  if below then l - 1 else l

/-- Round p / q to an integer by mode, for a value with sign neg: the integer and whether it is inexact. -/
def roundNat (mode : Rnd) (neg : Bool) (p q : Nat) : Nat × Bool :=
  let n := p / q
  let r := p % q
  let up := match mode with
    | .rne => 2 * r > q || (2 * r = q && n % 2 = 1)
    | .rtz => false
    | .rup => !neg && r ≠ 0
    | .rdn => neg && r ≠ 0
  (if up then n + 1 else n, r ≠ 0)

/-- p / q × 2^e as a fraction. -/
def scaleRat (p q : Nat) (e : Int) : Nat × Nat := if e ≥ 0 then (p * 2 ^ e.toNat, q) else (p, q * 2 ^ (-e).toNat)

/-- Round the positive p / q × 2^e to f's precision and subnormal grid, unbounded above: the magnitude's bits as if the exponent
field went on, whether it is inexact, and whether it is tiny after rounding (12 R307, R311). -/
def roundMag (f : Fmt) (mode : Rnd) (neg : Bool) (p q : Nat) (e : Int) : Nat × Bool × Bool :=
  let l := ratLog2 p q + e
  let u := max (l - f.m) f.grid
  let fr := scaleRat p q (e - u)
  let g := roundNat mode neg fr.1 fr.2
  let fr2 := scaleRat p q (e - (l - f.m))
  let g2 := roundNat mode neg fr2.1 fr2.2
  (g.1 + (u - f.grid).toNat * 2 ^ f.m, g.2, l - f.m + (if g2.1 = 2 ^ (f.m + 1) then 1 else 0) < f.grid)

/-- Bits with a sign. -/
def Fmt.withSign (f : Fmt) (neg : Bool) (mag : Nat) : Nat := mag + if neg then f.signBit else 0

/-- Is overflow sent toward zero by mode (12 Table Formats.7)? -/
def towardZero (mode : Rnd) (neg : Bool) : Bool :=
  match mode with
  | .rne => false
  | .rtz => true
  | .rup => neg
  | .rdn => !neg

/-- Magnitude of an overflow (12 Table Formats.7; R307 for a format without infinity). -/
def overflowMag (f : Fmt) (mode : Rnd) (neg sat : Bool) : Nat :=
  if sat || towardZero mode neg then f.maxf
  else if f.hasInf then f.infBits
  else match f.nan with
    | some n => n
    | none => f.maxf

/-- A result is bits and flags. -/
abbrev FRes2 := Nat × BitVec 5

/-- The canonical NaN with NV (12 R310). -/
def nanNV (f : Fmt) : FRes2 := (f.nanBits, flNV)

/-- Round a positive exact value once into f with its flags (12 R309, R311). -/
def packRat (f : Fmt) (mode : Rnd) (neg : Bool) (p q : Nat) (e : Int) : FRes2 :=
  let r := roundMag f mode neg p q e
  if r.1 > f.maxf then
    let mag := overflowMag f mode neg false
    (if mag = f.nanBits && !f.hasInf && f.nan.isSome then mag else f.withSign neg mag, flOF ||| flNX)
  else (f.withSign neg r.1, (if r.2.1 then flNX else 0) ||| (if r.2.1 && r.2.2 then flUF else 0))

/-- Round an exact dyadic value num × 2^exp, num ≠ 0. -/
def packDyadic (f : Fmt) (mode : Rnd) (num : Int) (exp : Int) : FRes2 := packRat f mode (num < 0) num.natAbs 1 exp

/-- A zero with a sign. -/
def zeroBits (f : Fmt) (neg : Bool) : Nat := f.withSign neg 0

/-- The signed numerator of a finite value. -/
def sgn (neg : Bool) (n : Nat) : Int := if neg then -(n : Int) else (n : Int)

/-- The exact sum of two dyadic values. -/
def dyAdd (n1 : Int) (e1 : Int) (n2 : Int) (e2 : Int) : Int × Int :=
  if e1 ≤ e2 then (n1 + n2 * 2 ^ (e2 - e1).toNat, e1) else (n1 * 2 ^ (e1 - e2).toNat + n2, e2)

/-- NV of a signalling operand. -/
def snanFlag (l : List FVal) : BitVec 5 := if l.any FVal.isSnan then flNV else 0

/-- x + y of values, rounded once (12 R309). -/
def addVal (f : Fmt) (mode : Rnd) (x y : FVal) : FRes2 :=
  match x, y with
  | .nan _, _ => (f.nanBits, snanFlag [x, y])
  | _, .nan _ => (f.nanBits, snanFlag [x, y])
  | .inf a, .inf b => if a = b then (f.withSign a f.infBits, 0) else nanNV f
  | .inf a, _ => (f.withSign a f.infBits, 0)
  | _, .inf b => (f.withSign b f.infBits, 0)
  | .fin a n d, .fin b m e =>
    let r := dyAdd (sgn a n) d (sgn b m) e
    if r.1 = 0 then (zeroBits f (if a = b then a else mode = .rdn), 0) else packDyadic f mode r.1 r.2

/-- The negated value. -/
def FVal.negate : FVal → FVal
  | .nan b => .nan b
  | .inf n => .inf (!n)
  | .fin n a e => .fin (!n) a e

/-- x × y exactly, as a value; NaN for 0 × infinity. -/
def mulExact (x y : FVal) : FVal :=
  match x, y with
  | .nan b, .nan c => .nan (b || c)
  | .nan b, _ => .nan b
  | _, .nan c => .nan c
  | .inf a, .inf b => .inf (a ≠ b)
  | .inf a, .fin b n _ => if n = 0 then .nan true else .inf (a ≠ b)
  | .fin a n _, .inf b => if n = 0 then .nan true else .inf (a ≠ b)
  | .fin a n d, .fin b m e => .fin (a ≠ b) (n * m) (d + e)

/-- An exact value rounded once. -/
def packVal (f : Fmt) (mode : Rnd) (x : FVal) : FRes2 :=
  match x with
  | .nan s => (f.nanBits, if s then flNV else 0)
  | .inf n => (f.withSign n f.infBits, 0)
  | .fin neg n e => if n = 0 then (zeroBits f neg, 0) else packRat f mode neg n 1 e

/-- x + y. -/
def fAdd (f : Fmt) (mode : Rnd) (x y : Nat) : FRes2 := addVal f mode (decodeF f x) (decodeF f y)

/-- x - y. -/
def fSub (f : Fmt) (mode : Rnd) (x y : Nat) : FRes2 := addVal f mode (decodeF f x) (decodeF f y).negate

/-- x × y. -/
def fMul (f : Fmt) (mode : Rnd) (x y : Nat) : FRes2 := packVal f mode (mulExact (decodeF f x) (decodeF f y))

/-- ± x × y + z with one rounding (12 R309). -/
def fFma (f : Fmt) (mode : Rnd) (negProduct : Bool) (x y z : Nat) : FRes2 :=
  let p := mulExact (decodeF f x) (decodeF f y)
  let p := if negProduct then p.negate else p
  let r := addVal f mode p (decodeF f z)
  (r.1, r.2 ||| snanFlag [p, decodeF f z])

/-- Compare finite or infinite values: negative, zero or positive as x < y, x = y, x > y; both zeros are equal. -/
def cmpVal (x y : FVal) : Int :=
  match x, y with
  | .inf a, .inf b => (if a = b then 0 else if a then -1 else 1)
  | .inf a, _ => if a then -1 else 1
  | _, .inf b => if b then 1 else -1
  | .fin a n d, .fin b m e => (dyAdd (sgn a n) d (sgn (!b) m) e).1
  | _, _ => 0

/-- FMIN or FMAX: the other operand of one NaN; -0 below +0 (12 R310). -/
def fMinMax (f : Fmt) (isMax : Bool) (x y : Nat) : FRes2 :=
  let a := decodeF f x
  let b := decodeF f y
  let fl := snanFlag [a, b]
  if a.isNan && b.isNan then (f.nanBits, fl)
  else if a.isNan then (y, fl)
  else if b.isNan then (x, fl)
  else
    let c := cmpVal a b
    let less := c < 0 || (c = 0 && a.neg && !b.neg)
    (if isMax then (if less then y else x) else (if less then x else y), fl)

/-- A floating compare by condition eq, ne, lt, le (12 R310; 15 R367). -/
def fCmp (f : Fmt) (cc : Cond) (x y : Nat) : Bool × BitVec 5 :=
  let a := decodeF f x
  let b := decodeF f y
  if a.isNan || b.isNan then
    (cc = .c1, match cc with
      | .c0 => snanFlag [a, b]
      | .c1 => snanFlag [a, b]
      | .c2 => flNV
      | .c3 => flNV)
  else
    let c := cmpVal a b
    (match cc with
     | .c0 => c = 0
     | .c1 => c ≠ 0
     | .c2 => c < 0
     | .c3 => c ≤ 0, 0)

/-- An integer to f (12 R314; 15 R368). -/
def fOfInt (f : Fmt) (mode : Rnd) (n : Int) : FRes2 := if n = 0 then (0, 0) else packDyadic f mode n 0

/-- f to an integer in [lo, hi]: the nearest bound with NV out of range, 0 with NV for a NaN, NX when inexact in range
(12 R314; 15 Table Ctl.5). -/
def fToInt (f : Fmt) (mode : Rnd) (lo hi : Int) (x : Nat) : Int × BitVec 5 :=
  match decodeF f x with
  | .nan _ => (0, flNV)
  | .inf n => (if n then lo else hi, flNV)
  | .fin neg n e =>
    let fr := scaleRat n 1 e
    let r := roundNat mode neg fr.1 fr.2
    let v := sgn neg r.1
    if v < lo then (lo, flNV) else if v > hi then (hi, flNV) else (v, if r.2 then flNX else 0)

/-- CVTF of a value to format f with its range event (12 R307): bits, range event, and the flags NX, UF and NV that a vector
operation sets beside it. -/
def cvtVal (f : Fmt) (mode : Rnd) (sat : Bool) (x : FVal) : Nat × Bool × BitVec 5 :=
  match x with
  | .nan s => (f.nanBits, f.nan.isNone, if s then flNV else 0)
  | .inf n =>
    if !sat && f.hasInf then (f.withSign n f.infBits, false, 0)
    else if !sat && f.nan.isSome then (f.nanBits, true, 0)
    else (f.withSign n f.maxf, true, 0)
  | .fin neg n e =>
    if n = 0 then (zeroBits f neg, false, 0)
    else
      let r := roundMag f mode neg n 1 e
      if r.1 > f.maxf then
        let mag := overflowMag f mode neg sat
        (if !f.hasInf && f.nan = some mag then mag else f.withSign neg mag, true, 0)
      else (f.withSign neg r.1, false, (if r.2.1 then flNX else 0) ||| (if r.2.1 && r.2.2 then flUF else 0))

/-- The flags of a conversion by a vector operation: a range event is OF with NX (12 R307). -/
def cvtFlags (r : Nat × Bool × BitVec 5) : BitVec 5 := r.2.2 ||| if r.2.1 then flOF ||| flNX else 0

/-! ### Roots, reciprocals, exponential and logarithm, correctly rounded (12 R312) -/

/-- Integer square root of n, bit by bit from bit k - 1. -/
def isqrtFrom (n : Nat) : Nat → Nat → Nat
  | 0, r => r
  | k + 1, r => isqrtFrom n k (if (r + 2 ^ k) * (r + 2 ^ k) ≤ n then r + 2 ^ k else r)

/-- The square root of p / q × 2^(2e), p and q above 0, as a fraction whose rounding to at most 60 bits is that of the root:
the truncated root with a half unit added when it is inexact. -/
def rootRat (p q : Nat) : Nat × Nat × Int :=
  -- p / q scaled so that its root has at least 70 bits
  let k := (200 + Nat.log2 q - Nat.log2 p) / 2
  let n := p * 4 ^ k / q
  let r := isqrtFrom n (Nat.log2 n / 2 + 1) 0
  let exact := r * r * q = p * 4 ^ k
  (2 * r + (if exact then 0 else 1), 2 ^ (k + 1), 0)

/-- Write an exponent as twice a number plus 0 or 1. -/
def halveExp (e : Int) : Int × Nat := (e / 2, (e % 2).toNat)

/-- √x (12 Table Formats.9). -/
def fSqrt (mode : Rnd) (x : Nat) : FRes2 :=
  match decodeF fmtF32 x with
  | .nan s => (fmtF32.nanBits, if s then flNV else 0)
  | .inf n => if n then nanNV fmtF32 else (x, 0)
  | .fin neg n e =>
    if n = 0 then (x, 0)
    else if neg then nanNV fmtF32
    else
      let h := halveExp e
      let r := rootRat (n * 2 ^ h.2) 1
      packRat fmtF32 mode false r.1 r.2.1 h.1

/-- 1 / √x. -/
def fRsq (mode : Rnd) (x : Nat) : FRes2 :=
  match decodeF fmtF32 x with
  | .nan s => (fmtF32.nanBits, if s then flNV else 0)
  | .inf n => if n then nanNV fmtF32 else (0, 0)
  | .fin neg n e =>
    if n = 0 then (fmtF32.withSign neg fmtF32.infBits, flDZ)
    else if neg then nanNV fmtF32
    else
      let h := halveExp e
      let r := rootRat 1 (n * 2 ^ h.2)
      packRat fmtF32 mode false r.1 r.2.1 (-h.1)

/-- 1 / x. -/
def fRcp (mode : Rnd) (x : Nat) : FRes2 :=
  match decodeF fmtF32 x with
  | .nan s => (fmtF32.nanBits, if s then flNV else 0)
  | .inf n => (zeroBits fmtF32 n, 0)
  | .fin neg n e =>
    if n = 0 then (fmtF32.withSign neg fmtF32.infBits, flDZ) else packRat fmtF32 mode neg 1 n (-e)

/-- 2^320, the unit of the fixed-point values below: their error stays under 2^-300, far below the distance of any binary32
exponential or logarithm from a rounding boundary. -/
def fxUnit : Nat := 2 ^ 320

/-- The sum of 1 / (k 2^k) for k = 1 .. n in units of fxUnit: ln 2. -/
def ln2Sum : Nat → Nat
  | 0 => 0
  | n + 1 => ln2Sum n + fxUnit / ((n + 1) * 2 ^ (n + 1))

/-- ln 2 in units of fxUnit. -/
def ln2Fx : Nat := ln2Sum 320

/-- The Taylor sum of e^y: term × (1 + y/(k+1) (1 + ...)) with n terms left. -/
def expSum (y : Nat) : Nat → Nat → Nat → Nat
  | 0, _, _ => 0
  | n + 1, k, term => term + expSum y n (k + 1) (term * y / fxUnit / (k + 1))

/-- The sum of z^(2k+1) / (2k+1) from power p = z^(2k+1), with n terms left. -/
def atanhSum (z2 : Nat) : Nat → Nat → Nat → Nat
  | 0, _, _ => 0
  | n + 1, k, p => p / (2 * k + 1) + atanhSum z2 n (k + 1) (p * z2 / fxUnit)

/-- 2^x (12 Table Formats.9). A magnitude of 2^9 or more over- or underflows whatever its fraction. -/
def fExp2 (mode : Rnd) (x : Nat) : FRes2 :=
  match decodeF fmtF32 x with
  | .nan s => (fmtF32.nanBits, if s then flNV else 0)
  | .inf n => if n then (0, 0) else (x, 0)
  | .fin neg n e =>
    if n = 0 then (0x3F800000, 0)
    else if ratLog2 n 1 + e ≥ 9 then packRat fmtF32 mode false 1 1 (if neg then -512 else 512)
    else
      -- x in units of 2^-149, exactly
      let v := sgn neg (n * 2 ^ (e + 149).toNat)
      let i := v / 2 ^ 149
      let fr := (v % 2 ^ 149).toNat
      if fr = 0 then packRat fmtF32 mode false 1 1 i
      else packRat fmtF32 mode false (expSum (fr * ln2Fx / 2 ^ 149) 90 0 fxUnit) fxUnit i

/-- log2 x (12 Table Formats.9). -/
def fLog2 (mode : Rnd) (x : Nat) : FRes2 :=
  match decodeF fmtF32 x with
  | .nan s => (fmtF32.nanBits, if s then flNV else 0)
  | .inf n => if n then nanNV fmtF32 else (x, 0)
  | .fin neg n e =>
    if n = 0 then (fmtF32.withSign true fmtF32.infBits, flDZ)
    else if neg then nanNV fmtF32
    else
      let l := Nat.log2 n
      let i : Int := e + l
      if n = 2 ^ l then fOfInt fmtF32 mode i
      else
        let z := (n - 2 ^ l) * fxUnit / (n + 2 ^ l)
        let lnm := 2 * atanhSum (z * z / fxUnit) 110 0 z
        let v : Int := i * fxUnit + (lnm * fxUnit / ln2Fx : Nat)
        packRat fmtF32 mode (v < 0) v.natAbs fxUnit 0

end Sys2Proof.Machine
end

