-- ==== Sys2Proof/Machine/Access.lean ====
section
/-! DEFINITION. Accessors of the state, agents and scopes, release and acquire counts, race tags, windows, scratchpads and
physical memory (spec 07, 08, 09 R222, R223). -/

namespace Sys2Proof.Machine

/-! ### Accessors -/

/-- Core c. -/
def State.core (s : State) (c : BitVec 10) : Core := tabGet Core.reset s.cores c.toNat

/-- Put core c. -/
def State.setCore (s : State) (c : BitVec 10) (k : Core) : State := { s with cores := tabPut Core.reset s.cores c.toNat k }

/-- Change core c. -/
def State.mapCore (s : State) (c : BitVec 10) (f : Core → Core) : State := s.setCore c (f (s.core c))

/-- Cluster n. -/
def State.cluster (s : State) (n : BitVec 6) : Cluster := tabGet Cluster.reset s.clusters n.toNat

/-- Change cluster n. -/
def State.mapCluster (s : State) (n : BitVec 6) (f : Cluster → Cluster) : State :=
  { s with clusters := tabPut Cluster.reset s.clusters n.toNat (f (s.cluster n)) }

/-- Slice n. -/
def State.slice (s : State) (n : BitVec 8) : Slice := tabGet Slice.reset s.mem.slices n.toNat

/-- Change the memory. -/
def State.mapMem (s : State) (f : Mem → Mem) : State := { s with mem := f s.mem }

/-- Change slice n. -/
def State.mapSlice (s : State) (n : BitVec 8) (f : Slice → Slice) : State :=
  s.mapMem fun m => { m with slices := tabPut Slice.reset m.slices n.toNat (f (s.slice n)) }

/-- Change the command processor. -/
def State.mapSched (s : State) (f : Sched → Sched) : State := { s with sched := f s.sched }

/-- The registers of context n at reset: STBASE is 256 n for contexts 1-15 (04 R80). -/
def Ctx.resetOf (n : BitVec 6) : Ctx :=
  { Ctx.reset with stbase := if 1 ≤ n.toNat ∧ n.toNat ≤ 15 then BitVec.ofNat 64 (256 * n.toNat) else 0 }

/-- Context n. -/
def State.ctx (s : State) (n : BitVec 6) : Ctx := tabGet (Ctx.resetOf n) s.sched.ctxs n.toNat

/-- Change context n. -/
def State.mapCtx (s : State) (n : BitVec 6) (f : Ctx → Ctx) : State :=
  s.mapSched fun m => { m with ctxs := tabPut (Ctx.resetOf n) m.ctxs n.toNat (f (s.ctx n)) }

/-- Occurrence n, if it exists. -/
def State.occ? (s : State) (n : Nat) : Option Occ := tabGet none s.sched.occs n

/-- Put or remove occurrence n. -/
def State.setOcc (s : State) (n : Nat) (o : Option Occ) : State :=
  s.mapSched fun m => { m with occs := tabPut none m.occs n o }

/-- Change occurrence n, if it exists. -/
def State.mapOcc (s : State) (n : Nat) (f : Occ → Occ) : State := s.setOcc n ((s.occ? n).map f)

/-- Halyard h of context x: its directory entry (06 R151). -/
def State.hal (s : State) (x : BitVec 6) (h : BitVec 12) : Hal := tabGet Hal.reset s.sched.hals (4096 * x.toNat + h.toNat)

/-- Change a halyard by its directory key. -/
def State.mapHalKey (s : State) (k : Nat) (f : Hal → Hal) : State :=
  s.mapSched fun m => { m with hals := tabPut Hal.reset m.hals k (f (tabGet Hal.reset m.hals k)) }

/-- Change halyard h of context x. -/
def State.mapHal (s : State) (x : BitVec 6) (h : BitVec 12) (f : Hal → Hal) : State := s.mapHalKey (4096 * x.toNat + h.toNat) f

/-- Link n. -/
def State.link (s : State) (n : BitVec 4) : Link := tabGet Link.reset s.links.links n.toNat

/-- Change link n. -/
def State.mapLink (s : State) (n : BitVec 4) (f : Link → Link) : State :=
  { s with links := { s.links with links := tabPut Link.reset s.links.links n.toNat (f (s.link n)) } }

/-- Trace ring of quadrant q. -/
def State.traceQ (s : State) (q : BitVec 2) : TraceQ := tabGet TraceQ.reset s.trace q.toNat

/-- Change the trace ring of quadrant q. -/
def State.mapTrace (s : State) (q : BitVec 2) (f : TraceQ → TraceQ) : State :=
  { s with trace := tabPut TraceQ.reset s.trace q.toNat (f (s.traceQ q)) }

/-- Change the management unit. -/
def State.mapMgmt (s : State) (f : Mgmt → Mgmt) : State := { s with mgmt := f s.mgmt }

/-- Barrel thread t of core c. -/
def State.thread (s : State) (c : BitVec 10) (t : BitVec 3) : Thread := tabGet Thread.reset (s.core c).threads t.toNat

/-- Change barrel thread t of core c. -/
def State.mapThread (s : State) (c : BitVec 10) (t : BitVec 3) (f : Thread → Thread) : State :=
  s.mapCore c fun k => { k with threads := tabPut Thread.reset k.threads t.toNat (f (tabGet Thread.reset k.threads t.toNat)) }

/-- Events to run before anything else the agenda holds. -/
def State.pushEvents (s : State) (l : List (Instr × EvArg)) : State :=
  { s with agenda := l.map (fun e => .event e.1 e.2) ++ s.agenda }

/-- CYCLE as a number. -/
def State.cycle (s : State) : Nat := s.time.cycle.toNat

/-- NOW as a number. -/
def State.now (s : State) : Nat := s.time.now.toNat

/-! ### Numbers of cores, clusters and quadrants (00 R2) -/

/-- Global cluster of a core. -/
def clusterOf (c : BitVec 10) : BitVec 6 := c.extractLsb' 4 6

/-- Core number within the cluster. -/
def memberOf (c : BitVec 10) : BitVec 4 := c.extractLsb' 0 4

/-- Quadrant of a core. -/
def quadOf (c : BitVec 10) : BitVec 2 := c.extractLsb' 8 2

/-- Global core of core k of cluster n. -/
def coreAt (n : BitVec 6) (k : BitVec 4) : BitVec 10 := n ++ k

/-- Quadrant of a cluster. -/
def quadOfCluster (n : BitVec 6) : BitVec 2 := n.extractLsb' 4 2

/-- The cores of a launch: every core of CORES in every cluster of CLUSTERS, ascending (05 R101). -/
def coresOf (clusters : Word) (cores : BitVec 16) : List (BitVec 10) :=
  (setBits clusters 64).flatMap fun n => (setBits cores 16).map fun k => BitVec.ofNat 10 (16 * n + k)

/-- The cores of an occurrence. -/
def Occ.coreList (o : Occ) : List (BitVec 10) := coresOf o.clusters o.cores

/-- The members of core c's gang, ascending: c alone outside a launch (05 R102). -/
def gangOf (s : State) (c : BitVec 10) : List (BitVec 10) :=
  let k := s.core c
  if k.gangSize = 0 then [c] else (List.range (2 ^ k.gangSize)).map fun r => BitVec.ofNat 10 (k.guidon.toNat + r)

/-- Whether core c is the guidon of its gang. A core outside a launch is its own guidon. -/
def isGuidon (s : State) (c : BitVec 10) : Bool := (s.core c).rank = 0

/-- The guidon of core c. -/
def guidonOf (s : State) (c : BitVec 10) : BitVec 10 := if isGuidon s c then c else (s.core c).guidon

/-- The context whose launch runs on core c; 0 without one. -/
def ctxOfCore (s : State) (c : BitVec 10) : BitVec 6 :=
  match (s.core c).occ.bind s.occ? with
  | some o => o.ctx
  | none => 0

/-! ### Free values (log entry 1) -/

/-- A value the spec leaves undefined, drawn now, for the thing that code names. -/
def State.free (s : State) (code : Nat) : Lanes := Config.freeWord s.freeCount code

/-- A choice the spec leaves to the machine. -/
def State.freeChoice (s : State) (code : Nat) : Bool := Config.freeBit s.freeCount code

/-! ### Agents (08 R183, R184, R198) -/

/-- The agent of the operation being performed. -/
def Agent.ag : Agent → Ag
  | .prim c => .prim c
  | .thread c t => .thread c (t.setWidth 4)

/-- The core of an agent of a core. -/
def Agent.core : Agent → BitVec 10
  | .prim c => c
  | .thread c _ => c

/-- The core an agent is located on. -/
def Ag.core? : Ag → Option (BitVec 10)
  | .prim c => some c
  | .thread c _ => some c
  | _ => none

/-- The cluster an agent is located in. -/
def Ag.cluster? : Ag → Option (BitVec 6)
  | .prim c => some (clusterOf c)
  | .thread c _ => some (clusterOf c)
  | .job n _ => some n
  | .halyard n => some n
  | .queue n => some n
  | .host => none
  | .peer => none

/-- A number for each agent. -/
def Ag.key : Ag → Nat
  | .prim c => c.toNat
  | .thread c t => 1024 + 16 * c.toNat + t.toNat
  | .job n j => 0x8000 + 64 * n.toNat + j.toNat
  | .halyard n => 0x10000 + n.toNat
  | .queue n => 0x10040 + n.toNat
  | .host => 0x10080
  | .peer => 0x10081

/-- Agent code of a located agent in its own cluster (08 Table Model.3). -/
def Ag.code : Ag → Byte
  | .prim c => BitVec.ofNat 8 (0x80 + (memberOf c).toNat)
  | .thread c t => BitVec.ofNat 8 (8 * (memberOf c).toNat + t.toNat)
  | .job _ j => BitVec.ofNat 8 (0x90 + j.toNat)
  | .halyard _ => 0xD0
  | .queue _ => 0xD1
  | .host => 0xFE
  | .peer => 0xFE

/-- Agent code as seen in cluster n: 0xFE for a foreign agent (08 Table Model.3). -/
def Ag.codeIn (a : Ag) (n : BitVec 6) : Byte := if a.cluster? = some n then a.code else 0xFE

/-- Scope at which an agent's operation is performed: engines have no core scope (08 R184). -/
def effScope (a : Ag) (sc : Nat) : Nat := if sc = 0 ∧ a.core? = none then 1 else sc

/-- Whether scope sc of an operation of x contains y (08 Table Model.1). -/
def scopeContains (sc : Nat) (x y : Ag) : Bool :=
  match effScope x sc with
  | 0 => x.core? = y.core?
  | 1 => x.cluster?.isSome && x.cluster? = y.cluster?
  | 2 => x.cluster?.isSome && x.cluster?.map quadOfCluster = y.cluster?.map quadOfCluster
  | 3 => x.cluster?.isSome && y.cluster?.isSome
  | _ => true

/-- Whether operations of x and y synchronise (08 R184). -/
def scopesMeet (scx : Nat) (x : Ag) (scy : Nat) (y : Ag) : Bool := scopeContains scx x y && scopeContains scy y x

/-! ### Release and acquire counts (08 R199, R202) -/

/-- The later of two counts modulo 65,536 (08 R199, R200). -/
def laterCount (own other : BitVec 16) : BitVec 16 :=
  if 1 ≤ (other - own).toNat ∧ (other - own).toNat ≤ 32768 then other else own

/-- The later of an own count and one that is taken; a first count of an agent is taken as it is (08 R199; log entry 90). -/
def takeCount (own : Option (BitVec 16)) (v : BitVec 16) : BitVec 16 :=
  match own with
  | some c => laterCount c v
  | none => v

/-- Merge the later counts of a list into a row of counts under keys base + k. -/
def mergeCounts (base : Nat) (own : Tab (Option (BitVec 16))) : Tab (Option (BitVec 16)) → Tab (Option (BitVec 16))
  | [] => own
  | (k, some v) :: r => mergeCounts base (tabPut none own (base + k) (some (takeCount (tabGet none own (base + k)) v))) r
  | (_, none) :: r => mergeCounts base own r

/-- The counts under keys base .. base + 255, with their keys reduced by base. -/
def rowOf (base : Nat) (t : Tab (Option (BitVec 16))) : Tab (Option (BitVec 16)) :=
  (t.filter fun e => base ≤ e.1 && e.1 < base + 256).map fun e => (e.1 - base, e.2)

/-- REL(a) of a located agent (08 R199). -/
def relCount (s : State) (a : Ag) : BitVec 16 :=
  match a.cluster? with
  | some n => tabGet 0 (s.cluster n).rel a.code.toNat
  | none => 0

/-- What a release of a at scope sc leaves at its word, after its counts have risen. -/
def relInfoOf (s : State) (a : Ag) (sc : Nat) : RelInfo :=
  match a.cluster? with
  | some n =>
    let k := s.cluster n
    { ag := a, scope := BitVec.ofNat 3 (effScope a sc),
      acq := tabPut none (rowOf (256 * a.code.toNat) k.acq) a.code.toNat (some (tabGet 0 k.rel a.code.toNat)),
      cacq := tabPut none k.cacq n.toNat (some k.crel)
      far := (k.far.filter fun e => e.1 / 16384 = a.code.toNat).map fun e => (e.1 % 16384, e.2) }
  | none => { ag := a, scope := BitVec.ofNat 3 sc, acq := [], cacq := [], far := [] }

/-- A release by agent a at scope sc raises REL(a), and CREL of its cluster at scope 2 or wider; at a multiple of 16,384
the cluster sweeps old tags (08 R199, R201, R202). -/
def countRelease (s : State) (a : Ag) (sc : Nat) : State :=
  match a.cluster? with
  | none => s
  | some n =>
    let r := tabGet 0 (s.cluster n).rel a.code.toNat + 1
    let s := s.mapCluster n fun k =>
      { k with rel := tabPut 0 k.rel a.code.toNat r, crel := if effScope a sc ≥ 2 then k.crel + 1 else k.crel }
    if r.toNat % 16384 = 0 then
      s.pushEvents [(.raceTagSweep, { ix := n.toNat, value := a.code.setWidth 64 })]
    else s

/-- The counts of the agents of cluster n that a release carries (08 R199, R203). -/
def RelInfo.inCluster (r : RelInfo) (n : BitVec 6) : Tab (Option (BitVec 16)) :=
  if r.ag.cluster? = some n then r.acq
  else (r.far.filter fun e => e.1 / 256 = n.toNat).map fun e => (e.1 % 256, e.2)

/-- The counts of the agents of other clusters than n that a release carries. -/
def RelInfo.outside (r : RelInfo) (n : BitVec 6) : Tab (Option (BitVec 16)) :=
  (r.far.filter fun e => e.1 / 256 ≠ n.toNat) ++
    (match r.ag.cluster? with
     | some m => if m = n then [] else r.acq.map fun e => (256 * m.toNat + e.1, e.2)
     | none => [])

/-- Agent a synchronises with release r (08 R199, R202). -/
def takeRelease (s : State) (a : Ag) (sc : Nat) (r : RelInfo) : State :=
  if scopesMeet sc a r.scope.toNat r.ag then
    match a.cluster? with
    | none => s
    | some n => s.mapCluster n fun k =>
        { k with
          acq := mergeCounts (256 * a.code.toNat) k.acq ((r.inCluster n).filter fun e => e.1 ≠ a.code.toNat)
          far := mergeCounts (16384 * a.code.toNat) k.far (r.outside n)
          cacq := if effScope a sc ≥ 2 ∧ r.scope.toNat ≥ 2 then
              mergeCounts 0 k.cacq (r.cacq.filter fun e => e.1 ≠ n.toNat) else k.cacq }
  else s

/-- Key under which relInfo keeps the word at a scratchpad offset. -/
def spadWordKey (c : BitVec 10) (off : Nat) : Nat := 131072 * c.toNat + off / 8

/-- Key under which relInfo keeps the word at a physical address. -/
def physWordKey (pa : Nat) : Nat := 2 ^ 48 + pa / 8

/-- Agent a synchronises with each release of a list. -/
def takeReleases (s : State) (a : Ag) (sc : Nat) (l : List RelInfo) : State := l.foldl (fun s i => takeRelease s a sc i) s

/-- An acquire read of the words under keys: agent a synchronises with the releases that each was written by (08 R191). -/
def acquireWords (s : State) (a : Ag) (sc : Nat) : List Nat → State
  | [] => s
  | k :: r => acquireWords (takeReleases s a sc (tabGet [] s.mem.relInfo k)) a sc r

/-- A new holder of the reservation of a granule synchronises with the last release to it, or the SCH that handed it over (08 R206). -/
def acquireGranule (s : State) (a : Ag) (sc key : Nat) : State := takeReleases s a sc (tabGet none s.mem.lastRel key).toList

/-- Agent a has read a word that holds the releases of a list: it remembers them for later acquire fences (08 R193). -/
def noteInfos (s : State) (a : Ag) (l : List RelInfo) : State :=
  let new := l.filter fun i => i.ag ≠ a && !(tabGet [] s.mem.seen a.key).contains i
  if new.isEmpty then s else s.mapMem fun m => { m with seen := tabPut [] m.seen a.key (new ++ tabGet [] m.seen a.key) }

/-- A plain or relaxed read remembers the releases it read, for later acquire fences (08 R193). -/
def noteRead (s : State) (a : Ag) : List Nat → State
  | [] => s
  | k :: r => noteRead (noteInfos s a (tabGet [] s.mem.relInfo k)) a r

/-- A plain or relaxed write replaces what the words were released with: by the agent's release fences, or by nothing. -/
def notePlainWrite (s : State) (a : Ag) (keys : List Nat) : State :=
  let f := tabGet [] s.mem.fenceRel a.key
  s.mapMem fun m => { m with relInfo := keys.foldl (fun t k => tabPut [] t k f) m.relInfo }

/-- A release write leaves its counts at its words. -/
def noteRelease (s : State) (a : Ag) (sc : Nat) (keys : List Nat) : State :=
  let i := relInfoOf s a sc
  s.mapMem fun m => { m with relInfo := keys.foldl (fun t k => tabPut [] t k [i]) m.relInfo
                             lastRel := keys.foldl (fun t k => tabPut none t k (some i)) m.lastRel }

/-! ### Race tags (08 R200, R202) -/

/-- The check of tag (w, n) by agent a of cluster n: true when the access does not race (08 R200). -/
def tagOk (s : State) (a : Ag) (cl : BitVec 6) (t : RaceTag) : Bool :=
  t.writer = 0xFE || t.writer = 0xFF || a.cluster? ≠ some cl || t.writer = a.code ||
    (let d := ((tabGet none (s.cluster cl).acq (256 * a.code.toNat + t.writer.toNat)).getD 0 - t.count).toNat
     1 ≤ d && d ≤ 32768)

/-- Tag a plain write of agent a sets in cluster cl (08 R200); lag of its releases follow the write in its program order. -/
def plainTag (s : State) (a : Ag) (lag : Nat) (cl : BitVec 6) : RaceTag :=
  if a.cluster? = some cl then { writer := a.code, count := relCount s a - BitVec.ofNat 16 lag } else { writer := 0xFE, count := 0 }

/-- Granule number of a scratchpad offset. -/
def granuleKey (c : BitVec 10) (off : Nat) : Nat := 16384 * c.toNat + off / 64

/-- Numbers lo .. hi. -/
def rangeOf (lo hi : Nat) : List Nat := (List.range (hi + 1 - lo)).map (lo + ·)

/-- Granules that a piece touches. -/
def Piece.granules (p : Piece) : List Nat := rangeOf (granuleKey p.core p.off.toNat) (granuleKey p.core (p.off.toNat + p.len - 1))

/-- Words that a piece touches. -/
def Piece.words (p : Piece) : List Nat := rangeOf (spadWordKey p.core p.off.toNat) (spadWordKey p.core (p.off.toNat + p.len - 1))

/-- Set the tags of a piece's granules. -/
def setTags (s : State) (p : Piece) (t : RaceTag) : State :=
  s.mapMem fun m => { m with stags := p.granules.foldl (fun g k => tabPut .none g k t) m.stags }

/-- The first racing tag of a piece. -/
def racingTag (s : State) (a : Ag) (p : Piece) : Option RaceTag :=
  p.granules.findSome? fun k =>
    let t := tabGet .none s.mem.stags k
    if tagOk s a (clusterOf p.core) t then none else some t

/-! ### Windows (09 R223) -/

/-- The right an access needs. -/
inductive Right where
  | read | write | atomic
  deriving DecidableEq, Repr

/-- Whether window value w covers the bytes and grants the right (09 Table Primary.6). -/
def windowGrants (w : Word) (r : Right) (off len : Nat) : Bool :=
  let base := fieldOf w 4 16 * 16
  let last := base + fieldOf w 20 20 / 16 * 16 + 15
  w.getLsbD 63 && base ≤ off && off + len ≤ last + 1 && off + len ≤ 0x100000 &&
    (match r with
     | .read => w.getLsbD 40
     | .write => w.getLsbD 41
     | .atomic => w.getLsbD 42)

/-- The core that issued a copy job. -/
def jobCore (s : State) (n j : BitVec 6) : BitVec 10 := (tabGet Job.reset (s.cluster n).jobs j.toNat).core

/-- Whether the WHO field w of a window of core o admits agent a (09 R223). -/
def whoAdmits (s : State) (o : BitVec 10) (w : Nat) (a : Ag) : Bool :=
  let gang := gangOf s o
  match w with
  | 0 => false
  | 1 => match a with
    | .prim c => gang.contains c
    | .thread c _ => gang.contains c
    | .job n j => gang.contains (jobCore s n j)
    | _ => false
  | 2 => a.cluster? = some (clusterOf o)
  | _ => match a with
    | .job _ _ => true
    | .host => true
    | .peer => true
    | _ => a.cluster? = some (clusterOf o)

/-- Whether a core's occurrence is stopped for pre-emption, so that its scratchpad refuses agents outside the unit
(05 R105). -/
def preempted (s : State) (c : BitVec 10) : Bool := (s.core c).run = .preempted

/-- The core of an agent, or the one that issued a copy job. -/
def agHome (s : State) : Ag → Option (BitVec 10)
  | .prim c => some c
  | .thread c _ => some c
  | .job n j => some (jobCore s n j)
  | _ => none

/-- Whether an agent of core o's pre-empted unit is meant: an agent, or a job issued by one (05 R105). -/
def inUnitOf (s : State) (o : BitVec 10) (a : Ag) : Bool :=
  match agHome s a, (s.core o).occ.bind s.occ? with
  | some c, some oc => oc.units.any fun u => u.cores.contains o && u.cores.contains c
  | _, _ => false

/-- The windows that a core's checks use in a cycle: those at the start of it (09 R223). -/
def Core.windowsAt (k : Core) (cycle : Nat) : Tab Word :=
  match k.winWas with
  | some (n, w) => if n = cycle then w else k.win
  | none => k.win

/-- Whether core o answers an access of agent a to len bytes at off (09 R223; 05 R105, R107, R129). The queue engine
and the halyard engine reach a cluster scratchpad as agents located in the cluster. -/
def windowOk (s : State) (a : Ag) (o : BitVec 10) (r : Right) (off len : Nat) : Bool :=
  if tabGet false s.sched.fenced o.toNat then false
  else if a.core? = some o then true
  else if preempted s o && !inUnitOf s o a then false
  else (List.range 8).any fun i =>
    let w := tabGet 0 ((s.core o).windowsAt s.cycle) i
    windowGrants w r off len && whoAdmits s o (fieldOf w 43 2) a

/-- Whether bytes of core c lie in a queue pool of the launch that runs there (05 R106, R107). -/
def inPool (s : State) (c : BitVec 10) (off len : Nat) : Bool :=
  off + len > 0xF8000 &&
    match (s.core c).occ.bind s.occ? with
    | some o => o.queueCaps.any (· ≠ 0)
    | none => false

/-! ### Uncorrectable errors (07 R180; 03 R67) -/

/-- An uncorrectable error is counted in a quadrant: where it arises, and each time it is consumed (log entry 92). -/
def countUncorr (s : State) (q : BitVec 2) : State :=
  s.mapMgmt fun m => { m with eccU := tabPut 0 m.eccU q.toNat (tabGet 0 m.eccU q.toNat + 1) }

/-! ### Scratchpad bytes (09 R222; 07 R180) -/

/-- The byte at an offset of a core's data scratchpad; an unlisted byte reads 0 (log entry 2). -/
def spadByte (s : State) (c : BitVec 10) (off : Nat) : Byte := tabGet 0 s.mem.spad (1048576 * c.toNat + off)

/-- n bytes of a core's data scratchpad. -/
def spadBytes (s : State) (c : BitVec 10) (off : Nat) : Nat → List Byte
  | 0 => []
  | n + 1 => spadByte s c off :: spadBytes s c (off + 1) n

/-- Put bytes under rising keys. -/
def putBytes : List Host.Cell → Nat → List Byte → List Host.Cell
  | t, _, [] => t
  | t, k, b :: r => putBytes (tabPut 0 t k b) (k + 1) r

/-- Numbers of the 8-byte words that a write of n bytes at address k covers wholly. -/
def wholeWords (k n : Nat) : List Nat := (rangeOf (k / 8) ((k + n) / 8)).filter fun w => k ≤ 8 * w && 8 * w + 8 ≤ k + n

/-- Store bytes in a core's data scratchpad; a store of all 8 bytes of a word clears its poison (07 R180). -/
def spadStore (s : State) (c : BitVec 10) (off : Nat) (l : List Byte) : State :=
  s.mapMem fun m =>
    { m with
      spad := putBytes m.spad (1048576 * c.toNat + off) l
      spoison := (wholeWords (1048576 * c.toNat + off) l.length).foldl (fun t w => tabPut false t w false) m.spoison }

/-- Whether a word that the piece touches is poisoned. -/
def Piece.poisoned (s : State) (p : Piece) : Bool := p.words.any fun w => tabGet false s.mem.spoison w

/-! ### Waiters of PWAIT (16 R393) -/

/-- The 8 bytes of scratchpad word number w. -/
def spadWordVal (s : State) (w : Nat) : Nat := leNat (spadBytes s (BitVec.ofNat 10 (w / 131072)) (8 * (w % 131072)) 8)

/-- Key of the word that a primary's PWAIT watches. -/
def pwaitKey (a : Access) : Nat :=
  match a.pieces with
  | p :: _ => spadWordKey p.core p.off.toNat
  | [] => 0

/-- PWAIT waiters of word key (glob: a physical word) as events that wake them. -/
def wakers (s : State) (glob : Bool) (key : Nat) : List (Instr × EvArg) :=
  s.cores.flatMap fun e =>
    let c : BitVec 10 := BitVec.ofNat 10 e.1
    (match e.2.pwait with
     | some p => if !glob && pwaitKey p.acc = key then [(Instr.pwaitWake, { core := c, thread := 8 })] else []
     | none => []) ++
    e.2.threads.flatMap fun t =>
      match t.2.st with
      | .pwait g k _ => if g = glob && k = key then [(Instr.pwaitWake, { core := c, thread := BitVec.ofNat 4 t.1 })] else []
      | _ => []

/-- Wake the waiters of scratchpad words that a performed write left nonzero (16 R393). -/
def wakeSpad (s : State) (ws : List Nat) : State :=
  s.pushEvents (ws.flatMap fun w => if spadWordVal s w ≠ 0 then wakers s false w else [])

/-! ### Checked scratchpad accesses -/

/-- Why an access was refused at its bank or slice. -/
inductive AccFail where
  | nack
  | race (write glob : Bool) (tag : RaceTag)
  | uncorr
  deriving DecidableEq, Repr

/-- The checks of one piece in the order of R385: window, race (plain accesses), poison (accesses that read). -/
def pieceFail (s : State) (a : Ag) (r : Right) (plain reads : Bool) (p : Piece) : Option AccFail :=
  if !windowOk s a p.core r p.off.toNat p.len then some .nack
  else match (if plain then racingTag s a p else none) with
    | some t => some (.race (r = .write) false t)
    | none => if reads && p.poisoned s then some .uncorr else none

/-- The first failing piece with its failure. -/
def piecesFail (s : State) (a : Ag) (r : Right) (plain reads : Bool) : List Piece → Option (AccFail × Piece)
  | [] => none
  | p :: ps =>
    match pieceFail s a r plain reads p with
    | some f => some (f, p)
    | none => piecesFail s a r plain reads ps

/-- The bytes of pieces placed at their positions, as a number. -/
def gatherPieces (s : State) : List Piece → Nat
  | [] => 0
  | p :: r => leNat (spadBytes s p.core p.off.toNat p.len) * 2 ^ (8 * p.pos) + gatherPieces s r

/-- Store the bytes of a number at pieces, in the order of the list. -/
def scatterPieces (s : State) (v : Nat) : List Piece → State
  | [] => s
  | p :: r => scatterPieces (spadStore s p.core p.off.toNat (leBytes p.len (v / 2 ^ (8 * p.pos)))) v r

/-- A plain read of agent a, already checked. -/
def plainRead (s : State) (a : Ag) (ps : List Piece) : Nat × State :=
  (gatherPieces s ps, noteRead s a (ps.flatMap Piece.words))

/-- A plain write of agent a that lag of its releases follow, already checked: bytes, tags, release fence, waiters (08 R200; 16 R393). -/
def laggedWrite (s : State) (a : Ag) (lag v : Nat) (ps : List Piece) : State :=
  let s := scatterPieces s v ps
  let s := ps.foldl (fun s p => setTags s p (plainTag s a lag (clusterOf p.core))) s
  let s := notePlainWrite s a (ps.flatMap Piece.words)
  wakeSpad s (ps.flatMap Piece.words)

/-- A plain write of agent a, already checked. -/
def plainWrite (s : State) (a : Ag) (v : Nat) (ps : List Piece) : State := laggedWrite s a 0 v ps

/-- A synchronising write of agent a: bytes, tag (0xFF, 0), release information, waiters (08 R200, R191). -/
def syncWrite (s : State) (a : Ag) (release : Bool) (sc : Nat) (v : Nat) (p : Piece) : State :=
  let s := if release then countRelease s a sc else s
  let s := scatterPieces s v [p]
  let s := setTags s p .none
  let s := if release then noteRelease s a sc p.words else notePlainWrite s a p.words
  wakeSpad s p.words

/-! ### Physical memory (07 R177) -/

/-- What a physical address is (07 Table Fabric.10). -/
inductive PhysKind where
  /-- bonded DRAM, mappable -/
  | bonded (q : BitVec 2)
  /-- the part of quadrant 0 reserved for the command processor and management unit -/
  | reserved
  | snapshot (q : BitVec 2)
  | lpddr (ch : BitVec 5)
  | host
  | absent
  deriving DecidableEq, Repr

/-- The kind of a physical address; lp is the mask of LPDDR 6 channels marked unavailable. -/
def physKind (lp : BitVec 32) (pa : Nat) : PhysKind :=
  if pa < 0x4000000000 then
    let q : BitVec 2 := BitVec.ofNat 2 (pa / 0x1000000000)
    let o := pa % 0x1000000000
    if o < 0xB00000000 then (if q = 0 ∧ o < 0x10000000 then .reserved else .bonded q)
    else if o < 0xC00000000 then .snapshot q else .absent
  else if 0x10000000000 ≤ pa ∧ pa < 0x20000000000 then
    let ch := (pa - 0x10000000000) / 0x800000000
    if lp.getLsbD ch then .absent else .lpddr (BitVec.ofNat 5 ch)
  else if 0x8000000000000 ≤ pa ∧ pa < 0x10000000000000 then .host
  else .absent

/-- LPDDR 6 channels that are absent from this boot's physical map (03 R72, R73). -/
def lpddrMask (s : State) : BitVec 32 := s.mgmt.lpddrOut

/-- Whether a frame may be mapped: bonded DRAM, a present LPDDR 6 channel, or host memory (07 R177). -/
def mappable (s : State) (pa : Nat) : Bool :=
  match physKind (lpddrMask s) pa with
  | .bonded _ => true
  | .lpddr _ => true
  | .host => true
  | _ => false

/-- The mark of the line at pa. -/
def lineMark (s : State) (pa : Nat) : LineMark := tabGet .reset s.mem.lines (pa / 64)

/-- The byte at a physical address as every agent reads it below the scavenger caches; an unlisted byte reads 0
(log entry 2). -/
def physByte (s : State) (pa : Nat) : Byte := tabGet 0 s.mem.phys pa

/-- n bytes of physical memory. -/
def physBytes (s : State) (pa : Nat) : Nat → List Byte
  | 0 => []
  | n + 1 => physByte s pa :: physBytes s (pa + 1) n

/-- Mark bytes as held above DRAM: the byte DRAM holds is kept with each (07 R164, R176). -/
def markDirty (phys : List Host.Cell) : Tab (Option Byte) → Nat → Nat → Tab (Option Byte)
  | d, _, 0 => d
  | d, k, n + 1 =>
    markDirty phys (if (tabGet none d k).isSome then d else tabPut none d k (some (tabGet 0 phys k))) (k + 1) n

/-- Keep what DRAM holds of the poison of words that are about to be written above it. -/
def keepPoison (poison : Tab Bool) : Tab (Option Bool) → List Nat → Tab (Option Bool)
  | d, [] => d
  | d, w :: r => keepPoison poison (if (tabGet none d w).isSome then d else tabPut none d w (some (tabGet false poison w))) r

/-- DRAM has accepted these bytes. -/
def clearDirty : Tab (Option Byte) → Nat → Nat → Tab (Option Byte)
  | d, _, 0 => d
  | d, k, n + 1 => clearDirty (tabPut none d k none) (k + 1) n

/-- Store bytes at a physical address, in the slice (through false) or down to memory (through true); a store of all 8 bytes
of a word clears its poison (07 R172, R180). -/
def physStore (s : State) (through : Bool) (pa : Nat) (l : List Byte) : State :=
  s.mapMem fun m =>
    { m with
      dirty := if through then clearDirty m.dirty pa l.length else markDirty m.phys m.dirty pa l.length
      dramPoison := if through then m.dramPoison else keepPoison m.poison m.dramPoison (rangeOf (pa / 8) ((pa + l.length - 1) / 8))
      phys := putBytes m.phys pa l
      poison := (wholeWords pa l.length).foldl (fun t w => tabPut false t w false) m.poison }

/-- Whether a word among n bytes at pa is poisoned. -/
def physPoisoned (s : State) (pa n : Nat) : Bool := (rangeOf (pa / 8) ((pa + n - 1) / 8)).any fun w => tabGet false s.mem.poison w

/-- relInfo keys of n bytes at pa. -/
def physKeys (pa n : Nat) : List Nat := rangeOf (physWordKey pa) (physWordKey (pa + n - 1))

/-- Wake the waiters of physical words that a write performed at the home slice left nonzero (16 R393). -/
def wakePhys (s : State) (pa n : Nat) : State :=
  s.pushEvents ((rangeOf (pa / 8) ((pa + n - 1) / 8)).flatMap fun w =>
    if leNat (physBytes s (8 * w) 8) ≠ 0 then wakers s true w else [])

/-- Change the mark of the line at pa. -/
def setLineMark (s : State) (pa : Nat) (f : LineMark → LineMark) : State :=
  s.mapMem fun m => { m with lines := tabPut .reset m.lines (pa / 64) (f (tabGet .reset m.lines (pa / 64))) }

/-- Whether a plain access from cluster n to the line at pa is ordered after its writer (08 R202). -/
def lineOk (s : State) (n : BitVec 6) (t : RaceTag) : Bool :=
  t.writer = 0xFF || t.writer = n.setWidth 8 ||
    (let d := ((tabGet none (s.cluster n).cacq t.writer.toNat).getD 0 - t.count).toNat
     1 ≤ d && d ≤ 32768)

/-- The racing tag of the line at pa for agent a. -/
def lineRace (s : State) (a : Ag) (pa : Nat) : Option RaceTag :=
  match a.cluster? with
  | none => none
  | some n =>
    let t := (lineMark s pa).tag
    if lineOk s n t then none else some t

/-- Tag a plain write of agent a sets on a line: its cluster and CREL; host and peer set no writer (08 R202). -/
def lineTag (s : State) (a : Ag) : RaceTag :=
  match a.cluster? with
  | some n => { writer := n.setWidth 8, count := (s.cluster n).crel }
  | none => .none

/-- The lines that n bytes at pa touch, as addresses. -/
def linesOf (pa n : Nat) : List Nat := (rangeOf (pa / 64) ((pa + n - 1) / 64)).map (64 * ·)

end Sys2Proof.Machine
end

