-- ==== Sys2Proof/Machine/Global.lean ====
section
/-! DEFINITION. Global memory: home slices, page tables, translations, miss entries and the scavenger data cache
(07 R164-R177; 08 R197, R209; 10 R253). -/

namespace Sys2Proof.Machine

/-! ### Home slices (07 R164, R165) -/

/-- The XOR of the seven low bytes of a line number. -/
def lineHash (line : Nat) : Nat → Nat
  | 0 => 0
  | n + 1 => lineHash line n ^^^ (line / 2 ^ (8 * n) % 256)

/-- The interleave domain of a virtual address in context x. -/
def domainOf (s : State) (x : BitVec 6) (va : Nat) : Nat := fieldOf (s.ctx x).domsel (6 * (va / 2 ^ 54 % 8)) 6

/-- Domain register d. -/
def State.dom (s : State) (d : Nat) : Dom := tabGet Dom.reset s.sched.doms d

/-- The home slice of a virtual address in context x (07 R164). -/
def homeSlice (s : State) (x : BitVec 6) (va : Nat) : BitVec 8 :=
  let d := s.dom (domainOf s x va)
  d.base + (BitVec.ofNat 8 (lineHash (va / 64) 7) &&& d.mask)

/-- The replica slice of quadrant q for home slice h (07 R173). -/
def replicaSlice (q : BitVec 2) (h : BitVec 8) : BitVec 8 := q ++ h.extractLsb' 0 6

/-! ### Page tables (07 R167, Table Fabric.7) -/

/-- A page-table entry is valid. -/
def pteValid (e : Word) : Bool := e.getLsbD 0
/-- It permits reads. -/
def pteR (e : Word) : Bool := e.getLsbD 1
/-- It permits writes and atomics. -/
def pteW (e : Word) : Bool := e.getLsbD 2
/-- It permits instruction-image reads. -/
def pteX (e : Word) : Bool := e.getLsbD 3
/-- Its CLASS. -/
def pteClass (e : Word) : Nat := fieldOf e 5 2
/-- UNCACHED. -/
def pteUncached (e : Word) : Bool := pteClass e = 2
/-- REPLICATE. -/
def pteReplicate (e : Word) : Bool := e.getLsbD 7
/-- The physical address of its FRAME. -/
def pteFrame (e : Word) : Nat := fieldOf e 16 36 * 65536

/-- Reserved fields and values are clear. -/
def pteClean (e : Word) : Bool := fieldOf e 52 4 = 0 && fieldOf e 8 8 = 0 && !e.getLsbD 4 && pteClass e ≠ 3

/-- Bytes of a page. -/
def pageBytes (huge : Bool) : Nat := if huge then 2 ^ 29 else 2 ^ 16

/-- A leaf whose frame lies in the physical map, and is UNCACHED on host memory (07 R169, R177). -/
def leafOk (s : State) (e : Word) (huge : Bool) : Bool :=
  pteValid e && pteClean e && (!huge || fieldOf e 16 13 = 0) &&
    mappable s (pteFrame e) && mappable s (pteFrame e + pageBytes huge - 1) &&
    (physKind (lpddrMask s) (pteFrame e) ≠ .host || pteUncached e)

/-- The physical address of va under a leaf. -/
def leafPhys (e : Word) (huge : Bool) (va : Nat) : Nat := pteFrame e + va % pageBytes huge

/-- Does the entry permit the access (16 R385; 07 R169)? -/
def permits (e : Word) : AccessKind → Bool
  | .read => pteR e
  | .write => pteW e
  | .atomic => pteW e
  | .image => pteX e

/-- Bytes of a line's data. -/
def lineBytes (d : BitVec 512) (off n : Nat) : List Byte := leBytes n (d.toNat / 2 ^ (8 * off))

/-- The byte at pa as its home slice gives it: the one that the core which holds the line for near atomics has written, if it has
written it (08 R210). -/
def homeByte (s : State) (pa : Nat) : Byte :=
  match (lineMark s pa).near with
  | none => physByte s pa
  | some c => match (s.core c).dcache.find? fun d => d.line = pa / 64 with
    | some d => if d.dirty.getLsbD (pa % 64) then (lineBytes d.data (pa % 64) 1).headD 0 else physByte s pa
    | none => physByte s pa

/-- n bytes as their home slices give them. -/
def homeBytes (s : State) (pa : Nat) : Nat → List Byte
  | 0 => []
  | n + 1 => homeByte s pa :: homeBytes s (pa + 1) n

/-- The byte that memory itself holds at pa, below every cache. -/
def dramByte (s : State) (pa : Nat) : Byte := (tabGet none s.mem.dirty pa).getD (physByte s pa)

/-- Whether memory itself holds the 8-byte word at pa as poisoned. -/
def dramPoisoned (s : State) (pa : Nat) : Bool := (tabGet none s.mem.dramPoison (pa / 8)).getD (tabGet false s.mem.poison (pa / 8))

/-- A table entry as PLD reads it, below every cache: 0 at an absent address or a poisoned word (16 R400). -/
def pldWord (s : State) (pa : Nat) : Word :=
  if physKind (lpddrMask s) pa = .absent || dramPoisoned s pa then 0
  else BitVec.ofNat 64 (leNat ((List.range 8).map fun i => dramByte s (pa + i)))

/-- Where the entry of va lies in a table of level n that begins at root (07 R167). -/
def tableEntry (va n root : Nat) : Nat :=
  root + 8 * (match n with
    | 4 => va / 2 ^ 55 % 4
    | 3 => va / 2 ^ 42 % 8192
    | 2 => va / 2 ^ 29 % 8192
    | _ => va / 2 ^ 16 % 8192)

/-- What a table entry says: the next table, a leaf with its size, or a page fault. -/
inductive WalkRes where
  | table (root : Nat)
  | leaf (e : Word) (huge : Bool)
  | fault
  deriving DecidableEq, Repr

/-- What the entry e of a table of level n says (07 R167, R169). -/
def walkEntry (s : State) (n : Nat) (e : Word) : WalkRes :=
  if !(pteValid e && pteClean e) then .fault
  else if n ≤ 1 then (if leafOk s e false then .leaf e false else .fault)
  else if pteR e || pteW e || pteX e then (if n = 2 && leafOk s e true then .leaf e true else .fault)
  else .table (pteFrame e)

/-- The walk from level n, whose table lies at root: a leaf with its size, or none for a page fault. -/
def walkFrom (s : State) (va : Nat) : Nat → Nat → Option (Word × Bool)
  | 0, _ => none
  | n + 1, root => match walkEntry s (n + 1) (pldWord s (tableEntry va (n + 1) root)) with
    | .table r => walkFrom s va n r
    | .leaf e h => some (e, h)
    | .fault => none

/-- The walk of va in context x. -/
def walk (s : State) (x : BitVec 6) (va : Nat) : Option (Word × Bool) := walkFrom s va 4 ((s.ctx x).ptroot.toNat)

/-- An access of the command processor through a context's translation, walked as usual (04 R97, R98): the physical
address, none on a fault, an absent frame or a poisoned word. -/
def walkAccess (s : State) (x : BitVec 6) (va n : Nat) (k : AccessKind) : Option Nat :=
  if va ≥ 2 ^ 57 then none
  else match walk s x va with
    | some (e, huge) =>
      let pa := leafPhys e huge va
      if permits e k && !physPoisoned s pa n then some pa else none
    | none => none

/-! ### Translations and miss entries (07 R168, R169, R174) -/

/-- The translation of va for context x in a slice. -/
def tlbFind (l : List Trans) (x : BitVec 6) (va : Nat) : Option Trans :=
  l.find? fun t => t.ctx = x && t.page = va / pageBytes t.huge

/-- Install a translation, most recent first; 8,192 entries, the least recently used is replaced (07 R168; 16 R401). -/
def tlbInstall (l : List Trans) (t : Trans) : List Trans :=
  (t :: l.filter fun u => !(u.ctx = t.ctx && u.huge = t.huge && u.page = t.page)).take 8192

/-- Note the use of a translation. -/
def tlbTouch (s : State) (h : BitVec 8) (t : Trans) : State :=
  s.mapSlice h fun k => { k with tlb := t :: k.tlb.filter fun u => u ≠ t }

/-- A free miss entry below 46 (07 R174, R175). -/
def freeMiss (k : Slice) : Option Nat := (List.range 46).find? fun i => (tabGet none k.misses i).isNone

/-- Whether a miss entry is a requester's, as its first or as one that has joined it. -/
def Miss.of (m : Miss) (w : Requester) : Bool := m.who = w || m.also.contains w

/-- Allocate a miss entry for a requester, or find the one it has; a miss of the same page for the same access joins the entry that
waits for the walker (07 R168; 04 R98). A missing right is reported as a permission fault (R169). none: all 46 are taken. -/
def requestMiss (s : State) (h : BitVec 8) (x : BitVec 6) (va : Nat) (k : AccessKind) (who : Requester) (permission : Bool) :
    Option (BitVec 6) × State :=
  match (List.range 46).find? fun i => match tabGet none (s.slice h).misses i with
      | some m => m.of who && m.ctx = x && m.page = va / 65536 && m.stage ≠ .fill
      | none => false with
  | some i => (some (BitVec.ofNat 6 i), s)
  | none => match (List.range 46).find? fun i => match tabGet none (s.slice h).misses i with
      | some m => m.ctx = x && m.page = va / 65536 && m.kind = k && m.permission = permission && (m.stage = .held || m.stage = .posted)
      | none => false with
  | some i => (some (BitVec.ofNat 6 i), s.mapSlice h fun c => { c with misses := tabPut none c.misses i ((tabGet none c.misses i).map
      fun m => { m with also := m.also ++ [who] }) })
  | none =>
    match freeMiss (s.slice h) with
    | none => (none, s)
    | some i =>
      let m : Miss := { ctx := x, page := va / 65536, kind := k, who := who, also := [], stage := if permission then .fault else .held,
                        permission := permission, faultId := 0, deadline := 0 }
      (some (BitVec.ofNat 6 i), s.mapSlice h fun c => { c with misses := tabPut none c.misses i (some m) })

/-- What is left of a miss entry when requester w gives up: it stays for those that have joined it. -/
def Miss.leave (w : Requester) (m : Miss) : Option Miss :=
  if m.who = w then
    match m.also with
    | [] => none
    | a :: r => some { m with who := a, also := r }
  else some { m with also := m.also.filter (· ≠ w) }

/-- A requester gives up its misses in every slice. -/
def leaveMisses (s : State) (w : Requester) : State :=
  s.mapMem fun m => { m with slices := tabMap Slice.reset (fun _ k => { k with misses := tabMap none (fun _ e => e.bind (Miss.leave w)) k.misses }) m.slices }

/-- What a translation lookup answers. -/
inductive Look where
  /-- translated and permitted: leaf, size, physical address -/
  | hit (leaf : Word) (huge : Bool) (pa : Nat)
  /-- the requester waits: permission tells a permission fault -/
  | wait (permission : Bool)
  deriving DecidableEq, Repr

/-- Look va of context x up at its home slice. -/
def look (s : State) (x : BitVec 6) (va : Nat) (k : AccessKind) : Look :=
  match tlbFind (s.slice (homeSlice s x va)).tlb x va with
  | some t => if permits t.leaf k then .hit t.leaf t.huge (leafPhys t.leaf t.huge va) else .wait true
  | none => .wait false

/-- Whether the domain of va is being changed: new misses and fills wait (07 R166). -/
def domainBusy (s : State) (x : BitVec 6) (va : Nat) : Bool := (s.dom (domainOf s x va)).pending

/-! ### The scavenger data cache (10 R253; 08 R197) -/

/-- The cached line that holds va. -/
def dcFind (k : Core) (va : Nat) : Option DLine := k.dcache.find? fun d => d.vline = va / 64

/-- Replace the lines of a core's cache. -/
def setDcache (s : State) (c : BitVec 10) (l : List DLine) : State := s.mapCore c fun k => { k with dcache := l }

/-- Whether the slice holds the line at pa for an access of context x at va under leaf: a PRIVATE line for its context alone, a SHARED one
without a context (07 R172). -/
def lineHeld (s : State) (x : BitVec 6) (leaf : Word) (va pa : Nat) : Bool :=
  match (lineMark s pa).own with
  | some o => o.vline = va / 64 && o.shared = (pteClass leaf = 1) && (o.shared || o.ctx = x)
  | none => false

/-- The line at pa is written back and leaves its slice: DRAM accepts its bytes, and it loses its race history (07 R182). -/
def settleLine (s : State) (pa : Nat) : State :=
  s.mapMem fun m =>
    { m with dirty := clearDirty m.dirty (pa / 64 * 64) 64
             dramPoison := (List.range 8).foldl (fun t w => tabPut none t (8 * (pa / 64) + w) none) m.dramPoison
             lines := tabPut .reset m.lines (pa / 64) { tabGet .reset m.lines (pa / 64) with own := none, tag := .none }
             replicas := m.replicas.filter fun r => r.2 ≠ pa / 64 }

/-- The slice comes to hold the line for context x; as held otherwise it is written back and filled again (07 R172; log entry 90). -/
def claimLine (s : State) (x : BitVec 6) (leaf : Word) (va pa : Nat) : State :=
  if pteUncached leaf || lineHeld s x leaf va pa then s
  else setLineMark (settleLine s pa) pa fun k =>
    { k with own := some { ctx := x, shared := pteClass leaf = 1, vline := va / 64, slice := homeSlice s x va } }

/-- The words of a cached line that hold dirty bytes. -/
def DLine.dirtyWords (d : DLine) : List Nat := (List.range 8).filter fun w => fieldOf d.dirty (8 * w) 8 ≠ 0

/-- The dirty bytes of a cached line are stored at its home slice, with what its words were released with (08 R193, R197). A word stored whole is
no longer poisoned there (07 R180). -/
def storeLine (s : State) (d : DLine) : State :=
  if d.dirty = 0 then s
  else
    let s := claimLine s d.ctx d.leaf (64 * d.vline) (64 * d.line)
    let s := (setBits d.dirty 64).foldl (fun s i => physStore s (pteUncached d.leaf) (64 * d.line + i) (lineBytes d.data i 1)) s
    let s := s.mapMem fun m =>
      { m with poison := (setBits d.whole 8).foldl (fun t w => tabPut false t (8 * d.line + w) false) m.poison
               relInfo := d.dirtyWords.foldl (fun t w => tabPut [] t (physWordKey (64 * d.line + 8 * w)) (tabGet [] d.rel w)) m.relInfo }
    wakePhys s (64 * d.line) 64

/-- Another core than c that holds the line at pa for near atomics gives it back before the home slice serves c (08 R210). -/
def yieldNear (s : State) (c : BitVec 10) (pa : Nat) : State :=
  match (lineMark s pa).near with
  | none => s
  | some o =>
    if o = c then s
    else
      let s := ((s.core o).dcache.filter fun d => d.line = pa / 64).foldl storeLine s
      setLineMark (setDcache s o ((s.core o).dcache.filter fun d => d.line ≠ pa / 64)) pa fun k => { k with near := none }

/-- Write the dirty bytes of a line of core c's cache back to its home slice (08 R197). -/
def writeBackLine (s : State) (c : BitVec 10) (d : DLine) : State :=
  if d.dirty = 0 then s else storeLine (yieldNear s c (64 * d.line)) d

/-- A line of core c's cache goes home: it is written back, and no longer held for near atomics. -/
def sendHome (c : BitVec 10) (s : State) (d : DLine) : State :=
  let s := writeBackLine s c d
  if d.excl then setLineMark s (64 * d.line) fun k => { k with near := none } else s

/-- A line that has been written back and stays. -/
def DLine.cleaned (d : DLine) : DLine := { d with dirty := 0, whole := 0 }

/-- Write back every dirty line and keep it clean. -/
def dcClean (s : State) (c : BitVec 10) : State :=
  let l := (s.core c).dcache
  setDcache (l.foldl (fun s d => writeBackLine s c d) s) c (l.map DLine.cleaned)

/-- The invalidation of an acquire: dirty lines are written back, lines not held for a near atomic go (08 R197). -/
def dcAcquire (s : State) (c : BitVec 10) : State :=
  let s := dcClean s c
  setDcache s c ((s.core c).dcache.filter fun d => d.excl)

/-- The cached lines for which p holds go home and leave the cache. -/
def dcOut (s : State) (c : BitVec 10) (p : DLine → Bool) : State :=
  setDcache (((s.core c).dcache.filter p).foldl (sendHome c) s) c ((s.core c).dcache.filter fun d => !p d)

/-- Write back and drop the line that holds va. -/
def dcDrop (s : State) (c : BitVec 10) (va : Nat) : State := dcOut s c fun d => d.vline = va / 64

/-- Write back and empty a core's cache, the marks of near lines included (10 R233, R270). -/
def dcEmpty (s : State) (c : BitVec 10) : State := dcOut s c fun _ => true

/-- The home slice takes a line back from the core that holds it for near atomics (08 R210). -/
def recallNear (s : State) (pa : Nat) : State :=
  match (lineMark s pa).near with
  | none => s
  | some c => setLineMark (dcOut s c fun d => d.line = pa / 64) pa fun k => { k with near := none }

/-- The line at pa is taken back from a near holder, written back and invalidated: an eviction, an invalidation, or an access at system
scope (07 R170, R172, R182). -/
def evictLine (s : State) (pa : Nat) : State := settleLine (recallNear s pa) pa

/-- A slice of 16,384 lines that is full gives up a line for the one at pa; which one, and whether it gives one up before, the spec leaves
open (07 R182; log entries 1, 91). -/
def makeRoom (s : State) (h : BitVec 8) (pa : Nat) : State :=
  match s.mem.lines.filter fun e => e.1 ≠ pa / 64 && e.2.own.map (·.slice) = some h with
  | [] => s
  | l =>
    if 16384 ≤ l.length || s.freeChoice (2 ^ 26 + h.toNat) then
      evictLine s (64 * (l.getD ((s.free (2 ^ 27 + h.toNat)).toNat % l.length) (0, .reset)).1)
    else s

/-- The line at pa as an access of context x at va needs it: held for it by its home slice (07 R172). -/
def holdLine (s : State) (x : BitVec 6) (leaf : Word) (va pa : Nat) : State :=
  if pteUncached leaf || lineHeld s x leaf va pa then s
  else makeRoom (claimLine (recallNear s pa) x leaf va pa) (homeSlice s x va) pa

/-- The lines of n bytes, held for an access that the home slices serve; a near holder gives them back (08 R210). -/
def serveLines (s : State) (x : BitVec 6) (leaf : Word) (va pa n : Nat) : State :=
  (linesOf pa n).foldl (fun s l => recallNear (holdLine s x leaf (va / 64 * 64 + (l - pa / 64 * 64)) l) l) s

/-- The racing tag that a plain access of agent a finds on the line at pa: a line that is not held for it is filled, without a tag
(08 R202; 07 R182). -/
def accessRace (s : State) (a : Ag) (x : BitVec 6) (leaf : Word) (va pa : Nat) : Option RaceTag :=
  if pteUncached leaf || !lineHeld s x leaf va pa then none else lineRace s a pa

/-- The racing tag of a plain access to n bytes. -/
def rangeRace (s : State) (a : Ag) (x : BitVec 6) (leaf : Word) (va pa n : Nat) : Option RaceTag :=
  (linesOf pa n).findSome? fun l => accessRace s a x leaf (va / 64 * 64 + (l - pa / 64 * 64)) l

/-- Put a line, most recent first; its set (virtual line mod 64) holds 8, the least recent goes home. -/
def dcInsert (s : State) (c : BitVec 10) (d : DLine) : State :=
  let l := (s.core c).dcache.filter fun e => e.vline ≠ d.vline
  let set := l.filter fun e => e.vline % 64 = d.vline % 64
  match set.drop 7 with
  | [] => setDcache s c (d :: l)
  | out :: _ => setDcache (sendHome c s out) c (d :: l.filter fun e => e.vline ≠ out.vline)

/-- The poisoned words of the line at pa. -/
def linePoison (s : State) (pa : Nat) : Byte := BitVec.ofNat 8 (maskFrom (fun w => tabGet false s.mem.poison (8 * (pa / 64) + w)) 8)

/-- The releases that the words of the line at pa hold at its home slice. -/
def lineRel (s : State) (pa : Nat) : Tab (List RelInfo) :=
  (List.range 8).foldl (fun t w => tabPut [] t w (tabGet [] s.mem.relInfo (physWordKey (pa / 64 * 64 + 8 * w)))) []

/-- Fill the line of va from its home slice. -/
def dcFill (s : State) (c : BitVec 10) (x : BitVec 6) (va : Nat) (leaf : Word) (pa : Nat) : State :=
  let s := recallNear (holdLine s x leaf va pa) pa
  dcInsert s c { vline := va / 64, line := pa / 64, ctx := x, leaf := leaf, data := BitVec.ofNat 512 (leNat (physBytes s (pa / 64 * 64) 64)),
                 dirty := 0, poison := linePoison s pa, whole := 0, rel := lineRel s pa, excl := false }

/-- Put bytes of one word into a cached line, with what the write releases; a store of all 8 bytes of a word clears its poison (07 R180). -/
def dcPut (s : State) (c : BitVec 10) (d : DLine) (va : Nat) (n v : Nat) (rel : List RelInfo) : State :=
  let o := va % 64
  let w : Byte := if n = 8 && o % 8 = 0 then BitVec.ofNat 8 (2 ^ (o / 8)) else 0
  dcInsert s c { d with data := putField d.data (8 * o) (8 * n) v, dirty := putField d.dirty o n (2 ^ n - 1)
                        poison := d.poison &&& ~~~w, whole := d.whole ||| w, rel := tabPut [] d.rel (o / 8) rel }

/-- Whether a word among n bytes of a cached line at va is poisoned. -/
def DLine.poisoned (d : DLine) (va n : Nat) : Bool := (rangeOf (va % 64 / 8) ((va % 64 + n - 1) / 8)).any fun w => d.poison.getLsbD w

/-! ### Accesses of a barrel thread to global memory -/

/-- What an attempt at global memory came to: done with a value, waiting, or failed. -/
inductive GRes where
  | ok (v : Nat) (s : State)
  | wait (s : State)
  | fail (f : AccFail)
  | xlate
  deriving DecidableEq, Repr

/-- A thread waits for a translation; after a failed fault wait the operation traps with XLATE (07 R168, R169). -/
def threadMiss (s : State) (c : BitVec 10) (t : BitVec 3) (x : BitVec 6) (va : Nat) (k : AccessKind) (perm : Bool) : GRes :=
  if (s.thread c t).xfail.isSome then .xlate
  else
    let h := homeSlice s x va
    match requestMiss s h x va k (.thread c (t.setWidth 4)) perm with
    | (some e, s) => .wait (s.mapThread c t fun th => { th with st := .miss h e })
    | (none, s) => .wait (s.mapThread c t fun th => { th with retry := s.cycle + 1 })

/-- A thread waits for its domain's change or for a miss entry: it offers its access again. -/
def threadHold (s : State) (c : BitVec 10) (t : BitVec 3) : GRes := .wait (s.mapThread c t fun th => { th with retry := s.cycle + 1 })

/-- The thread's permission and translation checks at its home slice, then k. -/
def threadServe (s : State) (c : BitVec 10) (t : BitVec 3) (x : BitVec 6) (va : Nat) (kind : AccessKind)
    (k : Word → Nat → State → GRes) : GRes :=
  match look s x va kind with
  | .wait p => threadMiss s c t x va kind p
  | .hit leaf huge pa =>
    k leaf pa (tlbTouch s (homeSlice s x va) { ctx := x, huge := huge, page := va / pageBytes huge, leaf := leaf })

/-- Whether an access goes through while its domain is being changed: it needs neither a translation nor a fill (07 R166). -/
def servedHere (s : State) (x : BitVec 6) (va : Nat) (kind : AccessKind) : Bool :=
  match look s x va kind with
  | .hit leaf _ pa => lineHeld s x leaf va pa
  | .wait _ => false

/-- The checks of a thread's access, which waits while it would miss in a domain that is being changed. -/
def threadLook (s : State) (c : BitVec 10) (t : BitVec 3) (x : BitVec 6) (va : Nat) (kind : AccessKind)
    (k : Word → Nat → State → GRes) : GRes :=
  if domainBusy s x va && !servedHere s x va kind then threadHold s c t else threadServe s c t x va kind k

/-- A read at a replica slice marks the quadrant's replica of the line (07 R173). -/
def noteReplica (s : State) (q : BitVec 2) (leaf : Word) (pa : Nat) : State :=
  if pteReplicate leaf then
    s.mapMem fun m => { m with replicas := (q.toNat, pa / 64) :: m.replicas.filter fun r => r ≠ (q.toNat, pa / 64) }
  else s

/-- A write to a replicated page invalidates the other replicas before it is performed (07 R173). -/
def dropReplicas (s : State) (pa : Nat) : State :=
  s.mapMem fun m => { m with replicas := m.replicas.filter fun r => r.2 ≠ pa / 64 }

/-- A plain write performed at the home slice by agent a of context x at va (07 R172, R173; 08 R202; 16 R393); through: at system scope. -/
def homeWrite (s : State) (a : Ag) (x : BitVec 6) (leaf : Word) (through : Bool) (va pa n v : Nat) : State :=
  let out : Bool := through || pteUncached leaf
  let s := if out then evictLine s pa else recallNear (holdLine s x leaf va pa) pa
  let s := physStore (dropReplicas s pa) out pa (leBytes n v)
  let s := notePlainWrite s a (physKeys pa n)
  let s := if out then s else setLineMark s pa fun k => { k with tag := lineTag s a }
  wakePhys s pa n

/-- The parts of n bytes at an address in each line. -/
def lineParts (pa n : Nat) : List (Nat × Nat) := (linesOf pa n).map fun l => (max l pa, min (l + 64) (pa + n) - max l pa)

/-- Write bytes at va at their home slice, line by line. -/
def homeWriteAll (s : State) (a : Ag) (x : BitVec 6) (leaf : Word) (through : Bool) (va pa : Nat) (l : List Byte) : State :=
  (lineParts pa l.length).foldl (fun s p =>
    homeWrite s a x leaf through (va + (p.1 - pa)) p.1 p.2 (leNat ((l.drop (p.1 - pa)).take p.2))) s

/-- Whether a thread's fill, system-scope operation or far atomic finds every miss entry of its slice taken (07 R174). -/
def missFull (s : State) (x : BitVec 6) (va : Nat) : Bool := (freeMiss (s.slice (homeSlice s x va))).isNone

/-- Whether an access to n bytes waits before it fills a line: its domain is being changed, or its slice's miss entries are all taken (07 R166,
R174). -/
def fillHeld (s : State) (x : BitVec 6) (leaf : Word) (va pa n : Nat) : Bool :=
  !pteUncached leaf && (linesOf pa n).any fun l =>
    let v := va / 64 * 64 + (l - pa / 64 * 64)
    !lineHeld s x leaf v l && (domainBusy s x v || missFull s x v)

/-- A thread waits for the fill of its line, in a miss entry (07 R174). -/
def threadFill (s : State) (c : BitVec 10) (t : BitVec 3) (x : BitVec 6) (va : Nat) (kind : AccessKind) : GRes :=
  match freeMiss (s.slice (homeSlice s x va)) with
  | none => threadHold s c t
  | some i =>
    let m : Miss := { ctx := x, page := va / 65536, kind := kind, who := .thread c (t.setWidth 4), also := [], stage := .fill,
                      permission := false, faultId := 0, deadline := 0 }
    .wait ((s.mapSlice (homeSlice s x va) fun k => { k with misses := tabPut none k.misses i (some m) }).mapThread c t
      fun th => { th with st := .response (va / 64) })

/-- Whether a read of quadrant q is served by a replica slice that is not the home slice (07 R173). -/
def atReplica (s : State) (q : BitVec 2) (x : BitVec 6) (leaf : Word) (va : Nat) : Bool :=
  pteReplicate leaf && replicaSlice q (homeSlice s x va) ≠ homeSlice s x va

/-- A plain load of n bytes (16 R386, R387); one that a replica serves is not checked for a race (07 R173). -/
def globLoad (s : State) (c : BitVec 10) (t : BitVec 3) (x : BitVec 6) (va n : Nat) : GRes :=
  let a : Ag := .thread c (t.setWidth 4)
  match dcFind (s.core c) va with
  | some d =>
    if !pteR d.leaf then threadMiss s c t x va .read true
    else if d.poisoned va n then .fail .uncorr
    else
      let s := noteInfos s a (tabGet [] d.rel (va % 64 / 8))
      .ok (leNat (lineBytes d.data (va % 64) n)) (setDcache s c (d :: (s.core c).dcache.filter fun e => e.vline ≠ d.vline))
  | none => threadLook s c t x va .read fun leaf pa s =>
    if pteUncached leaf then
      let s := recallNear s pa
      if physPoisoned s pa n then .fail .uncorr else .ok (leNat (physBytes s pa n)) (noteRead s a (physKeys pa n))
    else match (if atReplica s (quadOf c) x leaf va then none else accessRace s a x leaf va pa) with
      | some g => .fail (.race false true g)
      | none => threadFill (noteReplica s (quadOf c) leaf pa) c t x va .read

/-- A plain store of n bytes (16 R386, R387; 07 R173). Its race check and its tag are made at the home slice with the store, also when
the line is in the core's cache (08 R202-R204; log entry 91). -/
def globStore (s : State) (c : BitVec 10) (t : BitVec 3) (x : BitVec 6) (va n v : Nat) : GRes :=
  let a : Ag := .thread c (t.setWidth 4)
  match dcFind (s.core c) va with
  | some d =>
    let pa := 64 * d.line + va % 64
    if !pteW d.leaf then threadMiss s c t x va .write true
    else match accessRace s a x d.leaf va pa with
      | some g => .fail (.race true true g)
      | none =>
        if pteReplicate d.leaf then .ok 0 (homeWrite (dcDrop s c va) a x d.leaf false va pa n v)
        else
          let s := setLineMark (holdLine s x d.leaf va pa) pa fun k => { k with tag := lineTag s a }
          .ok 0 (dcPut s c d va n v (tabGet [] s.mem.fenceRel a.key))
  | none => threadLook s c t x va .write fun leaf pa s =>
    if pteUncached leaf then .ok 0 (homeWrite s a x leaf true va pa n v)
    else match accessRace s a x leaf va pa with
      | some g => .fail (.race true true g)
      | none => if pteReplicate leaf then .ok 0 (homeWrite s a x leaf false va pa n v) else threadFill s c t x va .write

/-- The start of a synchronising access at scope 1 or wider: the thread's own line goes home, and the home slice takes the
line back from a near holder; at system scope the line is written to memory and invalidated (07 R172). -/
def homeReady (s : State) (c : BitVec 10) (x : BitVec 6) (leaf : Word) (sc va pa : Nat) : State :=
  let s := dcDrop s c va
  if sc = 4 then evictLine s pa else recallNear (holdLine s x leaf va pa) pa

/-- An acquire of a thread: the counts, then the cache of its core (08 R191, R197). -/
def threadAcquire (s : State) (c : BitVec 10) (t : BitVec 4) (sc : Nat) (keys : List Nat) : State :=
  let s := acquireWords s (.thread c t) sc keys
  if sc ≥ 1 then dcAcquire s c else s

/-- An acquire of a thread from the releases that it has read. -/
def threadTake (s : State) (c : BitVec 10) (t : BitVec 4) (sc : Nat) (l : List RelInfo) : State :=
  let s := takeReleases s (.thread c t) sc l
  if sc ≥ 1 then dcAcquire s c else s

/-- The write-back a thread's release makes first (08 R197). -/
def threadRelease (s : State) (c : BitVec 10) (sc : Nat) : State := if sc ≥ 1 then dcClean s c else s

/-- The start of a synchronising access to the 8 bytes at va; the caller makes the read with its acquire, or the write. At scope 0 it goes through
the core's cache. Only a read consumes poison (07 R180). -/
def globSyncRead (s : State) (c : BitVec 10) (t : BitVec 3) (x : BitVec 6) (sc va : Nat) (kind : AccessKind) :
    (Nat → State → GRes) → GRes := fun k =>
  threadLook s c t x va kind fun leaf pa s =>
    if sc = 0 && !pteUncached leaf then
      match dcFind (s.core c) va with
      | some d => if kind ≠ .write && d.poisoned va 8 then .fail .uncorr else k pa s
      | none => threadFill s c t x va kind
    else if (sc = 4 || !lineHeld s x leaf va pa) && missFull s x va then threadHold s c t
    else
      let s := homeReady s c x leaf sc va pa
      if kind ≠ .write && physPoisoned s pa 8 then .fail .uncorr else k pa s

/-- The 8 bytes that core c's threads read at va: in its cache, or at physical address pa. -/
def globWord (s : State) (c : BitVec 10) (va pa : Nat) : Nat :=
  match dcFind (s.core c) va with
  | some d => leNat (lineBytes d.data (va % 64) 8)
  | none => leNat (physBytes s pa 8)

/-- The releases that core c's threads read with the word at va: those of its cached copy, or of physical address pa. -/
def globRel (s : State) (c : BitVec 10) (va pa : Nat) : List RelInfo :=
  match dcFind (s.core c) va with
  | some d => tabGet [] d.rel (va % 64 / 8)
  | none => tabGet [] s.mem.relInfo (physWordKey pa)

/-- Whether the word that core c's threads read at va is poisoned: in its cached copy, in a near holder's, or at home. -/
def globPoisoned (s : State) (c : BitVec 10) (va pa : Nat) : Bool :=
  match dcFind (s.core c) va with
  | some d => d.poisoned va 8
  | none =>
    match ((lineMark s pa).near).bind fun o => (s.core o).dcache.find? fun d => d.line = pa / 64 with
    | some d => d.poisoned pa 8
    | none => physPoisoned s pa 8

/-- Store 8 bytes for a synchronising write, with what they are released with: in the core's cache when the line is there, otherwise at the home
slice. -/
def globPutWord (s : State) (c : BitVec 10) (sc va pa v : Nat) (rel : List RelInfo) : State :=
  match dcFind (s.core c) va with
  | some d => dcPut s c d va 8 v rel
  | none =>
    let s := physStore (dropReplicas (recallNear s pa) pa) (sc = 4) pa (leBytes 8 v)
    wakePhys (s.mapMem fun m => { m with relInfo := tabPut [] m.relInfo (physWordKey pa) rel }) pa 8

/-- The synchronising write itself, release or relaxed, with its counts and release information. -/
def globSyncWrite (s : State) (c : BitVec 10) (t : BitVec 3) (release : Bool) (sc va pa v : Nat) : State :=
  let a : Ag := .thread c (t.setWidth 4)
  if release then
    let s := countRelease (threadRelease s c sc) a sc
    let i := relInfoOf s a sc
    (globPutWord s c sc va pa v [i]).mapMem fun m => { m with lastRel := tabPut none m.lastRel (physWordKey pa) (some i) }
  else globPutWord s c sc va pa v (tabGet [] s.mem.fenceRel a.key)

/-- Index of the contention predictor for va (08 R209). -/
def predictorIx (va : Nat) : Nat := (va / 64 % 64) ^^^ (va / 64 / 64 % 64)

/-- Whether the predictor places an atomic on va far (08 R209). -/
def placedFar (k : Core) (va : Nat) : Bool := 1 < (tabGet 0 k.predictor (predictorIx va)).toNat

/-- Whether an atomic is performed at the home slice: the predictor places it far, or its page is replicated (07 R173; 08 R209; log entry 90). -/
def atHome (k : Core) (leaf : Word) (va : Nat) : Bool := pteReplicate leaf || placedFar k va

/-- The placement of a global atomic, near or far, with the predictor's counters (08 R209, R210). A near atomic leaves the
line held by its core. -/
def placeAtomic (s : State) (c : BitVec 10) (x : BitVec 6) (va pa : Nat) (leaf : Word) : State :=
  let ix := predictorIx va
  let n := tabGet 0 (s.core c).predictor ix
  let put (v : BitVec 2) (s : State) : State := s.mapCore c fun k => { k with predictor := tabPut 0 k.predictor ix v }
  if pteUncached leaf then s
  else if atHome (s.core c) leaf va then
    let s := if (lineMark s pa).lastAtom = some c && n ≠ 0 then put (n - 1) s else s
    setLineMark (recallNear (holdLine (dcDrop s c va) x leaf va pa) pa) pa fun k => { k with lastAtom := some c }
  else
    let other : Bool := match (lineMark s pa).near with
      | some o => !(o = c)
      | none => false
    let s := if other then put (satInc n) s else s
    let s := recallNear (dcDrop s c va) pa
    setLineMark (dcFill s c x va leaf pa) pa fun k => { k with near := some c }

/-- After a near atomic the cached line is held exclusively and clean. -/
def holdNear (s : State) (c : BitVec 10) (va : Nat) : State :=
  setDcache s c ((s.core c).dcache.map fun d => if d.vline = va / 64 then { d with excl := true } else d)

/-! ### Accesses of engines, of the host and of peers (07 R172; 08 R202) -/

/-- What an engine's global access came to. -/
inductive ERes where
  | ok (pa : Nat) (leaf : Word)
  | wait (slice : BitVec 8) (permission : Bool)
  deriving DecidableEq, Repr

/-- An engine's translation of va; an access that would fill its line waits while its slice has no free miss entry (07 R174). -/
def engineLook (s : State) (x : BitVec 6) (va : Nat) (k : AccessKind) : ERes :=
  match look s x va k with
  | .hit leaf _ pa =>
    if !pteUncached leaf && !lineHeld s x leaf va pa && missFull s x va then .wait (homeSlice s x va) false else .ok pa leaf
  | .wait p => .wait (homeSlice s x va) p

/-- Whether context x can reach va now for an engine: translated by its slice, or a walk succeeds. The walk is installed
as STT installs it. -/
def walkInstall (s : State) (x : BitVec 6) (va : Nat) : Option State :=
  match walk s x va with
  | none => none
  | some (leaf, huge) =>
    some (s.mapSlice (homeSlice s x va) fun k =>
      { k with tlb := tlbInstall k.tlb { ctx := x, huge := huge, page := va / pageBytes huge, leaf := leaf } })

end Sys2Proof.Machine
end

