-- ==== Sys2Proof/Machine/Ops.lean ====
section
/-! DEFINITION. The named operations over registers, records, user interrupts and frames, and the taking of a trap with the
returns from one (09 R216-R232; 10 R240, R256-R258, R266, R484; 04 R97, R98). -/

namespace Sys2Proof.Machine

/-! ### Registers of a primary (09 R216-R218, R229, R239) -/

/-- Number of a destination within its core, for free values. -/
def Dest.num : Dest → Nat
  | .s n => n
  | .q n => 128 + n
  | .v n => 160 + n.toNat
  | .m n => 192 + n.toNat
  | .ft n => 200 + n.toNat
  | .lc n => 216 + n.toNat
  | .ln => 220
  | .mpc => 221
  | .flags => 222
  | .creg n => 256 + n.toNat

/-- Code of a destination in c.trapinfo of LANDCOL (14 R355). -/
def Dest.code : Dest → Nat
  | .s n => if n ≥ 64 then n - 40 else n
  | .q n => 0x40 + (if n = 16 then 7 else n)
  | .v n => 0x50 + n.toNat
  | .m n => 0x70 + n.toNat
  | .lc n => 0x78 + n.toNat
  | .ln => 0x7C
  | _ => 0

/-- Code of a free value of core c. -/
def freeCode (c : BitVec 10) (n : Nat) : Nat := 1024 * n + c.toNat

/-- The physical scalar register that name n means: the shadow bank replaces s24-s31 in a handler (09 R229). -/
def physS (k : Core) (n : Nat) : Nat := if k.inui && 24 ≤ n && n ≤ 31 then n + 40 else n

/-- The physical predicate that name n means: bit 16 is shadow q7 (09 R229). -/
def physQ (k : Core) (n : Nat) : Nat := if k.inui && n = 7 then 16 else n

/-- Whether a register awaits a result of an earlier bundle: its value is then undefined (09 R216). -/
def awaits (k : Core) (d : Dest) : Bool :=
  (k.pend.any fun p => p.dest = d && p.born < k.tick) ||
    (k.accs.any fun a => (a.dest = some d || a.pdest = some d) && a.born < k.tick) ||
    k.lateTraps.any fun x => x.dest = some d || x.pdest = some d

/-- Where the undefined values of a primary's program are drawn: by its occurrence and its active cycles, so that two runs of an occurrence that differ
only in their freezes draw the same (09 R238). The codes are apart from every other draw's. -/
def runCode (s : State) (c : BitVec 10) (n : Nat) : Nat :=
  2 ^ 40 * (match (s.core c).occ with
    | some id => id + 2
    | none => 1) + freeCode c n

/-- A value that a primary's program reads undefined, for the thing that n names (09 R216, R238). -/
def State.primFree (s : State) (c : BitVec 10) (n : Nat) : Lanes := Config.freeWord (s.core c).active.toNat (runCode s c n)

/-- A choice left to the machine that a primary's program sees (09 R238). -/
def State.primChoice (s : State) (c : BitVec 10) (n : Nat) : Bool := Config.freeBit (s.core c).active.toNat (runCode s c n)

/-- Scalar register n of core c as an operand; s0 reads 0. -/
def readPrimS (s : State) (c : BitVec 10) (n : BitVec 6) : Word :=
  if n = 0 then 0
  else
    let k := s.core c
    let d := Dest.s (physS k n.toNat)
    if awaits k d then (s.primFree c d.num).setWidth 64 else tabGet 0 k.sreg (physS k n.toNat)

/-- Predicate n of core c as an operand; q0 and q8 read true. -/
def readPrimQ (s : State) (c : BitVec 10) (n : BitVec 4) : Bool :=
  if n = 0 ∨ n = 8 then true
  else
    let k := s.core c
    let d := Dest.q (physQ k n.toNat)
    if awaits k d then (s.primFree c d.num).getLsbD 0 else k.preds.getLsbD (physQ k n.toNat)

/-- Vector register n of core c as an operand. -/
def readV (s : State) (c : BitVec 10) (n : BitVec 5) : Lanes :=
  let k := s.core c
  if awaits k (.v n) then s.primFree c (Dest.v n).num else tabGet 0 k.vreg n.toNat

/-- Mask register n of core c as an operand; m0 reads all ones. -/
def readM (s : State) (c : BitVec 10) (n : BitVec 3) : Word :=
  let k := s.core c
  if n = 0 then BitVec.allOnes 64
  else if awaits k (.m n) then (s.primFree c (Dest.m n).num).setWidth 64 else tabGet 0 k.mreg n.toNat

/-- Start a result on its way to a destination: visible bound ticks later (09 R216, R217). -/
def addPend (s : State) (c : BitVec 10) (d : Dest) (v : Lanes) (bound : Nat) : State :=
  s.mapCore c fun k =>
    { k with pend := k.pend ++ [{ dest := d, val := v, born := k.tick, due := k.tick + bound, vflags := 0, mstat := 0 }] }

/-- Start flag bits on their way to c.vflags or c.mstat (17 R407; 18 R441). -/
def addFlags (s : State) (c : BitVec 10) (vf : BitVec 5) (ms : BitVec 4) (bound : Nat) : State :=
  if vf = 0 ∧ ms = 0 then s
  else s.mapCore c fun k =>
    { k with pend := k.pend ++ [{ dest := .flags, val := 0, born := k.tick, due := k.tick + bound, vflags := vf, mstat := ms }] }

/-- Write scalar register n of core c; s0 discards (09 R218). -/
def writePrimS (s : State) (c : BitVec 10) (n : BitVec 6) (v : Word) (bound : Nat) : State :=
  if n = 0 then s else addPend s c (.s (physS (s.core c) n.toNat)) (v.setWidth 2048) bound

/-- Write predicate n of core c; q0 and q8 discard. -/
def writePrimQ (s : State) (c : BitVec 10) (n : BitVec 4) (v : Bool) (bound : Nat) : State :=
  if n = 0 ∨ n = 8 then s else addPend s c (.q (physQ (s.core c) n.toNat)) (if v then 1 else 0) bound

/-- Write vector register n. -/
def writeV (s : State) (c : BitVec 10) (n : BitVec 5) (v : Lanes) (bound : Nat) : State := addPend s c (.v n) v bound

/-- Write mask register n; m0 discards. -/
def writeM (s : State) (c : BitVec 10) (n : BitVec 3) (v : Word) (bound : Nat) : State :=
  if n = 0 then s else addPend s c (.m n) (v.setWidth 2048) bound

/-! ### Registers of a barrel thread (10 R240) -/

/-- Register n of a thread; x0 reads 0. -/
def readX (s : State) (c : BitVec 10) (t : BitVec 3) (n : BitVec 6) : Word := if n = 0 then 0 else tabGet 0 (s.thread c t).x n.toNat

/-- Write register n of a thread; x0 discards. -/
def writeX (s : State) (c : BitVec 10) (t : BitVec 3) (n : BitVec 6) (v : Word) : State :=
  if n = 0 then s else s.mapThread c t fun th => { th with x := tabPut 0 th.x n.toNat v }

/-- Flag n of a thread; f0 reads true. -/
def readF (s : State) (c : BitVec 10) (t : BitVec 3) (n : Nat) : Bool := if n = 0 then true else (s.thread c t).f.getLsbD n

/-- Write flag n of a thread; f0 discards. -/
def writeF (s : State) (c : BitVec 10) (t : BitVec 3) (n : Nat) (v : Bool) : State :=
  if n = 0 then s else s.mapThread c t fun th => { th with f := putField th.f n 1 (if v then 1 else 0) }

/-! ### Registers of the agent that performs the operation -/

/-- The core of the operation being performed. -/
def State.me (s : State) : BitVec 10 := s.cur.agent.core

/-- The agent of the operation being performed, in the memory model. -/
def State.ag (s : State) : Ag := s.cur.agent.ag

/-- Register n of the performing agent. -/
def readR (s : State) (n : BitVec 6) : Word :=
  match s.cur.agent with
  | .prim c => readPrimS s c n
  | .thread c t => readX s c t n

/-- Write register n of the performing agent; a primary's result has a latency bound, a thread's is there at once (10 R241). -/
def writeR (s : State) (n : BitVec 6) (v : Word) (bound : Nat) : State :=
  match s.cur.agent with
  | .prim c => writePrimS s c n v bound
  | .thread c t => writeX s c t n v

/-- Predicate or flag n of the performing agent. -/
def readP (s : State) (n : BitVec 4) : Bool :=
  match s.cur.agent with
  | .prim c => readPrimQ s c n
  | .thread c t => readF s c t n.toNat

/-- Write predicate or flag n of the performing agent. -/
def writeP (s : State) (n : BitVec 4) (v : Bool) (bound : Nat) : State :=
  match s.cur.agent with
  | .prim c => writePrimQ s c n v bound
  | .thread c t => writeF s c t n.toNat v

/-- Raise c.vflags bits at a bound: only a primary's operation sets flags (15 R366; 17 R407). -/
def raiseFlags (s : State) (vf : BitVec 5) (bound : Nat) : State :=
  match s.cur.agent with
  | .prim c => addFlags s c vf 0 bound
  | .thread _ _ => s

/-- The operation of a thread is complete: its next operation stands 8 bytes on (10 R241). A primary's bundle goes on by
itself. -/
def finish (s : State) : State :=
  match s.cur.agent with
  | .prim _ => s
  | .thread c t => s.mapThread c t fun th => { th with pc := th.pc + 8, st := .running, retry := 0, xfail := none, issued := none, lastRead := false }

/-- A thread's next operation stands at a target (15 R383). -/
def jumpTo (s : State) (target : Word) : State :=
  match s.cur.agent with
  | .prim _ => s
  | .thread c t => s.mapThread c t fun th => { th with pc := target.setWidth 57, st := .running, retry := 0, xfail := none, issued := none, lastRead := false }

/-! ### MSI-X, event records and completion records (03 R58; 04 R97, R98) -/

/-- The function that owns a context: contexts 16-63 belong to the PF (03 R57). -/
def fnOf (x : BitVec 6) : BitVec 4 := if x.toNat ≤ 15 then x.setWidth 4 else 0

/-- Vectors of a function's MSI-X table (03 R58). -/
def msixVectors (fn : BitVec 4) : Nat := if fn = 0 then 512 else 96

/-- Send an MSI-X message of a function whose table is programmed (03 R58, R61); a masked vector's message is held back, and of a vector
beyond the table there is none (DESIGN CHOICE, log entry 99). -/
def sendMsix (s : State) (fn : BitVec 4) (vector : Nat) : State :=
  let e : BitVec 4 × BitVec 16 := (fn, BitVec.ofNat 16 vector)
  if !s.mgmt.msixOn.getLsbD fn.toNat || vector ≥ msixVectors fn then s
  else s.mapMgmt fun m =>
    if (tabGet MsixVec.reset m.msixTab (512 * fn.toNat + vector)).masked then
      { m with msixPend := if m.msixPend.contains e then m.msixPend else m.msixPend ++ [e] }
    else { m with msix := m.msix ++ [e] }

/-- Write bytes through a context's translation for the command processor, at system scope; none on a fault. -/
def cpWrite (s : State) (x : BitVec 6) (va : Nat) (l : List Byte) : Option State :=
  match walkAccess s x va l.length .write with
  | none => none
  | some pa =>
    let s := physStore ((linesOf pa l.length).foldl evictLine s) true pa l
    some (wakePhys (notePlainWrite s .host (physKeys pa l.length)) pa l.length)

/-- Entry and occurrence number of an event record; all ones when no occurrence is known (04 R98). -/
def occRef (s : State) : Option Nat → Nat × Nat
  | none => (0xFFFF, 0xFFFFFFFF)
  | some n => match s.occ? n with
    | some o => (o.entry.toNat, o.num % 2 ^ 32)
    | none => (0xFFFF, 0xFFFFFFFF)

/-- An event record that cannot be written adds one to EVLOST (04 R98). -/
def loseEvent (s : State) (x : BitVec 6) : State := s.mapCtx x fun c => { c with evlost := satInc c.evlost }

/-- The command processor writes an event record to the ring of context x (04 R98): kind, reason, occurrence, and the
payload of 16 bytes. -/
def eventRecord (s : State) (x : BitVec 6) (kind reason : Nat) (occ : Option Nat) (payload : Nat) : State :=
  let c := s.ctx x
  let lg := fieldOf c.evcfg 0 5
  if c.st ≠ .active ∨ lg < 6 ∨ lg > 20 then loseEvent s x
  else
    let next := (c.evhead.toNat + 1) % 2 ^ lg
    if next = c.evtail.toNat then loseEvent s x
    else
      let r := occRef s occ
      let bytes := leBytes 8 s.now ++ leBytes 1 kind ++ leBytes 1 reason ++ leBytes 2 r.1 ++ leBytes 4 r.2 ++ leBytes 16 payload
      match cpWrite s x (c.evbase.toNat + 32 * c.evhead.toNat) bytes with
      | none => loseEvent s x
      | some s =>
        sendMsix (s.mapCtx x fun c => { c with evhead := BitVec.ofNat 64 next }) (fnOf x) (fieldOf c.evcfg 16 11)

/-- A payload of 16 bytes from a value at bytes 16-23 and a value at bytes 24-31. -/
def payload2 (a b : Nat) : Nat := a % 2 ^ 64 + 2 ^ 64 * (b % 2 ^ 64)

/-- Code of a completion status (04 Table Command.11). -/
def OccStatus.code : OccStatus → Nat
  | .ok => 1
  | .killed => 2
  | .refused => 3
  | .skipped => 4
  | .trapped => 5

/-- The completion record of an occurrence at DONEADDR, with its interrupt (04 R89, R94, R97). A fault on DONEADDR writes a
DONEFAULT record instead, and the interrupt is still sent. at_ is the NOW it holds. -/
def completionAt (s : State) (at_ : Nat) (id : Nat) (o : Occ) (st : OccStatus) (cause : Byte) (active frozen : Nat) : State :=
  let bytes := leBytes 8 at_ ++ leBytes 2 o.entry.toNat ++ leBytes 2 o.num ++ leBytes 1 st.code ++ leBytes 1 cause.toNat ++
    leBytes 2 0 ++ leBytes 8 active ++ leBytes 8 frozen
  let s := if o.doneaddr = 0 then s
    else match cpWrite s o.ctx o.doneaddr.toNat bytes with
      | some s => s
      | none => eventRecord s o.ctx 4 0x41 (some id) (payload2 o.doneaddr.toNat st.code)
  if o.flags.getLsbD 4 then sendMsix s (fnOf o.ctx) o.vector.toNat else s

/-- The completion record of an occurrence that ends now. -/
def completionRecord (s : State) (id : Nat) (o : Occ) (st : OccStatus) (cause : Byte) (active frozen : Nat) : State :=
  completionAt s s.now id o st cause active frozen

/-! ### User interrupts (09 R227-R230) -/

/-- A word of c.uicause (09 Table Primary.8). -/
def uiCause (source unit event data : Nat) : Word := BitVec.ofNat 64 (source + 256 * event + 2 ^ 20 * unit + 2 ^ 32 * data)

/-- A cause reaches the queue of core c's guidon; a full queue drops it and counts it in LOST (09 R227). -/
def queueCause (s : State) (c : BitVec 10) (cause : Word) : State :=
  s.mapCore (guidonOf s c) fun k =>
    if k.uiq.length ≥ 16 then { k with uilost := satInc k.uilost } else { k with uiq := k.uiq ++ [cause] }

/-- Source of a cause. -/
def causeSource (w : Word) : Nat := fieldOf w 0 4

/-- Whether the source of a cause may interrupt (09 R228). -/
def sourceOn (k : Core) (w : Word) : Bool := 1 ≤ causeSource w && k.uien.getLsbD (causeSource w - 1)

/-- PEND of c.uimask (09 Table Primary.9). -/
def pendBits (k : Core) : Nat := maskFrom (fun i => k.uiq.any fun w => causeSource w = i + 1) 5

/-- Enter the user-interrupt handler with a cause: uicause, INUI, shadow s31 and the vector (09 R229). ret is the word index
of the bundle that would have issued next. -/
def enterHandler (k : Core) (cause : Word) (ret : BitVec 16) : Core :=
  { k with uicause := cause, inui := true, handlerCount := 0, pc := k.uivec.setWidth 16, sreg := tabPut 0 k.sreg 71 (ret.setWidth 64) }

/-- Leave the handler after IRET's second delay bundle: the main names return and the handler's loops are disarmed
(09 R230; 15 R376). -/
def leaveHandler (k : Core) : Core :=
  { k with inui := false, loops := (k.loops.map fun e => if e.2.handler then (e.1, { e.2 with armed := false }) else e) }

/-! ### Co-scheduling units (05 R103) -/

/-- PRESENT of a level declaration. -/
def levelOn (l : BitVec 32) : Bool := l.getLsbD 7
/-- DOMAIN of a level declaration. -/
def levelDomain (l : BitVec 32) : Nat := fieldOf l 0 3

/-- The guidon of the gang that a core of an occurrence is in (05 R102). -/
def Occ.guidonOf (o : Occ) (c : BitVec 10) : BitVec 10 := BitVec.ofNat 10 (c.toNat / 2 ^ o.gang * 2 ^ o.gang)

/-- Groups of cores with one key, in order. -/
def groupBy (f : BitVec 10 → Nat) (l : List (BitVec 10)) : List (List (BitVec 10)) :=
  (l.foldl (fun (r : List Nat) c => if r.contains (f c) then r else r ++ [f c]) []).map fun k => l.filter fun c => f c = k

/-- The largest declared domain; queues make it at least a cluster. -/
def Occ.domain (o : Occ) : Nat :=
  ((o.levels.filter levelOn).map levelDomain).foldl max (if o.queueCaps.any (· ≠ 0) then 3 else 0)

/-- The units of an occurrence (05 Table Scheduler.2). -/
def coUnits (o : Occ) : List (List (BitVec 10)) :=
  groupBy (fun c => match o.domain with
    | 0 => (o.guidonOf c).toNat
    | 1 => (o.guidonOf c).toNat
    | 2 => (o.guidonOf c).toNat
    | 3 => (clusterOf c).toNat
    | 4 => (quadOf c).toNat
    | _ => 0) o.coreList

/-! ### Kills and stops (05 R121, R128; 09 R232) -/

/-- Whether an occurrence is on its way to its end. -/
def Occ.ending (o : Occ) : Bool := o.phase = .killing || o.phase = .ended || o.stopKill

/-- The cores of an occurrence stop at a cycle at least 64 ahead and it is killed with a status and cause (05 R121, R128).
The stop cycle already chosen for a pre-emption stays. -/
def killOccurrence (s : State) (id : Nat) (st : OccStatus) (cause : Byte) : State :=
  match s.occ? id with
  | none => s
  | some o =>
    if o.ending || o.phase = .skipped then s
    else
      s.mapOcc id fun o => { o with status := st, cause := cause, stopKill := true,
                                    stopAt := some (match o.stopAt with
                                      | some c => c
                                      | none => s.cycle + 64) }

/-! ### Taking a trap on a primary (09 R231, R232) -/

/-- The gang of core c stops: a guidon's trap stops the guidon here and each follower once it has issued what was forwarded
to it; a follower's trap stops every follower here and the guidon at its next boundary (09 R232). -/
def stopGang (s : State) (c : BitVec 10) (r : Run) : State :=
  let g := guidonOf s c
  if isGuidon s c then
    (gangOf s g).foldl (fun s m => s.mapCore m fun k =>
      if m = c then { k with run := r, bund := none, hold := none }
      else if k.feed.isEmpty && k.bund.isNone then { k with run := r } else { k with stopPending := true }) s
  else
    (gangOf s g).foldl (fun s m => s.mapCore m fun k => { k with run := r, bund := none, feed := [], hold := none }) s

/-- Byte 9 of a TRAP record, which the spec states for no trap: a free value (04 R98; log entry 1). -/
def trapReason (s : State) : Byte := BitVec.ofNat 8 (s.free 4104).toNat

/-- The trap operation of a primary: the trap registers of the trapping core, the stop of its gang, the TRAP record, and
the hold for TRAPCTL (BRK and TRAP of a guidon) or the kill of the occurrence (09 R231, R232). -/
def takePrimTrap (s : State) (c : BitVec 10) (t : TrapInfo) : State :=
  let s := if t.cause = .uncorr then countUncorr s (quadOf c) else s
  let hold := isGuidon s c && (t.cause = .brk || t.cause = .trap)
  let s := s.mapCore c fun k =>
    { k with trapcause := t.cause.code.setWidth 64, trapmask := t.mask.setWidth 64, trapinfo := t.info, trapaddr := t.addr, traps := [] }
  let s := stopGang s c (if hold then .held else .trapped)
  match (s.core c).occ with
  | none => s
  | some id =>
    let s := eventRecord s (ctxOfCore s c) 3 (trapReason s).toNat (some id)
      (payload2 (c.toNat + 2 ^ 16 * t.cause.code.toNat + 2 ^ 24 * t.mask.toNat + 2 ^ 32 * (s.core c).pc.toNat) t.info.toNat)
    if hold then s else killOccurrence s id .trapped t.cause.code

/-! ### Frames and thread traps (10 R256-R258, R260, R266, R484) -/

/-- A GLOBAL address in the scratchpad aperture (10 R260). -/
def inAperture (va : Nat) : Bool := va < 2 ^ 57 && va / 2 ^ 30 = 2 ^ 27 - 1

/-- Core named by an aperture address. -/
def apertureCore (va : Nat) : BitVec 10 := BitVec.ofNat 10 (va / 2 ^ 20 % 1024)

/-- Offset named by an aperture address. -/
def apertureOff (va : Nat) : Nat := va % 2 ^ 20

/-- What an access to a frame came to. -/
inductive FRes where
  | ok (s : State)
  | wait (s : State)
  | fail (cause : Cause)
  deriving DecidableEq, Repr

/-- Write parts of a frame (offset and bytes) for a thread (10 R484): in a cluster scratchpad or in global memory. -/
def frameWrite (s : State) (c : BitVec 10) (t : BitVec 3) (x : BitVec 6) (fp : Nat) (parts : List (Nat × List Byte)) : FRes :=
  let a : Ag := .thread c (t.setWidth 4)
  if inAperture fp then
    let o := apertureCore fp
    let off := apertureOff fp
    if !windowOk s a o .write off 256 || inPool s o off 256 then .fail .nack
    else if ({ core := o, off := BitVec.ofNat 20 off, len := 256, pos := 0 } : Piece).poisoned s then .fail .uncorr
    else .ok (parts.foldl (fun s p => plainWrite s a (leNat p.2)
        [{ core := o, off := BitVec.ofNat 20 (off + p.1), len := p.2.length, pos := 0 }]) s)
  else if fp ≥ 2 ^ 57 then .fail .xlate
  else match threadLook s c t x fp .write (fun leaf pa s =>
      let s := (List.range 4).foldl (fun s i => dcDrop s c (fp + 64 * i)) s
      if physPoisoned s pa 256 then .fail .uncorr
      else if fillHeld s x leaf fp pa 256 then threadHold s c t
      else .ok 0 (parts.foldl (fun s p => homeWriteAll s a x leaf false (fp + p.1) (pa + p.1) p.2) s)) with
    | .ok _ s => .ok s
    | .wait s => .wait s
    | .fail _ => .fail .uncorr
    | .xlate => .fail .xlate

/-- A frame read: its 256 bytes as a number, or why not. -/
inductive FRead where
  | ok (v : Nat) (s : State)
  | wait (s : State)
  | fail (cause : Cause)
  deriving DecidableEq, Repr

/-- Read a frame for a thread (10 R484). -/
def frameRead (s : State) (c : BitVec 10) (t : BitVec 3) (x : BitVec 6) (fp : Nat) : FRead :=
  let a : Ag := .thread c (t.setWidth 4)
  if inAperture fp then
    let p : Piece := { core := apertureCore fp, off := BitVec.ofNat 20 (apertureOff fp), len := 256, pos := 0 }
    if !windowOk s a p.core .read p.off.toNat 256 || inPool s p.core p.off.toNat 256 then .fail .nack
    else if p.poisoned s then .fail .uncorr
    else .ok (gatherPieces s [p]) s
  else if fp ≥ 2 ^ 57 then .fail .xlate
  else match threadLook s c t x fp .read (fun leaf pa s =>
      if fillHeld s x leaf fp pa 256 then threadHold s c t else
      let s := serveLines ((List.range 4).foldl (fun s i => dcDrop s c (fp + 64 * i)) s) x leaf fp pa 256
      if physPoisoned s pa 256 then .fail .uncorr else .ok (leNat (physBytes s pa 256)) s) with
    | .ok v s => .ok v s
    | .wait s => .wait s
    | .fail _ => .fail .uncorr
    | .xlate => .fail .xlate

/-- The registers that a live mask names, ascending; bit 0 is ignored (10 Table Barrel.5). -/
def liveRegs (m : Half) : List Nat := (setBits m 32).filter (· ≠ 0)

/-- The parts of a frame that a save writes: PC, LIVE with FLAGS and STATE, and the named registers, of which a frame holds 29 (10 Table
Barrel.5). -/
def frameParts (th : Thread) (pc : BitVec 57) (state : Nat) : List (Nat × List Byte) :=
  (0, leBytes 8 pc.toNat) :: (16, leBytes 4 th.live.toNat ++ leBytes 1 (fieldOf th.f 1 3) ++ leBytes 1 state) ::
    (match ((liveRegs th.live).take 29).flatMap fun i => leBytes 8 (tabGet 0 th.x i).toNat with
     | [] => []
     | l => [(24, l)])

/-- The context of a thread's occurrence. -/
def ctxOfThread (s : State) (c : BitVec 10) (t : BitVec 3) : BitVec 6 :=
  if t = 7 then 0 else match s.occ? (s.thread c t).occ with
    | some o => o.ctx
    | none => 0

/-- A thread slot becomes free. -/
def freeThread (s : State) (c : BitVec 10) (t : BitVec 3) : State :=
  s.mapThread c t fun th => { th with st := .free, xfail := none, issued := none, trapped := none, lastRead := false, post := none }

/-- The FRAMEFAULT record (10 R484). -/
def frameFault (s : State) (x : BitVec 6) (occ : Option Nat) (fp : Nat) (cause : Cause) (op : Nat) (c : BitVec 10) : State :=
  eventRecord s x 4 0x52 occ (payload2 fp (cause.code.toNat + 256 * op + 65536 * c.toNat))

/-- The trap operation of a barrel thread: the frame is saved TRAPPED, the slot freed and a TRAP record written; a save
that cannot be made writes a FRAMEFAULT record instead; a thread trap of the service thread restarts its firmware
(10 R265, R266, R484). -/
def takeThreadTrap (s : State) (c : BitVec 10) (t : BitVec 3) (cause : Cause) (info : Word) : State :=
  let th := s.thread c t
  if t = 7 then
    ((s.mapThread c t fun _ => Thread.reset).mapMem fun m => { m with walks := tabPut none m.walks c.toNat none }).mapMgmt fun m => { m with telEvents := m.telEvents ++ [.walkerRestart s.time.now c] }
  else
    let x := ctxOfThread s c t
    let count (s : State) : State := if cause = .uncorr then countUncorr s (quadOf c) else s
    -- the save's own wait may fail; the operation's failure is taken
    let s := if th.trapped.isSome then s else s.mapThread c t fun th => { th with xfail := none }
    match frameWrite s c t x th.frame.toNat (frameParts th th.pc 4) with
    | .wait s => s.mapThread c t fun th => { th with issued := none, post := none, trapped := some (cause, info) }
    | .fail w => frameFault (freeThread (count s) c t) x (some th.occ) th.frame.toNat w 3 c
    | .ok s => eventRecord (freeThread (count s) c t) x 3 (trapReason s).toNat (some th.occ)
        (payload2 (c.toNat + 2 ^ 16 * cause.code.toNat + 2 ^ 24 * (0x80 + t.toNat) + 2 ^ 32 * (th.pc.toNat % 2 ^ 32)) info.toNat)

/-- Take a trap of the performing agent: the ONE trap operation of both agents. A thread's record carries the address, the
software code or the MEMRACE word in info. -/
def takeTrap (s : State) (t : TrapInfo) : State :=
  match s.cur.agent with
  | .prim c => takePrimTrap s c t
  | .thread c n => takeThreadTrap s c n t.cause
      (match t.cause with
       | .memrace => t.info
       | .trap => t.info
       | .illop => 0
       | .priv => 0
       | .qreserve => 0
       | _ => t.addr)

/-- TRAPCTL RESUME: every member of a held gang issues its stopped bundle on one cycle, followers 4 cycles later, with the
TRAP or BRK counted as not executing (09 R232; 15 R379). -/
def resumeHeld (s : State) (c : BitVec 10) : State :=
  (gangOf s c).foldl (fun s m => s.mapCore m fun k => { k with run := .running, stopPending := false, skipTrap := if m = c then some (k.pc, k.inui) else none }) s

/-- Bit of a slot in c.trapmask: 0 C to 7 E (09 R231). -/
def Slot.bit : Slot → Nat
  | .c => 0
  | .s0 => 1
  | .s1 => 2
  | .m0 => 3
  | .m1 => 4
  | .v => 5
  | .x => 6
  | .e => 7

/-- SLOT code of an access (08 Table Model.5). -/
def Slot.acc : Slot → Nat
  | .m0 => 0
  | .m1 => 1
  | .x => 2
  | .e => 3
  | _ => 0

/-- c.trapinfo of a failed access: BUNDLE and SLOT, and for a race its kind, WRITER and COUNT (08 Table Model.5). -/
def failInfo (bundle : BitVec 16) (slot : Slot) : AccFail → Word
  | .race w g t => BitVec.ofNat 64 (t.count.toNat + 2 ^ 16 * t.writer.toNat + 2 ^ 26 * slot.acc + (if w then 2 ^ 28 else 0) +
      (if g then 2 ^ 29 else 0) + 2 ^ 32 * bundle.toNat)
  | _ => BitVec.ofNat 64 (2 ^ 26 * slot.acc + 2 ^ 32 * bundle.toNat)

/-- Cause of a failed access. -/
def AccFail.cause : AccFail → Cause
  | .nack => .nack
  | .race _ _ _ => .memrace
  | .uncorr => .uncorr

/-- A failed access of a thread traps at the operation (10 R267; 08 R204). -/
def failThread (s : State) (f : AccFail) (addr : Word) : State :=
  match s.cur.agent with
  | .prim _ => s
  | .thread c t => takeTrap s { cause := f.cause, mask := 0, info := failInfo ((s.thread c t).pc.setWidth 16) s.cur.slot f, addr := addr }

/-- The access trap of a failed access (09 R231). -/
def accessTrapOf (bundle : BitVec 16) (slot : Slot) (f : AccFail) (addr : Word) : TrapInfo :=
  { cause := f.cause, mask := BitVec.ofNat 8 (2 ^ slot.bit), info := failInfo bundle slot f, addr := addr }

/-- A failed access of a primary becomes an access trap, taken at the next boundary (09 R231). -/
def failPrim (s : State) (c : BitVec 10) (bundle : BitVec 16) (slot : Slot) (f : AccFail) (addr : Word) : State :=
  s.mapCore c fun k => { k with traps := k.traps ++ [accessTrapOf bundle slot f addr] }

/-- Record the trap of a primary's access: at the next boundary, but that of a poisoned value at the one at which the value would land, at tick due (07
R180; 09 R231). -/
def failAccess (s : State) (c : BitVec 10) (a : Access) (due : Nat) (f : AccFail) (addr : Word) : State :=
  if f = .uncorr then
    s.mapCore c fun k => { k with lateTraps := k.lateTraps ++ [{ due := due, dest := a.dest, pdest := a.pdest, trap := accessTrapOf a.bundle a.slot f addr }] }
  else failPrim s c a.bundle a.slot f addr

/-! ### Control registers of a core (09 Table Primary.2) -/

/-- The numbers of Table Primary.2. -/
def cregKnown (n : Nat) : Bool :=
  n ≤ 6 || (8 ≤ n && n ≤ 12) || (0x10 ≤ n && n ≤ 0x13) || (0x18 ≤ n && n ≤ 0x1B) || n = 0x20 || n = 0x21 ||
    (0x28 ≤ n && n ≤ 0x2F) || (0x30 ≤ n && n ≤ 0x37) || (0x40 ≤ n && n ≤ 0x64 && n % 8 ≤ 4)

/-- The numbers that MTC may write, the privileged c.cw0-c.cw7 apart. -/
def cregRW (n : Nat) : Bool :=
  n = 0 || n = 0x10 || n = 0x12 || n = 0x13 || n = 0x20 || n = 0x21 || (0x28 ≤ n && n ≤ 0x2F)

/-- Code of a freeze reason (09 Table Primary.7). -/
def Freeze.code : Freeze → Nat
  | .ecc => 1
  | .hoist => 2
  | .jobwait => 3
  | .hold => 4
  | .pwait => 5
  | .lrw => 6
  | .service => 7
  | .thermal => 8
  | .preemptPending => 9

/-- c.status (09 Table Primary.3); PRIV is 0. -/
def statusOf (k : Core) : Nat :=
  (if k.pendFmt.isSome then 1 else 0) + (if k.uie then 2 else 0) + (if k.inui then 4 else 0) +
    16 * (match k.frz with
      | some f => f.code
      | none => 0)

/-- The value of control register n of core c (09 Table Primary.2; 15 R369). -/
def readCreg (s : State) (c : BitVec 10) (n : Nat) : Word :=
  let k := s.core c
  match n with
  | 0 => BitVec.ofNat 64 (statusOf k)
  | 1 => k.pc.setWidth 64
  | 2 => k.mpc.setWidth 64
  | 3 => s.time.now
  | 4 => s.time.cycle
  | 5 => k.active
  | 6 => k.freeze
  | 8 => c.setWidth 64
  | 9 => BitVec.ofNat 64 k.rank
  | 10 => BitVec.ofNat 64 (16 * k.gangSize + (memberOf k.guidon).toNat)
  | 11 => k.variant.setWidth 64
  | 12 => k.stage.setWidth 64
  | 0x10 => k.uivec
  | 0x11 => k.uicause
  | 0x12 => BitVec.ofNat 64 (k.uien.toNat + 2 ^ 32 * pendBits k + 2 ^ 48 * k.uilost.toNat)
  | 0x13 => k.uitime
  | 0x18 => k.trapcause
  | 0x19 => k.trapmask
  | 0x1A => k.trapinfo
  | 0x1B => k.trapaddr
  | 0x20 => k.vflags.setWidth 64
  | 0x21 => k.mstat.setWidth 64
  | _ =>
    if 0x28 ≤ n ∧ n ≤ 0x2F then tabGet 0 k.win (n - 0x28)
    else if 0x30 ≤ n ∧ n ≤ 0x37 then tabGet 0 k.cw (n - 0x30)
    else if 0x40 ≤ n ∧ n ≤ 0x44 then tabGet 0 k.resWas.offered (n - 0x40)
    else if 0x48 ≤ n ∧ n ≤ 0x4C then tabGet 0 k.resWas.taken (n - 0x48)
    else if 0x50 ≤ n ∧ n ≤ 0x54 then tabGet 0 k.resWas.bankdeny (n - 0x50)
    else if 0x58 ≤ n ∧ n ≤ 0x5C then tabGet 0 k.resWas.netdeny (n - 0x58)
    else if 0x60 ≤ n ∧ n ≤ 0x64 then tabGet 0 k.resWas.tokdeny (n - 0x60)
    else 0

/-- The control registers that the issue of a bundle or its end may change. -/
def ctlKept : List Nat := [0, 2, 5, 6, 0x10, 0x11, 0x12, 0x13, 0x18, 0x19, 0x1A, 0x1B, 0x20, 0x21] ++ (List.range 16).map (0x28 + ·)

/-- Keep the control registers of core c as its primary sees them in this cycle, if a thread of it runs (15 R369). -/
def keepCtl (s : State) (c : BitVec 10) : State :=
  if (s.core c).threads.any fun t => t.1 ≠ 7 && t.2.st = .running then
    let t := ctlKept.foldl (fun t n => tabPut 0 t n (readCreg s c n)) []
    s.mapCore c fun k => { k with ctlWas := some (s.cycle, t) }
  else s

/-- The effect of an MTC on control register n; 0x7FF carries the word of FMT, numbers from
0x800 on the masks of HSET (15 R369; 16 R402; 18 R433). -/
def putCreg (k : Core) (n : Nat) (v : Word) : Core :=
  match n with
  | 0 => { k with uie := v.getLsbD 1 }
  | 0x10 => { k with uivec := v }
  | 0x12 => { k with uien := v.setWidth 5 }
  | 0x13 => { k with uitime := v }
  | 0x20 => { k with vflags := v.setWidth 5 }
  | 0x21 => { k with mstat := v.setWidth 4 }
  | 0x7FF => { k with pendFmt := some (v.setWidth 32) }
  | _ =>
    if 0x28 ≤ n ∧ n ≤ 0x2F then { k with win := tabPut 0 k.win (n - 0x28) (putField v 45 18 0) }
    else if 0x800 ≤ n then { k with hreg := tabPut 0 k.hreg (n - 0x800) (if n ≤ 0x9BF then v &&& 0xFFFF else v) }
    else k

/-- A result lands in its destination (09 R216, R217); a register written whole is no longer poisoned (07 R180). -/
def landPend (k : Core) (p : Pend) : Core :=
  let k := { k with rpoison := tabPut false k.rpoison p.dest.num false }
  match p.dest with
  | .s n => { k with sreg := tabPut 0 k.sreg n (p.val.setWidth 64) }
  | .q n => { k with preds := putField k.preds n 1 (p.val.toNat % 2) }
  | .v n => { k with vreg := tabPut 0 k.vreg n.toNat p.val }
  | .m n => { k with mreg := tabPut 0 k.mreg n.toNat (p.val.setWidth 64) }
  | .ft n => { k with ft := tabPut 0 k.ft n.toNat (p.val.setWidth 32) }
  | .lc _ => k
  | .ln => { k with ln := p.val.setWidth 64 }
  | .mpc => { k with mpc := p.val.setWidth 16 }
  | .flags => { k with vflags := k.vflags ||| p.vflags, mstat := k.mstat ||| p.mstat }
  | .creg n => putCreg k n.toNat (p.val.setWidth 64)

/-- Whether a result goes to a window. -/
def Pend.toWindow (p : Pend) : Bool :=
  match p.dest with
  | .creg n => 0x28 ≤ n.toNat && n.toNat ≤ 0x2F
  | _ => false

/-- Keep the windows of a cycle's start beside the ones that a write of this cycle leaves (09 R223). -/
def keepWindows (cycle : Nat) (k : Core) : Core := if k.windowsAt cycle = k.win then { k with winWas := some (cycle, k.win) } else k

/-- Land every result that is due at the core's tick, oldest first; flags are ORed after the other results (17 R407). -/
def landDue (cycle : Nat) (k : Core) : Core :=
  let due := k.pend.filter fun p => p.due ≤ k.tick
  let k := { k with traps := k.traps ++ (k.lateTraps.filter fun x => x.due ≤ k.tick).map (·.trap)
                    lateTraps := k.lateTraps.filter fun x => !(x.due ≤ k.tick) }
  let k := if due.any Pend.toWindow then keepWindows cycle k else k
  ((due.filter fun p => p.dest ≠ .flags) ++ due.filter fun p => p.dest = .flags).foldl landPend
    { k with pend := k.pend.filter fun p => !(p.due ≤ k.tick) }

end Sys2Proof.Machine
end

