-- ==== Sys2Proof/Machine/Flags.lean ====
section
/-! DEFINITION. Guards, compare conditions and the flags of an operation (14 Table Enc.3; 15 Table Ctl.3; 12 Table
Formats.8). -/

namespace Sys2Proof.Machine

/-- The guard's own answer: predicate or flag, maybe inverted (14 R341, R352). -/
def guardHolds (s : State) (g : Guard) : Bool := xor (readP s g.pred) g.neg

/-- Whether the operation executes: in a gang's C slot the guidon's outcome decides (09 R220; 15 R372). -/
def executes (s : State) (g : Guard) : Bool :=
  match s.cur.slot, s.cur.cout with
  | .c, some o => o.fired
  | _, _ => guardHolds s g

/-- CMP (15 Table Ctl.3). -/
def cmpSigned (cc : Cond) (a b : Word) : Bool :=
  match cc with
  | .c0 => a = b
  | .c1 => a ≠ b
  | .c2 => a.toInt < b.toInt
  | .c3 => a.toInt ≤ b.toInt

/-- CMPN (15 Table Ctl.3). -/
def cmpUnsigned (cc : Cond) (a b : Word) : Bool :=
  match cc with
  | .c0 => a.toNat < b.toNat
  | .c1 => a.toNat ≤ b.toNat
  | .c2 => a &&& b ≠ 0
  | .c3 => a &&& b = 0

/-- c.vflags bits of a scalar operation reach the core at the operation's bound (15 R366). -/
def writeFloat (s : State) (d : BitVec 6) (r : FRes2) (bound : Nat) : State :=
  raiseFlags (writeR s d (BitVec.ofNat 64 r.1) bound) r.2 bound

end Sys2Proof.Machine
end

