-- ==== Sys2Proof/Machine/Operands.lean ====
section
/-! DEFINITION. Operand forms: the second operand, constant windows, effective addresses and the scratchpad address modes
(14 R343, R352; 10 R255; 16 R384, R388, R389; 09 R222). -/

namespace Sys2Proof.Machine

/-! ### The second operand -/

/-- Literal n of the bundle's pool. -/
def litWord (s : State) (n : Nat) : Half := s.cur.lits.getD n 0

/-- The address of a constant-window operand of core c (10 R255). -/
def cwAddr (s : State) (c : BitVec 10) (w : BitVec 3) (o : BitVec 17) : Word :=
  tabGet 0 (s.core c).cw w.toNat + BitVec.ofNat 64 (8 * o.toNat)

/-- The cached line of the constant cache that holds va. -/
def ccFind (k : Core) (va : Nat) : Option ILine := k.ccache.find? fun d => d.line = va / 64

/-- The value of a constant-window operand: the cached word, or the new word if a program has changed it (10 R255). -/
def cwValue (s : State) (c : BitVec 10) (va : Nat) : Word :=
  match ccFind (s.core c) va with
  | none => 0
  | some d =>
    let old := BitVec.ofNat 64 (leNat (lineBytes d.data (va % 64) 8))
    match look s (ctxOfCore s c) va .read with
    | .hit _ _ pa =>
      let new := BitVec.ofNat 64 (leNat (homeBytes s pa 8))
      if s.freeChoice (freeCode c 2048) then new else old
    | .wait _ => old

/-- The second operand (14 Table Enc.5, Table Enc.18). -/
def readB (s : State) (b : Src) : Word :=
  match b with
  | .reg r => readR s r
  | .imm v => v.signExtend 64
  | .lit .sxt n => (litWord s n.toNat).signExtend 64
  | .lit .zxt n => (litWord s n.toNat).setWidth 64
  | .lit .pair n => litWord s (n.toNat + 1) ++ litWord s n.toNat
  | .cw w o => cwValue s s.me (cwAddr s s.me w o).toNat

/-- Making a constant-window operand ready: filled, waiting, or a trap. -/
inductive CwRes where
  | ok (s : State)
  | wait (s : State)
  | trap (t : TrapInfo)
  deriving DecidableEq, Repr

/-- A trap with an address and no slot mask of its own. -/
def trapAt (cause : Cause) (addr : Word) : TrapInfo := { cause := cause, mask := 0, info := 0, addr := addr }

/-- Put a line into the constant cache of 256 lines. -/
def ccFill (k : Core) (d : ILine) : Core := { k with ccache := (d :: k.ccache.filter fun e => e.line ≠ d.line).take 256 }

/-- The line at pa as a cache of constants or of barrel code is filled with it. -/
def codeLine (s : State) (va pa : Nat) : ILine :=
  { line := va / 64, data := BitVec.ofNat 512 (leNat (homeBytes s (pa / 64 * 64) 64)), poison := linePoison s pa }

/-- Fill the constant cache for an operand (10 R255): a window whose base is 0 raises ILLOP; a translation miss or fault waits. -/
def cwReady (s : State) (b : Src) : CwRes :=
  match b, s.cur.agent with
  | .cw w o, .thread c t =>
    let va := cwAddr s c w o
    if tabGet 0 (s.core c).cw w.toNat = 0 then .trap (trapAt .illop 0)
    else if va.toNat ≥ 2 ^ 57 then .trap (trapAt .sprange va)
    else if va.toNat % 8 ≠ 0 then .trap (trapAt .misalign va)
    else
      -- only the word that is consumed raises UNCORR (07 R180)
      let served (s : State) : CwRes :=
        match ccFind (s.core c) va.toNat with
        | some d => if d.poison.getLsbD (va.toNat % 64 / 8) then .trap (trapAt .uncorr va) else .ok s
        | none => .ok s
      if (ccFind (s.core c) va.toNat).isSome then served s
      else match threadLook s c t (ctxOfThread s c t) va.toNat .read (fun leaf pa s =>
        if fillHeld s (ctxOfThread s c t) leaf va.toNat pa 1 then threadHold s c t
        else
          let s := recallNear (holdLine s (ctxOfThread s c t) leaf va.toNat pa) pa
          .ok 0 (s.mapCore c fun k => ccFill k (codeLine s va.toNat pa))) with
      | .ok _ s => served s
      | .wait s => .wait s
      | .fail _ => .trap (trapAt .uncorr va)
      | .xlate => .trap (trapAt .xlate va)
  | _, _ => .ok s

/-! ### Scratchpad addresses (09 Table Primary.5) -/

/-- Core and offset of a scratchpad address under a mode; none for SPRANGE. -/
def spadTarget (c : BitVec 10) (m : Mode) (a : Word) : Option (BitVec 10 × BitVec 20) :=
  if a.toNat ≥ 2 ^ 24 then none
  else match m with
    | .loc => if a.toNat < 2 ^ 20 then some (c, a.setWidth 20) else none
    | .core => some (coreAt (clusterOf c) (a.extractLsb' 20 4), a.setWidth 20)
    | .weave => some (coreAt (clusterOf c) (a.extractLsb' 3 4), a.extractLsb' 7 17 ++ a.extractLsb' 0 3)
    | .glob => none

/-- The pieces of an n-byte scalar access; none for SPRANGE. -/
def scalarPieces (s : State) (c : BitVec 10) (m : Mode) (a : Word) (n : Nat) : Option (List Piece) :=
  match spadTarget c m a with
  | none => none
  | some (o, off) => if inPool s o off.toNat n then none else some [{ core := o, off := off, len := n, pos := 0 }]

/-- Collect answers, none if one is none. -/
def allSome {α : Type} : List (Option α) → Option (List α)
  | [] => some []
  | none :: _ => none
  | some a :: r => (allSome r).map (a :: ·)

/-- The bytes of a run of a core's scratchpad, by granule (16 R388). -/
def granulePieces (o : BitVec 10) (off len : Nat) : List Piece :=
  ((rangeOf (off / 64) ((off + len - 1) / 64)).map fun g =>
    let lo := max off (64 * g)
    { core := o, off := BitVec.ofNat 20 lo, len := min (off + len) (64 * g + 64) - lo, pos := lo - off })

/-- The pieces of a 256-byte vector access at a (16 R388): one run of a core in LOCAL and CORE mode, 32 words in WEAVE mode. -/
def vectorPieces (s : State) (c : BitVec 10) (m : Mode) (a : Word) : Option (List Piece) :=
  match m with
  | .weave =>
    (allSome ((List.range 32).map fun j => (scalarPieces s c .weave (a + BitVec.ofNat 64 (8 * j)) 8).map
      fun l => l.map fun p => { p with pos := 8 * j }))
      |>.map List.flatten
  | _ =>
    match spadTarget c m a with
    | none => none
    | some (o, off) =>
      if off.toNat + 256 > 2 ^ 20 || inPool s o off.toNat 256 then none
      else some (granulePieces o off.toNat 256)

/-- The pieces of a gather or scatter, in lane order (16 R389). -/
def gatherLanes (s : State) (c : BitVec 10) (m : Mode) (a : Word) (vi : Lanes) : Option (List Piece) :=
  (allSome ((List.range 64).map fun i => (scalarPieces s c m (a + (laneOf vi i).setWidth 64) 4).map
    fun l => l.map fun p => { p with pos := 4 * i })).map List.flatten

/-- Active cycles from issue to the bank for a plain access (16 Table Mem.2). -/
def bankDist (m : Mode) : Nat :=
  match m with
  | .loc => 1
  | _ => 4

/-- Latency bound of a scalar load, LDA or PTEST (14 Table Enc.15). -/
def loadBound (m : Mode) : Nat :=
  match m with
  | .loc => 4
  | _ => 8

/-- Latency bound of an atomic, LRW or SCH. -/
def atomBound (m : Mode) : Nat :=
  match m with
  | .loc => 6
  | _ => 10

/-- The effective address of an M operation: W(A + B) (16 R384). -/
def effAddr (s : State) (f : MemForm) : Word := readR s f.a + readB s f.i

/-- The scope of a synchronising operation: the bundle's for a primary, the word's own for a thread (08 R185). -/
def opScope (s : State) (f : MemForm) : Nat :=
  match s.cur.agent with
  | .prim _ => s.cur.scope.toNat
  | .thread _ _ => f.scope.toNat

/-- The predicate that code p names: q(p) in M0, q(8 + p) in M1, f(p) in a thread (14 R345, Table Enc.19). -/
def predOf (s : State) (p : BitVec 3) : BitVec 4 :=
  match s.cur.agent, s.cur.slot with
  | .prim _, .m1 => p.setWidth 4 + 8
  | _, _ => p.setWidth 4

/-- Write the predicate that code p names; code 0 names none. -/
def writePCode (s : State) (p : BitVec 3) (v : Bool) (bound : Nat) : State :=
  if p = 0 then s else writeP s (predOf s p) v bound

end Sys2Proof.Machine
end

