-- ==== Sys2Proof/Machine/Ports.lean ====
section
/-! DEFINITION. Accesses on their way to their banks, who holds the bank ports and the crossbar slots, and the freezes of primaries (07 R154-R156;
08 R186; 09 R224-R226; 16 R389, R390). -/

namespace Sys2Proof.Machine

/-! ### Accesses (08 R186; 16 R390) -/

/-- relInfo keys of an access's words. -/
def Access.words (a : Access) : List Nat := a.pieces.flatMap Piece.words

/-- Whether an access writes its bytes. -/
def AccOp.writes : AccOp → Bool
  | .store _ => true
  | .strl => true
  | .praise => true
  | .stv => true
  | .scat _ => true
  | .drain => true
  | .save _ => true
  | .sch => true
  | .atomic _ _ => true
  | .atomWrite _ => true
  | .schWrite => true
  | .wordEnd => true
  | .sq put _ => !put
  | _ => false

/-- Whether an access makes a release, which every earlier access precedes (08 R191; 16 R390). -/
def AccOp.releases : AccOp → Bool
  | .strl => true
  | .praise => true
  | .schWrite => true
  | .atomWrite rel => rel
  | .fence acq => !acq
  | .jobRel _ => true
  | .spawn _ => true
  | _ => false

/-- Whether an access stands between the read and the write of its operation: its word is served to no other (16 R390). -/
def AccOp.locks : AccOp → Bool
  | .atomWrite _ => true
  | .schWrite => true
  | .wordEnd => true
  | _ => false

/-- Whether an access claims bank ports word by word: an array image has its own length (18 R445). -/
def AccOp.banked : AccOp → Bool
  | .save _ => false
  | .image _ => false
  | .hoistRel => false
  | .hoistAcq => false
  | .fence _ => false
  | .jobRel _ => false
  | .spawn _ => false
  | _ => true

/-- Whether an access claims the write port at its bank: an atomic and a SCH are due there at their read (07 Table Fabric.1; 16 Table Mem.2). -/
def AccOp.onWritePort : AccOp → Bool
  | .atomic _ _ => false
  | .sch => false
  | o => o.writes

/-- Whether a precedes b in the program order of their primary (08 R186). -/
def Access.precedes (a b : Access) : Bool := a.born < b.born || (a.born = b.born && a.slot.bit < b.slot.bit)

/-- Take one access out of a list. -/
def dropAccess (a : Access) : List Access → List Access
  | [] => []
  | b :: r => if b = a then r else b :: dropAccess a r

/-- Put an access that an operation makes after its issue at its place in program order. -/
def insertAcc (a : Access) : List Access → List Access
  | [] => [a]
  | b :: r => if a.precedes b then a :: b :: r else b :: insertAcc a r

/-- The access by which an operation goes on after its read, two active cycles later (16 Table Mem.2). -/
def goesOn (s : State) (c : BitVec 10) (a : Access) (op : AccOp) (v : Lanes) : State :=
  s.mapCore c fun k => { k with accs := insertAcc { a with op := op, left := 2, dest := none, data := v } k.accs }

/-- Whether two pieces share a byte. -/
def Piece.meets (p q : Piece) : Bool :=
  p.core = q.core && p.off.toNat < q.off.toNat + q.len && q.off.toNat < p.off.toNat + p.len

/-- Whether two accesses share a byte. -/
def Access.meets (a b : Access) : Bool := a.pieces.any fun p => b.pieces.any p.meets

/-- Whether a primary holds a synchronising write of a LOCAL word at the bank for its later accesses: a STRL or PRAISE, and a SCH of an agent that holds
its granule (16 R390). -/
def heldWrite (s : State) (c : BitVec 10) (e : Access) : Bool :=
  match e.pieces with
  | p :: _ => p.core = c && (e.op = .strl || e.op = .praise || e.op = .schWrite ||
      (e.op = .sch && s.mem.resq.any fun q => q.2.any fun w => w.core = c && w.thread = 8 && w.occ = (s.core c).occ && w.held.isSome &&
        w.granule = spadWordKey p.core p.off.toNat))
  | [] => false

/-- Whether an access reads and receives what its primary holds at the bank (16 R390). -/
def AccOp.receives : AccOp → Bool
  | .load _ _ => true
  | .ldv => true
  | .gath _ => true
  | .lda => true
  | .ptest => true
  | .pwait _ => true
  | .pwaitLast => true
  | .lrw => true
  | .lrwRead => true
  | .beat _ _ _ _ _ _ => true
  | .pushA _ => true
  | .pushB _ => true
  | .scl _ _ _ => true
  | _ => false

/-- Whether an earlier access still on its way makes a due one of the same primary wait (08 R186): one that waits already waits through
the cycle in which the earlier one is performed. A later access of the primary receives what it holds at the bank (16 R390). -/
def holdsBack (s : State) (c : BitVec 10) (e a : Access) : Bool :=
  (1 < e.left || (e.left = 1 && a.left = 0)) && !(a.op.receives && heldWrite s c e) && e.meets a

/-- The due accesses of a list that must wait for the order of their bytes. -/
def heldBack (s : State) (c : BitVec 10) (l : List Access) : List Access :=
  (l.foldl (fun (r : List Access × List Access) a =>
    (r.1 ++ [a], if a.left ≤ 1 && r.1.any (fun e => holdsBack s c e a) then r.2 ++ [a] else r.2)) ([], [])).2

/-- Whether one of some words is held by an atomic, LRW or SCH of a primary (16 R390). -/
def wordHeld (s : State) (ws : List Nat) : Bool := s.cores.any fun e => e.2.accs.any fun l => l.op.locks && l.words.any ws.contains

/-- Whether a word of core c's access is held by an atomic, LRW or SCH of another primary (16 R390). -/
def wordLocked (s : State) (c : BitVec 10) (ws : List Nat) : Bool :=
  s.cores.any fun e => e.1 ≠ c.toNat && e.2.accs.any fun l => l.op.locks && l.words.any ws.contains

/-! ### Bank ports (07 R155; 16 R389) -/

/-- The bank ports that an access claims in the cycle in which it is due, with the 16-byte words it needs there: 64 per core. -/
def claims (a : Access) : List (Nat × Nat) :=
  if a.op.banked then
    let w := if a.op.onWritePort then 1 else 0
    a.pieces.flatMap fun p => (rangeOf (p.off.toNat / 16) ((p.off.toNat + p.len - 1) / 16)).map fun n =>
      (64 * p.core.toNat + 2 * (n % 32) + w, n)
  else []

/-- The bank ports of a piece, for a read or a write. -/
def portsOfPiece (p : Piece) (write : Bool) : List Nat :=
  (rangeOf (p.off.toNat / 16) ((p.off.toNat + p.len - 1) / 16)).map fun n => 64 * p.core.toNat + 2 * (n % 32) + if write then 1 else 0

/-- Whether an access claims one of some ports. -/
def Access.claimsAny (a : Access) (ports : List Nat) : Bool := (claims a).any fun x => ports.contains x.1

/-- Whether one of the accesses in use holds one of some ports. -/
def holdsPort (flat : List (BitVec 10 × Access)) (ports : List Nat) : Bool := flat.any fun a => a.2.claimsAny ports

/-- What an array image holds in each cycle of its freeze: the write port of every bank of its core for an MSAVE, the read port for an MLOAD (18
R445). -/
def imageHold (c : BitVec 10) (save : Bool) : Access :=
  { op := if save then .store 8 else .load 8 false, slot := .x, left := 1, born := 0, lag := 0, remote := false, paid := true, checked := false, due := 0,
    dest := none, pdest := none, addr := 0, bundle := 0,
    pieces := (List.range 32).map fun i => { core := c, off := BitVec.ofNat 20 (16 * i), len := 8, pos := 0 }, data := 0, data2 := 0, scope := 0 }

/-- Distinct elements. -/
def distinct (l : List (Nat × Nat)) : List (Nat × Nat) := l.foldl (fun r a => if r.contains a then r else r ++ [a]) []

/-- Cycles of the longest service that one bank port owes to an access, one for each 16-byte word, and to the accesses of its bundle that are
served there before it (16 R389; 11 R281). -/
def burst (first : List Access) (a : Access) : Nat :=
  let ws := distinct (claims a)
  ws.foldl (fun m w => max m ((ws.filter fun v => v.1 = w.1).length + (first.filter fun e => e.claimsAny [w.1]).length)) 0

/-- Whether two accesses need one bank port. -/
def sharePort (a b : Access) : Bool := a.claimsAny ((claims b).map fun x => x.1)

/-- Whether a due access of core c loses a port in this cycle (07 R155): to one that is being served there word by word, to an earlier access of its
core, or to another core's, the bank's own core first, then by core number. -/
def loses (c : BitVec 10) (a : Access) (earlier : List Access) (others : List (BitVec 10 × Access)) : Bool :=
  !a.paid && (others.any (fun o => o.2.paid && sharePort a o.2) || earlier.any (sharePort a) ||
    (claims a).any fun w =>
      let owner := w.1 / 64
      owner ≠ c.toNat && others.any fun o =>
        o.1 ≠ c && (o.1.toNat = owner || o.1.toNat < c.toNat) && o.2.claimsAny [w.1])

/-! ### Freezes (09 R224-R226) -/

/-- Whether a core stops only when its own ECC freeze or PHASE hold ends (05 R121). -/
def stopsLater (k : Core) : Bool :=
  k.eccLeft > 0 || (match k.hold with
    | some (.phase _ _ _ _) => true
    | _ => false)

/-- Whether a stopped core freezes with PREEMPT-PENDING: a core of its unit still runs in its own ECC freeze or PHASE hold, whether the stop is for
a pre-emption or for a kill. The followers' four cycles and a core that had halted or was held count no freeze (05 R121; 09 R225). -/
def awaitsUnit (s : State) (c : BitVec 10) : Bool :=
  let k := s.core c
  (k.run = .preempted || k.run = .killed) && k.stopPending && k.was = .running &&
    match k.occ.bind s.occ? with
    | some o => (coUnits o).any fun u => u.contains c && u.any fun d => (s.core d).occ = k.occ && (s.core d).run = .running && stopsLater (s.core d)
    | none => false

/-- A core's own reasons, in the order of R225; svc says that it has a late access. A PHASE hold is the member's own. -/
def ownFreezes (s : State) (c : BitVec 10) (svc : Bool) : List Freeze :=
  let k := s.core c
  let on (b : Bool) (f : Freeze) : List Freeze := if b then [f] else []
  on (k.eccLeft > 0) .ecc ++ on (s.power.frozen.getLsbD (quadOf c).toNat) .thermal ++ on (awaitsUnit s c) .preemptPending ++
    if k.run ≠ .running then []
    else on (svc || k.serviceLeft > 0) .service ++
      on (match k.hoistHeld with
        | some (_, 0) => true
        | _ => false) .hoist ++
      on (k.ewait.isSome || k.hacts.any (·.late)) .jobwait ++ on k.hold.isSome .hold ++ on k.pwait.isSome .pwait ++ on k.lrwWait.isSome .lrw

/-- A core's own freeze: the first of its reasons. -/
def ownFreeze (s : State) (c : BitVec 10) (svc : Bool) : Option Freeze := (ownFreezes s c svc).head?

/-- Whether a core's own reason freezes its gang too: every reason but a PHASE hold and a stop already made (09 R226; 05 R113). -/
def spreads (s : State) (c : BitVec 10) (svc : Bool) : Bool :=
  match ownFreeze s c svc with
  | none => false
  | some .preemptPending => false
  | some .hold => match (s.core c).hold with
    | some (.phase _ _ _ _) => false
    | _ => true
  | some _ => true

/-- The freeze of a core in this cycle: its own reason, or that of the lowest member that has one. -/
def freezeOf (s : State) (svc : List (BitVec 10)) (c : BitVec 10) : Option Freeze :=
  match ownFreeze s c (svc.contains c) with
  | some f => some f
  | none =>
    if (s.core c).gangSize = 0 then none
    else ((gangOf s (guidonOf s c)).find? fun m => spreads s m (svc.contains m)).bind fun m => ownFreeze s m (svc.contains m)

/-- Whether a reason that offers no slot holds for a core: its own or one of its gang's members' (10 R243). -/
def offersNothing (s : State) (c : BitVec 10) : Bool :=
  (gangOf s (guidonOf s c)).any fun m => (ownFreezes s m false).any fun f => f = .ecc || f = .thermal

/-- Whether a core's pipelines move in this cycle but for late accesses. -/
def movable (s : State) (c : BitVec 10) : Bool := (s.core c).run ≠ .preempted && (freezeOf s [] c).isNone

/-! ### Who holds the ports (07 R155, R156) -/

/-- Cores listed in the state. -/
def coresIn (s : State) : List (BitVec 10) := s.cores.map fun e => BitVec.ofNat 10 e.1

/-- Accesses of a core that are due in this cycle. -/
def dueOf (k : Core) : List Access := k.accs.filter fun a => a.left ≤ 1

/-- The accesses by which core c's primary uses the ports in this cycle: those due while it moves; while it is frozen for a service word by word or an
array image, which holds its ports until it is done, what it serves. -/
def holdersOf (s : State) (c : BitVec 10) : List (BitVec 10 × Access) :=
  let due := dueOf (s.core c)
  if due.isEmpty then []
  else if movable s c then due.map fun a => (c, a)
  else if (s.core c).serviceLeft > 0 then due.map fun a => (c, match a.op with
    | .save _ => imageHold c true
    | .image _ => imageHold c false
    | _ => a)
  else []

/-- The accesses of primaries that use the ports in this cycle. -/
def portHolders (s : State) : List (BitVec 10 × Access) := (coresIn s).flatMap (holdersOf s)

/-- Slot of a residue index (09 R214). -/
def slotOfClass (i : Nat) : Slot :=
  match i with
  | 0 => .s0
  | 1 => .s1
  | 2 => .m0
  | 3 => .m1
  | _ => .e

/-- The bank cycle of a thread's access. -/
def Post.bank (p : Post) : Nat := p.at_ + bankDist p.mode

/-- The ports that a thread's access needs in a cycle: an atomic reads at its bank cycle and writes two cycles later, if it is not refused. -/
def Post.needs (p : Post) (cycle : Nat) : List Nat :=
  if cycle = p.bank then portsOfPiece p.piece (p.write && !p.atom)
  else if p.atom && !p.lost && cycle = p.bank + 2 then portsOfPiece p.piece true
  else []

/-- Whether a primary's access that is due in this cycle holds a bank port of some pieces; an engine's access is then denied (07 R155). -/
def portsBusy (s : State) (ps : List Piece) (write : Bool) : Bool :=
  let ports := ps.flatMap fun p => portsOfPiece p write
  (coresIn s).any fun c => !(dueOf (s.core c)).isEmpty && holdsPort (holdersOf s c) ports

/-- Whether a thread's access holds a bank port of some pieces in this cycle. -/
def threadsBusy (s : State) (ps : List Piece) (write : Bool) : Bool :=
  let ports := ps.flatMap fun p => portsOfPiece p write
  s.cores.any fun e => e.2.threads.any fun t => match t.2.post with
    | some p => !p.served && (p.needs s.cycle).any ports.contains
    | none => false

/-- Whether both crossbar request slots of a core are held in this cycle: by its primary, from the first to the third active cycle after the issue of a CORE
or WEAVE access, or by a thread in the cycle after its issue. A copy unit's request to the core's scratchpad takes one of them (07 R156; DESIGN CHOICE, log
entry 116). -/
def crossbarFull (s : State) (c : BitVec 10) : Bool :=
  let k := s.core c
  [Slot.m0, Slot.m1].all fun sl =>
    (k.accs.any fun a => a.slot = sl && a.remote && a.born < k.tick && k.tick ≤ a.born + 3) && movable s c ||
      k.threads.any fun t => match t.2.post with
        | some p => p.mode ≠ .loc && p.at_ + 1 = s.cycle && slotOfClass p.cls = sl
        | none => false

/-- Whether a copy unit's access to some pieces is kept back in this cycle (07 R155, R156). -/
def copyDenied (s : State) (ps : List Piece) (write : Bool) : Bool :=
  portsBusy s ps write || threadsBusy s ps write || ps.any fun p => crossbarFull s p.core

end Sys2Proof.Machine
end

