-- ==== Sys2Proof/Machine/Run.lean ====
section
/-! DEFINITION. How one operation runs: trap, guard, effect (09 R211, R231; 10 R266; 14 R341). -/

namespace Sys2Proof.Machine

/-- The slots that meet the trap: those the bundle's check found, or the operation's own. -/
def trapMask (s : State) : BitVec 8 := if s.cur.mask = 0 then BitVec.ofNat 8 (2 ^ s.cur.slot.bit) else s.cur.mask

/-- Run an operation: take its trap, or perform its effect if its guard holds; an operation that does not execute only
completes (14 R341). -/
def runOp (s : State) (t : Option TrapInfo) (g : Guard) (body : State → State) : Host.Outcome State Fault Refusal :=
  .next (match t with
    | some t => takeTrap s { t with mask := trapMask s }
    | none => if executes s g then body s else finish s)

/-- Run an operation whose second operand may be a constant window. -/
def runB (s : State) (g : Guard) (b : Src) (body : State → State) : Host.Outcome State Fault Refusal :=
  .next (if executes s g then
      match cwReady s b with
      | .ok s => body s
      | .wait s => s
      | .trap t => takeTrap s t
    else finish s)

/-- c.trapaddr of a trap at the bundle: its word index (09 Table Primary.10). -/
def bundleTrap (s : State) (cause : Cause) (info : Word) : TrapInfo := { cause := cause, mask := 0, info := info, addr := s.cur.pc.setWidth 64 }

/-- A trap of an address: info carries the slot (09 Table Primary.10). -/
def addrTrap (s : State) (cause : Cause) (addr : Word) : TrapInfo :=
  { cause := cause, mask := 0, info := BitVec.ofNat 64 (2 ^ 26 * s.cur.slot.acc), addr := addr }

end Sys2Proof.Machine
end

