-- ==== Sys2Proof/Machine/MemOps.lean ====
section
/-! DEFINITION. The M class: loads, stores, vector accesses, acquire and release accesses, PWAIT, reservations, atomics,
FENCE and cache maintenance, by a primary (issued now, performed at the bank later) and by a barrel thread (spec 16). -/

namespace Sys2Proof.Machine

/-! ### Issue checks (16 R385) -/

/-- The range and alignment traps of an n-byte access at a under a mode, for either agent. -/
def rangeTrap (s : State) (m : Mode) (a : Word) (n : Nat) : Option TrapInfo :=
  match m, s.cur.agent with
  | .glob, .prim _ => some (bundleTrap s .illop 0)
  | .glob, .thread c _ =>
    if a.toNat ≥ 2 ^ 57 then some (addrTrap s .sprange a)
    else if inAperture a.toNat && clusterOf (apertureCore a.toNat) = clusterOf c &&
        inPool s (apertureCore a.toNat) (apertureOff a.toNat) n then some (addrTrap s .sprange a)
    else if a.toNat % n ≠ 0 then some (addrTrap s .misalign a)
    else none
  | m, ag =>
    match scalarPieces s ag.core m a n with
    | none => some (addrTrap s .sprange a)
    | some _ => if a.toNat % n ≠ 0 then some (addrTrap s .misalign a) else none

/-- The issue traps of a scalar M operation; an access whose guard is false raises none (16 R385). -/
def memTrap (s : State) (f : MemForm) (n : Nat) : Option TrapInfo :=
  if executes s f.g then rangeTrap s f.mode (effAddr s f) n else none

/-- The issue traps of LDV and STV (16 R388). -/
def vmemTrap (s : State) (f : VMemForm) : Option TrapInfo :=
  let a := readR s f.a + readB s f.i
  if !executes s f.g then none
  else match vectorPieces s s.me f.mode a with
    | none => some (addrTrap s .sprange a)
    | some _ => if a.toNat % 16 ≠ 0 then some (addrTrap s .misalign a) else none

/-- The issue traps of VGATH and VSCAT (16 R389; SPRANGE comes first, 14 R355). -/
def gathTrap (s : State) (f : GathForm) : Option TrapInfo :=
  let a := readR s f.a
  let vi := readV s s.me f.vi
  if !executes s f.g then none
  else match gatherLanes s s.me f.mode a vi with
    | none => some (addrTrap s .sprange a)
    | some _ =>
      if a.toNat % 16 ≠ 0 || (List.range 64).any fun i => (laneOf vi i).toNat % 4 ≠ 0 then some (addrTrap s .misalign a) else none

/-! ### Issuing a primary's access (16 R390) -/

/-- The pieces of the operation's n-byte access. -/
def piecesOf (s : State) (m : Mode) (a : Word) (n : Nat) : List Piece := (scalarPieces s s.me m a n).getD []

/-- An access of the performing primary that reaches its bank after dist active cycles. -/
def newAccess (s : State) (op : AccOp) (dist bound : Nat) (addr : Word) (ps : List Piece) : Access :=
  let t := (s.core s.me).tick
  { op := op, slot := s.cur.slot, left := dist, born := t, lag := 0, remote := false, paid := false, checked := false, due := t + bound, dest := none, pdest := none, addr := addr,
    bundle := s.cur.pc, pieces := ps, data := 0, data2 := 0, scope := s.cur.scope }

/-- An access of the performing primary under an address mode. -/
def memAccess (s : State) (m : Mode) (op : AccOp) (dist bound : Nat) (addr : Word) (ps : List Piece) : Access :=
  { newAccess s op dist bound addr ps with remote := m ≠ .loc }

/-- Put an access on its way. -/
def issueAccess (s : State) (a : Access) : State := s.mapCore s.me fun k => { k with accs := k.accs ++ [a] }

/-- Scalar destination of an access; none for s0. -/
def destS (s : State) (n : BitVec 6) : Option Dest := if n = 0 then none else some (.s (physS (s.core s.me) n.toNat))

/-- Predicate destination of an access; none for code 0. -/
def destP (s : State) (p : BitVec 3) : Option Dest :=
  if p = 0 then none else some (.q (physQ (s.core s.me) (predOf s p).toNat))

/-- A loaded value with its extension (16 Table Mem.1). -/
def extendLoad (n : Nat) (signed : Bool) (v : Nat) : Word :=
  if signed then sxtN (BitVec.ofNat 64 v) (8 * n) else zxtN (BitVec.ofNat 64 v) (8 * n)

/-! ### Reservations (08 R206-R208; 16 R394, R395) -/

/-- Queue of a scratchpad granule: its bank's. -/
def bankQueue (c : BitVec 10) (off : Nat) : Nat := 32 * c.toNat + off / 16 % 32

/-- Queue of a global granule: its home slice's. -/
def sliceQueue (h : BitVec 8) : Nat := 2 ^ 20 + h.toNat

/-- Thread number of an agent in a waiter: 8 for the primary. -/
def waiterThread : Agent → BitVec 4
  | .prim _ => 8
  | .thread _ t => t.setWidth 4

/-- Is the waiter this agent, of the occurrence that runs on its core? -/
def Waiter.is (w : Waiter) (s : State) (a : Agent) : Bool := w.core = a.core && w.thread = waiterThread a && w.occ = (s.core a.core).occ

/-- The waiters that now head the queue for their granule begin to hold. -/
def grantQueue (cycle : Nat) : List Waiter → List Nat → List Waiter
  | [], _ => []
  | w :: r, seen =>
    (if w.held.isNone && !seen.contains w.granule then { w with held := some cycle } else w) :: grantQueue cycle r (w.granule :: seen)

/-- Change a reservation queue and hand its granules on. -/
def mapQueue (s : State) (q : Nat) (f : List Waiter → List Waiter) : State :=
  s.mapMem fun m => { m with resq := tabPut [] m.resq q (grantQueue s.cycle (f (tabGet [] m.resq q)) []) }

/-- The agent leaves every reservation queue, as a revocation does (08 R208). -/
def dropReservations (s : State) (a : Agent) : State :=
  s.mem.resq.foldl (fun t e => if e.2.any (·.is s a) then mapQueue t e.1 (·.filter fun w => !w.is s a) else t) s

/-- The agent leaves every reservation queue in which it does not hold yet (05 Table Scheduler.6). -/
def dropWaits (s : State) (a : Agent) : State :=
  s.mem.resq.foldl (fun t e => if e.2.any (·.is s a) then mapQueue t e.1 (·.filter fun w => !(w.is s a && w.held.isNone)) else t) s

/-- Every entry of an occurrence leaves the reservation queues (05 R128). -/
def dropOccWaits (s : State) (id : Nat) : State :=
  s.mem.resq.foldl (fun s e => if e.2.any fun w => w.occ = some id then mapQueue s e.1 (·.filter fun w => w.occ ≠ some id) else s) s

/-- Whether the agent holds the reservation of a granule. -/
def holds (s : State) (q granule : Nat) (a : Agent) : Bool :=
  (tabGet [] s.mem.resq q).any fun w => w.is s a && w.granule = granule && w.held.isSome

/-- What joining a queue comes to. -/
inductive Join where
  | full
  | held (s : State)
  | waits (s : State)
  deriving DecidableEq, Repr

/-- An LRW joins the queue of a granule: the queue holds 16, barrel threads at most 14 of them (08 R206; 10 R249). -/
def joinQueue (s : State) (q granule : Nat) (a : Agent) : Join :=
  let s := dropReservations s a
  let l := tabGet [] s.mem.resq q
  let barrel := match a with
    | .prim _ => false
    | .thread _ _ => (l.filter fun w => w.thread ≠ 8).length ≥ 14
  if l.length ≥ 16 || barrel then .full
  else
    let s := mapQueue s q (· ++ [{ core := a.core, thread := waiterThread a, occ := (s.core a.core).occ, granule := granule, held := none }])
    if holds s q granule a then .held s else .waits s

/-! ### Performing a primary's access at its bank -/

/-- A result read at the bank goes to its destination at the operation's bound. -/
def landAt (s : State) (c : BitVec 10) (a : Access) (d : Option Dest) (v : Lanes) : State :=
  match d with
  | none => s
  | some d => s.mapCore c fun k =>
    { k with pend := k.pend ++ [{ dest := d, val := v, born := a.born, due := a.due, vflags := 0, mstat := 0 }] }

/-- The word that a LOCAL synchronising write of the same primary holds at its bank, as its later accesses receive it (16 R390): the newest such write's
that precedes the access. -/
def heldWord (s : State) (c : BitVec 10) (a : Access) (word : Nat) : Option Nat :=
  ((s.core c).accs.reverse.find? fun e => heldWrite s c e && e.precedes a && e.words.contains word).map fun e => e.data.toNat % 2 ^ 64

/-- The bytes of a piece as an access of core c's primary receives them. -/
def pieceValue (s : State) (c : BitVec 10) (a : Access) (p : Piece) : Nat :=
  if p.core = c && (s.core c).accs.any (heldWrite s c) then
    leNat ((List.range p.len).map fun i => match heldWord s c a (spadWordKey p.core (p.off.toNat + i)) with
      | some v => BitVec.ofNat 8 (v / 2 ^ (8 * ((p.off.toNat + i) % 8)))
      | none => spadByte s p.core (p.off.toNat + i))
  else leNat (spadBytes s p.core p.off.toNat p.len)

/-- The bytes of an access's pieces at their positions as core c's primary receives them. -/
def accessValue (s : State) (c : BitVec 10) (a : Access) : Nat := a.pieces.foldl (fun n p => n + pieceValue s c a p * 2 ^ (8 * p.pos)) 0

/-- Whether e is the other half of the WEAVE LDV or STV of which a is one half. -/
def Access.partner (a e : Access) : Bool := (a.op = .ldv || a.op = .stv) && e.op = a.op && e.born = a.born && e.slot = a.slot

/-- Check an access and go on, or record its access trap (16 R385; 09 R231). The first half of a WEAVE LDV or STV is checked with the second: a
failure suppresses both (16 R388). -/
def checkedPrim (s : State) (c : BitVec 10) (a : Access) (r : Right) (plain reads : Bool) (k : State → State) : State :=
  let other := (s.core c).accs.find? fun e => a.partner e
  let ps := if a.checked then [] else a.pieces ++ (match other with
    | some e => e.pieces
    | none => [])
  match piecesFail s (.prim c) r plain reads ps with
  | some (f, p) =>
    -- an LDV names its destination in its second half; the address of the failing lane of a gather or scatter
    let d := match other with
      | some e => e.dest
      | none => a.dest
    let s := match other with
      | some e => s.mapCore c fun k => { k with accs := dropAccess e k.accs }
      | none => s
    failAccess s c { a with dest := d } a.due f (a.addr + match a.op with
      | .gath vi => (laneOf vi (p.pos / 4)).setWidth 64
      | .scat vi => (laneOf vi (p.pos / 4)).setWidth 64
      | _ => 0)
  | none => k (match other with
    | some _ => s.mapCore c fun k => { k with accs := mapIf (a.partner ·) (fun e => { e with checked := true }) k.accs }
    | none => s)

/-- A read of the primary that acquires (16 R392): value, counts, destinations. -/
def primAcquire (s : State) (c : BitVec 10) (a : Access) : State :=
  let v := accessValue s c a
  let s := acquireWords s (.prim c) a.scope.toNat a.words
  landAt (landAt s c a a.dest (BitVec.ofNat 2048 v)) c a a.pdest (if v = 0 then 0 else 1)

/-- The old and new word of an atomic; none when nothing is written (16 Table Mem.6). -/
def atomResult (op : AtomOp) (old x y : Word) : Option Word :=
  match op with
  | .add => some (old + x)
  | .and => some (old &&& x)
  | .or => some (old ||| x)
  | .xor => some (old ^^^ x)
  | .min => some (if old.toInt ≤ x.toInt then old else x)
  | .max => some (if old.toInt ≤ x.toInt then x else old)
  | .minn => some (if old.toNat ≤ x.toNat then old else x)
  | .maxn => some (if old.toNat ≤ x.toNat then x else old)
  | .xch => some x
  | .cas => if old = x then some y else none

/-- Does the ordering acquire? -/
def ordAcq : Ord → Bool
  | .acq => true
  | .ar => true
  | _ => false

/-- Does the ordering release? -/
def ordRel : Ord → Bool
  | .rel => true
  | .ar => true
  | _ => false

/-- An LRW reads its granule with acquire and sets its predicate; its word stays held for two cycles (16 R390, R394). -/
def lrwRead (s : State) (c : BitVec 10) (a : Access) : State :=
  checkedPrim s c a .atomic false true fun s =>
    let v := accessValue s c a
    let s := acquireWords s (.prim c) a.scope.toNat a.words
    let s := a.words.foldl (acquireGranule · (.prim c) a.scope.toNat ·) s
    goesOn (landAt (landAt s c a a.dest (BitVec.ofNat 2048 v)) c a a.pdest 1) c { a with pdest := none } .wordEnd 0

/-- The fence's acquire: synchronise with every release that earlier plain or relaxed reads read (08 R193). -/
def fenceAcquire (s : State) (a : Ag) (sc : Nat) : State := takeReleases s a sc (tabGet [] s.mem.seen a.key)

/-- The fence's release: later plain or relaxed writes of the agent publish it, beside its earlier fences at other scopes (08 R193). -/
def fenceRelease (s : State) (a : Ag) (sc : Nat) : State :=
  let s := countRelease s a sc
  let i := relInfoOf s a sc
  s.mapMem fun m => { m with fenceRel := tabPut [] m.fenceRel a.key (i :: (tabGet [] m.fenceRel a.key).filter fun j => j.scope ≠ i.scope) }

/-- The accesses of a primary that are still on their way and that p selects precede a release that it makes now (08 R191, R194; 19 R455). -/
def lagAccesses (s : State) (c : BitVec 10) (p : Access → Bool) : State :=
  s.mapCore c fun k => { k with accs := mapIf p (fun a => { a with lag := a.lag + 1 }) k.accs }

/-- A release of a primary that is counted before its earlier accesses have all been performed: they keep the count before it. -/
def earlyRelease (s : State) (c : BitVec 10) (sc key : Nat) : State :=
  let s := countRelease (lagAccesses s c fun _ => true) (.prim c) sc
  noteRelease s (.prim c) sc [key]

/-- Key under which relInfo keeps core c's hoist release. -/
def hoistKey (c : BitVec 10) : Nat := 2 ^ 60 + c.toNat

/-- Perform an M access, a fence or a hoist's synchronisation of core c's primary (16 R386-R398; 08 R194). -/
def performMem (s : State) (c : BitVec 10) (a : Access) : State :=
  let ag : Ag := .prim c
  match a.op with
  | .load n signed => checkedPrim s c a .read true true fun s =>
      let v := accessValue s c a
      landAt (noteRead s ag a.words) c a a.dest ((extendLoad n signed v).setWidth 2048)
  | .store _ => checkedPrim s c a .write true false fun s => laggedWrite s ag a.lag a.data.toNat a.pieces
  | .ldv => checkedPrim s c a .read true true fun s =>
      let v := a.data ||| BitVec.ofNat 2048 (accessValue s c a)
      let s := noteRead s ag a.words
      -- the first words of a WEAVE access wait for the second ones
      if a.dest.isNone then s.mapCore c fun k => { k with accs := mapIf (a.partner ·) (fun e => { e with data := e.data ||| v }) k.accs }
      else landAt s c a a.dest v
  | .stv => checkedPrim s c a .write true false fun s => laggedWrite s ag a.lag a.data.toNat a.pieces
  | .gath _ => checkedPrim s c a .read true true fun s =>
      landAt (noteRead s ag a.words) c a a.dest (BitVec.ofNat 2048 (accessValue s c a))
  | .scat _ => checkedPrim s c a .write true false fun s => laggedWrite s ag a.lag a.data.toNat a.pieces
  | .lda => checkedPrim s c a .read false true fun s => primAcquire s c a
  | .ptest => checkedPrim s c a .read false true fun s => primAcquire s c a
  | .strl => checkedPrim s c a .write false false fun s =>
      a.pieces.foldl (fun s p => syncWrite s ag true a.scope.toNat (a.data.toNat % 2 ^ 64) p) s
  | .praise => checkedPrim s c a .write false false fun s =>
      a.pieces.foldl (fun s p => syncWrite s ag true a.scope.toNat (a.data.toNat % 2 ^ 64) p) s
  | .pwait n => checkedPrim s c a .read false true fun s =>
      if accessValue s c a ≠ 0 ∨ n = 0 then primAcquire s c a
      else s.mapCore c fun k => { k with pwait := some { acc := a, left := if n = BitVec.allOnes 32 then none else some n.toNat, woken := false } }
  | .pwaitLast => checkedPrim s c a .read false true fun s => primAcquire s c a
  | .lrw => checkedPrim s c a .atomic false false fun s =>
      match a.pieces with
      | [] => s
      | p :: _ =>
        match joinQueue s (bankQueue p.core p.off.toNat) (spadWordKey p.core p.off.toNat) (.prim c) with
        | .full => landAt (landAt (dropReservations s (.prim c)) c a a.dest 0) c a a.pdest 0
        | .held s => lrwRead s c a
        | .waits s => s.mapCore c fun k => { k with lrwWait := some a }
  | .lrwRead => lrwRead s c a
  | .sch => checkedPrim s c a .atomic false false fun s =>
      match a.pieces with
      | [] => s
      | p :: _ =>
        let q := bankQueue p.core p.off.toNat
        if holds s q (spadWordKey p.core p.off.toNat) (.prim c) then goesOn s c a .schWrite a.data
        else landAt s c a a.pdest 0
  | .schWrite =>
      match a.pieces with
      | [] => s
      | p :: _ =>
        let q := bankQueue p.core p.off.toNat
        -- a revocation that takes effect before the write makes it fail (16 R395)
        if holds s q (spadWordKey p.core p.off.toNat) (.prim c) then
          let s := syncWrite s ag true a.scope.toNat (a.data.toNat % 2 ^ 64) p
          landAt (mapQueue s q (·.filter fun w => !w.is s (.prim c))) c a a.pdest 1
        else landAt s c a a.pdest 0
  | .atomic op ord => checkedPrim s c a .atomic false true fun s =>
      match a.pieces with
      | [] => s
      | p :: _ =>
        let old := BitVec.ofNat 64 (accessValue s c a)
        let s := if ordAcq ord then acquireWords s ag a.scope.toNat p.words else noteRead s ag p.words
        let s := landAt s c a a.dest (old.setWidth 2048)
        match atomResult op old (a.data.setWidth 64) a.data2 with
        | some v => goesOn s c a (.atomWrite (ordRel ord)) (v.setWidth 2048)
        | none => goesOn s c a .wordEnd 0
  | .atomWrite rel => a.pieces.foldl (fun s p => syncWrite s ag rel a.scope.toNat (a.data.toNat % 2 ^ 64) p) s
  | .fence true => fenceAcquire s ag a.scope.toNat
  | .fence false => fenceRelease s ag a.scope.toNat
  | .hoistRel => earlyRelease s c a.scope.toNat (hoistKey c)
  | .hoistAcq => acquireWords s ag a.scope.toNat (((setBits a.data 1024).filter (· ≠ c.toNat)).map fun i => hoistKey (BitVec.ofNat 10 i))
  | _ => s

/-! ### A barrel thread's access -/

/-- Registers that a migrating operation reads are added to the live mask (10 R261). -/
def readMask (l : List (BitVec 6)) : Half := l.foldl (fun m r => if r = 0 then m else m ||| BitVec.ofNat 32 (2 ^ (r.toNat % 32))) 0

/-- A thread begins its departure to a core; the operation executes again there, or the next one does (10 R261). -/
def departTo (s : State) (c : BitVec 10) (t : BitVec 3) (o : BitVec 10) (next : Bool) (extra : Half) : State :=
  s.mapThread c t fun th => { th with st := .depart o next extra }

/-- Registers of the index operand. -/
def srcRegs : Src → List (BitVec 6)
  | .reg r => [r]
  | _ => []

/-- Continue a global access with its value, or wait, or trap (16 R385). -/
def onGlob (s : State) (a : Word) (r : GRes) (k : Nat → State → State) : State :=
  match r with
  | .ok v s => k v s
  | .wait s => s
  | .fail f => failThread s f a
  | .xlate => takeTrap s (addrTrap s .xlate a)

/-- Where a thread's access goes: a cluster scratchpad, another cluster, or global memory (10 R260, R261). -/
inductive Place where
  | spad (p : Piece)
  | away (core : BitVec 10)
  | global
  deriving DecidableEq, Repr

/-- The place of an n-byte access of a thread on core c. -/
def placeOf (s : State) (c : BitVec 10) (m : Mode) (a : Word) (n : Nat) : Place :=
  match m with
  | .glob =>
    if inAperture a.toNat then
      let o := apertureCore a.toNat
      if clusterOf o = clusterOf c then .spad { core := o, off := BitVec.ofNat 20 (apertureOff a.toNat), len := n, pos := 0 }
      else .away o
    else .global
  | m =>
    match piecesOf s m a n with
    | p :: _ => .spad p
    | [] => .global

/-- Check a thread's scratchpad access, then k (16 R385). -/
def checkedThread (s : State) (a : Word) (r : Right) (plain reads : Bool) (p : Piece) (k : State → State) : State :=
  match pieceFail s s.ag r plain reads p with
  | some f => failThread s f a
  | none => k s

/-- A plain load of n bytes by thread t of core c (16 R386, R387). -/
def threadLoad (s : State) (c : BitVec 10) (t : BitVec 3) (f : MemForm) (n : Nat) (signed : Bool) : State :=
  let a := effAddr s f
  let done (v : Nat) (s : State) : State := finish (writeX s c t f.d (extendLoad n signed v))
  match placeOf s c f.mode a n with
  | .spad p => checkedThread s a .read true true p fun s => let r := plainRead s s.ag [p]; done r.1 r.2
  | .away o => departTo s c t o false (readMask (f.a :: srcRegs f.i))
  | .global => onGlob s a (globLoad s c t (ctxOfThread s c t) a.toNat n) done

/-- A plain store of n bytes by a thread. -/
def threadStore (s : State) (c : BitVec 10) (t : BitVec 3) (f : MemForm) (n : Nat) : State :=
  let a := effAddr s f
  let v := (readX s c t f.d).toNat % 2 ^ (8 * n)
  match placeOf s c f.mode a n with
  | .spad p => checkedThread s a .write true false p fun s => finish (plainWrite s s.ag v [p])
  | .away o => departTo s c t o false (readMask (f.d :: f.a :: srcRegs f.i))
  | .global => onGlob s a (globStore s c t (ctxOfThread s c t) a.toNat n v) fun _ s => finish s

/-- A load of either agent. -/
def load (s : State) (f : MemForm) (n : Nat) (signed : Bool) : Host.Outcome State Fault Refusal :=
  runOp s (memTrap s f n) f.g fun s =>
    match s.cur.agent with
    | .prim _ =>
      let a := effAddr s f
      issueAccess s { memAccess s f.mode (.load n signed) (bankDist f.mode) (loadBound f.mode) a (piecesOf s f.mode a n) with dest := destS s f.d }
    | .thread c t => threadLoad s c t f n signed

/-- A store of either agent: the register is read at issue. -/
def store (s : State) (f : MemForm) (n : Nat) : Host.Outcome State Fault Refusal :=
  runOp s (memTrap s f n) f.g fun s =>
    match s.cur.agent with
    | .prim _ =>
      let a := effAddr s f
      issueAccess s { memAccess s f.mode (.store n) (bankDist f.mode) 0 a (piecesOf s f.mode a n) with
        data := BitVec.ofNat 2048 ((readR s f.d).toNat % 2 ^ (8 * n)) }
    | .thread c t => threadStore s c t f n

/-- LDB (16 R386). -/
def execLdb (f : MemForm) (s : State) := load s f 1 true
/-- LDBN (16 R386). -/
def execLdbn (f : MemForm) (s : State) := load s f 1 false
/-- LDH (16 R386). -/
def execLdh (f : MemForm) (s : State) := load s f 2 true
/-- LDHN (16 R386). -/
def execLdhn (f : MemForm) (s : State) := load s f 2 false
/-- LDW (16 R386). -/
def execLdw (f : MemForm) (s : State) := load s f 4 true
/-- LDWN (16 R386). -/
def execLdwn (f : MemForm) (s : State) := load s f 4 false
/-- LDD (16 R386). -/
def execLdd (f : MemForm) (s : State) := load s f 8 false
/-- STB (16 R386). -/
def execStb (f : MemForm) (s : State) := store s f 1
/-- STH (16 R386). -/
def execSth (f : MemForm) (s : State) := store s f 2
/-- STW (16 R386). -/
def execStw (f : MemForm) (s : State) := store s f 4
/-- STD (16 R386). -/
def execStd (f : MemForm) (s : State) := store s f 8

/-! ### Vector accesses (16 R388, R389) -/

/-- Latency bound of LDV (14 Table Enc.15). -/
def ldvBound (m : Mode) : Nat :=
  match m with
  | .loc => 5
  | _ => 9

/-- Issue LDV or STV: in WEAVE mode the second word of each core reaches its bank a cycle after the first (07 Table Fabric.1; 16 Table
Mem.2), as an access of its own. -/
def issueRows (s : State) (m : Mode) (op : AccOp) (bound : Nat) (a : Word) (ps : List Piece) (d : Option Dest) (v : Lanes) : State :=
  match m with
  | .weave =>
    let s := issueAccess s { memAccess s m op 4 bound a (ps.take 16) with data := v }
    issueAccess s { memAccess s m op 5 bound a (ps.drop 16) with dest := d, data := v }
  | _ => issueAccess s { memAccess s m op (bankDist m) bound a ps with dest := d, data := v }

/-- LDV (16 R388). -/
def execLdv (f : VMemForm) (s : State) := runOp s (vmemTrap s f) f.g fun s =>
  let a := readR s f.a + readB s f.i
  issueRows s f.mode .ldv (ldvBound f.mode) a ((vectorPieces s s.me f.mode a).getD []) (some (.v f.v)) 0

/-- STV (16 R388). -/
def execStv (f : VMemForm) (s : State) := runOp s (vmemTrap s f) f.g fun s =>
  let a := readR s f.a + readB s f.i
  issueRows s f.mode .stv 0 a ((vectorPieces s s.me f.mode a).getD []) none (readV s s.me f.v)

/-- VGATH (16 R389): reaches its banks at issue + 4 in every mode. -/
def execVgath (f : GathForm) (s : State) := runOp s (gathTrap s f) f.g fun s =>
  let a := readR s f.a
  let vi := readV s s.me f.vi
  issueAccess s { memAccess s f.mode (.gath vi) 4 9 a ((gatherLanes s s.me f.mode a vi).getD []) with dest := some (.v f.v) }

/-- VSCAT (16 R389): lanes are performed in ascending order. -/
def execVscat (f : GathForm) (s : State) := runOp s (gathTrap s f) f.g fun s =>
  let a := readR s f.a
  let vi := readV s s.me f.vi
  issueAccess s { memAccess s f.mode (.scat vi) 4 0 a ((gatherLanes s s.me f.mode a vi).getD []) with data := readV s s.me f.v }

/-! ### Acquire and release accesses (16 R392) -/

/-- A thread's acquiring read: k gets the value. -/
def threadAcqRead (s : State) (c : BitVec 10) (t : BitVec 3) (f : MemForm) (regs : List (BitVec 6)) (k : Nat → State → State) : State :=
  let a := effAddr s f
  let sc := f.scope.toNat
  match placeOf s c f.mode a 8 with
  | .spad p => checkedThread s a .read false true p fun s =>
      let v := gatherPieces s [p]
      k v (threadAcquire s c (t.setWidth 4) sc p.words)
  | .away o => departTo s c t o false (readMask regs)
  | .global => onGlob s a (globSyncRead s c t (ctxOfThread s c t) sc a.toNat .read fun pa s =>
      .ok (globWord s c a.toNat pa) (threadTake s c (t.setWidth 4) sc (globRel s c a.toNat pa))) k

/-- A thread's releasing write. -/
def threadRelWrite (s : State) (c : BitVec 10) (t : BitVec 3) (f : MemForm) : State :=
  let a := effAddr s f
  let sc := f.scope.toNat
  let v := (readX s c t f.d).toNat
  match placeOf s c f.mode a 8 with
  | .spad p => checkedThread s a .write false false p fun s => finish (syncWrite (threadRelease s c sc) s.ag true sc v p)
  | .away o => departTo s c t o false (readMask (f.d :: f.a :: srcRegs f.i))
  | .global => onGlob s a (globSyncRead s c t (ctxOfThread s c t) sc a.toNat .write fun pa s =>
      .ok 0 (globSyncWrite s c t true sc a.toNat pa v)) fun _ s => finish s

/-- LDA (16 R392). -/
def execLda (f : MemForm) (s : State) := runOp s (memTrap s f 8) f.g fun s =>
  match s.cur.agent with
  | .prim _ =>
    let a := effAddr s f
    issueAccess s { memAccess s f.mode .lda (bankDist f.mode) (loadBound f.mode) a (piecesOf s f.mode a 8) with dest := destS s f.d }
  | .thread c t => threadAcqRead s c t f (f.a :: srcRegs f.i) fun v s => finish (writeX s c t f.d (BitVec.ofNat 64 v))

/-- A releasing store of a primary, performed 6 active cycles after issue (16 Table Mem.2). -/
def primRelease (s : State) (f : MemForm) (op : AccOp) : State :=
  let a := effAddr s f
  issueAccess s { memAccess s f.mode op 6 0 a (piecesOf s f.mode a 8) with data := (readR s f.d).setWidth 2048 }

/-- STRL (16 R392). -/
def execStrl (f : MemForm) (s : State) := runOp s (memTrap s f 8) f.g fun s =>
  match s.cur.agent with
  | .prim _ => primRelease s f .strl
  | .thread c t => threadRelWrite s c t f

/-- PRAISE (16 R392): wakes the waiters of R393. -/
def execPraise (f : MemForm) (s : State) := runOp s (memTrap s f 8) f.g fun s =>
  match s.cur.agent with
  | .prim _ => primRelease s f .praise
  | .thread c t => threadRelWrite s c t f

/-- PTEST (16 R392). -/
def execPtest (f : MemForm) (s : State) := runOp s (memTrap s f 8) f.g fun s =>
  match s.cur.agent with
  | .prim _ =>
    let a := effAddr s f
    issueAccess s { memAccess s f.mode .ptest (bankDist f.mode) (loadBound f.mode) a (piecesOf s f.mode a 8) with
      dest := destS s f.d, pdest := destP s f.p }
  | .thread c t => threadAcqRead s c t f (f.a :: srcRegs f.i) fun v s =>
      finish (writePCode (writeX s c t f.d (BitVec.ofNat 64 v)) f.p (v ≠ 0) 0)

/-! ### PWAIT (16 R393) -/

/-- A thread's PWAIT: the first read, then a sleep, then the read that counts. -/
def threadPwait (s : State) (c : BitVec 10) (t : BitVec 3) (f : MemForm) : State :=
  let a := effAddr s f
  let sc := f.scope.toNat
  let n : Half := (readX s c t f.d).setWidth 32
  let last := (s.thread c t).lastRead
  let sleep (glob : Bool) (key : Nat) (s : State) : State :=
    s.mapThread c t fun th => { th with st := .pwait glob key (if n = BitVec.allOnes 32 then none else some n.toNat) }
  let done (v : Nat) (s : State) : State := finish (writePCode (writeX s c t f.d (BitVec.ofNat 64 v)) f.p (v ≠ 0) 0)
  match placeOf s c f.mode a 8 with
  | .spad p => checkedThread s a .read false true p fun s =>
      let v := gatherPieces s [p]
      if v = 0 ∧ n ≠ 0 ∧ !last then sleep false (spadWordKey p.core p.off.toNat) s
      else done v (threadAcquire s c (t.setWidth 4) sc p.words)
  | .away o => departTo s c t o false (readMask (f.d :: f.a :: srcRegs f.i))
  | .global => onGlob s a (globSyncRead s c t (ctxOfThread s c t) sc a.toNat .read fun pa s =>
      let v := globWord s c a.toNat pa
      if v = 0 ∧ n ≠ 0 ∧ !last then .wait (sleep true (pa / 8) s)
      else .ok v (threadTake s c (t.setWidth 4) sc (globRel s c a.toNat pa))) done

/-- PWAIT (16 R393). -/
def execPwait (f : MemForm) (s : State) := runOp s (memTrap s f 8) f.g fun s =>
  match s.cur.agent with
  | .prim _ =>
    let a := effAddr s f
    issueAccess s { memAccess s f.mode (.pwait ((readR s f.d).setWidth 32)) (bankDist f.mode) (loadBound f.mode) a (piecesOf s f.mode a 8) with
      dest := destS s f.d, pdest := destP s f.p }
  | .thread c t => threadPwait s c t f

/-! ### LRW and SCH (16 R394, R395) -/

/-- A thread's LRW on queue q and granule g: k reads with acquire once the thread holds. -/
def threadLrw (s : State) (c : BitVec 10) (t : BitVec 3) (f : MemForm) (q g : Nat) (k : State → State) : State :=
  let me : Agent := .thread c t
  if (s.thread c t).st = .lrw then
    (if holds s q g me then k s else s)
  else match joinQueue s q g me with
    | .full => finish (writePCode (writeX (dropReservations s me) c t f.d 0) f.p false 0)
    | .held s => k s
    | .waits s => s.mapThread c t fun th => { th with st := .lrw }

/-- A domain change holds an LRW that has joined no queue yet at its thread, in the order of such holds (07 R166). -/
def holdLrw (s : State) (c : BitVec 10) (t : BitVec 3) (x : BitVec 6) (va : Nat) : GRes :=
  let w : LrwHold := { core := c, thread := t, pc := (s.thread c t).pc, ctx := x, va := va }
  threadHold (if s.mem.lrwHeld.contains w then s else s.mapMem fun m => { m with lrwHeld := m.lrwHeld ++ [w] }) c t

/-- The look of an LRW at its home slice. -/
def lrwLook (s : State) (c : BitVec 10) (t : BitVec 3) (x : BitVec 6) (sc va : Nat) : GRes :=
  if domainBusy s x va then holdLrw s c t x va
  else threadServe s c t x va .atomic fun leaf pa s =>
    if !pteUncached leaf && (sc = 4 || !lineHeld s x leaf va pa) && missFull s x va then threadHold s c t
    else .ok pa (homeReady s c x leaf 1 va pa)

/-- The granule of global memory that an agent has come to hold, as its queue and its physical address: it was translated when it joined (07 R170). -/
def heldGranule (s : State) (a : Agent) : Option (Nat × Nat) :=
  s.mem.resq.findSome? fun e => if e.1 < 2 ^ 20 then none
    else (e.2.find? fun w => w.is s a && w.held.isSome).map fun w => (e.1, 8 * (w.granule - physWordKey 0))

/-- The acquire of a thread that comes to hold a granule. -/
def lrwAcquire (s : State) (c : BitVec 10) (t : BitVec 3) (sc : Nat) (keys : List Nat) : State :=
  threadAcquire (keys.foldl (acquireGranule · (.thread c (t.setWidth 4)) sc ·) s) c (t.setWidth 4) sc keys

/-- LRW (16 R394). -/
def execLrw (f : MemForm) (s : State) := runOp s (memTrap s f 8) f.g fun s =>
  let a := effAddr s f
  match s.cur.agent with
  | .prim _ =>
    issueAccess s { memAccess s f.mode .lrw (bankDist f.mode) (atomBound f.mode) a (piecesOf s f.mode a 8) with
      dest := destS s f.d, pdest := destP s f.p }
  | .thread c t =>
    let sc := f.scope.toNat
    let x := ctxOfThread s c t
    let done (v : Nat) (s : State) : State := finish (writePCode (writeX s c t f.d (BitVec.ofNat 64 v)) f.p true 0)
    match placeOf s c f.mode a 8 with
    | .spad p => checkedThread s a .atomic false false p fun s =>
        threadLrw s c t f (bankQueue p.core p.off.toNat) (spadWordKey p.core p.off.toNat) fun s =>
          if p.poisoned s then failThread s .uncorr a
          else done (gatherPieces s [p]) (lrwAcquire s c t sc p.words)
    | .away o => departTo s c t o false (readMask (f.a :: srcRegs f.i))
    | .global =>
      let read (pa : Nat) (s : State) : State :=
        let s := if sc = 4 then evictLine s pa else recallNear (dcDrop s c a.toNat) pa
        if physPoisoned s pa 8 then failThread s .uncorr a
        else done (leNat (physBytes s pa 8)) (lrwAcquire s c t sc (physKeys pa 8))
      if (s.thread c t).st = .lrw then
        match heldGranule s (.thread c t) with
        | some (_, pa) => read pa s
        | none => s
      else onGlob s a (lrwLook s c t x sc a.toNat) fun pa s =>
        threadLrw s c t f (sliceQueue (homeSlice s x a.toNat)) (physWordKey pa) (read pa)

/-- SCH (16 R395): the predicate tells whether the agent still held the granule. -/
def execSch (f : MemForm) (s : State) := runOp s (memTrap s f 8) f.g fun s =>
  let a := effAddr s f
  match s.cur.agent with
  | .prim _ =>
    issueAccess s { memAccess s f.mode .sch 4 (atomBound f.mode) a (piecesOf s f.mode a 8) with
      pdest := destP s f.p, data := (readR s f.d).setWidth 2048 }
  | .thread c t =>
    let sc := f.scope.toNat
    let v := (readX s c t f.d).toNat
    let me : Agent := .thread c t
    let leave (q : Nat) (s : State) : State := finish (writePCode (mapQueue s q (·.filter fun w => !w.is s me)) f.p true 0)
    match placeOf s c f.mode a 8 with
    | .spad p => checkedThread s a .atomic false false p fun s =>
        let q := bankQueue p.core p.off.toNat
        if holds s q (spadWordKey p.core p.off.toNat) me then leave q (syncWrite (threadRelease s c sc) s.ag true sc v p)
        else finish (writePCode s f.p false 0)
    | .away o => departTo s c t o false (readMask (f.d :: f.a :: srcRegs f.i))
    | .global =>
        let x := ctxOfThread s c t
        onGlob s a (threadServe s c t x a.toNat .atomic fun leaf pa s =>
          let q := sliceQueue (homeSlice s x a.toNat)
          if sc = 4 && !pteUncached leaf && missFull s x a.toNat then threadHold s c t
          else if holds s q (physWordKey pa) me then
            .ok 1 (mapQueue (globSyncWrite (homeReady s c x leaf (if sc = 4 then 4 else 1) a.toNat pa) c t true sc a.toNat pa v) q
              (·.filter fun w => !w.is s me))
          else .ok 0 s) fun r s => finish (writePCode s f.p (r = 1) 0)

/-! ### Atomics (16 R396, R397) -/

/-- Active cycles to a primary atomic's read (16 Table Mem.2). -/
def atomDist (m : Mode) (ord : Ord) : Nat := if ordRel ord then 4 else bankDist m

/-- A thread's atomic (16 R396; 08 R209). -/
def threadAtomic (s : State) (c : BitVec 10) (t : BitVec 3) (f : MemForm) (op : AtomOp) : State :=
  let a := effAddr s f
  let sc := f.scope.toNat
  let x := readX s c t f.d
  let y := readX s c t (f.d + 1)
  let regs := f.d :: (if op = .cas then [f.d + 1] else []) ++ f.a :: srcRegs f.i
  match placeOf s c f.mode a 8 with
  | .spad p => checkedThread s a .atomic false true p fun s =>
      let s := if ordRel f.ord then threadRelease s c sc else s
      let old := BitVec.ofNat 64 (gatherPieces s [p])
      let s := if ordAcq f.ord then acquireWords s s.ag sc p.words else noteRead s s.ag p.words
      let s := match atomResult op old x y with
        | some v => syncWrite s s.ag (ordRel f.ord) sc v.toNat p
        | none => s
      let s := if ordAcq f.ord && sc ≥ 1 then dcAcquire s c else s
      finish (writeX s c t f.d old)
  | .away o => departTo s c t o false (readMask regs)
  | .global => onGlob s a (threadLook s c t (ctxOfThread s c t) a.toNat .atomic fun leaf pa s =>
      let cx := ctxOfThread s c t
      if globPoisoned s c a.toNat pa then .fail .uncorr
      else if !pteUncached leaf && (sc = 4 || atHome (s.core c) leaf a.toNat || !lineHeld s cx leaf a.toNat pa) && missFull s cx a.toNat then
        threadHold s c t
      else
        let s := if ordRel f.ord then threadRelease s c sc else s
        let s := placeAtomic s c cx a.toNat pa leaf
        let s := if sc = 4 then homeReady s c cx leaf 4 a.toNat pa else s
        let old := BitVec.ofNat 64 (globWord s c a.toNat pa)
        let read := globRel s c a.toNat pa
        let ag : Ag := .thread c (t.setWidth 4)
        let s := if ordAcq f.ord then takeReleases s ag sc read else noteInfos s ag read
        let s := match atomResult op old x y with
          | some v => globSyncWrite s c t (ordRel f.ord) sc a.toNat pa v.toNat
          | none => s
        let s := holdNear s c a.toNat
        .ok old.toNat (if ordAcq f.ord && sc ≥ 1 then dcAcquire s c else s)) fun v s => finish (writeX s c t f.d (BitVec.ofNat 64 v))

/-- An atomic of either agent: sd, and s(d + 1) for ACAS, are read at issue. -/
def atomic (s : State) (f : MemForm) (op : AtomOp) : Host.Outcome State Fault Refusal :=
  runOp s (memTrap s f 8) f.g fun s =>
    match s.cur.agent with
    | .prim _ =>
      let a := effAddr s f
      issueAccess s { memAccess s f.mode (.atomic op f.ord) (atomDist f.mode f.ord) (atomBound f.mode) a (piecesOf s f.mode a 8) with
        dest := destS s f.d, data := (readR s f.d).setWidth 2048, data2 := readR s (f.d + 1) }
    | .thread c t => threadAtomic s c t f op

/-- AADD (16 R396). -/
def execAadd (f : MemForm) (s : State) := atomic s f .add
/-- AAND (16 R396). -/
def execAand (f : MemForm) (s : State) := atomic s f .and
/-- AOR (16 R396). -/
def execAor (f : MemForm) (s : State) := atomic s f .or
/-- AXOR (16 R396). -/
def execAxor (f : MemForm) (s : State) := atomic s f .xor
/-- AMIN (16 R396). -/
def execAmin (f : MemForm) (s : State) := atomic s f .min
/-- AMAX (16 R396). -/
def execAmax (f : MemForm) (s : State) := atomic s f .max
/-- AMINN (16 R396). -/
def execAminn (f : MemForm) (s : State) := atomic s f .minn
/-- AMAXN (16 R396). -/
def execAmaxn (f : MemForm) (s : State) := atomic s f .maxn
/-- AXCH (16 R396). -/
def execAxch (f : MemForm) (s : State) := atomic s f .xch
/-- ACAS (16 R396): s31 and s63 raise ILLOP at decode (14 R345). -/
def execAcas (f : MemForm) (s : State) := atomic s f .cas

/-! ### FENCE (16 R398; 08 R193) -/

/-- FENCE: a primary's acquire reaches the reads issued before it after 4 active cycles, its release the writes after 6
(16 Table Mem.3); a thread's acts at once, with its core's cache. -/
def execFence (f : FenceForm) (s : State) := runOp s none f.g fun s =>
  match s.cur.agent with
  | .prim _ =>
    let s := if ordAcq f.ord then issueAccess s (newAccess s (.fence true) (if ordRel f.ord then 6 else 4) 0 0 []) else s
    if ordRel f.ord then issueAccess s (newAccess s (.fence false) 6 0 0 []) else s
  | .thread c t =>
    let sc := f.scope.toNat
    let s := if ordRel f.ord then fenceRelease (threadRelease s c sc) (.thread c (t.setWidth 4)) sc else s
    let s := if ordAcq f.ord then
        let s := fenceAcquire s (.thread c (t.setWidth 4)) sc
        if sc ≥ 1 then dcAcquire s c else s
      else s
    finish s

/-! ### Cache maintenance (16 R399) -/

/-- Run a cache operation on a cached address: an aperture address does nothing. -/
def cacheOp (s : State) (f : MemForm) (k : BitVec 10 → BitVec 3 → Nat → State → State) : Host.Outcome State Fault Refusal :=
  runOp s (if executes s f.g && (effAddr s f).toNat ≥ 2 ^ 57 then some (addrTrap s .sprange (effAddr s f)) else none) f.g fun s =>
    match s.cur.agent with
    | .prim _ => s
    | .thread c t => if inAperture (effAddr s f).toNat then finish s else k c t (effAddr s f).toNat s

/-- CFLUSH (16 R399): write the line back and keep it clean. -/
def execCflush (f : MemForm) (s : State) := cacheOp s f fun c _ va s =>
  finish (match dcFind (s.core c) va with
    | some d => setDcache (writeBackLine s c d) c (mapIf (fun e => e.vline = d.vline) DLine.cleaned (s.core c).dcache)
    | none => s)

/-- CINV (16 R399): write the line back and invalidate it; a near line goes home. -/
def execCinv (f : MemForm) (s : State) := cacheOp s f fun c _ va s =>
  finish (dcDrop s c va)

/-- CPRE (16 R399): fill the line if it is absent; a translation fault or an UNCACHED page drops the hint. -/
def execCpre (f : MemForm) (s : State) := cacheOp s f fun c t va s =>
  finish (if (dcFind (s.core c) va).isSome then s
    else match look s (ctxOfThread s c t) va .read with
      | .hit leaf _ pa => if pteUncached leaf || fillHeld s (ctxOfThread s c t) leaf va pa 1 then s else dcFill s c (ctxOfThread s c t) va leaf pa
      | .wait _ => s)

/-! ### PLD and STT (16 R400, R401; 10 R264) -/

/-- Whether the operation runs in thread 7. -/
def inService (s : State) : Bool :=
  match s.cur.agent with
  | .thread _ t => t = 7
  | .prim _ => false

/-- The traps of PLD: PRIV outside thread 7, then range and alignment (16 R385, R400). -/
def pldTrap (f : MemForm) (s : State) : Option TrapInfo :=
  if !inService s then some (bundleTrap s .priv 0)
  else if !executes s f.g then none
  else if (effAddr s f).toNat ≥ 2 ^ 52 then some (addrTrap s .sprange (effAddr s f))
  else if (effAddr s f).toNat % 8 ≠ 0 then some (addrTrap s .misalign (effAddr s f))
  else none

/-- PLD (16 R400): the 8 bytes at a physical address with acquire at scope 4; 0 for an absent or poisoned word. -/
def execPld (f : MemForm) (s : State) := runOp s (pldTrap f s) f.g fun s =>
  match s.cur.agent with
  | .prim _ => s
  | .thread c t =>
    let pa := (effAddr s f).toNat
    let v := pldWord s pa
    let s := if dramPoisoned s pa then countUncorr s (quadOf c) else s
    finish (writeX (threadAcquire s c (t.setWidth 4) 4 (physKeys pa 8)) c t f.d v)

/-- What STT's operands name: leaf, PAGE word, slice and miss entry. -/
def sttArgs (f : MemForm) (s : State) : Word × Word × Word := (readR s f.d, readR s f.a, readB s f.i)

/-- STT raises ILLOP for an entry with V = 0, a malformed or reserved field, a slice above 255, a miss entry above 47, or a
reserved bit of xa or xb (16 R401). DEDUCED: a frame outside the physical map and a host frame that is not UNCACHED count as
malformed (log 120, `leafOk`). -/
def sttOk (s : State) (e p m : Word) : Bool :=
  pteValid e && pteClean e && (!(p.getLsbD 10) || fieldOf e 16 13 = 0) && (leafOk s e (p.getLsbD 10)) &&
    fieldOf p 57 7 = 0 && fieldOf p 11 5 = 0 && fieldOf p 6 2 = 0 &&
    fieldOf m 0 16 ≤ 255 && fieldOf m 16 16 ≤ 47 && fieldOf m 32 32 = 0

/-- The traps of STT. -/
def sttTrap (f : MemForm) (s : State) : Option TrapInfo :=
  if !inService s then some (bundleTrap s .priv 0)
  else if !executes s f.g then none
  else if sttOk s (sttArgs f s).1 (sttArgs f s).2.1 (sttArgs f s).2.2 then none
  else some (bundleTrap s .illop 0)

/-- Wake a requester of translation, or fail it with XLATE (07 R168, R169). -/
def wakeRequester (s : State) (w : Requester) (failed : Option Word) : State :=
  match w with
  | .thread c t => s.mapThread c (t.setWidth 3) fun th => match th.st with
      | .miss _ _ => { th with st := .running, xfail := failed }
      | .resume _ => { th with xfail := failed }
      | _ => th
  | .job n j => s.mapCluster n fun k =>
      { k with jobs := tabPut Job.reset k.jobs j.toNat { tabGet Job.reset k.jobs j.toNat with missAt := none, xfail := failed } }
  | .host fn id => s.pushEvents ((s.mgmt.hostWaits.filter fun h => h.id = id && h.fn = fn).map fun h =>
      ((if h.write then Instr.bar4Write else Instr.bar4Read),
        { who := .fn fn, ix := id + 1, value := h.va, aux := h.data, flag := failed.isSome, ctx := fn.setWidth 6 }))
  | .halyard k => s.mapHalKey k fun h => { h with xfail := failed.isSome }
  | .prep id => s.mapOcc id fun o => { o with prepWait := none, xfail := failed.isSome }
  | .packet n => s.mapSched fun m => { m with packets := tabPut none m.packets n ((tabGet none m.packets n).map fun p => { p with xfail := failed.isSome }) }
  | .spawn o fp => s.mapCore o fun k => { k with readyq := mapIf (fun e => e.fp = fp && e.late) (fun e => { e with failed := failed.isSome }) k.readyq }
  | .moor k => s.mapSched fun m => { m with moorFail := tabPut false m.moorFail k failed.isSome }
  | .peer id => s.pushEvents ((s.links.peerWaits.filter fun w => w.id = id).map fun w =>
      ((match fieldOf w.flit 46 4 with
        | 1 => Instr.read
        | 3 => Instr.write
        | _ => Instr.atomic), { ix := 16, flit := w.flit, aux := BitVec.ofNat 64 (id + 1), flag := failed.isSome }))

/-- Take a miss entry out of a slice and wake or fail its requester. -/
def endMiss (s : State) (h : BitVec 8) (e : Nat) (failed : Option Word) : State :=
  match tabGet none (s.slice h).misses e with
  | none => s
  | some m => (m.who :: m.also).foldl (fun s w => wakeRequester s w failed) (s.mapSlice h fun k => { k with misses := tabPut none k.misses e none })

/-- Install a translation at a slice and wake the miss entry that waits on it (16 R401). -/
def installLeaf (s : State) (h : BitVec 8) (x : BitVec 6) (page : Nat) (huge : Bool) (leaf : Word) (e : Nat) : State :=
  let s := s.mapSlice h fun k =>
    { k with tlb := tlbInstall k.tlb { ctx := x, huge := huge, page := page * 65536 / pageBytes huge, leaf := leaf } }
  match tabGet none (s.slice h).misses e with
  | some m => if m.ctx = x && m.stage ≠ .fill && m.page * 65536 / pageBytes huge = page * 65536 / pageBytes huge then endMiss s h e none else s
  | none => s

/-- STT (16 R401). -/
def execStt (f : MemForm) (s : State) := runOp s (sttTrap f s) f.g fun s =>
  let e := (sttArgs f s).1
  let p := (sttArgs f s).2.1
  let m := (sttArgs f s).2.2
  finish (installLeaf s (m.setWidth 8) (p.setWidth 6) (fieldOf p 16 41) (p.getLsbD 10) e (fieldOf m 16 16))

end Sys2Proof.Machine
end

