-- ==== Sys2Proof/Machine/Halyard.lean ====
section
/-! DEFINITION. The halyard engine: records, the engine's memory accesses, events, the playback cursor, frames, commits,
checkpoints and cuts (spec 06; 08 R196; 19 R455-R459; 22 R478). -/

namespace Sys2Proof.Machine

/-! ### Names -/

/-- A halyard by its directory key. -/
def State.halAt (s : State) (dir : Nat) : Hal := tabGet Hal.reset s.sched.hals dir

/-- Context of a directory key. -/
def halCtx (dir : Nat) : BitVec 6 := BitVec.ofNat 6 (dir / 4096)

/-- Halyard number of a directory key. -/
def halNum (dir : Nat) : Nat := dir % 4096

/-- No position, no checkpoint: all ones. -/
def allOnes64 : Word := BitVec.allOnes 64

/-- The agent of the engine for an access at va: the cluster of the bound guidon, or the one an aperture address names; a
parked halyard's accesses are the command processor's (22 R478). -/
def halAgent (h : Hal) (va : Nat) : Ag :=
  if inAperture va then .halyard (clusterOf (apertureCore va))
  else match h.bound with
    | some g => .halyard (clusterOf g)
    | none => .host

/-! ### The engine's memory accesses (06 R152; 07 R169; 22 R478) -/

/-- What a check of the engine's accesses came to. -/
inductive EngRes where
  | ok
  | wait (s : State)
  | fail
  deriving DecidableEq, Repr

/-- Whether the scratchpad of core c belongs to a unit of the halyard's launch that is stopped or in the store: the engine's accesses to it wait
for the resume (05 Table Scheduler.6). -/
def halAway (s : State) (h : Hal) (c : BitVec 10) : Bool :=
  preempted s c || (h.owner.bind s.occ?).any fun o => o.units.any (fun u => u.cores.contains c) && (s.core c).occ ≠ h.owner

/-- The race that a plain access of the engine meets; a read that a replica serves is not checked (07 R173; 08 R202). -/
def halRace (s : State) (ag : Ag) (x : BitVec 6) (leaf : Word) (va pa n : Nat) (k : AccessKind) : Option RaceTag :=
  if k = .atomic || (k = .read && ag.cluster?.any fun m => atReplica s (quadOfCluster m) x leaf va) then none else rangeRace s ag x leaf va pa n

/-- Whether the engine can make every access (address, bytes, kind): translated, permitted, unpoisoned, unraced when they are plain, and in an
aperture not refused. A missing translation is requested and waited for; while a domain changes, or a slice's miss entries are all taken, an access
that needs one waits (07 R166, R174). -/
def halCheck (plain : Bool) (s : State) (dir : Nat) : List (Nat × Nat × AccessKind) → EngRes
  | [] => .ok
  | (va, n, k) :: r =>
    let h := s.halAt dir
    let x := halCtx dir
    let ag := halAgent h va
    if inAperture va then
      let p : Piece := { core := apertureCore va, off := BitVec.ofNat 20 (apertureOff va), len := n, pos := 0 }
      if halAway s h p.core || portsBusy s [p] (k ≠ .read) || (k = .atomic && portsBusy s [p] false) then .wait s
      else if inPool s p.core p.off.toNat n then .fail
      else match pieceFail s ag (if k = .read then .read else if k = .write then .write else .atomic) (plain && k ≠ .atomic) (k ≠ .write) p with
      | some _ => .fail
      | none => halCheck plain s dir r
    else if va ≥ 2 ^ 57 then .fail
    else match look s x va k with
      | .hit leaf _ pa =>
        if fillHeld s x leaf va pa n then .wait s
        else if (k ≠ .write && physPoisoned s pa n) || (plain && (halRace s ag x leaf va pa n k).isSome) then .fail
        else halCheck plain s dir r
      | .wait perm =>
        if h.xfail then .fail
        else if domainBusy s x va then .wait s
        else .wait (requestMiss s (homeSlice s x va) x va k (.halyard dir) perm).2

/-- The check of the engine's plain accesses and atomics. -/
def halReady (s : State) (dir : Nat) (l : List (Nat × Nat × AccessKind)) : EngRes := halCheck true s dir l

/-- The check of a record's write: it is a release at system scope, which no race check meets (06 R132; 08 R200). -/
def recordReady (s : State) (dir : Nat) : EngRes := halCheck false s dir [((s.halAt dir).addr.toNat, 256, .write)]

/-- The lines that the engine's reads need, held for its context and taken back from near holders (07 R172; 08 R210). -/
def halHold (s : State) (dir : Nat) (l : List (Nat × Nat × AccessKind)) : State :=
  l.foldl (fun s e =>
    if inAperture e.1 || e.2.2 ≠ .read then s
    else match look s (halCtx dir) e.1 .read with
      | .hit leaf _ pa =>
        let s := match (halAgent (s.halAt dir) e.1).cluster? with
          | some m => noteReplica s (quadOfCluster m) leaf pa
          | none => s
        serveLines s (halCtx dir) leaf e.1 pa e.2.1
      | .wait _ => s) s

/-- n bytes at va as the engine reads them, once ready. -/
def halRead (s : State) (dir va n : Nat) : Nat :=
  if inAperture va then leNat (spadBytes s (apertureCore va) (apertureOff va) n)
  else match look s (halCtx dir) va .read with
    | .hit _ _ pa => leNat (homeBytes s pa n)
    | .wait _ => 0

/-- Where an access that cannot wait finds va: by its slice's translation, or by a walk. -/
def halFind (s : State) (dir va : Nat) (k : AccessKind) : Option (Word × Nat) :=
  match look s (halCtx dir) va k with
  | .hit leaf _ pa => some (leaf, pa)
  | .wait _ =>
    if va ≥ 2 ^ 57 then none
    else match walk s (halCtx dir) va with
      | some (leaf, huge) => if permits leaf k then some (leaf, leafPhys leaf huge va) else none
      | none => none

/-- Write n bytes at va for agent ag; through: at system scope. An address without a mapping takes nothing. -/
def halPut (s : State) (dir : Nat) (ag : Ag) (through : Bool) (va n v : Nat) : State :=
  if inAperture va then
    plainWrite s ag v [{ core := apertureCore va, off := BitVec.ofNat 20 (apertureOff va), len := n, pos := 0 }]
  else match halFind s dir va .write with
    | some (leaf, pa) => homeWriteAll s ag (halCtx dir) leaf through va pa (leBytes n v)
    | none => s

/-- Write n bytes at va, once ready. -/
def halWrite (s : State) (dir va n v : Nat) : State := halPut s dir (halAgent (s.halAt dir) va) false va n v

/-- Key of the synchronisation on a halyard record (08 R196). -/
def halRelKey (dir : Nat) : Nat := 2 ^ 61 + dir

/-- A release of agent a at scope sc that an acquire under key reads. -/
def releaseAt (s : State) (a : Ag) (sc key : Nat) : State := noteRelease (countRelease s a sc) a sc [key]

/-! ### The record (06 Table Halyards.1) -/

/-- n bytes at offset o of a record's value. -/
def recField (v o n : Nat) : Nat := v / 2 ^ (8 * o) % 2 ^ (8 * n)

/-- The fields of a record, laid over a directory entry. -/
def halOfRecord (h : Hal) (v : Nat) : Hal :=
  let w (o : Nat) : Word := BitVec.ofNat 64 (recField v o 8)
  { h with
    g := w 0, p := w 8, t := w 16, i := w 24, a := w 32, cutpos := w 40, playend := w 48, horizon := w 56, logbase := w 64
    playbase := w 72, qbase := w 80, kvtab := w 88, ckbase := w 96, evpen := w 104, lead := w 112
    tokns := BitVec.ofNat 32 (recField v 120 4), dlim := BitVec.ofNat 32 (recField v 124 4)
    loglg := BitVec.ofNat 8 (recField v 128 1), qlg := BitVec.ofNat 8 (recField v 129 1), cklg := BitVec.ofNat 8 (recField v 130 1)
    ckcount := BitVec.ofNat 8 (recField v 131 1), kvlayers := BitVec.ofNat 16 (recField v 132 2)
    kvcap := BitVec.ofNat 32 (recField v 136 4), cksize := BitVec.ofNat 32 (recField v 140 4)
    evpmask := BitVec.ofNat 16 (recField v 144 2), evimask := BitVec.ofNat 16 (recField v 146 2)
    mode := BitVec.ofNat 8 (recField v 148 1), nextseq := BitVec.ofNat 32 (recField v 152 4)
    drops := BitVec.ofNat 32 (recField v 156 4), lates := BitVec.ofNat 32 (recField v 160 4), lastck := w 168, ckvalid := w 176
    tmax := w 192 }

/-- Code of STATE. -/
def HalState.code : HalState → Nat
  | .closed => 0
  | .parked => 1
  | .live => 2
  | .faulted => 3

/-- BIND: global cluster, core, bound (06 Table Halyards.1). -/
def bindWord (h : Hal) : Nat :=
  match h.bound with
  | some g => (clusterOf g).toNat + 64 * (memberOf g).toNat + 2 ^ 15
  | none => 0

/-- The 256 bytes of a record. -/
def recordBytes (h : Hal) (num : Nat) : List Byte :=
  let w (x : Word) := leBytes 8 x.toNat
  w h.g ++ w h.p ++ w h.t ++ w h.i ++ w h.a ++ w h.cutpos ++ w h.playend ++ w h.horizon ++ w h.logbase ++ w h.playbase ++
    w h.qbase ++ w h.kvtab ++ w h.ckbase ++ w h.evpen ++ w h.lead ++ leBytes 4 h.tokns.toNat ++ leBytes 4 h.dlim.toNat ++
    [h.loglg, h.qlg, h.cklg, h.ckcount] ++ leBytes 2 h.kvlayers.toNat ++ leBytes 2 0 ++ leBytes 4 h.kvcap.toNat ++
    leBytes 4 h.cksize.toNat ++ leBytes 2 h.evpmask.toNat ++ leBytes 2 h.evimask.toNat ++ [h.mode, BitVec.ofNat 8 h.st.code] ++
    leBytes 2 num ++ leBytes 4 h.nextseq.toNat ++ leBytes 4 h.drops.toNat ++ leBytes 4 h.lates.toNat ++ leBytes 4 0 ++
    w h.lastck ++ w h.ckvalid ++ leBytes 8 (bindWord h) ++ w h.tmax ++ leBytes 56 0

/-- The words of a record at va, for release and acquire. -/
def recordKeys (s : State) (dir va : Nat) (k : AccessKind) : List Nat :=
  if inAperture va then Piece.words { core := apertureCore va, off := BitVec.ofNat 20 (apertureOff va), len := 256, pos := 0 }
  else match halFind s dir va k with
    | some (_, pa) => physKeys pa 256
    | none => []

/-- Write the record back with release at system scope, as the agent that held the halyard (06 R132): its words carry the release, and no
writer (08 R191, R200). -/
def writeRecord (s : State) (dir : Nat) (ag : Ag) : State :=
  let h := s.halAt dir
  let va := h.addr.toNat
  let s := halPut s dir ag true va 256 (leNat (recordBytes h (halNum dir)))
  let s := if inAperture va then setTags s { core := apertureCore va, off := BitVec.ofNat 20 (apertureOff va), len := 256, pos := 0 } .none else s
  noteRelease (countRelease s ag 4) ag 4 (halRelKey dir :: recordKeys s dir va .write)

/-- Reserved fields of a record are zero. -/
def recordClean (v : Nat) : Bool := recField v 134 2 = 0 && recField v 164 4 = 0 && recField v 200 56 = 0 && recField v 148 1 < 8 &&
  recField v 144 2 < 256 && recField v 146 2 < 256 && recField v 112 8 < 2 ^ 32

/-- The limits of Table Halyards.1 and R131, R133. -/
def recordOk (h : Hal) : Bool :=
  let al (x : Word) (n : Nat) := x.toNat % n = 0
  let range (x lo hi : Nat) := lo ≤ x && x ≤ hi
  al h.logbase 4096 && al h.playbase 4096 && al h.qbase 4096 && al h.kvtab 64 && al h.ckbase 64 && al h.evpen 8 &&
    h.tokns ≠ 0 && range h.loglg.toNat 6 24 && range h.qlg.toNat 2 12 && range h.cklg.toNat 4 10 && range h.ckcount.toNat 1 64 &&
    range h.kvlayers.toNat 1 1024 && 16 ≤ h.kvcap.toNat && h.cksize ≠ 0 && h.cksize.toNat % 64 = 0 &&
    2 ^ h.loglg.toNat ≥ 2 * h.ckcount.toNat * 2 ^ h.cklg.toNat && 2 ^ h.loglg.toNat ≥ h.kvcap.toNat &&
    h.p ≤ h.g && h.g ≤ h.t && h.t ≤ h.tmax && h.tmax.toNat ≤ h.p.toNat + h.kvcap.toNat && h.tmax.toNat < 2 ^ 48

/-- The entries of a KV map from their bytes (06 R136). -/
def kvOf (v : Nat) : Nat → List KvLayer
  | 0 => []
  | n + 1 => { base := BitVec.ofNat 64 (recField v 0 8), stride := BitVec.ofNat 32 (recField v 8 4) } :: kvOf (v / 2 ^ 128) n

/-- The entries keep R136. -/
def kvOk (v : Nat) : Nat → Bool
  | 0 => true
  | n + 1 => recField v 0 8 % 64 = 0 && recField v 8 4 % 64 = 0 && recField v 8 4 ≠ 0 && recField v 12 4 = 0 && kvOk (v / 2 ^ 128) n

/-- The position a slot without a kept position is taken to hold: the largest multiple of C at or below LASTCK that maps to
it (06 R148), and position 0 where there is none (DESIGN CHOICE, log entry 109). -/
def ckGuess (h : Hal) (j : Nat) : Word :=
  let c := 2 ^ h.cklg.toNat
  let n := h.ckcount.toNat
  let m := h.lastck.toNat / c
  BitVec.ofNat 64 ((m - (m + n - j) % n) * c)

/-- Positions of the checkpoints of an opened record: kept ones where the directory has them (06 R148). -/
def ckPositions (h : Hal) (kept : Tab Word) : Tab Word :=
  ((List.range 64).filter fun j => h.ckvalid.getLsbD j).map fun j =>
    (j, match kept.find? fun e => e.1 = j with
      | some e => e.2
      | none => ckGuess h j)

/-! ### Log and play ring (06 R134, R135) -/

/-- Address of position p's log entry. -/
def logVa (h : Hal) (p : Nat) : Nat := h.logbase.toNat + 16 * (p % 2 ^ h.loglg.toNat)
/-- Address of position p's play instant. -/
def playVa (h : Hal) (p : Nat) : Nat := h.playbase.toNat + 8 * (p % 2 ^ h.loglg.toNat)
/-- Address of input-queue entry n. -/
def queueVa (h : Hal) (n : Nat) : Nat := h.qbase.toNat + 256 * (n % 2 ^ h.qlg.toNat)

/-- Play instant of a committed position. -/
def playOf (s : State) (dir p : Nat) : Nat := halRead s dir (playVa (s.halAt dir) p) 8
/-- INSTANT of a log entry. -/
def instantOf (s : State) (dir p : Nat) : Nat := halRead s dir (logVa (s.halAt dir) p) 8
/-- Whether a log entry is an input. -/
def isInput (s : State) (dir p : Nat) : Bool := halRead s dir (logVa (s.halAt dir) p + 15) 1 % 2 = 1

/-- The accesses that reading the positions [lo, hi) needs. -/
def readsOf (h : Hal) (lo hi : Nat) : List (Nat × Nat × AccessKind) :=
  (List.range (hi - lo)).flatMap fun i => [(logVa h (lo + i), 16, .read), (playVa h (lo + i), 8, .read)]

/-- The accesses that committing n positions at G needs. -/
def commitNeeds (h : Hal) (n : Nat) : List (Nat × Nat × AccessKind) :=
  (if h.g = 0 then [] else [(logVa h (h.g.toNat - 1), 16, .read)]) ++
    (List.range n).flatMap fun i => [(logVa h (h.g.toNat + i), 16, .write), (playVa h (h.g.toNat + i), 8, .write)]

/-- Commit one token: a sample, or an input with source instant f (06 R135). -/
def commitToken (s : State) (dir : Nat) (tok : Nat) (f : Option Nat) : State :=
  let h := s.halAt dir
  let g := h.g.toNat
  let prev := if g = 0 then 0 else instantOf s dir (g - 1)
  let prevInput := g = 0 || isInput s dir (g - 1)
  let late : Bool := match f with
    | some f => prev > f || (prev = f && !prevInput)
    | none => false
  let inst := match f with
    | some f => if late then prev + 1 else f
    | none => max s.now prev
  let play := match f with
    | some _ => inst
    | none => max (s.now + h.lead.toNat) h.playend.toNat
  let kind := (if f.isSome then 1 else 0) + (if late then 2 else 0)
  let s := halWrite s dir (logVa h g) 16 (leNat (leBytes 8 inst ++ leBytes 4 tok ++ leBytes 3 g ++ leBytes 1 kind))
  let s := halWrite s dir (playVa h g) 8 (play % 2 ^ 64)
  s.mapHalKey dir fun h =>
    { h with g := h.g + 1, playend := if f.isSome then h.playend else BitVec.ofNat 64 (play + h.tokns.toNat) }

/-- Commit tokens in order. -/
def commitTokens (s : State) (dir : Nat) (f : Option Nat) (l : List Nat) : State := l.foldl (fun s t => commitToken s dir t f) s

/-! ### Events (06 R141, Table Halyards.4) -/

/-- A cause is latched in a core's record (05 R123). -/
def latchCause (cause : Word) (r : Saved) : Saved :=
  { r with state := if r.state.uiq.length ≥ 16 then { r.state with uilost := satInc r.state.uilost } else { r.state with uiq := r.state.uiq ++ [cause] } }

/-- A user interrupt for the guidon of a core's gang; a unit whose snapshot is in the store, or being restored, latches it in its guidon's
record (05 R123; 09 R227). -/
def queueFor (s : State) (owner : Option Nat) (c : BitVec 10) (cause : Word) : State :=
  match owner with
  | none => s
  | some id =>
    match (s.occ? id).bind fun o => o.saved.find? fun r => r.core = c with
    | some r =>
      let g : BitVec 10 := if r.state.rank = 0 then c else r.state.guidon
      s.mapOcc id fun o => { o with saved := mapIf (fun r => r.core = g) (latchCause cause) o.saved }
    | none => if (s.core c).occ = some id then queueCause s c cause else s

/-- The engine's atomic OR of bit e into the event pennant, a release at chip scope (06 R141). A pennant whose address has no mapping, or
whose window refuses it, is left: raising the event then makes the halyard FAULTED. -/
def orPennant (s : State) (dir e : Nat) : State :=
  let h := s.halAt dir
  let va := h.evpen.toNat
  let ag := halAgent h va
  if inAperture va then
    let p : Piece := { core := apertureCore va, off := BitVec.ofNat 20 (apertureOff va), len := 8, pos := 0 }
    match (if inPool s p.core p.off.toNat 8 then some AccFail.nack else pieceFail s ag .atomic false true p) with
    | some _ => s
    | none => syncWrite s ag true 3 (gatherPieces s [p] ||| 2 ^ e) p
  else match halFind s dir va .atomic with
    | some (leaf, pa) =>
      let s := recallNear (holdLine s (halCtx dir) leaf va pa) pa
      let s := countRelease s ag 3
      let s := physStore (dropReplicas s pa) (pteUncached leaf) pa (leBytes 8 (leNat (physBytes s pa 8) ||| 2 ^ e))
      wakePhys (noteRelease s ag 3 (physKeys pa 8)) pa 8
    | none => s

/-- Raise event e: the pennant under EVPMASK, a user interrupt under EVIMASK while bound. -/
def raiseHal (s : State) (dir e : Nat) : State :=
  let h := s.halAt dir
  let s := if h.evpmask.getLsbD e && h.evpen ≠ 0 then orPennant s dir e else s
  match h.bound with
  | some g => if h.evimask.getLsbD e then queueFor s h.owner g (uiCause 2 (halNum dir) e 0) else s
  | none => s

/-- The access that raising the events es makes. -/
def eventNeeds (h : Hal) (es : List Nat) : List (Nat × Nat × AccessKind) :=
  if h.evpen ≠ 0 && es.any (fun e => h.evpmask.getLsbD e) then [(h.evpen.toNat, 8, .atomic)] else []

/-- The occurrence a halyard is bound to, as event records name it. -/
def halOcc (h : Hal) : Option Nat := if h.bound.isSome then h.owner else none

/-- Whether an address of the list holds an uncorrectable error. -/
def anyPoison (s : State) (dir : Nat) (l : List (Nat × Nat × AccessKind)) : Bool :=
  l.any fun n => if inAperture n.1 then
      Piece.poisoned s { core := apertureCore n.1, off := BitVec.ofNat 20 (apertureOff n.1), len := n.2.1, pos := 0 }
    else match look s (halCtx dir) n.1 .read with
      | .hit _ _ pa => physPoisoned s pa n.2.1
      | .wait _ => false

/-- The halyard becomes FAULTED: ERROR is raised and a HALERR record written; the spec gives the record no payload, so its
bytes are free (06 R152; log entry 1). -/
def faultHal (s : State) (dir : Nat) : State :=
  let s := s.mapHalKey dir fun h => { h with st := .faulted, cut := none, xfail := false }
  let s := raiseHal s dir 7
  eventRecord s (halCtx dir) 4 0x31 (halOcc (s.halAt dir)) ((s.free 4096).toNat % 2 ^ 128)

/-- The halyard becomes FAULTED because one of these accesses failed; poison that it met is counted (07 R180). -/
def failHal (s : State) (dir : Nat) (l : List (Nat × Nat × AccessKind)) : State :=
  let q : BitVec 2 := match (s.halAt dir).bound with
    | some g => quadOf g
    | none => 0
  faultHal (if anyPoison s dir (l.filter fun e => e.2.2 ≠ .write) then countUncorr s q else s) dir

/-! ### The playback cursor (06 R138) -/

/-- Whether P may pass position p at time now, when HORIZON is hz. -/
def playableAt (s : State) (dir now hz p : Nat) : Bool :=
  let h := s.halAt dir
  p < h.g.toNat && (h.cutpos = allOnes64 || p < h.cutpos.toNat) && !h.mode.getLsbD 2 && playOf s dir p ≤ now &&
    (!h.mode.getLsbD 1 || isInput s dir p || playOf s dir p ≤ hz)

/-- Whether P may pass position p at time now. -/
def playable (s : State) (dir now p : Nat) : Bool := playableAt s dir now (s.halAt dir).horizon.toNat p

/-- P after the update, with n positions to look at. -/
def playedTo (s : State) (dir now hz : Nat) : Nat → Nat → Nat
  | 0, p => p
  | n + 1, p => if playableAt s dir now hz p then playedTo s dir now hz n (p + 1) else p

/-- P at a time, when HORIZON was hz. -/
def playedAt (s : State) (dir now hz : Nat) : Nat :=
  let h := s.halAt dir
  playedTo s dir now hz (h.g.toNat - h.p.toNat) h.p.toNat

/-- Advance P; DRAINED when it becomes equal to G. -/
def advanceP (s : State) (dir now : Nat) : State :=
  let h := s.halAt dir
  let p := playedAt s dir now h.horizon.toNat
  if p = h.p.toNat then s
  else
    let s := s.mapHalKey dir fun h => { h with p := BitVec.ofNat 64 p }
    if p = h.g.toNat then raiseHal s dir 6 else s

/-! ### Frames (06 R140, R142, R143) -/

/-- The first committed sample at or above the oldest logged position with a play instant ≥ f (06 R142). -/
def cutCandidate (s : State) (dir f : Nat) : Nat :=
  let h := s.halAt dir
  let lo := h.g.toNat - 2 ^ h.loglg.toNat
  ((firstTrue (fun i => !isInput s dir (lo + i) && playOf s dir (lo + i) ≥ f) (List.range (h.g.toNat - lo))).map (lo + ·)).getD h.g.toNat

/-- A late frame is recorded: cause 1 deadline, 2 play position (06 R143). quiet: the halyard is parked, so events and records
wait for the next bind. -/
def lateFrame (s : State) (dir cause seq late : Nat) : State :=
  let s := s.mapHalKey dir fun h => { h with lates := satInc h.lates }
  let s := raiseHal s dir 3
  let h := s.halAt dir
  match h.mode.getLsbD 0, h.bound with
  | true, some g => queueFor s h.owner g (uiCause 3 (halNum dir) cause (min late (2 ^ 32 - 1)))
  | _, _ => eventRecord s (halCtx dir) 4 0x30 (halOcc h) (payload2 (halNum dir + 2 ^ 16 * cause + 2 ^ 32 * seq) late)

/-- CUTPOINT with P' = p: the cut position, and the lateness by play position (06 R142). -/
def cutPoint (s : State) (dir f a p : Nat) : Nat × Option Nat :=
  let c := cutCandidate s dir f
  if c < p then (p, some (a - playOf s dir c)) else (c, none)

/-- CUTPOS takes the smaller position. -/
def lowerCut (s : State) (dir c : Nat) : State :=
  s.mapHalKey dir fun h => { h with cutpos := if h.cutpos = allOnes64 || c < h.cutpos.toNat then BitVec.ofNat 64 c else h.cutpos }

/-- A frame's header fields (04 Table Command.12). -/
structure FrameHdr where
  src : Nat
  seq : BitVec 32
  hal : Nat
  kind : Nat
  len : Nat
  deriving DecidableEq, Repr

/-- The header of frame bytes. -/
def frameHdr (v : Nat) : FrameHdr :=
  { src := recField v 0 8, seq := BitVec.ofNat 32 (recField v 8 4), hal := recField v 12 2, kind := recField v 14 1, len := recField v 15 1 }

/-- The event of a frame kind. -/
def kindEvent (kind : Nat) : Nat := kind - 1

/-- The accesses that taking a frame needs; gap: it raises SEQGAP too. -/
def frameNeeds (h : Hal) (kind : Nat) (gap : Bool) : List (Nat × Nat × AccessKind) :=
  (queueVa h h.a.toNat, 256, .write) :: eventNeeds h (kindEvent kind :: if gap then [5] else []) ++
    (if kind = 2 && h.st = .live then readsOf h (h.g.toNat - min h.g.toNat (2 ^ h.loglg.toNat)) h.g.toNat else [])

/-- The lateness of a frame by its deadline (06 R143). -/
def lateDeadline (h : Hal) (src arrival : Nat) : Option Nat :=
  if h.dlim ≠ 0 && arrival > src && arrival - src > h.dlim.toNat then some (arrival - src - h.dlim.toNat) else none

/-- Record a late frame, if it is one. -/
def lateIf (s : State) (dir cause seq : Nat) (l : Option Nat) : State :=
  match l with
  | some n => lateFrame s dir cause seq n
  | none => s

/-- The queue entry of a frame (06 Table Halyards.3): the frame's own bytes but for 16-31. -/
def queueEntry (v arrival cutat flags : Nat) : Nat :=
  leNat (leBytes 16 v ++ leBytes 8 arrival ++ leBytes 6 cutat ++ leBytes 1 flags ++ leBytes 1 0 ++ leBytes 224 (v / 2 ^ 256))

/-- Queue a frame that has passed the sequence and room tests: the entry first, then its events (06 R140). p is P in the cycle of arrival where it
is known; live says that the engine evaluates cuts and lateness now. For a PARKED halyard A, NEXTSEQ and DROPS change in the engine's copy alone,
and its record in memory shows the values of the park until the next park or close (DESIGN CHOICE, log entry 102: R152 does not say). -/
def queueFrame (s : State) (dir v arrival : Nat) (p : Option Word) (gap live : Bool) : State :=
  let f := frameHdr v
  let h := s.halAt dir
  let lateD := lateDeadline h f.src arrival
  let cut := if f.kind = 2 && live then some (cutPoint s dir f.src arrival (p.getD h.p).toNat) else none
  let lateP : Option Nat := cut.bind fun c => c.2
  let s := s.mapHalKey dir fun h => { h with nextseq := f.seq + 1 }
  let s := match cut with
    | some c => lowerCut s dir c.1
    | none => s
  let s := if f.kind = 1 && f.len = 0 then
      s.mapHalKey dir fun h => { h with horizon := if h.horizon.toNat < f.src then BitVec.ofNat 64 f.src else h.horizon } else s
  let cutat := match cut with
    | some c => c.1
    | none => 2 ^ 48 - 1
  let flags := (if lateD.isSome then 1 else 0) + (if lateP.isSome then 2 else 0) + (if gap then 4 else 0)
  let n := h.a.toNat
  let s := halWrite s dir (queueVa h n) 256 (queueEntry v arrival cutat flags)
  let s := s.mapHalKey dir fun h => { h with a := h.a + 1, uncut := if live then h.uncut else h.uncut ++ [(n, h.horizon, p)] }
  let s := if gap then raiseHal s dir 5 else s
  let s := if live then lateIf (lateIf s dir 1 f.seq.toNat lateD) dir 2 f.seq.toNat lateP else s
  raiseHal s dir (kindEvent f.kind)

/-- Take a frame (06 R140): a duplicate or one without room is dropped. -/
def takeFrame (s : State) (dir v arrival : Nat) (p : Option Word) (live : Bool) : State :=
  let f := frameHdr v
  let h := s.halAt dir
  let d := (f.seq - h.nextseq).toInt
  let drop (s : State) : State := s.mapHalKey dir fun h => { h with drops := satInc h.drops }
  if d < 0 then drop s
  else if 2 ^ h.qlg.toNat < (h.a - h.i).toNat + (if f.kind = 1 then 2 else 1) then raiseHal (drop s) dir 4
  else queueFrame s dir v arrival p (d > 0) live

/-! ### Bound jobs and the write fence (06 R137, R145) -/

/-- Whether a job is bound to halyard dir, as its descriptor says: a job whose descriptor has not been read yet is not bound, and no cut or close
cancels it (06 R144; DESIGN CHOICE, log entry 107). -/
def jobBound (j : Job) (dir : Nat) : Bool :=
  j.control.getLsbD 20 && 4096 * j.ctx.toNat + fieldOf j.control 24 12 = dir && (j.st = .queued || j.st = .running)

/-- The user interrupt of a finished job with IRQ = 1 (19 R454). -/
def jobIrq (s : State) (j : Job) : State :=
  if j.control.getLsbD 19 then queueFor s (some j.occ) j.core (uiCause 1 0 0 j.burgee.toNat) else s

/-- Cancel job n of a cluster, as CPYK does (19 R452; 05 R128): no release, no record, its interrupt is sent. -/
def cancelJob (s : State) (cl : BitVec 6) (n : Nat) : State :=
  let j := tabGet Job.reset (s.cluster cl).jobs n
  if j.st = .queued || j.st = .running then
    let s := leaveMisses s (.job cl (BitVec.ofNat 6 n))
    let s := s.mapCluster cl fun k =>
      { k with jobs := tabPut Job.reset k.jobs n { j with st := .cancelled, missAt := none, peerTag := none, answer := none, seq := s.cycle } }
    jobIrq s j
  else s

/-- Cancel every job bound to a halyard, in whichever cluster it was issued (06 R144, R151). -/
def cancelBound (s : State) (dir : Nat) : State :=
  (s.clusters.flatMap fun e => (e.2.jobs.filter fun j => jobBound j.2 dir).map fun j => (e.1, j.1)).foldl
    (fun s e => cancelJob s (BitVec.ofNat 6 e.1) e.2) s

/-- The position that an address in a KV ring of the halyard maps to (06 R137). -/
def kvPosition (h : Hal) (va : Nat) : Option Nat :=
  let cap := h.kvcap.toNat
  let lo := h.tmax.toNat - cap
  h.kv.findSome? fun l =>
    let b := l.base.toNat
    let st := l.stride.toNat
    if b ≤ va && va < b + st * cap && st ≠ 0 then
      let slot := (va - b) / st
      some (lo + (slot + cap - lo % cap) % cap)
    else none

/-! ### Cuts (06 R144-R147) -/

/-- Discard the line at pa: it leaves its slice and loses its marks. Each of its dirty bytes keeps the last value or goes back to the one DRAM
holds, as a write-back had been accepted or not; a word that goes back is poisoned as DRAM holds it (06 R146; 07 R176; log entry 1). -/
def discardLine (s : State) (pa : Nat) : State :=
  let accepted := s.freeChoice (2 ^ 24 + pa / 64)
  let back (m : Mem) (t : List Host.Cell) (i : Nat) : List Host.Cell :=
    match tabGet none m.dirty (pa + i) with
    | some b => tabPut 0 t (pa + i) b
    | none => t
  let pois (m : Mem) (t : Tab Bool) (i : Nat) : Tab Bool :=
    match tabGet none m.dramPoison (pa / 8 + i) with
    | some b => tabPut false t (pa / 8 + i) b
    | none => t
  let s := if accepted then s
    else s.mapMem fun m => { m with phys := (List.range 64).foldl (back m) m.phys, poison := (List.range 8).foldl (pois m) m.poison }
  settleLine s pa

/-- The lines that slices hold for context x at virtual lines for which p holds: a discard and an invalidation go by virtual address (07 R164,
R170, R176); a SHARED line counts for every context (log entry 90). -/
def linesHeld (s : State) (x : BitVec 6) (p : Nat → Bool) : List Nat :=
  (s.mem.lines.filter fun e => match e.2.own with
    | some o => (o.shared || o.ctx = x) && p o.vline
    | none => false).map fun e => 64 * e.1

/-- Virtual lines of the positions [lo, hi) in every KV ring. -/
def kvLines (h : Hal) (lo hi : Nat) : List Nat :=
  h.kv.flatMap fun l => (List.range (hi - lo)).flatMap fun i =>
    (List.range (l.stride.toNat / 64)).map fun k => l.base.toNat + l.stride.toNat * ((lo + i) % h.kvcap.toNat) + 64 * k

/-- The newest valid checkpoint at or below c; all ones when there is none. -/
def bestCk (h : Hal) (c : Nat) : Word :=
  (h.ckpos.filter fun e => h.ckvalid.getLsbD e.1 && e.2.toNat ≤ c).foldl
    (fun (b : Word) e => if b = allOnes64 || b < e.2 then e.2 else b) allOnes64

/-- The cut action at its engine cycle (06 R144): its results k with DROPIN and c, and the cycle in which the last slice
answers. The discards are issued at 16 lines a cycle; the acknowledgements' cycle is the model's (log entry 4). -/
def cutAction (s : State) (dir : Nat) (tentative : Bool) : State :=
  let h := s.halAt dir
  let gold := h.g.toNat
  let told := h.t.toNat
  let c := if tentative || h.cutpos = allOnes64 then gold else h.cutpos.toNat
  let dropped := (List.range (gold - c)).map (c + ·)
  let dropin := (dropped.filter fun p => isInput s dir p).length
  let first := firstTrue (fun p => !isInput s dir p) dropped
  let playend := match first with
    | some p => BitVec.ofNat 64 (playOf s dir p)
    | none => h.playend
  let h1 := { h with
    g := BitVec.ofNat 64 c, t := BitVec.ofNat 64 c, cutpos := if tentative then h.cutpos else allOnes64, playend := playend }
  let lines := kvLines h c told
  let s := cancelBound (s.mapHalKey dir fun _ => h1) dir
  let s := (linesHeld s (halCtx dir) fun l => lines.contains (64 * l)).foldl discardLine s
  let keep := h1.ckpos.filter fun e => e.2.toNat ≤ c
  let h2 := { h1 with
    ckpos := keep
    ckvalid := ofMask fun j => h1.ckvalid.getLsbD j && keep.any fun e => e.1 = j }
  let k := bestCk h2 c
  let r0 := BitVec.ofNat 64 (min dropin 255 * 2 ^ 48 + (if k = allOnes64 then 2 ^ 48 - 1 else k.toNat))
  s.mapHalKey dir fun h => { h2 with
    lastck := k, p := h.p, cut := some { done := s.cycle + 1 + ceilDiv lines.length 16, ended := false, r0 := r0, r1 := BitVec.ofNat 64 c } }

/-- Whether a cut would take G below P, which R131 refuses: a CUTPOS that the record stated, or that a queued frame's bind left behind P. -/
def cutBelow (h : Hal) (tentative : Bool) : Bool := !tentative && h.cutpos ≠ allOnes64 && h.cutpos < h.p

/-- The accesses a cut needs. -/
def cutNeeds (h : Hal) (tentative : Bool) : List (Nat × Nat × AccessKind) :=
  if tentative || h.cutpos = allOnes64 then [] else readsOf h h.cutpos.toNat h.g.toNat

/-! ### Binding (06 R151, R152; 22 R478) -/

/-- Live halyards of a cluster, but for one. -/
def liveIn (s : State) (cl : BitVec 6) (dir : Nat) : Nat :=
  (s.sched.hals.filter fun e => e.1 ≠ dir && e.2.st = .live && (e.2.bound.map clusterOf) = some cl).length

/-- Whether an aperture address of the record names another cluster. -/
def apertureElsewhere (h : Hal) (cl : BitVec 6) : Bool :=
  [h.qbase.toNat, h.evpen.toNat].any fun va => inAperture va && clusterOf (apertureCore va) ≠ cl

/-- P at the arrival of a frame that is evaluated later (06 R152). -/
def arrivalP (s0 : State) (dir : Nat) (e : Nat × Word × Option Word) (arrival : Nat) : Nat :=
  match e.2.2 with
  | some p => p.toNat
  | none => playedAt s0 dir arrival e.2.1.toNat

/-- Whether a queued frame is recorded as late at the bind, by deadline or by play position (06 R152). -/
def queuedLate (s : State) (dir : Nat) (e : Nat × Word × Option Word) : Bool :=
  let v := halRead s dir (queueVa (s.halAt dir) e.1) 256
  let f := frameHdr v
  recField v 30 1 % 2 = 1 || (f.kind = 2 && (cutPoint s dir f.src (recField v 16 8) (arrivalP s dir e (recField v 16 8))).2.isSome)

/-- Evaluate the queued frames of a parked halyard in queue order (06 R152): s0 is the state before P was brought up to date, from which P at
each frame's arrival is found. -/
def evalQueued (s0 s : State) (dir : Nat) : List (Nat × Word × Option Word) → State
  | [] => s
  | e :: r =>
    let h := s.halAt dir
    let va := queueVa h e.1
    let v := halRead s dir va 256
    let f := frameHdr v
    let arrival := recField v 16 8
    let flags := recField v 30 1
    let s := if flags % 2 = 1 then lateFrame s dir 1 f.seq.toNat (arrival - f.src - h.dlim.toNat) else s
    let s := if f.kind = 2 then
        let c := cutPoint s dir f.src arrival (arrivalP s0 dir e arrival)
        let s := lateIf s dir 2 f.seq.toNat c.2
        let s := halWrite s dir (va + 24) 6 c.1
        let s := halWrite s dir (va + 30) 1 (flags ||| (if c.2.isSome then 2 else 0))
        lowerCut s dir c.1
      else s
    evalQueued s0 s dir r

/-- The entries that a bind reads and writes. -/
def bindReads (s : State) (dir : Nat) : List (Nat × Nat × AccessKind) :=
  let h := s.halAt dir
  h.uncut.flatMap (fun e => [(queueVa h e.1, 256, .read), (queueVa h e.1, 256, .write)]) ++
    (if h.uncut.isEmpty then [] else readsOf h (h.g.toNat - min h.g.toNat (2 ^ h.loglg.toNat)) h.g.toNat) ++
    readsOf h h.p.toNat h.g.toNat

/-- The accesses a bind makes: once its entries can be read, the pennant's too when DRAINED or LATE arises. -/
def bindNeeds (s : State) (dir : Nat) : List (Nat × Nat × AccessKind) :=
  let h := s.halAt dir
  let l := bindReads s dir
  if h.st ≠ .parked then []
  else if halReady s dir l = .ok then
    let p := playedAt s dir s.now h.horizon.toNat
    l ++ eventNeeds h ((if p ≠ h.p.toNat && p = h.g.toNat then [6] else []) ++ if h.uncut.any (queuedLate s dir) then [3] else [])
  else l

/-- Bind a PARKED or LIVE halyard to a guidon: P is brought up to date first, then the queued cuts are evaluated (06 R152). -/
def bindHal (s : State) (dir : Nat) (g : BitVec 10) (owner : Option Nat) : State :=
  let wasParked := (s.halAt dir).st = .parked
  let s := s.mapHalKey dir fun h => { h with st := .live, bound := some g, owner := owner, xfail := false }
  if wasParked then
    -- the frames that have arrived and are not queued yet keep P of their arrival
    let at_ (f : QFrame) : QFrame := { f with p := some (f.p.getD (BitVec.ofNat 64 (playedAt s dir f.at_.toNat (s.halAt dir).horizon.toNat))) }
    let t := (evalQueued s (advanceP s dir s.now) dir (s.halAt dir).uncut).mapHalKey dir fun h => { h with uncut := [] }
    t.mapSched fun m => { m with frameq := mapIf (fun f => f.dir = dir) at_ m.frameq }
  else s

/-- The agent that writes a halyard's record back. -/
def recordAgent (h : Hal) : Ag := halAgent h h.addr.toNat

/-- Park a LIVE halyard: its record is written back. -/
def parkHal (s : State) (dir : Nat) : State :=
  let ag := recordAgent (s.halAt dir)
  writeRecord (s.mapHalKey dir fun h => { h with st := .parked, bound := none, owner := none, cut := none, xfail := false }) dir ag

/-- Close a halyard: bound jobs of a LIVE one are cancelled, the record is written back. Queued frames that no bind has looked at are kept for the
next one (06 R152). -/
def closeHal (s : State) (dir : Nat) : State :=
  let ag := recordAgent (s.halAt dir)
  let s := if (s.halAt dir).st = .live then cancelBound s dir else s
  let was := (s.halAt dir).st
  let s := s.mapHalKey dir fun h => { h with st := .closed, bound := none, owner := none, cut := none, xfail := false }
  if was = .closed then s else writeRecord s dir ag

/-- Whether the record of a halyard has somewhere to be written without a wait. -/
def recordPlace (s : State) (dir : Nat) : Bool :=
  inAperture (s.halAt dir).addr.toNat || (halFind s dir (s.halAt dir).addr.toNat .write).isSome

/-- Park a halyard where nothing can wait, at the end or the kill of its launch (05 R128): its record goes where a walk finds its page; one
that no walk finds makes it FAULTED (06 R152; log entry 93). -/
def parkNow (s : State) (dir : Nat) : State :=
  if recordPlace s dir then parkHal s dir
  else (faultHal s dir).mapHalKey dir fun h => { h with bound := none, owner := none }

end Sys2Proof.Machine
end

