-- ==== Sys2Proof/Machine/Control.lean ====
section
/-! DEFINITION. The C class: branches, calls, loops, holds, halts, traps, the interrupt return, fences, phases and format words
(spec 15 R372-R382; 18 R432-R436). In a gang a follower performs the guidon's outcome, which stands in State.cur. -/

namespace Sys2Proof.Machine

/-! ### The instruction scratchpad (09 R221; 14 R338-R340) -/

/-- Word i of core c's instruction scratchpad with its tag in bits [33:32]: a word that a copy job has written reads old or
new until IFENCE (09 R221). -/
def imemWord (s : State) (c : BitVec 10) (i : BitVec 16) : BitVec 34 :=
  let new := tabGet 0 s.mem.imem (65536 * c.toNat + i.toNat)
  match tabGet none (s.core c).imemOld i.toNat with
  | some old => if s.primChoice c (8192 + i.toNat) then new else old
  | none => new

/-- Tag of a word (14 Table Enc.1). -/
def tagOf (w : BitVec 34) : BitVec 2 := w.extractLsb' 32 2

/-- Value of a word. -/
def wordOf (w : BitVec 34) : Half := w.setWidth 32

/-- Words of a bundle from its header (14 R340). -/
def bundleLen (h : Half) : Nat := 1 + popcount (h.extractLsb' 22 8) + fieldOf h 28 1 + fieldOf h 19 3

/-- The word after the bundle whose header stands at i, as core c's fetch sees it. -/
def afterBundle (s : State) (c : BitVec 10) (i : BitVec 16) : BitVec 16 := i + BitVec.ofNat 16 (bundleLen (wordOf (imemWord s c i)))

/-! ### Outcomes -/

/-- The register operand of a C operation: the guidon's, forwarded (09 R220, R236). -/
def cOperand (s : State) (r : BitVec 6) : Word :=
  match s.cur.cout with
  | some o => o.value
  | none => readR s r

/-- ln as RET reads it. -/
def lnOperand (s : State) : Word :=
  match s.cur.cout with
  | some o => o.value
  | none => (s.core s.me).ln

/-- What the guidon forwards of its C operation: whether it executes, and its operand. -/
def coutOf (s : State) (i : Instr) : COut :=
  match i with
  | .br f => ⟨executes s f.g, 0⟩
  | .bri f => ⟨executes s f.g, readR s f.r⟩
  | .call f => ⟨executes s f.g, 0⟩
  | .calli f => ⟨executes s f.g, readR s f.r⟩
  | .ret f => ⟨executes s f.g, (s.core s.me).ln⟩
  | .loop f => ⟨executes s f.g, 0⟩
  | .loopx f => ⟨executes s f.g, readR s f.r⟩
  | .holdcImm f => ⟨executes s f.g, 0⟩
  | .holdcReg f => ⟨executes s f.g, readR s f.r⟩
  | .holdu f => ⟨executes s f.g, readR s f.r⟩
  | .halt f => ⟨executes s f.g, 0⟩
  | .trap f => ⟨executes s f.g, 0⟩
  | .brk f => ⟨executes s f.g, 0⟩
  | .iret f => ⟨executes s f.g, readR s 31⟩
  | .uien f => ⟨executes s f.g, 0⟩
  | .uidis f => ⟨executes s f.g, 0⟩
  | .ifence f => ⟨executes s f.g, 0⟩
  | .phase f => ⟨executes s f.g, 0⟩
  | .mseek f => ⟨executes s f.g, 0⟩
  | .setfReg f => ⟨executes s f.g, 0⟩
  | .setfLit f => ⟨executes s f.g, 0⟩
  | .fmtReg f => ⟨executes s f.g, 0⟩
  | .fmtLit f => ⟨executes s f.g, 0⟩
  | _ => ⟨false, 0⟩

/-- A taken transfer: two delay bundles, then the target (09 R219). left counts this bundle's own end too. -/
def transferTo (s : State) (target : BitVec 16) (iret : Bool) : State :=
  s.mapCore s.me fun k => { k with xfer := some { target := target, left := 3, iret := iret } }

/-- The target of an offset: (header + SXT(off, 21)) mod 65,536 (14 R349). -/
def offTarget (s : State) (off : BitVec 21) : BitVec 16 := s.cur.pc + off.setWidth 16

/-- The return point: the word after the second delay bundle (15 R373), as the guidon fetches. -/
def returnPoint (s : State) : BitVec 16 :=
  let g := guidonOf s s.me
  afterBundle s g (afterBundle s g s.cur.next)

/-- ln ← return point, at bound 1. -/
def writeLink (s : State) : State := addPend s s.me .ln ((returnPoint s).setWidth 2048) 1

/-! ### Traps -/

/-- A transfer, loop or PHASE in a delay bundle of a taken transfer raises ILLOP, whatever its guard (15 R372). -/
def delayTrap (s : State) : Option TrapInfo := if (s.core s.me).xfer.isSome then some (bundleTrap s .illop 0) else none

/-- BRTGT at a target word whose tag is not the one wanted. -/
def targetTrap (s : State) (target : BitVec 16) (want : BitVec 2) : Option TrapInfo :=
  let t := tagOf (imemWord s (guidonOf s s.me) target)
  if t = want then none else some { cause := .brtgt, mask := 0, info := t.setWidth 64, addr := target.setWidth 64 }

/-- The traps of LOOP and LOOPX: END on a word that is no header, END within the LOOP bundle, a delay bundle (14 R349; 15 R372). -/
def loopTrap (s : State) (g : Guard) (e : BitVec 12) : Option TrapInfo :=
  match (if executes s g then targetTrap s (s.cur.pc + e.setWidth 16) 1 else none) with
  | some t => some t
  | none =>
    if (delayTrap s).isSome || e.toNat < (s.cur.next - s.cur.pc).toNat then some (bundleTrap s .illop 0) else none

/-- IRET outside a handler raises ILLOP (09 R230). -/
def iretTrap (s : State) (f : NoneForm) : Option TrapInfo :=
  if (delayTrap s).isSome || (executes s f.g && !(s.core s.me).inui) then some (bundleTrap s .illop 0) else none

/-- PHASE in a handler raises ILLOP (15 R382). -/
def phaseTrap (s : State) (f : RegForm) : Option TrapInfo :=
  if (delayTrap s).isSome || (executes s f.g && (s.core s.me).inui) then some (bundleTrap s .illop 0) else none

/-- FMT in a handler raises ILLOP (18 R433). -/
def fmtTrap (s : State) (g : Guard) : Option TrapInfo :=
  if executes s g && (s.core s.me).inui then some (bundleTrap s .illop 0) else none

/-- MSEEK to a word that is no metadata raises BRTGT at its own issue (18 R436). -/
def mseekTrap (s : State) (f : OffForm) : Option TrapInfo := if executes s f.g then targetTrap s (offTarget s f.off) 2 else none

/-- TRAP (15 R379). -/
def trapTrap (s : State) (f : CodeForm) : Option TrapInfo := if executes s f.g then some (bundleTrap s .trap (f.c.setWidth 64)) else none

/-- BRK (15 R379). -/
def brkTrap (s : State) (f : NoneForm) : Option TrapInfo := if executes s f.g then some (bundleTrap s .brk 0) else none

/-! ### Branches and calls (15 R373, R374) -/

/-- BR. -/
def execBr (f : OffForm) (s : State) := runOp s (delayTrap s) f.g fun s => transferTo s (offTarget s f.off) false
/-- BRI. -/
def execBri (f : RegForm) (s : State) := runOp s (delayTrap s) f.g fun s => transferTo s ((cOperand s f.r).setWidth 16) false
/-- CALL. -/
def execCall (f : OffForm) (s : State) := runOp s (delayTrap s) f.g fun s => writeLink (transferTo s (offTarget s f.off) false)
/-- CALLI. -/
def execCalli (f : RegForm) (s : State) := runOp s (delayTrap s) f.g fun s => writeLink (transferTo s ((cOperand s f.r).setWidth 16) false)
/-- RET. -/
def execRet (f : NoneForm) (s : State) := runOp s (delayTrap s) f.g fun s => transferTo s ((lnOperand s).setWidth 16) false

/-! ### Loops (15 R375, R376) -/

/-- The age of the newest armed loop. -/
def newestAge (k : Core) : Nat := k.loops.foldl (fun m e => max m e.2.age) 0

/-- Arm loop register l, or with a count of 0 disarm it and go on after the end bundle. -/
def startLoop (s : State) (l : BitVec 2) (n : BitVec 32) (e : BitVec 12) : State :=
  let endw := s.cur.pc + e.setWidth 16
  if n = 0 then
    let skip := afterBundle s (guidonOf s s.me) endw
    s.mapCore s.me fun k =>
      { k with loops := tabPut .reset k.loops l.toNat .reset, bund := k.bund.map fun b => { b with next := skip } }
  else
    s.mapCore s.me fun k =>
      let r : LoopReg := { count := n, start := s.cur.next, endw := endw, armed := true, age := newestAge k + 1, handler := k.inui }
      { k with loops := tabPut .reset k.loops l.toNat r }

/-- LOOP. -/
def execLoop (f : LoopForm) (s : State) := runOp s (loopTrap s f.g f.e) f.g fun s => startLoop s f.l (f.n.setWidth 32) f.e
/-- LOOPX: the count is A[31:0]. -/
def execLoopx (f : LoopxForm) (s : State) := runOp s (loopTrap s f.g f.e) f.g fun s => startLoop s f.l ((cOperand s f.r).setWidth 32) f.e

/-! ### Holds, HALT, TRAP and BRK (15 R377-R379) -/

/-- Only the guidon holds: its freeze freezes the gang (09 R226). -/
def holdUntil (s : State) (h : Hold) : State := if isGuidon s s.me then s.mapCore s.me fun k => { k with hold := some h } else s

/-- HOLDC, kind 0. -/
def execHoldcImm (f : HoldForm) (s : State) := runOp s none f.g fun s => holdUntil s (.runCount (f.n.setWidth 64))
/-- HOLDC, kind 1. -/
def execHoldcReg (f : RegForm) (s : State) := runOp s none f.g fun s => holdUntil s (.runCount (cOperand s f.r))
/-- HOLDU. -/
def execHoldu (f : RegForm) (s : State) := runOp s none f.g fun s => holdUntil s (.instant (cOperand s f.r))
/-- HALT: its bundle commits and nothing issues after it; pending user-interrupt causes are discarded. -/
def execHalt (f : NoneForm) (s : State) := runOp s none f.g fun s =>
  s.mapCore s.me fun k => { k with bund := k.bund.map (fun b => { b with halt := true }), uiq := [], hold := none }
/-- TRAP: its effect is the trap. -/
def execTrap (f : CodeForm) (s : State) := runOp s (trapTrap s f) f.g fun s => s
/-- BRK: its effect is the trap. -/
def execBrk (f : NoneForm) (s : State) := runOp s (brkTrap s f) f.g fun s => s

/-! ### User interrupts and fences (15 R380, R381) -/

/-- IRET: to shadow s31, read at issue, after two delay bundles (09 R230). -/
def execIret (f : NoneForm) (s : State) := runOp s (iretTrap s f) f.g fun s => transferTo s ((cOperand s 31).setWidth 16) true
/-- UIEN. -/
def execUien (f : NoneForm) (s : State) := runOp s none f.g fun s => s.mapCore s.me fun k => { k with uie := true }
/-- UIDIS. -/
def execUidis (f : NoneForm) (s : State) := runOp s none f.g fun s => s.mapCore s.me fun k => { k with uie := false }
/-- IFENCE: later fetches return the new words, after a freeze of 2 cycles. -/
def execIfence (f : NoneForm) (s : State) := runOp s none f.g fun s =>
  holdUntil (s.mapCore s.me fun k => { k with imemOld := [] }) (.fence 2)

/-! ### PHASE (05 R109-R114; 15 R382) -/

/-- A word of the variant table: block st, word w (05 R110). -/
def variantWord (s : State) (c : BitVec 10) (o : Occ) (st w : Nat) : Half :=
  wordOf (tabGet 0 s.mem.imem (65536 * c.toNat + (o.variants.toNat + 24 * st + w) % 65536))

/-- Entries of stage queue j of an occurrence in a cluster at the start of the cycle (05 R114). -/
def queueOccupancy (s : State) (cl : BitVec 6) (id j : Nat) : Nat :=
  let q := tabGet StageQ.reset (s.cluster cl).queues (32 * id + j)
  if q.mark.1 = s.cycle then q.mark.2 else q.tail - q.head

/-- The occupancy that stage st's governor watches (05 R112). -/
def watchedOccupancy (s : State) (c : BitVec 10) : Option Nat :=
  match (s.core c).occ with
  | none => none
  | some id =>
    match s.occ? id with
    | none => none
    | some o =>
      if o.variants = 0xFFFF then none
      else some (queueOccupancy s (clusterOf c) id (fieldOf (variantWord s c o (s.core c).stage.toNat 0) 26 5))

/-- PHASE: each member holds for eight cycles with its own measure; the decision is made at the guidon's hold end. -/
def execPhase (f : RegForm) (s : State) := runOp s (phaseTrap s f) f.g fun s =>
  s.mapCore s.me fun k => { k with hold := some (.phase 8 s.cur.next ((readR s f.r).setWidth 32) (watchedOccupancy s s.me)) }

/-! ### Metadata and format words (18 R432-R436) -/

/-- MSEEK: c.mpc ← target at bound 1. -/
def execMseek (f : OffForm) (s : State) := runOp s (mseekTrap s f) f.g fun s => addPend s s.me .mpc ((offTarget s f.off).setWidth 2048) 1
/-- SETF from a register. -/
def execSetfReg (f : SetfForm) (s : State) := runOp s none f.g fun s => addPend s s.me (.ft f.f) (((readR s f.r).setWidth 32).setWidth 2048) 1
/-- SETF from a literal. -/
def execSetfLit (f : SetfLitForm) (s : State) := runOp s none f.g fun s => addPend s s.me (.ft f.f) ((litWord s f.l.toNat).setWidth 2048) 1
/-- FMT from a register: seen one cycle later. -/
def execFmtReg (f : RegForm) (s : State) := runOp s (fmtTrap s f.g) f.g fun s =>
  addPend s s.me (.creg 0x7FF) (((readR s f.r).setWidth 32).setWidth 2048) 1
/-- FMT from a literal. -/
def execFmtLit (f : FmtLitForm) (s : State) := runOp s (fmtTrap s f.g) f.g fun s =>
  addPend s s.me (.creg 0x7FF) ((litWord s f.l.toNat).setWidth 2048) 1

end Sys2Proof.Machine
end

