-- ==== Sys2Proof/Machine/Scalar.lean ====
section
/-! DEFINITION. The S class: integer, predicate, binary32, control-register, time and hoist-register operations (spec 15;
16 R402). -/

namespace Sys2Proof.Machine

/-- A two-source operation (15 R359). -/
def alu (s : State) (f : AluForm) (bound : Nat) (op : Word → Word → Word) : Host.Outcome State Fault Refusal :=
  runB s f.g f.b fun s => finish (writeR s f.d (op (readR s f.a) (readB s f.b)) bound)

/-- A two-source operation that also reads its destination (15 R362, R366). -/
def alu3 (s : State) (f : AluForm) (bound : Nat) (op : Word → Word → Word → Word) : Host.Outcome State Fault Refusal :=
  runB s f.g f.b fun s => finish (writeR s f.d (op (readR s f.d) (readR s f.a) (readB s f.b)) bound)

/-- A unary operation (15 R361). -/
def unary (s : State) (f : UnForm) (bound : Nat) (op : Word → Word) : Host.Outcome State Fault Refusal :=
  runOp s none f.g fun s => finish (writeR s f.d (op (readR s f.a)) bound)

/-- A compare into a predicate (15 R364). -/
def compare (s : State) (f : CmpForm) (bound : Nat) (op : Word → Word → Bool) : Host.Outcome State Fault Refusal :=
  runB s f.g f.b fun s => finish (writeP s f.d (op (readR s f.a) (readB s f.b)) bound)

/-- A two-source binary32 operation (15 R366). -/
def float2 (s : State) (f : AluForm) (op : Nat → Nat → FRes2) : Host.Outcome State Fault Refusal :=
  runB s f.g f.b fun s => finish (writeFloat s f.d (op ((readR s f.a).toNat % 2 ^ 32) ((readB s f.b).toNat % 2 ^ 32)) 4)

/-- The shift distance B[5:0] (15 R359). -/
def shiftBy (b : Word) : Nat := (b.setWidth 6).toNat

/-- ROTR (15 Table Ctl.1). -/
def rotateRight (a : Word) (n : Nat) : Word := if n = 0 then a else a >>> n ||| a <<< (64 - n)

/-- DIV (15 R360). -/
def divSigned (a b : Word) : Word :=
  if b = 0 then BitVec.allOnes 64
  else if a.toInt = -2 ^ 63 ∧ b.toInt = -1 then a
  else wrap (a.toInt.tdiv b.toInt)

/-- REM (15 R360). -/
def remSigned (a b : Word) : Word :=
  if b = 0 then a
  else if a.toInt = -2 ^ 63 ∧ b.toInt = -1 then 0
  else wrap (a.toInt - b.toInt * a.toInt.tdiv b.toInt)

/-- Start and length of a bit field named by control word c (15 R362). -/
def fieldSpec (c : Word) : Nat × Nat := (fieldOf c 0 6, min (fieldOf c 6 7) (64 - fieldOf c 0 6))

/-- EXTR (15 R362). -/
def extractField (a c : Word) : Word := BitVec.ofNat 64 (fieldOf a (fieldSpec c).1 (fieldSpec c).2)

/-- INSR (15 R362). -/
def insertField (d a c : Word) : Word := putField d (fieldSpec c).1 (fieldSpec c).2 a.toNat

/-- The width B[6:0] of SXT and ZXT; none when the value is kept (15 R362). -/
def extendBy (b : Word) : Option Nat :=
  let m := (b.setWidth 7).toNat
  if m = 0 ∨ m ≥ 64 then none else some m

/-- The Zelua mix with counter a, key b and lane l (15 R371; 17 R429). -/
def zeluaMix (a b : Word) (lane : Nat) : Half :=
  let step (z : Word) : Word := (z ^^^ (z >>> 29)) * 0xAEF17502108EF2D9
  let z := (a * 64 + BitVec.ofNat 64 lane) * 0xD1B54A32D192ED03 + b
  ((step (step (step z))) >>> 32).setWidth 32

/-- ADD (15 R359). -/
def execAdd (f : AluForm) (s : State) := alu s f 1 fun a b => a + b
/-- SUB (15 R359). -/
def execSub (f : AluForm) (s : State) := alu s f 1 fun a b => a - b
/-- ADDW (15 R359). -/
def execAddw (f : AluForm) (s : State) := alu s f 1 fun a b => sxtN (a + b) 32
/-- SUBW (15 R359). -/
def execSubw (f : AluForm) (s : State) := alu s f 1 fun a b => sxtN (a - b) 32
/-- MUL (15 R359). -/
def execMul (f : AluForm) (s : State) := alu s f 3 fun a b => a * b
/-- MULH (15 R359): the floor of the signed product over 2^64. -/
def execMulh (f : AluForm) (s : State) := alu s f 3 fun a b => wrap (a.toInt * b.toInt / 2 ^ 64)
/-- MULHN (15 R359). -/
def execMulhn (f : AluForm) (s : State) := alu s f 3 fun a b => BitVec.ofNat 64 (a.toNat * b.toNat / 2 ^ 64)
/-- DIV (15 R360). -/
def execDiv (f : AluForm) (s : State) := alu s f 16 divSigned
/-- DIVN (15 R360). -/
def execDivn (f : AluForm) (s : State) := alu s f 16 fun a b => if b = 0 then BitVec.allOnes 64 else BitVec.ofNat 64 (a.toNat / b.toNat)
/-- REM (15 R360). -/
def execRem (f : AluForm) (s : State) := alu s f 16 remSigned
/-- REMN (15 R360). -/
def execRemn (f : AluForm) (s : State) := alu s f 16 fun a b => if b = 0 then a else BitVec.ofNat 64 (a.toNat % b.toNat)
/-- AND (15 R359). -/
def execAnd (f : AluForm) (s : State) := alu s f 1 fun a b => a &&& b
/-- OR (15 R359). -/
def execOr (f : AluForm) (s : State) := alu s f 1 fun a b => a ||| b
/-- XOR (15 R359). -/
def execXor (f : AluForm) (s : State) := alu s f 1 fun a b => a ^^^ b
/-- ANDN (15 R359). -/
def execAndn (f : AluForm) (s : State) := alu s f 1 fun a b => a &&& ~~~b
/-- ORN (15 R359). -/
def execOrn (f : AluForm) (s : State) := alu s f 1 fun a b => a ||| ~~~b
/-- SHL (15 R359). -/
def execShl (f : AluForm) (s : State) := alu s f 1 fun a b => a <<< shiftBy b
/-- SHR (15 R359). -/
def execShr (f : AluForm) (s : State) := alu s f 1 fun a b => a >>> shiftBy b
/-- SRA (15 R359). -/
def execSra (f : AluForm) (s : State) := alu s f 1 fun a b => a.sshiftRight (shiftBy b)
/-- ROTR (15 R359). -/
def execRotr (f : AluForm) (s : State) := alu s f 1 fun a b => rotateRight a (shiftBy b)
/-- CLZ (15 R361). -/
def execClz (f : UnForm) (s : State) := unary s f 1 fun a => BitVec.ofNat 64 (leadingZeros a)
/-- CTZ (15 R361). -/
def execCtz (f : UnForm) (s : State) := unary s f 1 fun a => BitVec.ofNat 64 (trailingZeros a)
/-- POPC (15 R361). -/
def execPopc (f : UnForm) (s : State) := unary s f 1 fun a => BitVec.ofNat 64 (popcount a)
/-- BREV (15 R361). -/
def execBrev (f : UnForm) (s : State) := unary s f 1 bitReverse
/-- MIN (15 R359). -/
def execMin (f : AluForm) (s : State) := alu s f 1 fun a b => if a.toInt ≤ b.toInt then a else b
/-- MAX (15 R359). -/
def execMax (f : AluForm) (s : State) := alu s f 1 fun a b => if a.toInt ≤ b.toInt then b else a
/-- MINN (15 R359). -/
def execMinn (f : AluForm) (s : State) := alu s f 1 fun a b => if a.toNat ≤ b.toNat then a else b
/-- MAXN (15 R359). -/
def execMaxn (f : AluForm) (s : State) := alu s f 1 fun a b => if a.toNat ≤ b.toNat then b else a
/-- CMP (15 R364). -/
def execCmp (f : CmpForm) (s : State) := compare s f 1 (cmpSigned f.cc)
/-- CMPN (15 R364). -/
def execCmpn (f : CmpForm) (s : State) := compare s f 1 (cmpUnsigned f.cc)
/-- MOV (15 R361). -/
def execMov (f : UnForm) (s : State) := unary s f 1 fun a => a
/-- LI (15 R363). -/
def execLi (f : LiForm) (s : State) : Host.Outcome State Fault Refusal :=
  runB s f.g f.b fun s => finish (writeR s f.d (readB s f.b) 1)
/-- MOVX (15 R363): bound 2. -/
def execMovx (f : UnForm) (s : State) := unary s f 2 fun a => a
/-- EXTR (15 R362). -/
def execExtr (f : AluForm) (s : State) := alu s f 1 extractField
/-- INSR (15 R362). -/
def execInsr (f : AluForm) (s : State) := alu3 s f 1 insertField
/-- SXT (15 R362). -/
def execSxt (f : AluForm) (s : State) := alu s f 1 fun a b => match extendBy b with
  | some m => sxtN a m
  | none => a
/-- ZXT (15 R362). -/
def execZxt (f : AluForm) (s : State) := alu s f 1 fun a b => match extendBy b with
  | some m => zxtN a m
  | none => a
/-- LEA (15 R359). -/
def execLea (f : AluForm) (s : State) := alu s f 1 fun a b => a + 8 * b
/-- PAND (15 R365). -/
def execPand (f : PredForm) (s : State) := runOp s none f.g fun s => finish (writeP s f.d (readP s f.a && readP s f.b) 1)
/-- POR (15 R365). -/
def execPor (f : PredForm) (s : State) := runOp s none f.g fun s => finish (writeP s f.d (readP s f.a || readP s f.b) 1)
/-- PXOR (15 R365). -/
def execPxor (f : PredForm) (s : State) := runOp s none f.g fun s => finish (writeP s f.d (xor (readP s f.a) (readP s f.b)) 1)
/-- PNOT (15 R365). -/
def execPnot (f : PredUnForm) (s : State) := runOp s none f.g fun s => finish (writeP s f.d (!readP s f.a) 1)
/-- PMOV (15 R365). -/
def execPmov (f : PredUnForm) (s : State) := runOp s none f.g fun s => finish (writeP s f.d (readP s f.a) 1)
/-- PSET (15 R365). -/
def execPset (f : PSetForm) (s : State) := runOp s none f.g fun s => finish (writeP s f.d f.v 1)
/-- FADD (15 R366). -/
def execFadd (f : AluForm) (s : State) := float2 s f (fAdd fmtF32 .rne)
/-- FSUB (15 R366). -/
def execFsub (f : AluForm) (s : State) := float2 s f (fSub fmtF32 .rne)
/-- FMUL (15 R366). -/
def execFmul (f : AluForm) (s : State) := float2 s f (fMul fmtF32 .rne)
/-- FFMA (15 R366): a × b + Dold with one rounding. -/
def execFfma (f : AluForm) (s : State) : Host.Outcome State Fault Refusal :=
  runB s f.g f.b fun s => finish (writeFloat s f.d
    (fFma fmtF32 .rne false ((readR s f.a).toNat % 2 ^ 32) ((readB s f.b).toNat % 2 ^ 32) ((readR s f.d).toNat % 2 ^ 32)) 4)
/-- FMIN (15 R366). -/
def execFmin (f : AluForm) (s : State) := float2 s f (fMinMax fmtF32 false)
/-- FMAX (15 R366). -/
def execFmax (f : AluForm) (s : State) := float2 s f (fMinMax fmtF32 true)
/-- FCMP (15 R367). -/
def execFcmp (f : CmpForm) (s : State) : Host.Outcome State Fault Refusal :=
  runB s f.g f.b fun s =>
    let r := fCmp fmtF32 f.cc ((readR s f.a).toNat % 2 ^ 32) ((readB s f.b).toNat % 2 ^ 32)
    finish (raiseFlags (writeP s f.d r.1 4) r.2 4)
/-- FCVT.i2f (15 R368). -/
def execFcvtI2f (f : UnForm) (s : State) := runOp s none f.g fun s => finish (writeFloat s f.d (fOfInt fmtF32 .rne (readR s f.a).toInt) 4)
/-- FCVT.n2f (15 R368). -/
def execFcvtN2f (f : UnForm) (s : State) := runOp s none f.g fun s => finish (writeFloat s f.d (fOfInt fmtF32 .rne (readR s f.a).toNat) 4)
/-- FCVT.f2i (15 R368). -/
def execFcvtF2i (f : UnForm) (s : State) := runOp s none f.g fun s =>
  let r := fToInt fmtF32 .rne (-2 ^ 63) (2 ^ 63 - 1) ((readR s f.a).toNat % 2 ^ 32)
  finish (raiseFlags (writeR s f.d (wrap r.1) 4) r.2 4)
/-- FCVT.f2n (15 R368). -/
def execFcvtF2n (f : UnForm) (s : State) := runOp s none f.g fun s =>
  let r := fToInt fmtF32 .rne 0 (2 ^ 64 - 1) ((readR s f.a).toNat % 2 ^ 32)
  finish (raiseFlags (writeR s f.d (wrap r.1) 4) r.2 4)

/-- MFC of a number the table does not list raises ILLOP (09 R214). -/
def mfcTrap (f : CRegForm) (s : State) : Option TrapInfo := if cregKnown f.c.toNat then none else some (bundleTrap s .illop 0)

/-- MTC: ILLOP for an unknown or read-only number or from a thread, PRIV for c.cw0-c.cw7 (09 R214; 10 R252). -/
def mtcTrap (f : CRegForm) (s : State) : Option TrapInfo :=
  if (match s.cur.agent with
      | .prim _ => false
      | .thread _ _ => true) then some (bundleTrap s .illop 0)
  else if 0x30 ≤ f.c.toNat ∧ f.c.toNat ≤ 0x37 then some (bundleTrap s .priv (f.c.setWidth 64))
  else if cregRW f.c.toNat then none
  else some (bundleTrap s .illop 0)

/-- A control register as the agent reads it: c.pc is a thread's own PC; a primary's c.status does not show what another slot of its bundle does
(15 R369). -/
def readCtl (s : State) (n : Nat) : Word :=
  match s.cur.agent with
  | .prim c => if n = 0 && s.cur.inBundle then s.cur.status else readCreg s c n
  | .thread c t =>
    if n = 1 then (s.thread c t).pc.setWidth 64
    else match (s.core c).ctlWas with
      | some w => if w.1 = s.cycle && ctlKept.contains n then tabGet 0 w.2 n else readCreg s c n
      | none => readCreg s c n

/-- MFC (15 R369). -/
def execMfc (f : CRegForm) (s : State) := runOp s (mfcTrap f s) f.g fun s => finish (writeR s f.r (readCtl s f.c.toNat) 2)
/-- MTC (15 R369; 09 R214): effective two cycles later. -/
def execMtc (f : CRegForm) (s : State) := runOp s (mtcTrap f s) f.g fun s =>
  finish (addPend s s.me (.creg f.c) ((readR s f.r).setWidth 2048) 2)
/-- NOW (15 R370). -/
def execNow (f : TimeForm) (s : State) := runOp s none f.g fun s => finish (writeR s f.d s.time.now 2)
/-- CYC (15 R370). -/
def execCyc (f : TimeForm) (s : State) := runOp s none f.g fun s => finish (writeR s f.d s.time.cycle 2)
/-- MIX (15 R371). -/
def execMix (f : AluForm) (s : State) := alu s f 3 fun a b => (zeluaMix a b 0).setWidth 64
/-- HSET (16 R402): seen one cycle later. -/
def execHset (f : HoistForm) (s : State) := runOp s none f.g fun s =>
  finish (addPend s s.me (.creg (0x800 + f.h.setWidth 12)) ((readR s f.r).setWidth 2048) 1)
/-- HGET (16 R402). -/
def execHget (f : HoistForm) (s : State) := runOp s none f.g fun s =>
  finish (writeR s f.r (tabGet 0 (s.core s.me).hreg f.h.toNat) 2)

end Sys2Proof.Machine
end

