-- ==== Sys2Proof/Machine/Vector.lean ====
section
/-! DEFINITION. The V class: lanes and elements, arithmetic, logic, compares, conversions, reductions, lane moves, random
numbers and lane masks (spec 17). Every result lands at its bound; inactive lanes keep the value they held at issue. -/

namespace Sys2Proof.Machine

/-! ### Elements (17 R405) -/

/-- Bits of an element. -/
def elemWidth (t : VType) : Nat := 32 / elems t

/-- Element h of a lane as stored bits. -/
def elemOf (t : VType) (x : Half) (h : Nat) : Nat := fieldOf x (elemWidth t * h) (elemWidth t)

/-- The sum of f h × 2^(w h) for h below n. -/
def elemsFrom (w : Nat) (f : Nat → Nat) : Nat → Nat
  | 0 => 0
  | n + 1 => elemsFrom w f n + (f n % 2 ^ w) * 2 ^ (w * n)

/-- The lane whose element h is f h. -/
def joinElems (t : VType) (f : Nat → Nat) : Half := BitVec.ofNat 32 (elemsFrom (elemWidth t) f (elems t))

/-- Whether a type is signed (17 Table Vector.2). -/
def signedType (t : VType) : Bool :=
  match t with
  | .n32 => false
  | .n8 => false
  | _ => true

/-- The two's complement value of w stored bits. -/
def signedOf (w x : Nat) : Int := if x < 2 ^ (w - 1) then x else (x : Int) - 2 ^ w

/-- The integer that stored bits mean. -/
def elemInt (t : VType) (x : Nat) : Int := if signedType t then signedOf (elemWidth t) x else x

/-- Stored bits of an integer mod 2^w. -/
def elemWrap (t : VType) (x : Int) : Nat := (x % 2 ^ elemWidth t).toNat

/-- The floating format of a floating type. -/
def vfmt (t : VType) : Fmt :=
  match t with
  | .bf16 => fmtBF16
  | .f16 => fmtF16
  | _ => fmtF32

/-- Smallest and largest integer of a type. -/
def typeMin (t : VType) : Int := if signedType t then -2 ^ (elemWidth t - 1) else 0
/-- Largest. -/
def typeMax (t : VType) : Int := if signedType t then 2 ^ (elemWidth t - 1) - 1 else 2 ^ elemWidth t - 1

/-- Rank of an element in the total order: NaN lowest, -0 below +0; integers as they compare (17 R415). -/
def orderKey (t : VType) (x : Nat) : Int :=
  if intType t then elemInt t x
  else
    let f := vfmt t
    if (decodeF f x).isNan then -2 ^ 33
    else if x / f.signBit % 2 = 1 then -((x % f.signBit : Nat) : Int) - 1 else (x % f.signBit : Nat)

/-! ### Writing lanes (17 R406, R407) -/

/-- Write the active lanes of vd; the others keep their value. -/
def writeLanes (s : State) (d : BitVec 5) (act : Nat → Bool) (f : Nat → Half) (bound : Nat) : State :=
  let old := readV s s.me d
  writeV s s.me d (ofLanes fun i => if act i then f i else laneOf old i) bound

/-- Activity by mask register. -/
def activeOf (s : State) (m : BitVec 3) : Nat → Bool := fun i => (readM s s.me m).getLsbD i

/-- OR of flags over a list. -/
def orFlags (l : List (BitVec 5)) : BitVec 5 := l.foldl (fun a b => a ||| b) 0

/-- Element results with flags: written to the active lanes, flags ORed over them (12 R311). -/
def writeElems (s : State) (d : BitVec 5) (m : BitVec 3) (t : VType) (f : Nat → Nat → FRes2) (bound : Nat) : State :=
  let act := activeOf s m
  let s1 := writeLanes s d act (fun i => joinElems t fun h => (f i h).1) bound
  raiseFlags s1 (orFlags (((List.range 64).filter act).flatMap fun i => (List.range (elems t)).map fun h => (f i h).2)) bound

/-! ### The V extension (14 R347) -/

/-- The extension: the last literal of the bundle. -/
def vext (s : State) : Half := s.cur.lits.getLastD 0

/-- Whether an arithmetic operation reads the extension. -/
def extTrap (s : State) (t : VType) : Option TrapInfo :=
  if !intType t && vext s >>> 2 ≠ 0 then some (bundleTrap s .illop 0) else none

/-- Rounding of the extension. -/
def extRnd (s : State) : Rnd := rndOf ((vext s).setWidth 2)

/-- Target type of the extension. -/
def extType (s : State) : VType := vtypeOf ((vext s).extractLsb' 3 3)

/-- Whether VPACK converts source t to target u (17 Table Vector.4). -/
def packOk (t u : VType) : Bool :=
  match t, u with
  | .f32, .bf16 => true
  | .f32, .f16 => true
  | .i32, .i16 => true
  | .n32, .i16 => true
  | .i16, .i8 => true
  | .i16, .n8 => true
  | _, _ => false

/-- ILLOP of VPACK: reserved bits, a pair outside the table, rounding between integer types (17 R418, R409). -/
def packTrap (s : State) (f : VForm) : Option TrapInfo :=
  if vext s >>> 6 ≠ 0 || !packOk f.t (extType s) || (intType f.t && !(extRnd s = .rne)) then some (bundleTrap s .illop 0) else none

/-! ### Arithmetic (17 R410-R413) -/

/-- A two-source element operation. -/
def vec2 (s : State) (f : VForm) (trap : Option TrapInfo) (bound : Nat) (op : Nat → Nat → FRes2) : Host.Outcome State Fault Refusal :=
  runOp s trap f.g fun s =>
    let a := readV s s.me f.a
    let b := readV s s.me f.b
    writeElems s f.d f.m f.t (fun i h => op (elemOf f.t (laneOf a i) h) (elemOf f.t (laneOf b i) h)) bound

/-- A three-source element operation: vd is read too. -/
def vec3 (s : State) (f : VForm) (op : Nat → Nat → Nat → FRes2) : Host.Outcome State Fault Refusal :=
  runOp s (extTrap s f.t) f.g fun s =>
    let a := readV s s.me f.a
    let b := readV s s.me f.b
    let d := readV s s.me f.d
    writeElems s f.d f.m f.t
      (fun i h => op (elemOf f.t (laneOf a i) h) (elemOf f.t (laneOf b i) h) (elemOf f.t (laneOf d i) h)) 4

/-- A one-source element operation without flags. -/
def vec1 (s : State) (f : V1Form) (op : Nat → Nat) : Host.Outcome State Fault Refusal :=
  runOp s none f.g fun s =>
    let a := readV s s.me f.a
    writeElems s f.d f.m f.t (fun i h => (op (elemOf f.t (laneOf a i) h), 0)) 2

/-- A whole-lane operation of two sources. -/
def lane2 (s : State) (f : VForm) (op : Half → Half → Half) : Host.Outcome State Fault Refusal :=
  runOp s none f.g fun s =>
    let a := readV s s.me f.a
    let b := readV s s.me f.b
    writeLanes s f.d (activeOf s f.m) (fun i => op (laneOf a i) (laneOf b i)) 2

/-- Bound of VADD, VSUB (2) and VMUL (3): 4 for a floating type (14 Table Enc.16). -/
def arithBound (t : VType) (n : Nat) : Nat := if intType t then n else 4

/-- Smaller or larger of two integers. -/
def intMinMax (t : VType) (isMax : Bool) (x y : Nat) : Nat :=
  if isMax then (if elemInt t x < elemInt t y then y else x) else (if elemInt t x < elemInt t y then x else y)

/-- VADD. -/
def execVadd (f : VForm) (s : State) := vec2 s f (extTrap s f.t) (arithBound f.t 2) fun x y =>
  if intType f.t then (x + y, 0) else fAdd (vfmt f.t) (extRnd s) x y
/-- VSUB. -/
def execVsub (f : VForm) (s : State) := vec2 s f (extTrap s f.t) (arithBound f.t 2) fun x y =>
  if intType f.t then (elemWrap f.t ((x : Int) - y), 0) else fSub (vfmt f.t) (extRnd s) x y
/-- VMUL. -/
def execVmul (f : VForm) (s : State) := vec2 s f (extTrap s f.t) (arithBound f.t 3) fun x y =>
  if intType f.t then (x * y, 0) else fMul (vfmt f.t) (extRnd s) x y
/-- VMULH: the floor of the product over 2^w. -/
def execVmulh (f : VForm) (s : State) := vec2 s f none 3 fun x y =>
  (elemWrap f.t (elemInt f.t x * elemInt f.t y / 2 ^ elemWidth f.t), 0)
/-- VMIN. -/
def execVmin (f : VForm) (s : State) := vec2 s f none 2 fun x y =>
  if intType f.t then (intMinMax f.t false x y, 0) else fMinMax (vfmt f.t) false x y
/-- VMAX. -/
def execVmax (f : VForm) (s : State) := vec2 s f none 2 fun x y =>
  if intType f.t then (intMinMax f.t true x y, 0) else fMinMax (vfmt f.t) true x y
/-- VFMA: vd ← x × y + vd. -/
def execVfma (f : VForm) (s : State) := vec3 s f fun x y z => fFma (vfmt f.t) (extRnd s) false x y z
/-- VFMS: vd ← vd - x × y. -/
def execVfms (f : VForm) (s : State) := vec3 s f fun x y z => fFma (vfmt f.t) (extRnd s) true x y z

/-- The sign bit of a floating element changed; a NaN becomes the canonical NaN (17 R412). -/
def signOp (t : VType) (f : Nat → Nat) (x : Nat) : Nat := if (decodeF (vfmt t) x).isNan then (vfmt t).nanBits else f x

/-- VABS. -/
def execVabs (f : V1Form) (s : State) := vec1 s f fun x =>
  if intType f.t then elemWrap f.t (elemInt f.t x).natAbs else signOp f.t (fun x => x % (vfmt f.t).signBit) x
/-- VNEG. -/
def execVneg (f : V1Form) (s : State) := vec1 s f fun x =>
  if intType f.t then elemWrap f.t (-(elemInt f.t x)) else signOp f.t (fun x => x ^^^ (vfmt f.t).signBit) x

/-- VAND. -/
def execVand (f : VForm) (s : State) := lane2 s f fun x y => x &&& y
/-- VOR. -/
def execVor (f : VForm) (s : State) := lane2 s f fun x y => x ||| y
/-- VXOR. -/
def execVxor (f : VForm) (s : State) := lane2 s f fun x y => x ^^^ y
/-- VNOT. -/
def execVnot (f : V1Form) (s : State) := vec1 s f fun x => 2 ^ elemWidth f.t - 1 - x
/-- VSHL. -/
def execVshl (f : VForm) (s : State) := vec2 s f none 2 fun x y => (x * 2 ^ (y % elemWidth f.t), 0)
/-- VSHR. -/
def execVshr (f : VForm) (s : State) := vec2 s f none 2 fun x y => (x / 2 ^ (y % elemWidth f.t), 0)
/-- VSRA: the sign bit fills, on the unsigned types too. -/
def execVsra (f : VForm) (s : State) := vec2 s f none 2 fun x y =>
  (elemWrap f.t (signedOf (elemWidth f.t) x / 2 ^ (y % elemWidth f.t)), 0)

/-! ### Compares and select (17 R414-R416) -/

/-- A compare into a mask: 1 where the condition holds for every element of an active lane, 0 in every inactive one. -/
def vecCmp (s : State) (f : VCmpForm) (op : Nat → Nat → Bool × BitVec 5) : Host.Outcome State Fault Refusal :=
  runOp s none f.g fun s =>
    let a := readV s s.me f.a
    let b := readV s s.me f.b
    let act := activeOf s f.m
    let r (i h : Nat) := op (elemOf f.t (laneOf a i) h) (elemOf f.t (laneOf b i) h)
    let hs := List.range (elems f.t)
    let s1 := writeM s s.me f.n (ofMask fun i => act i && hs.all fun h => (r i h).1) 2
    raiseFlags s1 (orFlags (((List.range 64).filter act).flatMap fun i => hs.map fun h => (r i h).2)) 2

/-- A condition on integers. -/
def condInt (cc : Cond) (x y : Int) : Bool :=
  match cc with
  | .c0 => x = y
  | .c1 => x ≠ y
  | .c2 => x < y
  | .c3 => x ≤ y

/-- VCMP. -/
def execVcmp (f : VCmpForm) (s : State) := vecCmp s f fun x y =>
  if intType f.t then (condInt f.cc (elemInt f.t x) (elemInt f.t y), 0) else fCmp (vfmt f.t) f.cc x y
/-- VCMPX: by the total order, without flags. -/
def execVcmpx (f : VCmpForm) (s : State) := vecCmp s f fun x y => (condInt f.cc (orderKey f.t x) (orderKey f.t y), 0)
/-- VSEL: all 64 lanes are written. -/
def execVsel (f : VForm) (s : State) := runOp s none f.g fun s =>
  let a := readV s s.me f.a
  let b := readV s s.me f.b
  let mk := activeOf s f.m
  writeLanes s f.d (fun _ => true) (fun i => if mk i then laneOf a i else laneOf b i) 2

/-! ### Conversions (17 R417-R420) -/

/-- Clamp to a type: NV when clamped. -/
def clampTo (t : VType) (x : Int) : FRes2 :=
  let v := satInt x (typeMin t) (typeMax t)
  (elemWrap t v, if v = x then 0 else flNV)

/-- One element of VCVT (17 Table Vector.3). -/
def convert (src dst : VType) (r : Rnd) (x : Nat) : FRes2 :=
  if intType src then
    if intType dst then clampTo dst (elemInt src x) else fOfInt (vfmt dst) r (elemInt src x)
  else
    let v := decodeF (vfmt src) x
    if intType dst then
      let k := fToInt (vfmt src) r (typeMin dst) (typeMax dst) x
      (elemWrap dst k.1, k.2)
    else if src = dst then (if v.isNan then (vfmt dst).nanBits else x, snanFlag [v])
    else
      let k := cvtVal (vfmt dst) r false v
      (k.1, cvtFlags k)

/-- VCVT. -/
def execVcvt (f : VCvtForm) (s : State) := runOp s none f.g fun s =>
  let a := readV s s.me f.a
  writeElems s f.d f.m f.t (fun i h => convert f.s f.t f.r (elemOf f.s (laneOf a i) h)) 3

/-- One element of VPACK (17 Table Vector.4). -/
def packElem (src dst : VType) (sat : Bool) (r : Rnd) (x : Nat) : FRes2 :=
  if intType src then (if sat then clampTo dst (elemInt src x) else (elemWrap dst (elemInt src x), 0))
  else
    let k := cvtVal (vfmt dst) r sat (decodeF (vfmt src) x)
    (k.1, cvtFlags k)

/-- VPACK: the elements of va, then those of vb. -/
def execVpack (f : VForm) (s : State) := runOp s (packTrap s f) f.g fun s =>
  let a := readV s s.me f.a
  let b := readV s s.me f.b
  let n := elems f.t
  writeElems s f.d f.m (extType s)
    (fun i h => packElem f.t (extType s) ((vext s).getLsbD 2) (extRnd s)
      (if h < n then elemOf f.t (laneOf a i) h else elemOf f.t (laneOf b i) (h - n))) 3

/-- One element of VUNPK: exact (17 R419). -/
def unpackElem (src dst : VType) (x : Nat) : FRes2 :=
  if intType src then (elemWrap dst (elemInt src x), 0)
  else
    let v := decodeF (vfmt src) x
    ((cvtVal fmtF32 .rne false v).1, snanFlag [v])

/-- VUNPK: vd takes the lower half of a lane's elements, vd + 1 the upper. -/
def execVunpk (f : VUnpkForm) (s : State) := runOp s none f.g fun s =>
  let a := readV s s.me f.a
  let n := elems f.u
  let half (p : Nat) (i h : Nat) := unpackElem f.t f.u (elemOf f.t (laneOf a i) (n * p + h))
  let s1 := writeElems s f.d f.m f.u (half 0) 3
  writeElems s1 (f.d + 1) f.m f.u (half 1) 3

/-- Levels of Q4N (12 Table Formats.5). -/
def levelsN : List Int := [-127, -91, -69, -52, -38, -25, -12, 0, 11, 23, 35, 48, 62, 78, 99, 127]
/-- Levels of Q4L. -/
def levelsL : List Int := [-127, -84, -60, -44, -32, -22, -13, -6, 0, 7, 15, 24, 35, 49, 71, 127]

/-- VQDEC: code i of the 64 packed in lanes 0-7. -/
def execVqdec (f : VQdecForm) (s : State) := runOp s none f.g fun s =>
  let a := readV s s.me f.a
  writeLanes s f.d (activeOf s f.m)
    (fun i => BitVec.ofInt 32 ((if f.book then levelsL else levelsN).getD (fieldOf (laneOf a (i / 8)) (4 * (i % 8)) 4) 0)) 2

/-! ### Correctly rounded functions (17 R421) -/

/-- A function of each active lane. -/
def vecFn (s : State) (f : VRndForm) (op : Rnd → Nat → FRes2) : Host.Outcome State Fault Refusal :=
  runOp s none f.g fun s =>
    let a := readV s s.me f.a
    writeElems s f.d f.m .f32 (fun i _ => op f.r (laneOf a i).toNat) 8

/-- VEXP2. -/
def execVexp2 (f : VRndForm) (s : State) := vecFn s f fExp2
/-- VLOG2. -/
def execVlog2 (f : VRndForm) (s : State) := vecFn s f fLog2
/-- VRCP. -/
def execVrcp (f : VRndForm) (s : State) := vecFn s f fRcp
/-- VRSQ. -/
def execVrsq (f : VRndForm) (s : State) := vecFn s f fRsq
/-- VSQRT. -/
def execVsqrt (f : VRndForm) (s : State) := vecFn s f fSqrt

/-! ### Reductions and scans (17 R422-R424) -/

/-- a op b on integers of type t (17 Table Vector.5). -/
def redInt (t : VType) (op : RedOp) (x y : Nat) : Nat :=
  match op.toNat with
  | 0 => elemWrap t ((x : Int) + y)
  | 1 => intMinMax t false x y
  | 2 => intMinMax t true x y
  | 3 => x &&& y
  | 4 => x ||| y
  | 5 => x ^^^ y
  | _ => elemWrap t ((x : Int) * y)

/-- a op b on a floating type, rounded once. -/
def redFloat (t : VType) (op : RedOp) (r : Rnd) (x y : Nat) : FRes2 :=
  match op.toNat with
  | 0 => fAdd (vfmt t) r x y
  | 1 => fMinMax (vfmt t) false x y
  | 2 => fMinMax (vfmt t) true x y
  | 3 => (x &&& y, 0)
  | 4 => (x ||| y, 0)
  | 5 => (x ^^^ y, 0)
  | _ => fMul (vfmt t) r x y

/-- IDENT(op). -/
def redIdent (t : VType) (op : RedOp) : Nat :=
  let f := vfmt t
  match op.toNat with
  | 1 => if intType t then elemWrap t (typeMax t) else f.infBits
  | 2 => if intType t then elemWrap t (typeMin t) else f.withSign true f.infBits
  | 3 => 2 ^ elemWidth t - 1
  | 6 => if intType t then 1 else f.bias * 2 ^ f.m
  | _ => 0

/-- COMB with the flags gathered so far; none is ABSENT. -/
def comb (t : VType) (op : RedOp) (r : Rnd) (a b : Option Nat × BitVec 5) : Option Nat × BitVec 5 :=
  match a.1, b.1 with
  | none, _ => (b.1, a.2 ||| b.2)
  | some x, none => (some x, a.2 ||| b.2)
  | some x, some y =>
    let k := if intType t then (redInt t op x y, 0) else redFloat t op r x y
    (some k.1, a.2 ||| b.2 ||| k.2)

/-- One level of the tree. -/
def combPairs (t : VType) (op : RedOp) (r : Rnd) : List (Option Nat × BitVec 5) → List (Option Nat × BitVec 5)
  | a :: b :: rest => comb t op r a b :: combPairs t op r rest
  | l => l

/-- The elements at position h of the active lanes, ABSENT elsewhere. -/
def redInput (s : State) (f : VRedForm) (h : Nat) : List (Option Nat × BitVec 5) :=
  let a := readV s s.me f.a
  let act := activeOf s f.m
  (List.range 64).map fun i => (if act i then some (elemOf f.t (laneOf a i) h) else none, 0)

/-- The tree of six levels at position h. -/
def redTree (s : State) (f : VRedForm) (h : Nat) : Option Nat × BitVec 5 :=
  let c := combPairs f.t f.x f.r
  (c (c (c (c (c (c (redInput s f h))))))).headD (none, 0)

/-- VRED: only lane 0 is written, whatever the mask. -/
def execVred (f : VRedForm) (s : State) := runOp s none f.g fun s =>
  let s1 := writeLanes s f.d (fun i => i = 0) (fun _ => joinElems f.t fun h => (redTree s f h).1.getD (redIdent f.t f.x)) 6
  raiseFlags s1 (orFlags ((List.range (elems f.t)).map fun h => (redTree s f h).2)) 6

/-- The prefixes of a list under COMB. -/
def scanList (t : VType) (op : RedOp) (r : Rnd) (acc : Option Nat × BitVec 5) :
    List (Option Nat × BitVec 5) → List (Option Nat × BitVec 5)
  | [] => []
  | x :: rest =>
    let n := comb t op r acc x
    n :: scanList t op r n rest

/-- VSCAN: inclusive prefixes in lane order. -/
def execVscan (f : VRedForm) (s : State) := runOp s none f.g fun s =>
  let col := (List.range (elems f.t)).map fun h => scanList f.t f.x f.r (none, 0) (redInput s f h)
  let s1 := writeLanes s f.d (activeOf s f.m) (fun i => joinElems f.t fun h => (((col.getD h []).getD i (none, 0)).1).getD 0) 6
  raiseFlags s1 (orFlags (col.map fun l => (l.getLastD (none, 0)).2)) 6

/-- The winner of VARGMX among (index, bits) pairs: the largest, the first of equals. -/
def argmax (t : VType) : List (Nat × Nat) → Option (Nat × Nat)
  | [] => none
  | e :: r =>
    match argmax t r with
    | none => some e
    | some k => if orderKey t e.2 ≥ orderKey t k.2 then some e else some k

/-- VARGMX: lanes 0 and 1 of vd are written. -/
def execVargmx (f : V1Form) (s : State) := runOp s none f.g fun s =>
  let a := readV s s.me f.a
  let n := elems f.t
  let w := argmax f.t (((List.range 64).filter (activeOf s f.m)).flatMap fun i =>
    (List.range n).map fun h => (n * i + h, elemOf f.t (laneOf a i) h))
  let r : Half × Half := match w with
    | some (i, x) => (BitVec.ofNat 32 i, BitVec.ofNat 32 x)
    | none => (BitVec.allOnes 32, 0)
  writeLanes s f.d (fun i => i < 2) (fun i => if i = 0 then r.1 else r.2) 6

/-! ### Moving lanes (17 R425-R428) -/

/-- VPERM. -/
def execVperm (f : VForm) (s : State) := runOp s none f.g fun s =>
  let a := readV s s.me f.a
  let b := readV s s.me f.b
  writeLanes s f.d (activeOf s f.m) (fun i => laneOf a (fieldOf (laneOf b i) 0 6)) 3

/-- Source of lane i under a VSHUF code (17 Table Vector.6). -/
def shufflePat (a : Lanes) (c i : Nat) : Half :=
  let x := laneOf a i
  if c ≤ 5 then laneOf a (i ^^^ 2 ^ c)
  else if c ≤ 11 then laneOf a ((i + 2 ^ (c - 6)) % 64)
  else if c ≤ 17 then laneOf a (i ^^^ (2 ^ (c - 11) - 1))
  else if c = 18 then laneOf a (2 * i % 64 + 2 * i / 64)
  else if c = 19 then laneOf a (32 * (i % 2) + i / 2)
  else if c = 20 then x.extractLsb' 0 16 ++ x.extractLsb' 16 16
  else x.extractLsb' 0 8 ++ x.extractLsb' 8 8 ++ x.extractLsb' 16 8 ++ x.extractLsb' 24 8

/-- VSHUF. -/
def execVshuf (f : VPatForm) (s : State) := runOp s none f.g fun s =>
  let a := readV s s.me f.a
  writeLanes s f.d (activeOf s f.m) (fun i => shufflePat a f.c.toNat i) 3

/-- V(A): the lane formed from a scalar (17 R427). -/
def splat (t : VType) (a : Word) : Half := joinElems t fun _ => a.toNat % 2 ^ elemWidth t

/-- The lowest active lane. -/
def lowestActive (s : State) (m : BitVec 3) : Option Nat := firstTrue (activeOf s m) (List.range 64)

/-- VBC. -/
def execVbc (f : VScalForm) (s : State) := runOp s none f.g fun s =>
  writeLanes s f.d (activeOf s f.m) (fun _ => splat f.t (readPrimS s s.me f.s)) 2
/-- VINS: the lowest active lane only; an empty mask writes nothing. -/
def execVins (f : VScalForm) (s : State) := runOp s none f.g fun s =>
  match lowestActive s f.m with
  | none => s
  | some l => writeLanes s f.d (fun i => i = l) (fun _ => splat f.t (readPrimS s s.me f.s)) 2
/-- VEXT. -/
def execVext (f : VExtForm) (s : State) := runOp s none f.g fun s =>
  let v : Word := match lowestActive s f.m with
    | none => 0
    | some l =>
      let x := laneOf (readV s s.me f.a) l
      if f.t = .i32 then x.signExtend 64 else x.setWidth 64
  writePrimS s s.me f.s v 2

/-- Element h of lane l after the compare-exchange with lane distance 2^k (17 R428). -/
def cxElem (t : VType) (a : Lanes) (mk : Nat → Bool) (k : Nat) (desc : Bool) (l h : Nat) : Nat :=
  let upper := l / 2 ^ k % 2 = 1
  let i := if upper then l - 2 ^ k else l
  let lo := elemOf t (laneOf a i) h
  let hi := elemOf t (laneOf a (i + 2 ^ k)) h
  let down := xor desc (!mk i)
  let swap := (!down && orderKey t hi < orderKey t lo) || (down && orderKey t lo < orderKey t hi)
  if xor upper swap then hi else lo

/-- VCX: every lane is written. -/
def execVcx (f : VPatForm) (s : State) := runOp s none f.g fun s =>
  let a := readV s s.me f.a
  let mk := activeOf s f.m
  writeLanes s f.d (fun _ => true) (fun l => joinElems f.t fun h => cxElem f.t a mk (fieldOf f.c 0 3) (f.c.getLsbD 3) l h) 2

/-! ### Random numbers and indices (17 R429, R430) -/

/-- Lanes 1:0 of a vector as a 64-bit word. -/
def lowPair (a : Lanes) : Word := laneOf a 1 ++ laneOf a 0

/-- VRAND. -/
def execVrand (f : VForm) (s : State) := runOp s none f.g fun s =>
  let a := lowPair (readV s s.me f.a)
  let b := lowPair (readV s s.me f.b)
  writeLanes s f.d (activeOf s f.m) (fun i => zeluaMix a b i) 4
/-- VIOTA: the number of active lanes below. -/
def execViota (f : VIotaForm) (s : State) := runOp s none f.g fun s =>
  let act := activeOf s f.m
  writeLanes s f.d act (fun i => BitVec.ofNat 32 (countTrue act i)) 2

/-! ### Lane masks (17 R431) -/

/-- MAND. -/
def execMand (f : MaskForm) (s : State) := runOp s none f.g fun s => writeM s s.me f.d (readM s s.me f.a &&& readM s s.me f.b) 2
/-- MOR. -/
def execMor (f : MaskForm) (s : State) := runOp s none f.g fun s => writeM s s.me f.d (readM s s.me f.a ||| readM s s.me f.b) 2
/-- MXOR. -/
def execMxor (f : MaskForm) (s : State) := runOp s none f.g fun s => writeM s s.me f.d (readM s s.me f.a ^^^ readM s s.me f.b) 2
/-- MNOT. -/
def execMnot (f : MaskUnForm) (s : State) := runOp s none f.g fun s => writeM s s.me f.d (~~~ readM s s.me f.a) 2
/-- MPOP. -/
def execMpop (f : MaskOutForm) (s : State) := runOp s none f.g fun s =>
  writePrimS s s.me f.s (BitVec.ofNat 64 (popcount (readM s s.me f.a))) 2
/-- MFIRST: 64 for an empty mask. -/
def execMfirst (f : MaskOutForm) (s : State) := runOp s none f.g fun s =>
  writePrimS s s.me f.s (BitVec.ofNat 64 (trailingZeros (readM s s.me f.a))) 2
/-- MTOS. -/
def execMtos (f : MaskOutForm) (s : State) := runOp s none f.g fun s => writePrimS s s.me f.s (readM s s.me f.a) 2
/-- MFROM. -/
def execMfrom (f : MaskInForm) (s : State) := runOp s none f.g fun s => writeM s s.me f.d (readPrimS s s.me f.s) 2

end Sys2Proof.Machine
end

