-- ==== Sys2Proof/Machine/Matrix.lean ====
section
/-! DEFINITION. The brick array: operand formats, the verbs of a beat, scale edges, accumulator banks and the array image
(spec 11; 12 R294-R308; 18 R437-R445). A beat reads its registers at issue and acts at the start of the next active cycle. -/

namespace Sys2Proof.Machine

/-! ### Operand formats (11 R272, R273; 12 R296-R299) -/

/-- A format's brick count c, stored width s, number of limbs, and whether it is floating (11 Table Brick.1). -/
structure OpFmt where
  c : Nat
  s : Nat
  limbs : Nat
  float : Bool
  deriving DecidableEq, Repr

/-- The format of a code; none for 0x15-0x1F. -/
def opFmt (code : Nat) : Option OpFmt :=
  match code with
  | 0x00 => some ⟨1, 2, 1, false⟩
  | 0x01 => some ⟨1, 2, 1, false⟩
  | 0x02 => some ⟨1, 2, 1, false⟩
  | 0x03 => some ⟨2, 4, 1, false⟩
  | 0x04 => some ⟨2, 4, 1, false⟩
  | 0x05 => some ⟨3, 6, 1, false⟩
  | 0x06 => some ⟨3, 6, 1, false⟩
  | 0x07 => some ⟨4, 8, 1, false⟩
  | 0x08 => some ⟨4, 8, 1, false⟩
  | 0x09 => some ⟨4, 16, 2, false⟩
  | 0x0A => some ⟨4, 16, 2, false⟩
  | 0x0B => some ⟨1, 4, 1, true⟩
  | 0x0C => some ⟨2, 6, 1, true⟩
  | 0x0D => some ⟨2, 6, 1, true⟩
  | 0x0E => some ⟨2, 8, 1, true⟩
  | 0x0F => some ⟨2, 8, 1, true⟩
  | 0x10 => some ⟨4, 16, 1, true⟩
  | 0x11 => some ⟨4, 16, 2, true⟩
  | 0x12 => some ⟨4, 32, 3, true⟩
  | 0x13 => some ⟨4, 4, 1, false⟩
  | 0x14 => some ⟨4, 4, 1, false⟩
  | _ => none

/-- An integer as a value. -/
def intVal (x : Int) : FVal := .fin (x < 0) x.natAbs 0

/-- The value of a whole element (12 Table Formats.2, R297, R300). -/
def elemValue (code bits : Nat) : FVal :=
  match code with
  | 0x00 => intVal (signedOf 2 bits)
  | 0x01 => intVal bits
  | 0x02 => intVal (if bits = 1 then 1 else if bits = 3 then -1 else 0)
  | 0x03 => intVal (signedOf 4 bits)
  | 0x04 => intVal bits
  | 0x05 => intVal (signedOf 6 bits)
  | 0x06 => intVal bits
  | 0x07 => intVal (signedOf 8 bits)
  | 0x08 => intVal bits
  | 0x09 => intVal (signedOf 16 bits)
  | 0x0A => intVal bits
  | 0x0B => decodeF fmtF4 bits
  | 0x0C => decodeF fmtF6A bits
  | 0x0D => decodeF fmtF6B bits
  | 0x0E => decodeF fmtF8A bits
  | 0x0F => decodeF fmtF8B bits
  | 0x10 => decodeF fmtBF16 bits
  | 0x11 => decodeF fmtF16 bits
  | 0x12 => decodeF fmtF32 bits
  | 0x13 => intVal (levelsN.getD bits 0)
  | _ => intVal (levelsL.getD bits 0)

/-- Bits [lo + n - 1 : lo] of a finite value's significand with their weight. -/
def sliceVal (v : FVal) (lo n : Nat) : FVal :=
  match v with
  | .fin neg g e => .fin neg (g / 2 ^ lo % 2 ^ n) (e + lo)
  | v => v

/-- The value of a limb of an element (12 Table Formats.4). -/
def limbValue (code bits limb : Nat) : FVal :=
  match code with
  | 0x09 => if limb = 0 then intVal (bits % 256) else intVal (signedOf 8 (bits / 256) * 256)
  | 0x0A => if limb = 0 then intVal (bits % 256) else intVal ((bits / 256 * 256 : Nat) : Int)
  | 0x11 => if limb = 0 then sliceVal (elemValue code bits) 3 8 else sliceVal (elemValue code bits) 0 3
  | 0x12 => sliceVal (elemValue code bits) (16 - 8 * limb) 8
  | _ => elemValue code bits

/-- A resolved format word (12 Table Formats.1). -/
structure MFmt where
  a : Nat
  b : Nat
  limbA : Nat
  limbB : Nat
  sat : Bool
  facc : Bool
  kovr : Nat
  deriving DecidableEq, Repr

/-- The fields of a format word. -/
def mfmtOf (w : Half) : MFmt :=
  { a := fieldOf w 0 5, b := fieldOf w 5 5, limbA := fieldOf w 12 2, limbB := fieldOf w 14 2, sat := w.getLsbD 11,
    facc := w.getLsbD 10, kovr := fieldOf w 16 4 }

/-- The automatic K (11 R272). -/
def autoK (fa fb : OpFmt) : Nat := min (16 / (fa.c * fb.c)) (min (64 / fa.s) (64 / fb.s))

/-- The K of a word. -/
def beatK (m : MFmt) (fa fb : OpFmt) : Nat := if m.kovr = 0 then autoK fa fb else m.kovr

/-- Whether a resolved word passes R295, with the sparse rule of R288. -/
def fmtOk (w : Half) (sparse : Bool) : Bool :=
  let m := mfmtOf w
  match opFmt m.a, opFmt m.b with
  | some fa, some fb =>
    fieldOf w 20 12 = 0 && m.limbA < fa.limbs && m.limbB < fb.limbs && m.kovr ≤ autoK fa fb &&
      (m.facc || (!fa.float && !fb.float)) && (!sparse || 4 * beatK m fa fb * fb.s ≤ 64)
  | _, _ => false

/-- An element with its limb and whole value. -/
structure MElem where
  whole : FVal
  limb : FVal
  deriving DecidableEq, Repr

/-- Whether a value is finite. -/
def FVal.finite : FVal → Bool
  | .fin _ _ _ => true
  | _ => false

/-- Element e of an edge word under a format code and limb (11 R273). -/
def melem (code limb s : Nat) (w : Word) (e : Nat) : MElem :=
  let bits := fieldOf w (s * e) s
  { whole := elemValue code bits, limb := limbValue code bits limb }

/-- One product (12 R299): a non-finite element counts only in the beat of limbs 0 and 0. -/
def mproduct (first : Bool) (x y : MElem) : FVal :=
  if x.whole.finite && y.whole.finite then mulExact x.limb y.limb
  else if first then mulExact x.whole y.whole else .fin false 0 0

/-! ### Accumulators (12 R303-R306) -/

/-- Sum of products so far: NaN, both infinities, the exact sum, and whether every product is -0. -/
structure MSum where
  nan : Bool
  pinf : Bool
  ninf : Bool
  num : Int
  exp : Int
  negZero : Bool
  deriving DecidableEq, Repr

/-- The empty sum. -/
def MSum.zero : MSum := { nan := false, pinf := false, ninf := false, num := 0, exp := 0, negZero := true }

/-- Add one product. -/
def MSum.add (t : MSum) (p : FVal) : MSum :=
  match p with
  | .nan _ => { t with nan := true, negZero := false }
  | .inf n => { t with pinf := t.pinf || !n, ninf := t.ninf || n, negZero := false }
  | .fin neg n e =>
    let r := dyAdd t.num t.exp (sgn neg n) e
    { t with num := r.1, exp := r.2, negZero := t.negZero && neg && n = 0 }

/-- c.mstat bits (11 Table Brick.4). -/
def msIOVF : BitVec 4 := 1
/-- FOVF. -/
def msFOVF : BitVec 4 := 2
/-- FNAN. -/
def msFNAN : BitVec 4 := 4
/-- DSAT. -/
def msDSAT : BitVec 4 := 8

/-- FACC plus a sum (12 R305): new bits and flags. -/
def faccAdd (facc : Nat) (t : MSum) : Nat × BitVec 4 :=
  let v := decodeF fmtF32 facc
  let pinf := t.pinf || v = .inf false
  let ninf := t.ninf || v = .inf true
  if t.nan || v.isNan || (pinf && ninf) then (fmtF32.nanBits, msFNAN)
  else if pinf then (fmtF32.withSign false fmtF32.infBits, 0)
  else if ninf then (fmtF32.withSign true fmtF32.infBits, 0)
  else match v with
    | .fin neg n e =>
      let r := dyAdd (sgn neg n) e t.num t.exp
      if r.1 = 0 then (zeroBits fmtF32 (neg && n = 0 && t.negZero), 0)
      else
        let k := packDyadic fmtF32 .rne r.1 r.2
        (k.1, if k.1 % fmtF32.signBit = fmtF32.infBits then msFOVF else 0)
    | _ => (facc, 0)

/-- WRAPSAT32 of IACC + sum (12 R304). -/
def iaccAdd (iacc : Half) (sum : Int) (sat : Bool) : Half × BitVec 4 :=
  let x := iacc.toInt + sum
  if -2 ^ 31 ≤ x ∧ x ≤ 2 ^ 31 - 1 then (BitVec.ofInt 32 x, 0)
  else (BitVec.ofInt 32 (if sat then satInt x (-2 ^ 31) (2 ^ 31 - 1) else x), msIOVF)

/-- IACC of an accumulator word. -/
def iaccOf (w : Word) : Half := w.setWidth 32
/-- FACC of an accumulator word. -/
def faccOf (w : Word) : Half := w.extractLsb' 32 32
/-- The accumulator word of both (11 Table Brick.11). -/
def accWord (iacc facc : Half) : Word := facc ++ iacc

/-- The sum of one cell from its row's and column's elements. -/
def cellSum (first : Bool) : List MElem → List MElem → MSum
  | x :: xs, y :: ys => (cellSum first xs ys).add (mproduct first x y)
  | _, _ => .zero

/-- Apply a new word and flags to the cells from key k on, one addend each, in one pass. -/
def zipCells {α : Type} (f : α → Word → Word × BitVec 4) : List α → Nat → Tab Word → Tab Word × BitVec 4
  | [], _, t => (t, 0)
  | x :: xs, k, [] =>
    let w := f x 0
    let r := zipCells f xs (k + 1) []
    (tabCons 0 k w.1 r.1, w.2 ||| r.2)
  | x :: xs, k, (j, v) :: t =>
    if j = k then
      let w := f x v
      let r := zipCells f xs (k + 1) t
      (tabCons 0 k w.1 r.1, w.2 ||| r.2)
    else
      let w := f x 0
      let r := zipCells f xs (k + 1) ((j, v) :: t)
      (tabCons 0 k w.1 r.1, w.2 ||| r.2)

/-- Apply a new word and flags to every cell of a bank. -/
def updateBank {α : Type} (f : α → Word → Word × BitVec 4) (acc : Tab Word) (bank : Nat) (addends : List α) : Tab Word × BitVec 4 :=
  let r := zipCells f addends (4096 * bank) (acc.filter fun e => 4096 * bank ≤ e.1)
  ((acc.filter fun e => e.1 < 4096 * bank) ++ r.1, r.2)

/-- All pairs of a row and a column, row by row. -/
def allCells {α β : Type} (f : α → α → β) (rows cols : List α) : List β := rows.flatMap fun r => cols.map fun c => f r c

/-- Accumulate one sum into a cell. -/
def accCell (m : MFmt) (t : MSum) (w : Word) : Word × BitVec 4 :=
  if m.facc then
    let r := faccAdd (faccOf w).toNat t
    (accWord (iaccOf w) (BitVec.ofNat 32 r.1), r.2)
  else
    let r := iaccAdd (iaccOf w) (t.num * 2 ^ t.exp.toNat) m.sat
    (accWord r.1 (faccOf w), r.2)

/-- IDX(meta, e) (11 R288). -/
def sparseIdx (mw : Half) (e : Nat) : Nat := 4 * e + fieldOf mw (2 * e) 2

/-- The accumulate verb (11 R283): the bank after it and its flags. -/
def accumulate (w mw : Half) (sparse : Bool) (ea eb : List Word) (acc : Tab Word) (bank : Nat) : Tab Word × BitVec 4 :=
  let m := mfmtOf w
  match opFmt m.a, opFmt m.b with
  | some fa, some fb =>
    let es := List.range (beatK m fa fb)
    let first := m.limbA = 0 && m.limbB = 0
    let rows := ea.map fun x => es.map fun e => melem m.a m.limbA fa.s x e
    let cols := eb.map fun x => es.map fun e => melem m.b m.limbB fb.s x (if sparse then sparseIdx mw e else e)
    updateBank (accCell m) acc bank (allCells (cellSum first) rows cols)
  | _, _ => (acc, 0)

/-- Fold one cell (11 R284; 12 R306). -/
def foldCell (sc : Nat × Nat) (w : Word) : Word × BitVec 4 :=
  let p := mulExact (mulExact (intVal (iaccOf w).toInt) (decodeF fmtF32 sc.1)) (decodeF fmtF32 sc.2)
  let r := faccAdd (faccOf w).toNat (MSum.zero.add p)
  (accWord 0 (BitVec.ofNat 32 r.1), r.2)

/-- The fold verb. -/
def foldBank (sa sb : List Half) (acc : Tab Word) (bank : Nat) : Tab Word × BitVec 4 :=
  updateBank foldCell acc bank (allCells Prod.mk (sa.map BitVec.toNat) (sb.map BitVec.toNat))

/-! ### Edges (11 R279-R282, R285) -/

/-- The 64 words of an edge table. -/
def edgeWords {α : Type} (d : α) (t : Tab α) : List α := (List.range 64).map fun i => tabGet d t i

/-- An edge table from a function of its 64 indices. -/
def edgeTab {α : Type} [DecidableEq α] (d : α) (f : Nat → α) : Tab α := tabOfList d 0 ((List.range 64).map f)

/-- The edge that a vector pair pushes: the odd register in the high halves (11 R279). -/
def pairEdge (lo hi : Lanes) : BitVec 4096 :=
  BitVec.ofNat 4096 ((List.range 64).foldl (fun n i => n + (laneOf lo i).toNat * 2 ^ (64 * i) + (laneOf hi i).toNat * 2 ^ (64 * i + 32)) 0)

/-- Word i of 4,096 bits. -/
def wideWord (x : BitVec 4096) (i : Nat) : Word := x.extractLsb' (64 * i) 64

/-- Registers a source reads at issue: an edge for a vector pair, zero for none. -/
def srcEdge (s : State) (x : XSrc) : BitVec 4096 :=
  match x with
  | .vec n => pairEdge (readV s s.me (n ++ 0#1)) (readV s s.me (n ++ 1#1))
  | _ => 0

/-- d1 and d2 of a descriptor pair. -/
def descOf (s : State) (n : BitVec 5) : Word × Word := (readPrimS s s.me (n ++ 0#1), readPrimS s s.me (n ++ 1#1))

/-- MODE of a descriptor; none for 11 (11 Table Brick.6). -/
def descMode (d1 : Word) : Option Mode :=
  match fieldOf d1 24 2 with
  | 0 => some .loc
  | 1 => some .core
  | 2 => some .weave
  | _ => none

/-- Row address aᵢ (11 R280). -/
def rowAddr (d1 d2 : Word) (i : Nat) : Word := BitVec.ofNat 64 ((fieldOf d1 0 24 + i * fieldOf d2 0 20) % 2 ^ 24)

/-- The piece of row i, its banks rotated; none for SPRANGE. -/
def rowPiece (s : State) (c : BitVec 10) (d1 d2 : Word) (m : Mode) (i : Nat) : Option Piece :=
  match spadTarget c m (rowAddr d1 d2 i) with
  | none => none
  | some (o, off) =>
    let r := putField off 4 5 (fieldOf off 4 5 + i * fieldOf d1 26 5)
    if inPool s o r.toNat 8 then none else some { core := o, off := r, len := 8, pos := 8 * i }

/-- The 64 rows of a descriptor, or the first row out of range. -/
def rowPieces (s : State) (c : BitVec 10) (d1 d2 : Word) (m : Mode) : List Piece × Option Word :=
  ((List.range 64).filterMap fun i => rowPiece s c d1 d2 m i,
    (firstTrue (fun i => (rowPiece s c d1 d2 m i).isNone) (List.range 64)).map (rowAddr d1 d2))

/-- d1 after ADV (11 R280). -/
def descNext (d1 d2 : Word) : Word := putField d1 0 24 (fieldOf d1 0 24 + fieldOf d2 20 20)

/-- ADV of a descriptor pair: d1 lands at bound 1. -/
def advance (s : State) (x : XSrc) : State :=
  match x with
  | .desc n =>
    let d := descOf s n
    if d.1.getLsbD 31 then writePrimS s s.me (n ++ 0#1) (descNext d.1 d.2) 1 else s
  | _ => s

/-- The pieces of a source that is a descriptor. -/
def srcPieces (s : State) (x : XSrc) : List Piece :=
  match x with
  | .desc n =>
    let d := descOf s n
    match descMode d.1 with
    | some m => (rowPieces s s.me d.1 d.2 m).1
    | none => []
  | _ => []

/-- Whether a source is a LOCAL descriptor. -/
def srcLocal (s : State) (x : XSrc) : Bool :=
  match x with
  | .desc n => descMode (descOf s n).1 = some .loc
  | _ => false

/-- Whether a source is a descriptor in CORE or WEAVE mode. -/
def srcRemote (s : State) (x : XSrc) : Bool :=
  match x with
  | .desc n => !(descMode (descOf s n).1 = some .loc)
  | _ => false

/-- Whether a source is a descriptor pair. -/
def isDesc (x : XSrc) : Bool :=
  match x with
  | .desc _ => true
  | _ => false

/-- Whether a source is a vector pair or a descriptor pair. -/
def isSource (x : XSrc) : Bool :=
  match x with
  | .vec _ => true
  | .desc _ => true
  | _ => false

/-- BASE and ROWPITCH of a source, for the address of an access trap. -/
def srcBase (s : State) (x : XSrc) : Word × Word :=
  match x with
  | .desc n =>
    let d := descOf s n
    (BitVec.ofNat 64 (fieldOf d.1 0 24), BitVec.ofNat 64 (fieldOf d.2 0 20))
  | _ => (0, 0)

/-! ### Issue traps of X operations (11 R278, R280, R288; 12 R295; 14 R350, R351; 18 R434, R438-R444) -/

/-- The first trap of a list, which stands in the order of R355. -/
def firstTrap (l : List (Option TrapInfo)) : Option TrapInfo := l.findSome? id

/-- ILLOP of a descriptor: MODE 11 or a reserved bit (11 R280). -/
def descIllop (s : State) (x : XSrc) : Option TrapInfo :=
  match x with
  | .desc n =>
    let d := descOf s n
    if (descMode d.1).isNone || fieldOf d.1 32 32 ≠ 0 || fieldOf d.2 40 24 ≠ 0 then some (bundleTrap s .illop 0) else none
  | _ => none

/-- SPRANGE of a descriptor's rows. -/
def descRange (s : State) (x : XSrc) : Option TrapInfo :=
  match x with
  | .desc n =>
    let d := descOf s n
    match descMode d.1 with
    | some m => (rowPieces s s.me d.1 d.2 m).2.map fun a => addrTrap s .sprange a
    | none => none
  | _ => none

/-- MISALIGN of a descriptor. -/
def descAlign (s : State) (x : XSrc) : Option TrapInfo :=
  match x with
  | .desc n =>
    let d := descOf s n
    if fieldOf d.1 0 3 ≠ 0 || fieldOf d.2 0 3 ≠ 0 || fieldOf d.2 20 3 ≠ 0 then
      some (addrTrap s .misalign (BitVec.ofNat 64 (fieldOf d.1 0 24)))
    else none
  | _ => none

/-- SPRANGE and MISALIGN of n bytes at a LOCAL address in a register, a multiple of 16 (18 R440, R444). -/
def localRange (s : State) (a : Word) (last : Nat) (parts : List (Nat × Nat)) : Option TrapInfo :=
  if a.toNat ≥ 2 ^ 20 || a.toNat + last > 2 ^ 20 || parts.any (fun p => inPool s s.me (a.toNat + p.1) p.2) then
    some (addrTrap s .sprange a)
  else if a.toNat % 16 ≠ 0 then some (addrTrap s .misalign a) else none

/-- Bytes per value of a drain conversion (18 Table Matrix.4). -/
def drainBytes (code : BitVec 3) : Nat :=
  match code.toNat with
  | 0 => 4
  | 5 => 4
  | 3 => 1
  | 4 => 1
  | 7 => 1
  | _ => 2

/-- Whether a beat shifts by the automatic amount (11 R285). -/
def autoShift (f : BeatForm) : Bool := (f.shA || f.shB) && (f.drain || f.amt = 0)

/-- Whether a beat resolves a format (18 R434). -/
def resolves (f : BeatForm) : Bool := f.acc || autoShift f

/-- The ILLOP combinations of the fields alone. -/
def beatIllop (f : BeatForm) : Bool :=
  !(f.pushA || f.pushB || f.acc || f.fold || f.shA || f.shB || f.drain) ||
    (f.pushA && f.pushB && isDesc f.a && isDesc f.b) ||
    (f.pushA && f.a = .keep) || (f.pushB && f.b = .keep) ||
    (!f.pushA && isSource f.a) || (!f.pushB && isSource f.b) ||
    (f.sparse && !f.acc) ||
    (f.drain && f.amt.toNat ≥ 64) ||
    (!f.drain && (f.shA || f.shB) && f.amt.toNat > 64) ||
    (f.bank && !f.acc && !f.fold && !f.drain) ||
    (!f.drain && !f.shA && !f.shB && f.amt ≠ 0) ||
    (!resolves f && (f.fsel ≠ 0 || f.oneshot)) ||
    (f.oneshot && f.fsel ≠ 0)

/-- The word a beat resolves, or the word of its ILLFMT (18 Table Matrix.1). -/
def resolveFmt (s : State) (f : BeatForm) : Except Half Half :=
  let k := s.core s.me
  match f.oneshot, k.pendFmt with
  | false, none => .ok (tabGet 0 k.ft f.fsel.toNat)
  | false, some p => .error p
  | true, none => .error 0
  | true, some p => .ok p

/-- ILLFMT of a beat, with the word in c.trapinfo. -/
def beatIllfmt (s : State) (f : BeatForm) : Option TrapInfo :=
  if !resolves f then none
  else match resolveFmt s f with
    | .error w => some (bundleTrap s .illfmt (w.setWidth 64))
    | .ok w => if fmtOk w f.sparse then none else some (bundleTrap s .illfmt (w.setWidth 64))

/-- The metadata word of a sparse beat with its tag: forwarded, or the guidon's own (18 R436). -/
def metaWord (s : State) : BitVec 34 :=
  match s.cur.mword with
  | some w => w
  | none => imemWord s (guidonOf s s.me) (s.core (guidonOf s s.me)).mpc

/-- Trap of MBEAT. -/
def mbeatTrap (s : State) (f : BeatForm) : Option TrapInfo :=
  let ex := executes s f.g
  let a := if f.pushA then f.a else .none
  let b := if f.pushB then f.b else .none
  let mw := metaWord s
  let bad : Option TrapInfo :=
    if ex && f.sparse && tagOf mw ≠ 2 then
      some { cause := .brtgt, mask := 0, info := (tagOf mw).setWidth 64, addr := (s.core (guidonOf s s.me)).mpc.setWidth 64 }
    else none
  if !ex then (if beatIllop f then some (bundleTrap s .illop 0) else none)
  else firstTrap
    [bad,
     if beatIllop f || (f.acc && (srcRemote s a || srcRemote s b)) then some (bundleTrap s .illop 0) else none,
     descIllop s a, descIllop s b,
     beatIllfmt s f,
     descRange s a, descRange s b,
     (if f.drain && f.dkind then localRange s (readPrimS s s.me f.dest) (64 * drainBytes f.dconv) [(0, 64 * drainBytes f.dconv)] else none),
     descAlign s a, descAlign s b]

/-- Trap of MSCL: only one descriptor, LOCAL (18 R442). -/
def msclTrap (s : State) (f : SclForm) : Option TrapInfo :=
  let two : Option TrapInfo := if isDesc f.a && isDesc f.b then some (bundleTrap s .illop 0) else none
  if !executes s f.g then two
  else firstTrap
    [two, (if srcRemote s f.a || srcRemote s f.b then some (bundleTrap s .illop 0) else none), descIllop s f.a, descIllop s f.b,
     descRange s f.a, descRange s f.b, descAlign s f.a, descAlign s f.b]

/-- Offset and bytes of the parts of an image, by part bit (11 Table Brick.11; 14 Table Enc.12). -/
def imagePart (bit : Nat) : Nat × Nat :=
  match bit with
  | 5 => (0x00000, 0x8000)
  | 4 => (0x08000, 0x8000)
  | 3 => (0x10000, 0x200)
  | 2 => (0x10200, 0x200)
  | 1 => (0x10400, 0x100)
  | _ => (0x10500, 0x100)

/-- The named parts, in the order of the image. -/
def imageBits (parts : BitVec 6) : List Nat := [5, 4, 3, 2, 1, 0].filter fun b => parts.getLsbD b

/-- Trap of MSAVE and MLOAD (18 R444). -/
def imageTrap (s : State) (f : ImgForm) : Option TrapInfo :=
  if executes s f.g then localRange s (readPrimS s s.me f.dest) 0x10600 ((imageBits f.parts).map imagePart) else none

/-! ### Performing array operations -/

/-- Address of the row that a piece carries. -/
def rowOfPiece (base pitch : Word) (p : Piece) : Word :=
  BitVec.ofNat 64 ((base.toNat + p.pos / 8 * pitch.toNat) % 2 ^ 24)

/-- Set c.mstat bits at a tick. -/
def landFlags (s : State) (c : BitVec 10) (born due : Nat) (ms : BitVec 4) : State :=
  if ms = 0 then s
  else s.mapCore c fun k =>
    { k with pend := k.pend ++ [{ dest := .flags, val := 0, born := born, due := due, vflags := 0, mstat := ms }] }

/-- Whether the remote push of an edge that is on its way is refused or faulted, as its banks stand (11 R289). -/
def pushRefused (s : State) (c : BitVec 10) (b : Bool) : Bool :=
  (s.core c).accs.any fun a => (match a.op with
    | .pushA _ => !b
    | .pushB _ => b
    | _ => false) && (piecesFail s (.prim c) .read true true a.pieces).isSome

/-- The edge words a beat reads: undefined before a remote push has landed (11 R282), but the edge as it stood before a push that is refused (11 R289). -/
def readEdge (s : State) (c : BitVec 10) (b : Bool) (born : Nat) : List Word :=
  let k := s.core c
  if born < (if b then k.ebDue else k.eaDue) && !pushRefused s c b then
    let n := if b then 3076 else 3072
    (List.range 64).map fun i => laneOf (s.primFree c n) i ++ laneOf (s.primFree c (n + 1)) i
  else edgeWords 0 (if b then k.eb else k.ea)

/-- Put an edge. -/
def putEdge (s : State) (c : BitVec 10) (b : Bool) (f : Nat → Word) : State :=
  s.mapCore c fun k => if b then { k with eb := edgeTab 0 f } else { k with ea := edgeTab 0 f }

/-- Shift an edge right; 64 clears it. -/
def shiftEdge (s : State) (c : BitVec 10) (b : Bool) (n : Nat) : State :=
  let k := s.core c
  putEdge s c b fun i => tabGet 0 (if b then k.eb else k.ea) i >>> n

/-- Value i of an accumulator row as converted by a drain: bits and whether it saturated (18 Table Matrix.4; 12 R307, R308). -/
def drainValue (f : BeatForm) (w : Word) : Nat × Bool :=
  let mode : Rnd := if f.drnd then .rtz else .rne
  let flt (t : Fmt) : Nat × Bool :=
    let r := cvtVal t mode f.dsat (decodeF fmtF32 (faccOf w).toNat)
    (r.1, r.2.1)
  let int (n : Nat) : Nat × Bool :=
    let x := (iaccOf w).toInt
    let r := roundNat mode (x < 0) x.natAbs (2 ^ f.dshift.toNat)
    let y := sgn (x < 0) r.1
    let lo : Int := -2 ^ (n - 1)
    let hi : Int := 2 ^ (n - 1) - 1
    (((if f.dsat then satInt y lo hi else y) % 2 ^ n).toNat, y < lo || y > hi)
  match f.dconv.toNat with
  | 0 => flt fmtF32
  | 1 => flt fmtBF16
  | 2 => flt fmtF16
  | 3 => flt fmtF8A
  | 4 => flt fmtF8B
  | 5 => int 32
  | 6 => int 16
  | _ => int 8

/-- The row image of a drain and whether a conversion saturated. -/
def drainImage (f : BeatForm) (row : List Word) : Lanes × Bool :=
  let l := row.map (drainValue f)
  let b := 8 * drainBytes f.dconv
  (BitVec.ofNat 2048 ((l.zip (List.range 64)).foldl (fun n e => n + e.1.1 * 2 ^ (b * e.2)) 0), l.any fun e => e.2)

/-- The row a drain reads; undefined inside the bounds of the bank's last accumulate and fold (11 R287). -/
def drainRow (s : State) (c : BitVec 10) (bank row born : Nat) : List Word :=
  let k := s.core c
  if born < tabGet 0 k.accTick bank || born < tabGet 0 k.foldTick bank then
    (List.range 64).map fun i => laneOf (s.primFree c 3080) i ++ laneOf (s.primFree c 3081) i
  else (List.range 64).map fun j => tabGet 0 k.acc (4096 * bank + 64 * row + j)

/-- The drain verb of a beat: to a vector register, or as a write on its way (11 R286; 18 R440, R441). -/
def performDrain (s : State) (c : BitVec 10) (a : Access) (f : BeatForm) : State :=
  let bank := (if f.bank then 1 else 0)
  let bank := if f.acc || f.fold then 1 - bank else bank
  let r := drainImage f (drainRow s c bank f.amt.toNat a.born)
  let ms := if r.2 then msDSAT else 0
  if f.dkind then
    s.mapCore c fun k =>
      let p : Piece := { core := c, off := a.data.setWidth 20, len := 64 * drainBytes f.dconv, pos := 0 }
      let d : Access := { a with op := .drain, left := 5, dest := none, addr := a.data.setWidth 64, pieces := [p], data := r.1,
                                 data2 := ms.setWidth 64 }
      { k with accs := insertAcc d k.accs }
  else landFlags (landAt s c { a with due := a.born + 6 } a.dest r.1) c a.born (a.born + 6) ms

/-- Amount of each shift (11 R285): an automatic shift leaves a limbed operand as it is but in the beat of its last limb (DEDUCED, log entry 17). -/
def shiftAmount (f : BeatForm) (w : Half) : Nat × Nat :=
  if !f.drain && f.amt ≠ 0 then (f.amt.toNat, f.amt.toNat)
  else
    let m := mfmtOf w
    match opFmt m.a, opFmt m.b with
    | some fa, some fb =>
      let k := beatK m fa fb
      (if m.limbA + 1 < fa.limbs then 0 else k * fa.s, if m.limbB + 1 < fb.limbs then 0 else (if f.sparse then 4 else 1) * k * fb.s)
    | _, _ => (0, 0)

/-- The access trap of an array access at its bank: the address of the failing row. -/
def failRow (s : State) (c : BitVec 10) (a : Access) (x : AccFail × Piece) : State :=
  failAccess s c a (a.born + 1) x.1 (rowOfPiece a.addr a.data2 x.2)

/-- Put the access of a remote push on its way, with the drain destination of its beat (11 R282, R289). -/
def sendPush (s : State) (a : Access) (b : Bool) (shift : Nat) (ps : List Piece) : State :=
  let p : Access := { a with op := if b then .pushB shift else .pushA shift, left := 4, dest := none, pdest := a.dest, pieces := ps }
  (issueAccess s p).mapCore s.me fun k => if b then { k with ebDue := a.born + 5 } else { k with eaDue := a.born + 5 }

/-- Push the edge of one side: from registers, or from the pieces of a LOCAL descriptor. -/
def pushEdge (s : State) (c : BitVec 10) (b fromSpad : Bool) (a : Access) (regs : BitVec 4096) : State :=
  let v := accessValue s c a
  let s := s.mapCore c fun k => { k with rpoison := tabDrop (fun i => i / 64 = if b then 193 else 192) k.rpoison }
  putEdge s c b fun i => if fromSpad then BitVec.ofNat 64 (v / 2 ^ (64 * i)) else wideWord regs i

/-- The verbs of a beat after its checks, in the order of Table Brick.5. rem says that its scratchpad push is remote. -/
def performVerbs (s : State) (c : BitVec 10) (a : Access) (f : BeatForm) (w mw : Half) (ra rb : BitVec 4096)
    (mpc : Option (BitVec 16)) (rem : Bool) : State :=
  let bank := if f.bank then 1 else 0
  let amt := shiftAmount f w
  let remA := rem && f.pushA && isDesc f.a
  let remB := rem && f.pushB && isDesc f.b
  let s := if f.pushA && !remA then pushEdge s c false (isDesc f.a) a ra else s
  let s := if f.pushB && !remB then pushEdge s c true (isDesc f.b) a rb else s
  let s := match mpc with
    | some m => s.mapCore c fun k => { k with mpc := m }
    | none => s
  let s := if f.acc then
      let r := accumulate w mw f.sparse (readEdge s c false a.born) (readEdge s c true a.born) (s.core c).acc bank
      landFlags (s.mapCore c fun k => { k with acc := r.1, accTick := tabPut 0 k.accTick bank (a.born + 3) }) c a.born (a.born + 3) r.2
    else s
  let s := if f.fold then
      let r := foldBank (edgeWords 0 (s.core c).sa) (edgeWords 0 (s.core c).sb) (s.core c).acc bank
      landFlags (s.mapCore c fun k => { k with acc := r.1, foldTick := tabPut 0 k.foldTick bank (a.born + 4) }) c a.born (a.born + 4) r.2
    else s
  let s := if f.shA && !remA then shiftEdge s c false amt.1 else s
  let s := if f.shB && !remB then shiftEdge s c true amt.2 else s
  if f.drain then performDrain s c a f else s

/-- Perform a beat: a LOCAL push that is refused or faulted suppresses every verb (11 R289). -/
def performBeat (s : State) (c : BitVec 10) (a : Access) (f : BeatForm) (w mw : Half) (ra rb : BitVec 4096)
    (mpc : Option (BitVec 16)) : State :=
  let rem := a.data2.getLsbD 63
  let a := { a with data2 := a.data2.setWidth 63 |>.setWidth 64 }
  if rem then performVerbs s c a f w mw ra rb mpc true
  else match piecesFail s (.prim c) .read true true a.pieces with
    | some x => failRow s c a x
    | none => performVerbs (noteRead s (.prim c) (a.pieces.flatMap Piece.words)) c a f w mw ra rb mpc false

/-- A remote push reaches its banks: refused or faulted, it and the beat's drain do not land (11 R282, R289). -/
def performPush (s : State) (c : BitVec 10) (a : Access) (b : Bool) (shift : Nat) : State :=
  match piecesFail s (.prim c) .read true true a.pieces with
  | some x =>
    let s := s.mapCore c fun k =>
      { k with
        accs := k.accs.filter fun d => !(d.op = .drain && d.born = a.born)
        pend := k.pend.filter fun p => !(p.born = a.born && p.due = a.born + 6 &&
          (some p.dest = a.pdest || (p.dest = .flags && p.mstat = msDSAT))) }
    failRow s c a x
  | none =>
    let s := noteRead s (.prim c) (a.pieces.flatMap Piece.words)
    shiftEdge (pushEdge s c b true a 0) c b shift

/-- A scratchpad drain writes its row; a trap suppresses only the write with its flag (11 R286, R289). -/
def performDrainWrite (s : State) (c : BitVec 10) (a : Access) : State :=
  match piecesFail s (.prim c) .write true false a.pieces with
  | some x => failPrim s c a.bundle a.slot x.1 a.addr
  | none => (laggedWrite s (.prim c) a.lag a.data.toNat a.pieces).mapCore c fun k => { k with mstat := k.mstat ||| a.data2.setWidth 4 }

/-- RNE32(S × u / 255) (12 R301). -/
def blockScale (sbits u : Nat) : Nat :=
  match decodeF fmtF32 sbits with
  | .nan _ => fmtF32.nanBits
  | .inf n => if u = 0 then fmtF32.nanBits else fmtF32.withSign n fmtF32.infBits
  | .fin neg n e => if n = 0 ∨ u = 0 then zeroBits fmtF32 neg else (packRat fmtF32 .rne neg (n * u) 255 e).1

/-- The scale edge of an MSCL operand (18 R442): a vector pair holds S in its even and u in its odd register. -/
def scaleEdge (s : State) (c : BitVec 10) (a : Access) (x : XSrc) (regs : BitVec 4096) : Nat → Half :=
  let pair (w : Word) : Half := BitVec.ofNat 32 (blockScale (w.toNat % 2 ^ 32) (fieldOf w 32 8))
  match x with
  | .vec _ => fun i => pair (wideWord regs i)
  | .desc _ =>
    let v := accessValue s c a
    fun i => pair (BitVec.ofNat 64 (v / 2 ^ (64 * i)))
  | _ => fun _ => 0x3F800000

/-- Perform an MSCL. -/
def performScl (s : State) (c : BitVec 10) (a : Access) (f : SclForm) (ra rb : BitVec 4096) : State :=
  match piecesFail s (.prim c) .read true true a.pieces with
  | some x => failRow s c a x
  | none =>
    let ea := scaleEdge s c a f.a ra
    let eb := scaleEdge s c a f.b rb
    (noteRead s (.prim c) (a.pieces.flatMap Piece.words)).mapCore c fun k =>
      { k with sa := edgeTab 0 ea, sb := edgeTab 0 eb, rpoison := tabDrop (fun i => i / 128 = 97) k.rpoison }

/-- Bring the remote pushes in flight to their end (18 R445). -/
def settleArray (s : State) (c : BitVec 10) : State :=
  let l := (s.core c).accs.filter fun a => match a.op with
    | .pushA _ => true
    | .pushB _ => true
    | _ => false
  let s := s.mapCore c fun k => { k with accs := k.accs.filter fun a => !(l.contains a), eaDue := 0, ebDue := 0 }
  l.foldl (fun s a => match a.op with
    | .pushA n => performPush s c a false n
    | .pushB n => performPush s c a true n
    | _ => s) s

/-- A number from words of w bits, lowest first. -/
def joinWords (w : Nat) : List Nat → Nat
  | [] => 0
  | x :: r => x % 2 ^ w + 2 ^ w * joinWords w r

/-- The image bytes of a part as a number (11 Table Brick.11). -/
def partValue (k : Core) (bit : Nat) : Nat :=
  match bit with
  | 5 => joinWords 64 ((List.range 4096).map fun i => (tabGet 0 k.acc i).toNat)
  | 4 => joinWords 64 ((List.range 4096).map fun i => (tabGet 0 k.acc (4096 + i)).toNat)
  | 3 => joinWords 64 ((edgeWords 0 k.ea).map BitVec.toNat)
  | 2 => joinWords 64 ((edgeWords 0 k.eb).map BitVec.toNat)
  | 1 => joinWords 32 ((edgeWords 0 k.sa).map BitVec.toNat)
  | _ => joinWords 32 ((edgeWords 0 k.sb).map BitVec.toNat)

/-- Word i of w bits of a number. -/
def wordAt (w v i : Nat) : Nat := v / 2 ^ (w * i) % 2 ^ w

/-- Put the image bytes of a part. -/
def putPart (k : Core) (bit v : Nat) : Core :=
  match bit with
  | 5 => { k with acc := tabReplace 0 0 4096 ((List.range 4096).map fun i => BitVec.ofNat 64 (wordAt 64 v i)) k.acc,
                  accTick := tabPut 0 k.accTick 0 0, foldTick := tabPut 0 k.foldTick 0 0, rpoison := tabDrop (fun i => i / 4096 = 1) k.rpoison }
  | 4 => { k with acc := tabReplace 0 4096 4096 ((List.range 4096).map fun i => BitVec.ofNat 64 (wordAt 64 v i)) k.acc,
                  accTick := tabPut 0 k.accTick 1 0, foldTick := tabPut 0 k.foldTick 1 0, rpoison := tabDrop (fun i => i / 4096 = 2) k.rpoison }
  | 3 => { k with ea := edgeTab 0 fun i => BitVec.ofNat 64 (wordAt 64 v i), rpoison := tabDrop (fun i => i / 64 = 192) k.rpoison }
  | 2 => { k with eb := edgeTab 0 fun i => BitVec.ofNat 64 (wordAt 64 v i), rpoison := tabDrop (fun i => i / 64 = 193) k.rpoison }
  | 1 => { k with sa := edgeTab 0 fun i => BitVec.ofNat 32 (wordAt 32 v i), rpoison := tabDrop (fun i => i / 64 = 194) k.rpoison }
  | _ => { k with sb := edgeTab 0 fun i => BitVec.ofNat 32 (wordAt 32 v i), rpoison := tabDrop (fun i => i / 64 = 195) k.rpoison }

/-- The piece of a part of an image at an address. -/
def partPiece (c : BitVec 10) (a : Word) (bit : Nat) : Piece :=
  { core := c, off := a.setWidth 20 + BitVec.ofNat 20 (imagePart bit).1, len := (imagePart bit).2, pos := 0 }

/-- Perform an MSAVE or an MLOAD; a refused or faulted access suppresses all of it (18 R445). -/
def performImage (s : State) (c : BitVec 10) (a : Access) (f : ImgForm) (load : Bool) : State :=
  let s := settleArray s c
  let ps := (imageBits f.parts).map fun b => (b, partPiece c a.addr b)
  match piecesFail s (.prim c) (if load then .read else .write) true load (ps.map fun e => e.2) with
  | some x => failAccess s c a (a.born + 1) x.1 a.addr
  | none =>
    ps.foldl (fun s e =>
      if load then (noteRead s (.prim c) e.2.words).mapCore c fun k => putPart k e.1 (accessValue s c { a with pieces := [e.2] })
      else plainWrite s (.prim c) (partValue (s.core c) e.1) [e.2]) s

/-- Perform an array access. -/
def performX (s : State) (c : BitVec 10) (a : Access) : State :=
  match a.op with
  | .beat f w mw ra rb mpc => performBeat s c a f w mw ra rb mpc
  | .pushA n => performPush s c a false n
  | .pushB n => performPush s c a true n
  | .drain => performDrainWrite s c a
  | .scl f ra rb => performScl s c a f ra rb
  | .save f => performImage s c a f false
  | .image f => performImage s c a f true
  | _ => performMem s c a

/-! ### The X operations -/

/-- The metadata word of a sparse beat as this member uses it. -/
def beatMeta (s : State) : Half := wordOf (metaWord s)

/-- c.mpc after a sparse beat; none when an MSEEK of the bundle decides it (18 R436). -/
def beatMpc (s : State) (f : BeatForm) : Option (BitVec 16) :=
  let k := s.core s.me
  if f.sparse && !(k.pend.any fun p => p.dest = .mpc && p.born = k.tick) then some (k.mpc + 1) else none

/-- MBEAT (18 R439). -/
def execMbeat (f : BeatForm) (s : State) := runOp s (mbeatTrap s f) f.g fun s =>
  let x := if f.pushA && isDesc f.a then f.a else if f.pushB then f.b else .none
  let w := if resolves f then (match resolveFmt s f with
    | .ok w => w
    | .error _ => 0) else 0
  let base := srcBase s x
  let rem := srcRemote s x
  let a := newAccess s (.beat f w (if f.sparse then beatMeta s else 0) (srcEdge s f.a) (srcEdge s f.b) (beatMpc s f)) 1 6 base.1
    (if rem then [] else srcPieces s x)
  let a := { a with
    data2 := base.2 ||| (if rem then 1 <<< 63 else 0)
    data := if f.drain && f.dkind then (readPrimS s s.me f.dest).setWidth 2048 else 0
    dest := if f.drain && !f.dkind then some (.v (f.dest.setWidth 5)) else none }
  let b := !(f.pushA && isDesc f.a)
  let t := issueAccess s a
  let t := if rem then sendPush t { a with data2 := base.2 } b (if (if b then f.shB else f.shA) then (if b then (shiftAmount f w).2 else (shiftAmount f w).1) else 0)
      (srcPieces s x) else t
  let s := advance t x
  if f.oneshot then s.mapCore s.me fun k => { k with pendFmt := none } else s

/-- MSCL (18 R442). -/
def execMscl (f : SclForm) (s : State) := runOp s (msclTrap s f) f.g fun s =>
  let x := if isDesc f.a then f.a else f.b
  let base := srcBase s x
  let a := newAccess s (.scl f (srcEdge s f.a) (srcEdge s f.b)) 1 1 base.1 (srcPieces s x)
  advance (issueAccess s { a with data2 := base.2 }) x

/-- MCLR (18 R443). -/
def execMclr (f : ClrForm) (s : State) := runOp s none f.g fun s =>
  s.mapCore s.me fun k =>
    let b := if f.bank then 1 else 0
    { k with acc := tabDrop (fun i => i / 4096 = b) k.acc, accTick := tabPut 0 k.accTick b 0, foldTick := tabPut 0 k.foldTick b 0,
             rpoison := tabDrop (fun i => i / 4096 = b + 1) k.rpoison }

/-- Exchange the entries of two halves of a table, n apart. -/
def swapTab {α : Type} (n : Nat) (t : Tab α) : Tab α :=
  ((t.filter fun e => n ≤ e.1).map fun e => (e.1 - n, e.2)) ++ (t.filter fun e => e.1 < n).map fun e => (e.1 + n, e.2)

/-- MSWAP: the banks with the updates still in flight (11 R287; 18 R443). -/
def execMswap (f : SwapForm) (s : State) := runOp s none f.g fun s =>
  s.mapCore s.me fun k =>
    { k with acc := swapTab 4096 k.acc, accTick := swapTab 1 k.accTick, foldTick := swapTab 1 k.foldTick,
             rpoison := (k.rpoison.filter fun e => e.1 < 4096) ++
               ((k.rpoison.filter fun e => 8192 ≤ e.1 && e.1 < 12288).map fun e => (e.1 - 4096, e.2)) ++
               ((k.rpoison.filter fun e => 4096 ≤ e.1 && e.1 < 8192).map fun e => (e.1 + 4096, e.2)) ++
               k.rpoison.filter fun e => 12288 ≤ e.1 }

/-- Cycles that an image of these parts freezes the core for (18 R445). -/
def imageCycles (parts : BitVec 6) : Nat := 64 * popcount (parts.extractLsb' 4 2) + popcount (parts.extractLsb' 0 4)

/-- The pieces of an image at its address register. -/
def imagePieces (s : State) (f : ImgForm) : List Piece := (imageBits f.parts).map fun b => partPiece s.me (readPrimS s s.me f.dest) b

/-- MSAVE (18 R444, R445). -/
def execMsave (f : ImgForm) (s : State) := runOp s (imageTrap s f) f.g fun s =>
  (issueAccess s (newAccess s (.save f) 1 1 (readPrimS s s.me f.dest) (imagePieces s f))).mapCore s.me fun k => { k with serviceLeft := imageCycles f.parts }

/-- MLOAD (18 R444, R445). -/
def execMload (f : ImgForm) (s : State) := runOp s (imageTrap s f) f.g fun s =>
  (issueAccess s (newAccess s (.image f) 1 1 (readPrimS s s.me f.dest) (imagePieces s f))).mapCore s.me fun k => { k with serviceLeft := imageCycles f.parts }

end Sys2Proof.Machine
end

