-- ==== Sys2Proof/Machine/Engine.lean ====
section
/-! DEFINITION. The E class: copy jobs, halyard instructions, stage queues, thread placement, tracing, static-mesh transfers and
the barrel's LIVE and MIGR (spec 19; 05 R106-R108; 08 R195, R196; 21 R475; 22 R479). -/

namespace Sys2Proof.Machine

/-! ### Operands, results and waits (19 R446) -/

/-- A register operand: a primary's is read at issue, and kept while the operation waits. -/
def eOperand (s : State) (r : BitVec 6) (kept : Word) : Word :=
  match s.cur.agent with
  | .prim c => if s.cur.retry then kept else readPrimS s c r
  | .thread c t => readX s c t r

/-- Operand A. -/
def eA (s : State) (r : BitVec 6) : Word := eOperand s r s.cur.opA
/-- Operand B. -/
def eB (s : State) (r : BitVec 6) : Word := eOperand s r s.cur.opB

/-- The primary's tick at the issue of the operation. -/
def eBorn (s : State) : Nat := if s.cur.retry then s.cur.born else (s.core s.me).tick

/-- The cycle of the operation's issue. -/
def eIssued (s : State) : Nat := if s.cur.retry then s.cur.issued else s.cycle

/-- The destination that an operation issued at tick born wrote down for d, or would. -/
def eDest (k : Core) (born : Nat) (d : BitVec 6) : Dest :=
  if k.pend.any fun p => p.born = born && p.dest = .s (d.toNat + 40) then .s (d.toNat + 40)
  else if k.pend.any fun p => p.born = born && p.dest = .s d.toNat then .s d.toNat
  else .s (physS k d.toNat)

/-- A result of a primary's E operation lands at the fourth active cycle after its issue. -/
def landE (s : State) (c : BitVec 10) (born : Nat) (d : BitVec 6) (v : Word) : State :=
  if d = 0 then s
  else s.mapCore c fun k =>
    let dest := eDest k born d
    { k with pend := (k.pend.filter fun p => !(p.dest = dest && p.born = born)) ++
        [{ dest := dest, val := v.setWidth 2048, born := born, due := born + 4, vflags := 0, mstat := 0 }] }

/-- Write result register d: a thread's at once, a primary's at bound 4. -/
def writeE (s : State) (d : BitVec 6) (v : Word) : State :=
  match s.cur.agent with
  | .prim c => landE s c (eBorn s) d v
  | .thread c t => writeX s c t d v

/-- The record of an operation that goes on after its issue. -/
def eRecord (s : State) (i : Instr) (a b : Word) : EWait :=
  { i := i, pc := s.cur.pc, scope := s.cur.scope, a := a, b := b, born := eBorn s, at_ := eIssued s, late := false }

/-- The operation waits: a primary freezes with JOBWAIT, a thread keeps its slot; it is performed again in the next cycle. -/
def waitE (s : State) (i : Instr) (a b : Word) : State :=
  match s.cur.agent with
  | .prim c => s.mapCore c fun k => { k with ewait := some (eRecord s i a b) }
  | .thread c t => s.mapThread c t fun th => { th with st := .engine, retry := s.cycle + 1 }

/-- Run an E operation: a primary's that is performed again after its issue has passed its checks. -/
def runE (s : State) (t : Option TrapInfo) (g : Guard) (body : State → State) : Host.Outcome State Fault Refusal :=
  match s.cur.agent with
  | .prim _ => if s.cur.retry then .next (body s) else runOp s t g body
  | .thread _ _ => runOp s t g body

/-- An operation-level check that a false guard passes. -/
def ifExecutes (s : State) (g : Guard) (t : Option TrapInfo) : Option TrapInfo := if executes s g then t else none

/-- Cluster of the performing agent. -/
def State.myCluster (s : State) : BitVec 6 := clusterOf s.me

/-- Context of the performing agent's occurrence. -/
def State.myCtx (s : State) : BitVec 6 :=
  match s.cur.agent with
  | .prim c => ctxOfCore s c
  | .thread c t => ctxOfThread s c t

/-- Occurrence of the performing agent. -/
def State.myOcc (s : State) : Option Nat :=
  match s.cur.agent with
  | .prim c => (s.core c).occ
  | .thread c t => if t = 7 then none else some (s.thread c t).occ

/-- Thread number of the performing agent, 8 for a primary. -/
def State.myThread (s : State) : BitVec 4 := waiterThread s.cur.agent

/-- An acquire by the performing agent at scope sc of what is kept under keys; a thread's also acts on its core's cache. -/
def acquireKeys (s : State) (sc : Nat) (keys : List Nat) : State :=
  match s.cur.agent with
  | .prim c => acquireWords s (.prim c) sc keys
  | .thread c t => threadAcquire s c (t.setWidth 4) sc keys

/-- The write-back that a thread's release makes first. -/
def releaseReady (s : State) (sc : Nat) : State :=
  match s.cur.agent with
  | .prim _ => s
  | .thread c _ => threadRelease s c sc

/-! ### Copy jobs (19 R448-R454) -/

/-- Key of the release that a cluster's job with a burgee makes at its end (08 R195). -/
def jobRelKey (cl burgee : Nat) : Nat := 2 ^ 59 + 65536 * cl + burgee
/-- Key of the release that the issue of the job in a slot makes (21 R475). -/
def jobIssueKey (cl j : Nat) : Nat := 2 ^ 59 + 2 ^ 30 + 64 * cl + j

/-- Job in slot j of a cluster. -/
def Cluster.job (k : Cluster) (j : Nat) : Job := tabGet .reset k.jobs j

/-- Put a job. -/
def setJob (s : State) (cl : BitVec 6) (j : Nat) (x : Job) : State :=
  s.mapCluster cl fun k => { k with jobs := tabPut .reset k.jobs j x }

/-- A job that has not finished. -/
def Job.unfinished (j : Job) : Bool := j.st = .queued || j.st = .running

/-- The slot for a new job (R451): a free one, or the one of the job that finished first; none to wait. -/
def jobSlot (k : Cluster) (barrel : Bool) : Option Nat :=
  let js := List.range 64
  if barrel && (js.filter fun j => (k.job j).unfinished && (k.job j).thread ≠ 8).length ≥ 48 then none
  else match js.find? fun j => (k.job j).st = .free with
    | some j => some j
    | none => (js.filter fun j => !(k.job j).unfinished).foldl (fun b j =>
        match b with
        | none => some j
        | some i => if (k.job j).seq < (k.job i).seq then some j else some i) none

/-- The issue traps of CPY (R451). -/
def cpyTrap (s : State) (f : E2Form) (virt : Bool) : Option TrapInfo :=
  let a := eA s f.a
  ifExecutes s f.g (if !virt && a.toNat ≥ 2 ^ 20 then some (addrTrap s .sprange a)
    else if a.toNat % 128 ≠ 0 then some (addrTrap s .misalign a) else none)

/-- The release of a primary's job issue is counted, once (21 R475). -/
def countIssue (s : State) (cl : BitVec 6) (j : Nat) : State :=
  let x := (s.cluster cl).job j
  if x.counted then s
  else setJob (releaseAt s (.prim x.core) 1 (jobIssueKey cl.toNat j)) cl j { x with counted := true }

/-- Every access before the issue of the job with the burgee in a.data2 has been performed. -/
def performJobRel (s : State) (c : BitVec 10) (j : Nat) (a : Access) : State :=
  let x := (s.cluster (clusterOf c)).job j
  if x.st ≠ .free && x.core = c && x.burgee = a.data2.setWidth 16 then countIssue s (clusterOf c) j else countRelease s (.prim c) 1

/-- CPY and CPY.v (R451; 21 R475): the job takes a slot and the next burgee; its issue is a release of the issuer. A primary's is
counted when its earlier accesses have been performed. -/
def issueJob (s : State) (i : Instr) (f : E2Form) (virt : Bool) : State :=
  let a := eA s f.a
  let cl := s.myCluster
  match jobSlot (s.cluster cl) (s.myThread ≠ 8) with
  | none => waitE s i a 0
  | some j =>
    let b := (s.cluster cl).nextBurgee
    let prim : Bool := s.myThread = 8
    let s := if prim then issueAccess s { newAccess s (.jobRel j) 6 6 0 [] with data2 := b.setWidth 64 }
      else releaseAt (releaseReady s 1) s.ag 1 (jobIssueKey cl.toNat j)
    let s := setJob s cl j { Job.reset with
      st := .queued, burgee := b, core := s.me, thread := s.myThread, ctx := s.myCtx, occ := s.myOcc.getD 0, virt := virt,
      desc := a, counted := !prim, ready := if prim then s.cycle + 7 else s.cycle + 6, born := eBorn s }
    -- what an earlier job of the same burgee has released is not this one's
    let s := s.mapMem fun m => { m with relInfo := tabPut [] m.relInfo (jobRelKey cl.toNat b.toNat) [] }
    finish (writeE (s.mapCluster cl fun k => { k with nextBurgee := b + 1 }) f.d (b.setWidth 64))

/-- CPY (R451). -/
def execCpy (f : E2Form) (s : State) := runE s (cpyTrap s f false) f.g fun s => issueJob s (.cpy f) f false
/-- CPY.v (R451). -/
def execCpyV (f : E2Form) (s : State) := runE s (cpyTrap s f true) f.g fun s => issueJob s (.cpyV f) f true

/-- The slot that a burgee of a context names (R452). -/
def findJob (k : Cluster) (x : BitVec 6) (b : BitVec 16) : Option Nat :=
  (List.range 64).find? fun j => (k.job j).st ≠ .free && (k.job j).ctx = x && (k.job j).burgee = b

/-- Code of a job state (Table Engine.4). -/
def JobState.code : JobState → Nat
  | .queued => 0
  | .running => 1
  | .done => 2
  | .faulted => 3
  | .cancelled => 4
  | .free => 5

/-- The status word of a job (R452). -/
def jobStatus (j : Job) : Word :=
  BitVec.ofNat 64 (j.st.code + 2 ^ 8 * (if j.st = .faulted then j.cause.toNat else 0) + 2 ^ 16 * min j.doneCnt (2 ^ 48 - 1))

/-- CPYQ, and CPYW that need not wait: DONE acquires, a finished job's slot is freed (R452). -/
def observeJob (s : State) (d : BitVec 6) (b : BitVec 16) : State :=
  let cl := s.myCluster
  match findJob (s.cluster cl) s.myCtx b with
  | none => finish (writeE s d 5)
  | some j =>
    let x := (s.cluster cl).job j
    let s := if x.st = .done && x.control.getLsbD 15 then acquireKeys s 4 [jobRelKey cl.toNat x.burgee.toNat] else s
    let s := if x.unfinished then s else setJob s cl j .reset
    finish (writeE s d (jobStatus x))

/-- CPYQ (R452). -/
def execCpyq (f : E2Form) (s : State) := runE s none f.g fun s => observeJob s f.d ((eA s f.a).setWidth 16)

/-- CPYW (R452; 22 R479): it waits while the job is queued or running. -/
def execCpyw (f : E2Form) (s : State) := runE s none f.g fun s =>
  let a := eA s f.a
  match findJob (s.cluster s.myCluster) s.myCtx (a.setWidth 16) with
  | some j => if ((s.cluster s.myCluster).job j).unfinished then waitE s (.cpyw f) a 0 else observeJob s f.d (a.setWidth 16)
  | none => observeJob s f.d (a.setWidth 16)

/-- CPYK (R452): it cancels a job that has not finished and reports the state it found. -/
def execCpyk (f : E2Form) (s : State) := runE s none f.g fun s =>
  let cl := s.myCluster
  match findJob (s.cluster cl) s.myCtx ((eA s f.a).setWidth 16) with
  | none => finish (writeE s f.d 5)
  | some j => finish (writeE (cancelJob s cl j) f.d (jobStatus ((s.cluster cl).job j)))

/-! ### Stage queues (19 R460, R461; 05 R106-R108) -/

/-- Queue j of the performing agent's occurrence in its cluster. -/
def stageQ (s : State) (j : Nat) : StageQ :=
  match s.myOcc with
  | some id => tabGet .reset (s.cluster s.myCluster).queues (32 * id + j)
  | none => .reset

/-- Change it. -/
def mapStageQ (s : State) (j : Nat) (f : StageQ → StageQ) : State :=
  match s.myOcc with
  | some id => s.mapCluster s.myCluster fun k =>
      { k with queues := tabPut .reset k.queues (32 * id + j) (f (tabGet .reset k.queues (32 * id + j))) }
  | none => s

/-- A queue after a put or a get, with the occupancy at the start of the cycle kept. -/
def StageQ.moved (q : StageQ) (cycle : Nat) : StageQ :=
  { q with mark := if q.mark.1 = cycle then q.mark else (cycle, q.tail - q.head) }

/-- The bytes of pool entry e (05 R106). -/
def poolPiece (s : State) (e : Nat) : Piece :=
  let cl := s.myCluster
  let cores := match s.myOcc.bind s.occ? with
    | some o => setBits o.cores 16
    | none => []
  { core := coreAt cl (BitVec.ofNat 4 (cores.getD (e / 512) 0)), off := BitVec.ofNat 20 (0xF8000 + 64 * (e % 512)), len := 64, pos := 0 }

/-- Fire the thresholds that the queue's occupancy now meets; each fires once. -/
def fireArms (s : State) (j : Nat) : State :=
  let q := stageQ s j
  let n := q.tail - q.head
  let hit (t : Threshold) : Bool := if t.high then n ≥ t.at_.toNat else n ≤ t.at_.toNat
  let s := mapStageQ s j fun q => { q with arms := q.arms.filter fun t => !hit t }
  (q.arms.filter hit).foldl (fun s t => queueFor s s.myOcc t.core (uiCause 5 j 0 n)) s

/-- The 64-byte buffer at an offset of the performing agent's core. -/
def sqBuffer (s : State) (off : Nat) : Piece := { core := s.me, off := BitVec.ofNat 20 off, len := 64, pos := 0 }

/-- What a stage-queue operation came to. -/
inductive SqRes where
  | ok (d : Nat) (s : State)
  | reserve
  | fail (f : AccFail)
  deriving DecidableEq, Repr

/-- SQPUT or SQGET on queue j with the buffer at off of the performing agent's core. -/
def sqPerform (s : State) (put : Bool) (j off : Nat) : SqRes :=
  let q := stageQ s j
  let a := s.ag
  let buf := sqBuffer s off
  if q.cap = 0 then .reserve
  else if put then
    if q.tail - q.head ≥ q.cap then .reserve
    else match pieceFail s a .read true true buf with
      | some f => .fail f
      | none =>
        let r := plainRead s a [buf]
        let s := syncWrite (releaseReady r.2 1) a true 1 r.1 (poolPiece s (q.base + q.tail % q.cap))
        let s := mapStageQ s j fun q => { q.moved s.cycle with tail := q.tail + 1 }
        .ok (q.tail + 1 - q.head) (fireArms s j)
  else if q.tail = q.head then .ok 0 s
  else
    let e := poolPiece s (q.base + q.head % q.cap)
    if e.poisoned s then .fail .uncorr
    else match pieceFail s a .write true false buf with
      | some f => .fail f
      | none =>
        let v := gatherPieces s [e]
        let s := plainWrite (acquireKeys s 1 e.words) a v [buf]
        let s := mapStageQ s j fun q => { q.moved s.cycle with head := q.head + 1 }
        .ok (q.tail - q.head) (fireArms s j)

/-- The issue traps of SQPUT and SQGET. -/
def sqTrap (s : State) (f : E3Form) : Option TrapInfo :=
  let b := eB s f.b
  ifExecutes s f.g (if b.toNat ≥ 2 ^ 20 || inPool s s.me b.toNat 64 then some (addrTrap s .sprange b)
    else if b.toNat % 64 ≠ 0 then some (addrTrap s .misalign b) else none)

/-- The QRESERVE trap of queue j at the bundle (05 R108). -/
def reserveTrap (bundle : BitVec 16) (j : Nat) : TrapInfo :=
  { cause := .qreserve, mask := BitVec.ofNat 8 (2 ^ Slot.e.bit), info := BitVec.ofNat 64 j, addr := bundle.setWidth 64 }

/-- Record an access trap of core c's primary (09 R231). -/
def pushTrap (s : State) (c : BitVec 10) (t : TrapInfo) : State := s.mapCore c fun k => { k with traps := k.traps ++ [t] }

/-- SQPUT and SQGET: a primary's at issue + 4, a thread's at once. -/
def sqOp (s : State) (f : E3Form) (put : Bool) : Host.Outcome State Fault Refusal :=
  runE s (sqTrap s f) f.g fun s =>
    let j := fieldOf (eA s f.a) 0 5
    let b := eB s f.b
    match s.cur.agent with
    | .prim _ => issueAccess s { newAccess s (.sq put (BitVec.ofNat 5 j)) 4 4 b [sqBuffer s b.toNat] with dest := destS s f.d }
    | .thread _ _ =>
      let q := stageQ s j
      -- a thread's operation waits while a primary holds a port that it needs (07 R155; R461)
      if portsBusy s [sqBuffer s b.toNat] (!put) || (q.cap ≠ 0 && portsBusy s [poolPiece s (q.base + (if put then q.tail else q.head) % q.cap)] put) then
        waitE s (if put then .sqput f else .sqget f) (eA s f.a) b
      else
      match sqPerform s put j b.toNat with
      | .ok d s => finish (writeE s f.d (BitVec.ofNat 64 d))
      | .reserve => takeTrap s (reserveTrap 0 j)
      | .fail e => failThread s e b

/-- SQPUT (R460). -/
def execSqput (f : E3Form) (s : State) := sqOp s f true
/-- SQGET (R460). -/
def execSqget (f : E3Form) (s : State) := sqOp s f false

/-- A primary's SQPUT or SQGET reaches its buffer's bank (R461). -/
def performSq (s : State) (c : BitVec 10) (a : Access) (put : Bool) (j : Nat) : State :=
  let s := { s with cur := { s.cur with agent := .prim c, slot := .e } }
  -- what precedes an SQPUT and is not performed yet precedes its release (08 R191, R196)
  let s := if put then lagAccesses s c fun e => e.precedes a else s
  match sqPerform s put j a.addr.toNat with
  | .ok d s => landAt s c a a.dest (BitVec.ofNat 2048 d)
  | .reserve => pushTrap s c (reserveTrap a.bundle j)
  | .fail e => failAccess s c a a.due e a.addr

/-- SQLEN: arm is the threshold's kind, if any (R460). -/
def sqlenOp (s : State) (f : E3Form) (arm : Option Bool) : Host.Outcome State Fault Refusal :=
  runE s none f.g fun s =>
    let j := fieldOf (eA s f.a) 0 5
    let q := stageQ s j
    if q.cap = 0 then
      match s.cur.agent with
      | .prim c => pushTrap s c (reserveTrap s.cur.pc j)
      | .thread _ _ => takeTrap s (reserveTrap 0 j)
    else
      let at_ : BitVec 16 := (eB s f.b).setWidth 16
      let s := writeE s f.d (BitVec.ofNat 64 (q.tail - q.head))
      finish (match arm with
        | none => s
        | some high =>
          let t : Threshold := { core := s.me, high := high, at_ := at_ }
          fireArms (mapStageQ s j fun q => { q with arms := (q.arms.filter fun u => u.core ≠ s.me) ++ [t] }) j)

/-- SQLEN fn 0. -/
def execSqlen (f : E3Form) (s : State) := sqlenOp s f none
/-- SQLEN fn 1: arm high. -/
def execSqlenArmHigh (f : E3Form) (s : State) := sqlenOp s f (some true)
/-- SQLEN fn 2: arm low. -/
def execSqlenArmLow (f : E3Form) (s : State) := sqlenOp s f (some false)

/-! ### Threads (19 R462) -/

/-- Key of the release that goes with a frame pointer (08 R187). -/
def frameKey (x : BitVec 6) (fp : Word) : Nat := 2 ^ 63 + 2 ^ 57 * x.toNat + fp.toNat % 2 ^ 57

/-- The frame pointer must be a multiple of 256. -/
def spawnTrap (s : State) (f : ESpawnForm) : Option TrapInfo :=
  let a := eA s f.a
  ifExecutes s f.g (if a.toNat % 256 ≠ 0 then some (addrTrap s .misalign a) else none)

/-- Where a frame lies for an access made for its thread (R484). -/
inductive FLook where
  | spad (p : Piece)
  | glob (x : BitVec 6) (va : Nat) (leaf : Word) (pa : Nat)
  | wait (s : State)
  | fail (cause : Cause)
  deriving DecidableEq, Repr

/-- Look a frame up for an access that waits as who. -/
def frameLook (s : State) (a : Ag) (x : BitVec 6) (fp : Nat) (kind : AccessKind) (who : Requester) (failed : Bool) : FLook :=
  if inAperture fp then
    let p : Piece := { core := apertureCore fp, off := BitVec.ofNat 20 (apertureOff fp), len := 256, pos := 0 }
    if inPool s p.core p.off.toNat 256 || !windowOk s a p.core (if kind = .read then .read else .write) p.off.toNat 256 then .fail .nack
    else if p.poisoned s then .fail .uncorr
    else .spad p
  else if fp ≥ 2 ^ 57 || failed then .fail .xlate
  else match look s x fp kind with
    | .hit leaf _ pa => if physPoisoned s pa 256 then .fail .uncorr else .glob x fp leaf pa
    | .wait perm => .wait (requestMiss s (homeSlice s x fp) x fp kind who perm).2

/-- Write parts of a frame that has been looked up. -/
def framePut (s : State) (a : Ag) (l : FLook) (parts : List (Nat × List Byte)) : State :=
  match l with
  | .spad p => parts.foldl (fun s e => plainWrite s a (leNat e.2) [{ p with off := p.off + BitVec.ofNat 20 e.1, len := e.2.length }]) s
  | .glob x va leaf pa => parts.foldl (fun s e => homeWriteAll s a x leaf false (va + e.1) (pa + e.1) e.2) s
  | _ => s

/-- Read 8 bytes of a frame that has been looked up. -/
def frameGet (s : State) (l : FLook) (off : Nat) : Nat :=
  match l with
  | .spad p => leNat (spadBytes s p.core (p.off.toNat + off) 8)
  | .glob _ _ _ pa => leNat (homeBytes s (pa + off) 8)
  | _ => 0

/-- The release write of STATE = READY of a frame that has been looked up, a synchronising write by agent a at scope 1 (19 R462; 08 R200). -/
def putReady (s : State) (a : Ag) (l : FLook) (key : Nat) : State :=
  match l with
  | .spad p => noteRelease (syncWrite s a true 1 0 { p with off := p.off + 21, len := 1 }) a 1 [key]
  | .glob x va leaf pa =>
    let s := countRelease s a 1
    let s := if pteUncached leaf then evictLine s pa else recallNear (holdLine s x leaf va pa) pa
    let s := wakePhys (physStore (dropReplicas s pa) (pteUncached leaf) (pa + 21) [0]) (pa + 21) 1
    noteRelease s a 1 (key :: physKeys (pa + 21) 1)
  | _ => s

/-- A thread's TSPAWN writes STATE through its core (10 R484): its own cached line goes home first. -/
def spawnWrite (s : State) (c : BitVec 10) (t : BitVec 3) (x : BitVec 6) (fp : Word) : FRes :=
  let a : Ag := .thread c (t.setWidth 4)
  if inAperture fp.toNat then
    match frameLook s a x fp.toNat .write (.thread c (t.setWidth 4)) false with
    | .fail w => .fail w
    | l => .ok (putReady s a l (frameKey x fp))
  else if fp.toNat ≥ 2 ^ 57 then .fail .xlate
  else match threadLook s c t x fp.toNat .write (fun leaf pa s =>
      if physPoisoned s pa 256 then .fail .uncorr else .ok 0 (putReady (dcDrop s c fp.toNat) a (.glob x fp.toNat leaf pa) (frameKey x fp))) with
    | .ok _ s => .ok s
    | .wait s => .wait s
    | .fail _ => .fail .uncorr
    | .xlate => .fail .xlate

/-- A pointer goes to the tail of core o's ready queue. -/
def appendReady (s : State) (o : BitVec 10) (e : Ready) : State := s.mapCore o fun k => { k with readyq := k.readyq ++ [e] }

/-- The oldest pointer to fp that core c's TSPAWN has appended and not yet made visible is changed. -/
def mapReady (c : BitVec 10) (fp : Word) (f : Ready → Ready) : List Ready → List Ready
  | [] => []
  | e :: r => if e.maker = some c && e.fp = fp then f e :: r else e :: mapReady c fp f r

/-- The release of a primary's TSPAWN is made for pointer fp in core o's queue, once every earlier access has been performed; then the pointer is
visible. While the frame's translation is awaited the pointer stays unseen (10 R484). A frame that cannot be written is left as it is, and the
slot that takes its pointer meets the failure (DESIGN CHOICE, log entry 114). -/
def makeReady (s : State) (c o : BitVec 10) (fp : Word) (failed : Bool) : State :=
  let x := ctxOfCore s c
  let show_ (s : State) : State := s.mapCore o fun k => { k with readyq := mapReady c fp (fun e => { e with maker := none, late := false }) k.readyq }
  match frameLook s (.prim c) x fp.toNat .write (.spawn o fp) failed with
  | .wait s => s.mapCore o fun k => { k with readyq := mapReady c fp (fun e => { e with late := true }) k.readyq }
  | .fail _ => show_ (releaseAt s (.prim c) 1 (frameKey x fp))
  | l => show_ (putReady s (.prim c) l (frameKey x fp))

/-- A primary's TSPAWN reaches its release. -/
def performSpawn (s : State) (c o : BitVec 10) (a : Access) : State := makeReady s c o a.addr false

/-- The pointers of core o's queue whose STATE could not be written yet are tried again. -/
def lateReady (s : State) (o : BitVec 10) : State :=
  ((s.core o).readyq.filter (·.late)).foldl (fun s e => match e.maker with
    | some c => makeReady s c o e.fp e.failed
    | none => s) s

/-- TSPAWN and TWAKE (R462): the pointer goes to the tail of the target's ready queue of 256. A thread's TSPAWN waits for its frame's
translation; a frame that it cannot write traps as one that TYIELD cannot (DESIGN CHOICE, log entry 114). -/
def spawnOp (s : State) (f : ESpawnForm) (wake : Bool) : Host.Outcome State Fault Refusal :=
  runE s (spawnTrap s f) f.g fun s =>
    let a := eA s f.a
    let o := if f.other then coreAt s.myCluster ((eB s f.b).setWidth 4) else s.me
    if (s.core o).occ ≠ s.myOcc || s.myOcc.isNone then finish (writeE s f.d 2)
    else if (s.core o).readyq.length ≥ 256 then finish (writeE s f.d 0)
    else if wake then finish (writeE (appendReady s o (.of a true)) f.d 1)
    else match s.cur.agent with
      | .prim c => finish (writeE (appendReady (issueAccess s (newAccess s (.spawn o) 6 6 a [])) o (.made a c)) f.d 1)
      | .thread c t => match spawnWrite (releaseReady s 1) c (t.setWidth 3) s.myCtx a with
        | .wait s => s
        | .fail w => takeTrap s (trapAt w a)
        | .ok s => finish (writeE (appendReady s o (.of a false)) f.d 1)

/-- TSPAWN (R462). -/
def execTspawn (f : ESpawnForm) (s : State) := spawnOp s f false
/-- TWAKE (R462): the frame is resumed only if its STATE is PARKED or TRAPPED when a slot takes the pointer. -/
def execTwake (f : ESpawnForm) (s : State) := spawnOp s f true

/-- Perform an access of core c's primary, but for what other cores must have done before it. -/
def performOne (s : State) (c : BitVec 10) (a : Access) : State :=
  match a.op with
  | .sq put q => performSq s c a put q.toNat
  | .jobRel j => performJobRel s c j a
  | .spawn o => performSpawn s c o a
  | _ => performX s c a

/-- Perform the accesses of a core that p selects, in their order, and the accesses they make that p selects, so often. -/
def settleFirst (s : State) (c : BitVec 10) (p : Access → Bool) : Nat → State
  | 0 => s
  | n + 1 =>
    let l := (s.core c).accs.filter p
    if l.isEmpty then s
    else settleFirst (l.foldl (fun s a => performOne (s.mapCore c fun k => { k with accs := dropAccess a k.accs }) c a) s) c p n

/-- The accesses of another participant that precede its bundle of the hoist whose release core c acquires now are performed, if a freeze has
stopped them (08 R194; DEDUCED, log entry 94). -/
def settleHoist (s : State) (c : BitVec 10) (a : Access) : State :=
  (((setBits a.data 1024).map (BitVec.ofNat 10)).filter (· ≠ c)).foldl (fun s p =>
    match (s.core p).accs.find? fun m => m.op = .hoistAcq with
    | some m => settleFirst s p (fun e => e.precedes m || e.op = .hoistRel) 4
    | none => s) s

/-- Perform any access of core c's primary. -/
def performAcc (s : State) (c : BitVec 10) (a : Access) : State :=
  match a.op with
  | .hoistAcq => performOne (settleHoist s c a) c a
  | _ => performOne s c a

/-- Perform accesses of a core in their order. -/
def performAll (s : State) (c : BitVec 10) (l : List Access) : State :=
  l.foldl (fun s a => performAcc (s.mapCore c fun k => { k with accs := dropAccess a k.accs }) c a) s

/-- Whether a primary waits in a PWAIT or an LRW that precedes an access of its own. -/
def waitsBefore (k : Core) (m : Access) : Bool :=
  (match k.pwait with
   | some p => p.acc.precedes m
   | none => false) ||
  match k.lrwWait with
  | some a => a.precedes m
  | none => false

/-- The state as it will be once the accesses of core c's primary up to a tick of issue have been performed. -/
def afterEarlier (s : State) (c : BitVec 10) (born : Nat) : State :=
  ((s.core c).accs.filter fun a => a.born ≤ born).foldl (fun s a => performAcc s c a) s

/-! ### Halyard instructions (19 R455-R459) -/

/-- What a halyard action came to: its results, or a wait. -/
inductive HRes where
  | done (r0 r1 : Word) (s : State)
  | wait (s : State)
  /-- the token list holds an uncorrectable error: the issuer takes an access trap at this offset -/
  | trap (offset : Word)
  deriving DecidableEq, Repr

/-- Status codes (Table Engine.6). -/
inductive HStatus where
  | ok | notLive | cursor | state | noInput | noSlot | faulted | invalid
  deriving DecidableEq, Repr

/-- Code of a status. -/
def HStatus.code : HStatus → Nat
  | .ok => 0
  | .notLive => 1
  | .cursor => 2
  | .state => 3
  | .noInput => 4
  | .noSlot => 5
  | .faulted => 6
  | .invalid => 7

/-- A result word (R455). -/
def halResult (st : HStatus) (v : Nat) : Word := BitVec.ofNat 64 (st.code * 2 ^ 56 + v % 2 ^ 56)

/-- A refusal: it changes nothing; the value of its result word is not stated (log entry 1). -/
def refuse (s : State) (st : HStatus) : HRes := .done (halResult st (Config.freeWord s.cur.born (runCode s s.me 5000)).toNat) 0 s

/-- Directory key of the halyard that operand A names (R455). -/
def halDir (s : State) (a : Word) : Nat := 4096 * s.myCtx.toNat + fieldOf a 0 12

/-- Key of the issuer's release toward the engine, per core. -/
def halIssueKey (c : BitVec 10) : Nat := 2 ^ 62 + c.toNat

/-- The engine acquires the issuer's release before its action, and releases its action to the issuer (08 R196). -/
def withEngine (s : State) (dir : Nat) (act : State → HRes) : HRes :=
  let e : Ag := .halyard s.myCluster
  match act (acquireWords s e 1 [halIssueKey s.me]) with
  | .done r0 r1 s => .done r0 r1 (acquireWords (releaseAt s e 1 (halRelKey dir)) s.ag 1 [halRelKey dir])
  | r => r

/-- Note a halyard instruction's results for the followers, and send them to its registers. -/
def deliverHal (s : State) (c : BitVec 10) (born : Nat) (d : BitVec 6) (two : Bool) (r0 r1 : Word) : State :=
  let s := landE s c born d r0
  let s := if two then landE s c born (d + 1) r1 else s
  s.mapCore c fun k => { k with hres := tabPut none (k.hres.filter fun e => born < e.1 + 64) born (some (r0, r1)) }

/-- Hold the place of a result that is still to be computed. -/
def placeE (s : State) (c : BitVec 10) (d : BitVec 6) : State := landE s c (s.core c).tick d 0

/-- A follower takes the guidon's results at its own bound (R447). -/
def followHal (s : State) (c : BitVec 10) (d : BitVec 6) (two : Bool) : State :=
  match tabGet none (s.core (guidonOf s c)).hres s.cur.gborn with
  | none => s
  | some r =>
    let s := landE s c (s.core c).tick d r.1
    if two then landE s c (s.core c).tick (d + 1) r.2 else s

/-- The access trap of a poisoned token list. -/
def tokenTrap (s : State) (c : BitVec 10) (d : BitVec 6) (off : Word) : State :=
  let s := s.mapCore c fun k => { k with pend := k.pend.filter fun p => !(p.born = s.cur.born && p.dest = eDest k s.cur.born d) }
  failPrim s c s.cur.pc .e .uncorr off

/-- An action that must wait in its engine cycle stays the first of its core's, which freezes with JOBWAIT: its result has a bound. -/
def waitHal (s : State) (c : BitVec 10) (i : Instr) (a b : Word) : State :=
  s.mapCore c fun k => { k with hacts := { eRecord s i a b with at_ := s.cycle - 1, late := true } :: k.hacts }

/-- A halyard instruction (R447, R455): the guidon's issue is a release and sends the action to its engine cycle, with a
freeze if it waits; a follower takes the guidon's results. -/
def halOp (s : State) (i : Instr) (t : Option TrapInfo) (g : Guard) (d : BitVec 6) (two waits : Bool) (ra rb : BitVec 6)
    (act : State → Nat → Word → HRes) : Host.Outcome State Fault Refusal :=
  runE s t g fun s =>
    match s.cur.agent with
    | .thread _ _ => s
    | .prim c =>
      let a := eA s ra
      let b := eB s rb
      if !isGuidon s c then followHal s c d two
      else if !s.cur.retry then
        let s := earlyRelease s c 1 (halIssueKey c)
        if waits then waitE s i a b
        else
          let s := placeE s c d
          s.mapCore c fun k => { k with hacts := k.hacts ++ [eRecord s i a b] }
      else if waits && (s.cycle < s.cur.issued + 2 || !(s.core c).hacts.isEmpty || (s.core c).pwait.isSome || (s.core c).lrwWait.isSome) then waitE s i a b
      else
        -- the freeze has stopped the accesses that precede a halyard instruction that waits: the engine sees them (DEDUCED, log entry 94)
        let s := if waits then { settleFirst s c (fun a => a.born ≤ s.cur.born) 4 with cur := s.cur } else s
        let dir := halDir s a
        match withEngine s dir fun s => act s dir b with
        | .done r0 r1 t => deliverHal t c s.cur.born d two r0 r1
        | .wait s => if waits then waitE s i a b else waitHal s c i a b
        | .trap off => tokenTrap s c d off

/-- Poison that an access of the engine meets is counted where it is consumed (07 R180; log entry 92). -/
def countEngine (s : State) (dir : Nat) (l : List (Nat × Nat × AccessKind)) : State :=
  if anyPoison s dir (l.filter fun e => e.2.2 ≠ .write) then countUncorr s (quadOf s.me) else s

/-- Go on when the engine can make its accesses; a failed one makes the halyard FAULTED (06 R152). -/
def whenReady (s : State) (dir : Nat) (needs : List (Nat × Nat × AccessKind)) (k : State → HRes) : HRes :=
  match halReady s dir needs with
  | .ok => k (halHold s dir needs)
  | .wait s => .wait s
  | .fail => refuse (failHal s dir needs) .faulted

/-- The common refusals of the cursor actions (R455). -/
def whenLive (s : State) (dir : Nat) (k : Hal → HRes) : HRes :=
  let h := s.halAt dir
  if h.st = .faulted then refuse s .faulted
  else if h.st ≠ .live || h.bound ≠ some s.me then refuse s .notLive
  else k h

/-- T rises to t; TMAX keeps its largest value (06 R131). -/
def raiseT (h : Hal) (t : Nat) : Hal := { h with t := BitVec.ofNat 64 t, tmax := BitVec.ofNat 64 (max h.tmax.toNat t) }

/-- HTENT at its engine cycle (R458). -/
def actHtent (s : State) (dir : Nat) (b : Word) : HRes :=
  whenLive s dir fun h =>
    let n := b.toNat
    let t := h.g.toNat + n
    if n > 1024 || t < h.t.toNat || t > h.p.toNat + h.kvcap.toNat || t ≥ 2 ^ 48 then refuse s .cursor
    else .done (halResult .ok t) 0 (s.mapHalKey dir fun h => raiseT h t)

/-- HTENT (R458). -/
def execHtent (f : E3Form) (s : State) := halOp s (.htent f) none f.g f.d false false f.a f.b actHtent

/-- The issue traps of HCOMMIT, the guidon's alone (R458). -/
def hcommitTrap (s : State) (f : E3Form) : Option TrapInfo :=
  let b := eB s f.b
  let off := fieldOf b 0 20
  let n := 4 * fieldOf b 32 11
  ifExecutes s f.g (if !isGuidon s s.me then none
    else if off + n > 2 ^ 20 || (n ≠ 0 && inPool s s.me off n) then some (addrTrap s .sprange (BitVec.ofNat 64 off))
    else if off % 4 ≠ 0 then some (addrTrap s .misalign (BitVec.ofNat 64 off)) else none)

/-- HCOMMIT at its engine cycle: the list is read from the issuing core (R458), as the issuer's earlier accesses leave it, those on their
way included (R455; log entry 93). -/
def actHcommit (s : State) (dir : Nat) (b : Word) : HRes :=
  whenLive s dir fun h =>
    let off := fieldOf b 0 20
    let n := fieldOf b 32 11
    if fieldOf b 20 12 ≠ 0 || fieldOf b 43 21 ≠ 0 || n > 1024 || h.g.toNat + n > h.t.toNat then refuse s .cursor
    else
      let p : Piece := { core := s.me, off := BitVec.ofNat 20 off, len := 4 * n, pos := 0 }
      let seen := afterEarlier s s.me s.cur.born
      if n ≠ 0 && p.poisoned seen then .trap (BitVec.ofNat 64 off)
      -- a race of the engine's read of the list makes the halyard FAULTED (08 R200, R204)
      else if n ≠ 0 && (racingTag seen (.halyard s.myCluster) p).isSome then refuse (faultHal s dir) .faulted
      else whenReady s dir (commitNeeds h n) fun s =>
        let toks := (List.range n).map fun i => leNat (spadBytes seen s.me (off + 4 * i) 4)
        let s := commitTokens s dir none toks
        .done (halResult .ok (s.halAt dir).g.toNat) 0 s

/-- HCOMMIT (R458). -/
def execHcommit (f : E3Form) (s : State) := halOp s (.hcommit f) (hcommitTrap s f) f.g f.d false false f.a f.b actHcommit

/-- A cut that has been asked for: wait until every slice has answered, then k (R459). -/
def afterCut (s : State) (dir : Nat) (w : CutWait) (k : State → HRes) : HRes :=
  if w.ended then k (s.mapHalKey dir fun h => { h with cut := none }) else .wait s

/-- HFRAME from its engine cycle on (R458; 06 R131, R150): a refused one has cut nothing. -/
def actHframe (s : State) (dir : Nat) (b : Word) : HRes :=
  whenLive s dir fun h =>
    let va := queueVa h h.i.toNat
    let commit (s : State) : HRes :=
      whenReady s dir ((va, 256, .read) :: commitNeeds (s.halAt dir) (min b.toNat 56)) fun s =>
        let v := halRead s dir va 256
        let n := min b.toNat ((frameHdr v).len / 4)
        let toks := (List.range n).map fun i => recField v (32 + 4 * i) 4
        let s := commitTokens s dir (some (frameHdr v).src) toks
        let s := s.mapHalKey dir fun h => { raiseT h h.g.toNat with i := h.i + 1 }
        .done (halResult .ok (n * 2 ^ 48 + (s.halAt dir).g.toNat % 2 ^ 48)) 0 s
    match h.cut with
    | some w => afterCut s dir w commit
    | none =>
      if b.toNat > 56 then refuse s .cursor
      else if h.i.toNat ≥ h.a.toNat then refuse s .noInput
      else whenReady s dir [(va, 256, .read)] fun s =>
        let g := h.g.toNat + min b.toNat ((frameHdr (halRead s dir va 256)).len / 4)
        if g > h.p.toNat + h.kvcap.toNat || max h.tmax.toNat g ≥ 2 ^ 48 then refuse s .cursor
        else if h.t.toNat > h.g.toNat then .wait (cutAction s dir true)
        else commit s

/-- HFRAME (R458): it waits through its engine cycle. -/
def execHframe (f : E3Form) (s : State) := halOp s (.hframe f) none f.g f.d false true f.a f.b actHframe

/-- HCUT from its engine cycle on (R459). -/
def actHcut (tentative : Bool) (s : State) (dir : Nat) (_ : Word) : HRes :=
  whenLive s dir fun h =>
    match h.cut with
    | some w => afterCut s dir w fun s => .done (halResult .ok w.r0.toNat) w.r1 s
    | none =>
      if cutBelow h tentative then refuse s .cursor
      else whenReady s dir (cutNeeds h tentative) fun s => .wait (cutAction s dir tentative)

/-- HCUT's d must not be s31 or s63 (R459). -/
def hcutTrap (s : State) (f : E2Form) : Option TrapInfo := if f.d = 31 ∨ f.d = 63 then some (bundleTrap s .illop 0) else none

/-- HCUT (R459). -/
def execHcut (f : E2Form) (s : State) := halOp s (.hcut f) (hcutTrap s f) f.g f.d true true f.a 0 (actHcut false)
/-- HCUT.t (R459). -/
def execHcutT (f : E2Form) (s : State) := halOp s (.hcutT f) (hcutTrap s f) f.g f.d true true f.a 0 (actHcut true)

/-- HCKPT at its engine cycle (06 R148). -/
def actHckpt (s : State) (dir : Nat) (b : Word) : HRes :=
  whenLive s dir fun h =>
    let c := 2 ^ h.cklg.toNat
    if b.toNat % c ≠ 0 || b.toNat > h.g.toNat || !(h.lastck = allOnes64 || h.lastck.toNat < b.toNat) then refuse s .cursor
    else
      let j := b.toNat / c % h.ckcount.toNat
      .done (halResult .ok b.toNat) 0 (s.mapHalKey dir fun h =>
        { h with ckvalid := h.ckvalid ||| BitVec.ofNat 64 (2 ^ j), lastck := b, ckpos := tabPut allOnes64 h.ckpos j b })

/-- HCKPT (R458). -/
def execHckpt (f : E3Form) (s : State) := halOp s (.hckpt f) none f.g f.d false false f.a f.b actHckpt

/-- HPLAY at its engine cycle; the result is P (R458; 06 R139). -/
def actHplay (set : Hal → Word → Hal) (s : State) (dir : Nat) (b : Word) : HRes :=
  whenLive s dir fun h => .done (halResult .ok h.p.toNat) 0 (s.mapHalKey dir fun h => set h b)

/-- HPLAY fn 0: HOLD. -/
def execHplayHold (f : E3Form) (s : State) :=
  halOp s (.hplayHold f) none f.g f.d false false f.a f.b (actHplay fun h b => { h with mode := putField h.mode 2 1 (b.toNat % 2) })
/-- HPLAY fn 1: PLAYSRC. -/
def execHplaySource (f : E3Form) (s : State) :=
  halOp s (.hplaySource f) none f.g f.d false false f.a f.b (actHplay fun h b => { h with mode := putField h.mode 1 1 (b.toNat % 2) })
/-- HPLAY fn 2: HORIZON never decreases. -/
def execHplayHorizon (f : E3Form) (s : State) :=
  halOp s (.hplayHorizon f) none f.g f.d false false f.a f.b
    (actHplay fun h b => { h with horizon := if h.horizon.toNat < b.toNat then b else h.horizon })

/-! ### HBIND (19 R456; 06 R133, R151) -/

/-- Values read line by line. -/
def halReadLines (s : State) (dir va : Nat) : Nat → Nat
  | 0 => 0
  | n + 1 => halRead s dir va 64 + 2 ^ 512 * halReadLines s dir (va + 64) n

/-- The 64-byte reads of a KV map. -/
def kvNeeds (h : Hal) : List (Nat × Nat × AccessKind) :=
  (List.range (ceilDiv (16 * h.kvlayers.toNat) 64)).map fun i => (h.kvtab.toNat + 64 * i, 64, .read)

/-- A failed open: the halyard stays CLOSED. -/
def openFailed (s : State) (dir : Nat) : HRes := .done (halResult .invalid 0) 0 (s.mapHalKey dir fun h => { h with xfail := false })

/-- Open with the record's value and its fields read: the KV map is read and checked, and the record written. -/
def openWith (s : State) (dir : Nat) (h : Hal) (addr : Word) : HRes :=
  match halReady s dir (kvNeeds h) with
  | .wait s => .wait s
  | .fail =>
    -- the halyard is FAULTED with the record's own masks and address (06 R152)
    if anyPoison s dir (kvNeeds h) then
      let s := (countEngine s dir (kvNeeds h)).mapHalKey dir fun _ => { h with addr := addr, bound := none, owner := none }
      .done (halResult .faulted 0) 0 (faultHal s dir)
    else openFailed s dir
  | .ok =>
    let s := halHold s dir (kvNeeds h)
    let m := halReadLines s dir h.kvtab.toNat (ceilDiv (16 * h.kvlayers.toNat) 64)
    if !kvOk m h.kvlayers.toNat then openFailed s dir
    else
      let first := h.tmax = 0
      let valid := if first then 1 else if h.lastck = allOnes64 then 0 else h.ckvalid
      let h := { h with st := .parked, addr := addr, kv := kvOf m h.kvlayers.toNat, lastck := if first then 0 else h.lastck
                        ckvalid := valid, bound := none, owner := none, cut := none, xfail := false, uncut := if first then [] else h.uncut }
      let kept := (s.halAt dir).ckpos
      let s := s.mapHalKey dir fun _ => { h with ckpos := if first then [(0, 0)] else ckPositions h kept }
      .done (halResult .ok 0) 0 (writeRecord s dir (.halyard s.myCluster))

/-- A record is read at system scope: its lines leave their home slices for memory first (07 R172). -/
def dropRecordLines (s : State) (dir va : Nat) : State :=
  match look s (halCtx dir) va .read with
  | .hit _ _ pa => if inAperture va then s else (linesOf pa 256).foldl evictLine s
  | .wait _ => s

/-- HBIND open: the record is read with acquire at system scope (R456). -/
def actOpen (s : State) (dir : Nat) (b : Word) : HRes :=
  let h := s.halAt dir
  if h.st = .faulted then .done (halResult .faulted 0) 0 s
  else if b.toNat % 256 ≠ 0 then .done (halResult .invalid 0) 0 s
  else if h.st ≠ .closed then .done (halResult .state 0) 0 s
  else match halCheck false s dir [(b.toNat, 256, .read), (b.toNat, 256, .write)] with
    | .wait s => .wait s
    | .fail =>
      let l := [(b.toNat, 256, .read)]
      if anyPoison s dir l then .done (halResult .faulted 0) 0 (faultHal ((countEngine s dir l).mapHalKey dir fun h => { h with addr := b, evpmask := 0 }) dir)
      else openFailed s dir
    | .ok =>
      let s := acquireWords s (.halyard s.myCluster) 4 (recordKeys s dir b.toNat .read)
      let s := dropRecordLines s dir b.toNat
      let v := halRead s dir b.toNat 256
      let h := halOfRecord h v
      if recordClean v && recordOk h then openWith s dir h b else openFailed s dir

/-- HBIND open. -/
def execHbindOpen (f : E3Form) (s : State) := halOp s (.hbindOpen f) none f.g f.d false true f.a f.b actOpen

/-- HBIND bind: to the issuing gang's guidon (R456; 22 R478). -/
def actBind (s : State) (dir : Nat) (_ : Word) : HRes :=
  let h := s.halAt dir
  let cl := s.myCluster
  let no (st : HStatus) : HRes := .done (halResult st 0) 0 s
  if h.st = .faulted then no .faulted
  else if h.st = .closed || apertureElsewhere h cl then no .state
  else if liveIn s cl dir ≥ 64 then no .noSlot
  else match halReady s dir (bindNeeds s dir) with
    | .wait s => .wait s
    | .fail => .done (halResult .faulted 0) 0 (failHal s dir (bindNeeds s dir))
    | .ok => .done (halResult .ok 0) 0 (bindHal (halHold s dir (bindNeeds s dir)) dir s.me s.myOcc)

/-- HBIND bind. -/
def execHbindBind (f : E2Form) (s : State) := halOp s (.hbindBind f) none f.g f.d false true f.a 0 actBind

/-- HBIND park (R456). -/
def actPark (s : State) (dir : Nat) (_ : Word) : HRes :=
  let h := s.halAt dir
  if h.st = .faulted then .done (halResult .faulted 0) 0 s
  else if h.st ≠ .live then .done (halResult .state 0) 0 s
  else match recordReady s dir with
    | .wait s => .wait s
    | .fail => .done (halResult .faulted 0) 0 (faultHal s dir)
    | .ok => .done (halResult .ok 0) 0 (parkHal s dir)

/-- HBIND park. -/
def execHbindPark (f : E2Form) (s : State) := halOp s (.hbindPark f) none f.g f.d false true f.a 0 actPark

/-- HBIND close, from any state (R456). -/
def actClose (s : State) (dir : Nat) (_ : Word) : HRes :=
  let h := s.halAt dir
  match (if h.st = .closed then .ok else recordReady s dir) with
  | .wait s => .wait s
  | _ => .done (halResult .ok 0) 0 (closeHal s dir)

/-- HBIND close. -/
def execHbindClose (f : E2Form) (s : State) := halOp s (.hbindClose f) none f.g f.d false true f.a 0 actClose

/-! ### HREAD (19 R457) -/

/-- The field of Table Engine.7 in a record's value. -/
def hreadField (v code : Nat) : Word :=
  BitVec.ofNat 64 (match code with
    | 0 => recField v 0 8
    | 1 => recField v 8 8
    | 2 => recField v 16 8
    | 3 => recField v 24 8
    | 4 => recField v 32 8
    | 5 => recField v 40 8
    | 6 => recField v 48 8
    | 7 => recField v 56 8
    | 8 => recField v 168 8
    | 9 => recField v 176 8
    | 10 => recField v 149 1 + 2 ^ 16 * recField v 184 2
    | 11 => recField v 152 4
    | 12 => recField v 156 4
    | 13 => recField v 160 4
    | _ => recField v 192 8)

/-- A field code above 14 raises ILLOP. -/
def hreadTrap (s : State) (f : HreadForm) : Option TrapInfo := if f.c.toNat > 14 then some (bundleTrap s .illop 0) else none

/-- HREAD's value, once it can be had: the engine's, or the record's for a halyard that is not live. A record that cannot be
read gives no stated value (log entry 1). -/
def hreadValue (s : State) (i : Instr) (f : HreadForm) (a : Word) : State :=
  let dir := halDir s a
  let h := s.halAt dir
  let give (v : Word) (sc : Nat) (s : State) : State :=
    finish (writeE (acquireKeys s sc (halRelKey dir :: if sc = 4 then recordKeys s dir h.addr.toNat .read else [])) f.d v)
  if h.st = .live then give (hreadField (leNat (recordBytes h (halNum dir))) f.c.toNat) 1 s
  else match halCheck false s dir [(h.addr.toNat, 256, .read)] with
    | .ok =>
      let s := dropRecordLines s dir h.addr.toNat
      give (hreadField (halRead s dir h.addr.toNat 256) f.c.toNat) 4 s
    | .wait s => waitE s i a 0
    | .fail => give ((s.free (freeCode s.me 5001)).setWidth 64) 4 ((countEngine s dir [(h.addr.toNat, 256, .read)]).mapHalKey dir fun h => { h with xfail := false })

/-- HREAD of either agent: a halyard live in the issuer's cluster answers without a wait, a primary's at the engine cycle. -/
def hreadOp (s : State) (i : Instr) (f : HreadForm) : State :=
  let a := eA s f.a
  let h := s.halAt (halDir s a)
  let own : Bool := h.st = .live && (h.bound.map clusterOf) = some s.myCluster
  match s.cur.agent with
  | .prim c =>
    if s.cur.retry then (if s.cycle < s.cur.issued + 2 then waitE s i a 0 else hreadValue s i f a)
    else if own then
      let s := placeE s c f.d
      s.mapCore c fun k => { k with hacts := k.hacts ++ [eRecord s i a 0] }
    else waitE s i a 0
  | .thread c t => if own || (s.thread c t).st = .engine then hreadValue s i f a else waitE s i a 0

/-- HREAD (R457). -/
def execHread (f : HreadForm) (s : State) := runE s (hreadTrap s f) f.g fun s => hreadOp s (.hread f) f

/-! ### Tracing (19 R463; 03 R69, R70) -/

/-- Write a trace record to quadrant q's ring: NOW, source, kind, context and payload. While EN is 0, and in STOP mode on a full
ring, it is discarded; in WRAP mode the oldest record goes; each counts as lost. -/
def traceRecord (s : State) (q : BitVec 2) (source kind : Nat) (x : BitVec 6) (payload : Nat) : State :=
  let t := s.traceQ q
  let n := tabGet 0 t.seq source
  let size := 2 ^ t.size.toNat
  let s := s.mapTrace q fun t => { t with seq := tabPut 0 t.seq source (n + 1) }
  if !t.en || (t.stop && t.used + 32 > size) then s.mapTrace q fun t => { t with lost := satInc t.lost }
  else
    let bytes := leBytes 8 s.now ++ leBytes 2 source ++ leBytes 1 kind ++ leBytes 1 x.toNat ++ leBytes 4 n.toNat ++ leBytes 16 payload
    let s := physStore s true (t.base.toNat + t.head.toNat % size) bytes
    s.mapTrace q fun t =>
      { t with head := BitVec.ofNat 64 ((t.head.toNat + 32) % size), used := min (t.used + 32) size,
               lost := if t.used + 32 > size then satInc t.lost else t.lost }

/-- TRACE (R463), the one writer of trace records: no chapter lists an event of source kinds 2 to 7 (DESIGN CHOICE, log entry 97). -/
def execTrace (f : E3Form) (s : State) := runE s none f.g fun s =>
  let n := s.me.toNat % 256
  let source := match s.cur.agent with
    | .prim _ => n
    | .thread _ t => 0x1000 + 8 * n + t.toNat
  finish (traceRecord s (quadOf s.me) source (fieldOf (eA s f.a) 0 8) s.myCtx
    (payload2 (eOperand s f.d 0).toNat (eB s f.b).toNat))

/-! ### The static mesh (19 R464, R465; 07 R159, R162) -/

/-- The router program of the core's launch. -/
def routerOf (s : State) (c : BitVec 10) : Option Router := ((s.core c).occ.bind s.occ?).bind fun o => o.router

/-- The phase of a router program at a cycle. -/
def Router.phaseAt (r : Router) (cycle : Nat) : Nat := (r.phase + cycle - r.at_) % r.period

/-- A ROUTEMISS trap: channel and phase. -/
def routeMiss (s : State) (ch : BitVec 6) : TrapInfo :=
  let ph := match routerOf s s.me with
    | some r => r.phaseAt s.cycle
    | none => 0
  bundleTrap s .routemiss (BitVec.ofNat 64 (ch.toNat + 2 ^ 16 * ph))

/-- Whether the router holds an injection entry for the core and channel at a phase. -/
def injects (r : Router) (c : BitVec 10) (ch : BitVec 6) (phase : Nat) : Bool :=
  r.entries.any fun e => e.router = clusterOf c && e.inp = 4 && e.core = memberOf c && e.chan = ch && e.phase.toNat = phase

/-- VSEND raises ROUTEMISS without its four injection entries, or while its channel still injects (R464). -/
def vsendTrap (s : State) (f : MeshForm) : Option TrapInfo :=
  ifExecutes s f.g (match routerOf s s.me with
    | none => some (routeMiss s f.ch)
    | some r =>
      if (List.range 4).all (fun b => injects r s.me f.ch ((r.phaseAt s.cycle + 1 + b) % r.period)) &&
          !(s.core s.me).inject.any fun j => j.ch = f.ch then none
      else some (routeMiss s f.ch))

/-- VSEND (R464): the vector is read now; its beats are injected in the next four cycles. -/
def execVsend (f : MeshForm) (s : State) := runE s (vsendTrap s f) f.g fun s =>
  let ph := match routerOf s s.me with
    | some r => (r.phaseAt s.cycle + 1) % r.period
    | none => 0
  s.mapCore s.me fun k => { k with inject := k.inject ++ [{ ch := f.ch, val := readV s s.me f.v, sent := 0, phase := ph }] }

/-- The receive buffer of a channel. -/
def recvBuf (k : Core) (ch : BitVec 6) : List (BitVec 512) := tabGet [] k.recv ch.toNat

/-- VRECV raises ROUTEMISS with fewer than four beats or after an overrun (R465). -/
def vrecvTrap (s : State) (f : MeshForm) : Option TrapInfo :=
  let k := s.core s.me
  ifExecutes s f.g (if (recvBuf k f.ch).length < 4 || k.ovf.getLsbD f.ch.toNat then some (routeMiss s f.ch) else none)

/-- Empty a channel's receive buffer and clear its OVER flag. -/
def clearRecv (s : State) (c : BitVec 10) (ch : BitVec 6) : State :=
  s.mapCore c fun k => { k with recv := tabPut [] k.recv ch.toNat [], ovf := putField k.ovf ch.toNat 1 0 }

/-- The vector of four beats. -/
def beatsVector (l : List (BitVec 512)) : Lanes :=
  (l.getD 3 0) ++ ((l.getD 2 0) ++ ((l.getD 1 0) ++ (l.getD 0 0 : BitVec 512) : BitVec 1024) : BitVec 1536)

/-- VRECV (R465): a missing vector also clears OVER and the buffer. -/
def execVrecv (f : MeshForm) (s : State) : Host.Outcome State Fault Refusal :=
  match vrecvTrap s f with
  | some t => .next (clearRecv (takeTrap s { t with mask := trapMask s }) s.me f.ch)
  | none => runE s none f.g fun s =>
    clearRecv (writeV s s.me f.v (beatsVector (recvBuf (s.core s.me) f.ch)) 4) s.me f.ch

/-! ### LIVE and MIGR (19 R467) -/

/-- The mask of LIVE. -/
def liveMask (s : State) (f : LiveForm) : Half := (readB s f.b).setWidth 32 &&& 0xFFFFFFFE

/-- A live mask of more than 29 registers raises ILLOP. -/
def liveTrap (s : State) (f : LiveForm) : Option TrapInfo :=
  ifExecutes s f.g (if (liveRegs (liveMask s f)).length > 29 then some (bundleTrap s .illop 0) else none)

/-- LIVE (R467). -/
def execLive (f : LiveForm) (s : State) := runE s (liveTrap s f) f.g fun s =>
  match s.cur.agent with
  | .prim _ => s
  | .thread c t => finish (s.mapThread c t fun th => { th with live := liveMask s f })

/-- A core number above 1,023 raises SPRANGE. -/
def migrTrap (s : State) (f : MigrForm) : Option TrapInfo :=
  let a := eA s f.a
  ifExecutes s f.g (if a.toNat ≥ 1024 then some (addrTrap s .sprange a) else none)

/-- MIGR (R467; 10 R261): to the thread's own core it does nothing. -/
def execMigr (f : MigrForm) (s : State) := runE s (migrTrap s f) f.g fun s =>
  match s.cur.agent with
  | .prim _ => s
  | .thread c t =>
    let o : BitVec 10 := (eA s f.a).setWidth 10
    if o = c then finish s else departTo s c t o true (readMask [f.a])

end Sys2Proof.Machine
end

