-- ==== Sys2Proof/Machine/Barrel.lean ====
section
/-! DEFINITION. The G class: jumps, sleeps, yields, exits, system calls and software traps of a barrel thread (15 R383;
19 R468; 10 R256-R258, R484). -/

namespace Sys2Proof.Machine

/-! ### Jumps (15 R383; 10 R254) -/

/-- Whether an instruction cache holds the line of va. -/
def icHas (k : Core) (va : Nat) : Bool := k.icache.any fun d => d.line = va / 64

/-- What the check of a jump's target came to. -/
inductive JumpRes where
  | go (s : State)
  | wait (s : State)
  | trap (t : TrapInfo)
  deriving DecidableEq, Repr

/-- Check a target: range, alignment, and the translation that its fetch will use; thread 7 runs in firmware memory. -/
def jumpReady (s : State) (c : BitVec 10) (t : BitVec 3) (target : Word) : JumpRes :=
  if target.toNat ≥ 2 ^ 57 then .trap (trapAt .sprange target)
  else if target.toNat % 8 ≠ 0 then .trap (trapAt .misalign target)
  else if t = 7 || icHas (s.core c) target.toNat then .go s
  else match threadLook s c t (ctxOfThread s c t) target.toNat .image (fun _ _ s => .ok 0 s) with
    | .ok _ s => .go s
    | .wait s => .wait s
    | .fail _ => .go s
    | .xlate => .trap (trapAt .xlate target)

/-- A barrel jump: it traps or waits at the jump, before its link is written. -/
def jumpOp (s : State) (target : Word) (link : Option (BitVec 6)) : State :=
  match s.cur.agent with
  | .prim _ => s
  | .thread c t =>
    match jumpReady s c t target with
    | .trap x => takeTrap s x
    | .wait s => s
    | .go s =>
      let back : Word := ((s.thread c t).pc + 8).setWidth 64
      jumpTo (match link with
        | some d => writeX s c t d back
        | none => s) target

/-- PC of the performing thread. -/
def threadPc (s : State) : Word :=
  match s.cur.agent with
  | .prim _ => 0
  | .thread c t => (s.thread c t).pc.setWidth 64

/-- A relative target: W(PC + 8 × SVAL(SXT(imm, 32))). -/
def relTarget (s : State) (off : BitVec 32) : Word := threadPc s + 8 * off.signExtend 64

/-- JMP. -/
def execJmp (f : JmpForm) (s : State) := runOp s none f.g fun s => jumpOp s (relTarget s f.off) none
/-- JR. -/
def execJr (f : JrForm) (s : State) : Host.Outcome State Fault Refusal := .next (jumpOp s (readR s f.a) none)
/-- JAL. -/
def execJal (f : JalForm) (s : State) : Host.Outcome State Fault Refusal := .next (jumpOp s (relTarget s f.off) (some f.d))
/-- JALR: xa is read before xd is written. -/
def execJalr (f : JalrForm) (s : State) : Host.Outcome State Fault Refusal := .next (jumpOp s (readR s f.a) (some f.d))

/-! ### Sleeps (19 R468) -/

/-- SLEEPU: no sleep if the instant has passed or the duration is not positive. -/
def execSleepu (f : SleepForm) (s : State) : Host.Outcome State Fault Refusal :=
  let wake : Option Word := match f.t with
    | .imm v => if v.toInt ≤ 0 then none else some (s.time.now + v.signExtend 64)
    | b => if (readB s b).toNat ≤ s.now then none else some (readB s b)
  .next (match wake, s.cur.agent with
    | some w, .thread c t => (finish s).mapThread c t fun th => { th with st := .sleep w }
    | _, _ => finish s)

/-! ### Yields, exits and system calls (19 R468; 10 R258, R484; 08 R187) -/

/-- Save the performing thread's frame with its next operation's address and a state, as a release at scope 0; k goes on with
the slot freed. A save that cannot be made traps. -/
def saveFrame (s : State) (st : Nat) (k : BitVec 10 → BitVec 3 → Thread → BitVec 6 → State → State) :
    Host.Outcome State Fault Refusal :=
  .next (match s.cur.agent with
    | .prim _ => s
    | .thread c t =>
      let th := s.thread c t
      let x := ctxOfThread s c t
      match frameWrite s c t x th.frame.toNat (frameParts th (th.pc + 8) st) with
      | .wait s => s
      | .fail w => takeTrap s (trapAt w th.frame)
      | .ok s => k c t th x (freeThread (releaseAt s s.ag 0 (frameKey x th.frame)) c t))

/-- TYIELD: the frame goes to the tail of the ready queue; a full queue lets the thread go on. -/
def execTyield (s : State) : Host.Outcome State Fault Refusal :=
  match s.cur.agent with
  | .prim _ => .next s
  | .thread c _ =>
    if (s.core c).readyq.length ≥ 256 then .next (finish s)
    else saveFrame s 0 fun c _ th _ s => appendReady s c (.of th.frame false)

/-- TYIELD.park. -/
def execTyieldPark (s : State) : Host.Outcome State Fault Refusal := saveFrame s 1 fun _ _ _ _ s => s

/-- TEXIT: only STATE is written; a frame that cannot be reached is left as it is. -/
def execTexit (s : State) : Host.Outcome State Fault Refusal :=
  .next (match s.cur.agent with
    | .prim _ => s
    | .thread c t =>
      let th := s.thread c t
      match frameWrite s c t (ctxOfThread s c t) th.frame.toNat [(21, [5])] with
      | .wait s => s
      | .fail _ => freeThread s c t
      | .ok s => freeThread s c t)

/-- SYSC: the frame is parked and a SYSCALL record written. -/
def execSysc (f : SyscForm) (s : State) : Host.Outcome State Fault Refusal :=
  saveFrame s 1 fun c _ th x s =>
    eventRecord s x 4 0x51 (some th.occ)
      (payload2 th.frame.toNat (f.c.toNat + 2 ^ 16 * c.toNat + 2 ^ 32 * (th.pc.toNat % 2 ^ 32)))

/-- TRAPG: the thread trap TRAP with its code. -/
def execTrapg (f : TrapgForm) (s : State) : Host.Outcome State Fault Refusal :=
  .next (takeTrap s { cause := .trap, mask := 0, info := f.c.setWidth 64, addr := 0 })

end Sys2Proof.Machine
end

