-- ==== Sys2Proof/Machine/Admin.lean ====
section
/-! DEFINITION. Power, the time base, ownership, the management unit, trace buffers and boot: their operations and their events
(spec 01 R17-R34; 03 R56-R79). -/

namespace Sys2Proof.Machine

/-! ### Who writes (03 R62, R63) -/

/-- The claimant of a path: 1 PF, 2 management controller, 3 designated peer; 0 no claimant. -/
def claimant (s : State) : Who → BitVec 2
  | .fn n => if n = 0 then 1 else 0
  | .mgmt => 2
  | .peer d => if d = s.owner.peerdev then 3 else 0

/-- Whether a path is the owner's. -/
def isOwner (s : State) (w : Who) : Bool := claimant s w ≠ 0 && s.owner.holder = claimant s w

/-- A dropped administration write adds one to OWNVIOL (03 R62). -/
def ownViolation (s : State) : State := { s with owner := { s.owner with ownviol := satInc s.owner.ownviol } }

/-- Whether a path reaches the device: a function that is enabled, and BARs that are presented: none once boot has stopped (03 R71). -/
def reachable (s : State) (w : Who) : Bool :=
  match w with
  | .fn n => s.sched.fnOn.getLsbD n.toNat && !s.mgmt.stopped
  | _ => true

/-- A write of an administration register: the owner's is performed, any other is dropped and counted; one over a path that does
not reach the device is no write. -/
def ownerWrite (s : State) (w : Who) (f : State → State) : State :=
  if !reachable s w then s else if isOwner s w then f s else ownViolation s

/-- An answer to the host side. -/
def answer (s : State) (a : Answer) : State :=
  s.mapMgmt fun m => { m with answers := m.answers ++ [(m.nextAnswer, a)], nextAnswer := m.nextAnswer + 1 }

/-- An MSI-X of the PF whose vector the spec does not name (log entry 1). -/
def sendFreeMsix (s : State) : State := sendMsix s 0 ((s.free 4100).toNat % 512)

/-! ### Grants and pools (01 R17-R23) -/

/-- The sum of all grants but cluster n's. -/
def otherGrants (s : State) (n : BitVec 6) : Nat :=
  (List.range 64).foldl (fun a i => if i = n.toNat then a else a + (s.cluster (BitVec.ofNat 6 i)).grant.toNat) 0

/-- A write of GRANTn: dropped if it breaks the module budget or the reserved sum (01 R18; 03 R79). -/
def writeGrant (s : State) (w : Who) (n : BitVec 6) (v : BitVec 32) : State :=
  ownerWrite s w fun s =>
    if otherGrants s n + v.toNat > 1300000000 || v < (s.cluster n).reserved then s
    else { s.mapCluster n (fun k => { k with grant := v }) with
      power := { s.power with capRaise := putField s.power.capRaise n.toNat 1 0 } }

/-- GRANT_WRITE (01 R18): cluster ix, value. -/
def execGrantWrite (s : State) : Host.Outcome State Fault Refusal :=
  .next (writeGrant s s.ev.who (BitVec.ofNat 6 s.ev.ix) (s.ev.value.setWidth 32))

/-- The grant that the cap in force gives cluster n (03 R68). -/
def capShare (cap n : Nat) : Nat := (cap - 300) * 1000000 / 64 + if n < (cap - 300) * 1000000 % 64 then 1 else 0

/-- The grant that the cap in force gives cluster i: its share, or its reserved sum where that is more (01 R23). -/
def capTarget (s : State) (i : Nat) : Nat := max (capShare s.power.cap i) (s.cluster (BitVec.ofNat 6 i)).reserved.toNat

/-- Set the grants to the cap's shares, none below its reserved sum (01 R23): first those above are lowered, then those that the cap is to
raise are raised, the lowest cluster first, as far as the module budget goes (01 R18; DEDUCED, log entry 76). -/
def applyCap (s : State) : State :=
  let set_ (s : State) (i g : Nat) : State := s.mapCluster (BitVec.ofNat 6 i) fun k => { k with grant := BitVec.ofNat 32 g }
  let grant (s : State) (i : Nat) : Nat := (s.cluster (BitVec.ofNat 6 i)).grant.toNat
  let s := (List.range 64).foldl (fun s i => if grant s i > capTarget s i then set_ s i (capTarget s i) else s) s
  let s := (setBits s.power.capRaise 64).foldl (fun s i =>
    set_ s i (max (grant s i) (min (capTarget s i) (1300000000 - otherGrants s (BitVec.ofNat 6 i))))) s
  let raise : Word := BitVec.ofNat 64 (maskFrom (fun i => s.power.capRaise.getLsbD i && decide (grant s i < capTarget s i)) 64)
  { s with power := { s.power with
      capRaise := raise
      capPending := raise ≠ 0 || (List.range 64).any fun i => (s.cluster (BitVec.ofNat 6 i)).reserved.toNat > capShare s.power.cap i } }

/-- POWER_CAP (03 R68): value watts; a value outside the range is refused. -/
def execPowerCap (s : State) : Host.Outcome State Fault Refusal :=
  let w := s.ev.value.toNat
  .next (if w < 600 || w > 1600 then answer s .refused
    else answer (applyCap { s with power := { s.power with cap := w, capRaise := BitVec.allOnes 64 } }) .pldmOk)

/-- The end of a launch lowers grants toward a cap that could not be met, and what that frees raises those that the cap is still to raise
(01 R23). -/
def lowerGrants (s : State) : State := if s.power.capPending then applyCap s else s

/-! ### Thermal protection (01 R24, R25) -/

/-- The hottest sensor of a quadrant, in 1/16 °C. -/
def hottest (s : State) (q : Nat) : Int :=
  (List.range 8).foldl (fun (m : Int) i => max m (tabGet 0 s.power.sensors (8 * q + i)).toInt) (tabGet 0 s.power.sensors (8 * q)).toInt

/-- Whether copy B of the boot record is the one in use: the valid copy with the higher sequence number (03 R74). -/
def Mgmt.usesB (m : Mgmt) : Bool := m.copyB.valid && (!m.copyA.valid || m.copyB.seq > m.copyA.seq)

/-- The copy of the boot record in use; empty when neither is valid (DESIGN CHOICE, log entry 3). -/
def bootRecord (s : State) : BootCopy :=
  let r := if s.mgmt.usesB then s.mgmt.copyB else s.mgmt.copyA
  if r.valid then r else .reset

/-- Write the boot record: the older copy takes the new contents with the next sequence number (03 R74). -/
def writeBoot (s : State) (f : BootCopy → BootCopy) : State :=
  let r := { f (bootRecord s) with valid := true, seq := (bootRecord s).seq + 1 }
  s.mapMgmt fun m => if m.usesB then { m with copyA := r } else { m with copyB := r }

/-- The power was lost in the middle of a write: the older copy no longer matches its CRC (03 R74). -/
def tearCopy (m : Mgmt) : Mgmt :=
  if m.usesB then { m with copyA := { m.copyA with valid := false } } else { m with copyB := { m.copyB with valid := false } }

/-- The older copy is read: the copy in use is given up, if the other is valid (03 Table Host.7, step 2). -/
def olderCopy (m : Mgmt) : Mgmt :=
  if !(m.copyA.valid && m.copyB.valid) then m
  else if m.usesB then { m with copyB := { m.copyB with valid := false } } else { m with copyA := { m.copyA with valid := false } }

/-- Module power goes off: what the flash holds stays, and everything else is as before a cold reset (03 R74, R76, R77). -/
def powerOff (s : State) : State :=
  { State.reset with
    power := { Power.reset with on := false, sensors := s.power.sensors },
    owner := { Owner.reset with peerdev := s.owner.peerdev },
    mgmt := { Mgmt.reset with copyA := s.mgmt.copyA, copyB := s.mgmt.copyB, bank := s.mgmt.bank, nextBank := s.mgmt.nextBank,
                              answers := s.mgmt.answers, nextAnswer := s.mgmt.nextAnswer, msix := s.mgmt.msix,
                              telEvents := s.mgmt.telEvents },
    freeCount := s.freeCount, agenda := [] }

/-- The thermal actions at the start of a period (Table Package.5). A sensor that jumps from below 95 °C to 105 °C or more raises the
warning event too: it has crossed 95 °C (DESIGN CHOICE, log entry 82). -/
def thermalActions (s : State) : State :=
  let hot (q : Nat) : Int := hottest s q
  let trips := (List.range 4).filter fun q => hot q ≥ 1840
  if trips.isEmpty then
    let warn := (List.range 4).filter fun q => hot q ≥ 1520 && !s.power.warned.getLsbD q
    let s1 := warn.foldl (fun (s : State) q => s.mapMgmt fun m => { m with telEvents := m.telEvents ++ [.warning s.time.now (BitVec.ofNat 2 q)] }) s
    let frozen : BitVec 4 := BitVec.ofNat 4 (maskFrom (fun q => decide (hot q ≥ 1680)) 4)
    let warned : BitVec 4 := BitVec.ofNat 4 (maskFrom (fun q => decide (hot q ≥ 1520)) 4)
    { s1 with power := { s1.power with frozen := frozen, warned := warned } }
  else
    powerOff (writeBoot s fun b => { b with trips := b.trips ++ trips.map fun q => (s.time.now, BitVec.ofNat 2 q) })

/-- TOKEN_PERIOD_START (01 R17, R24): every pool is set to its grant and the sensors are sampled. -/
def execTokenPeriodStart (s : State) : Host.Outcome State Fault Refusal :=
  let cs := tabMap Cluster.reset (fun _ k => { k with pool := k.grant.toNat, debit := [] }) s.clusters
  .next (thermalActions { s with clusters := cs })

/-- POWER_LOSS (03 R74); flag: in the middle of a write of the boot record. -/
def execPowerLoss (s : State) : Host.Outcome State Fault Refusal :=
  .next (powerOff (if s.ev.flag then s.mapMgmt tearCopy else s))

/-! ### Gating (01 R27-R29) -/

/-- Whether an unfinished copy job of the core is outstanding. -/
def jobsOf (s : State) (c : BitVec 10) : Bool := (s.cluster (clusterOf c)).jobs.any fun e => e.2.core = c && e.2.unfinished

/-- Mailbox of a slice: its walker's (00 R2: core 0, 4, 8 or 12 of its cluster). -/
def walkerOf (h : BitVec 8) : BitVec 10 := BitVec.ofNat 10 (16 * (h.toNat / 4) + 4 * (h.toNat % 4))

/-- Whether an occurrence in preparation, or prepared, is to run on the core: a launch is placed on it (01 R28, R29). -/
def launchPlaced (s : State) (c : BitVec 10) : Bool :=
  s.sched.occs.any fun e => match e.2 with
    | some o => (o.phase = .preparing || o.phase = .ready) && o.coreList.contains c
    | none => false

/-- A core is idle (01 R27). -/
def isIdle (s : State) (c : BitVec 10) : Bool :=
  let k := s.core c
  k.occ.isNone && !launchPlaced s c && !(k.threads.any fun e => match e.2.st with
      | .free => false
      | .sleep _ => false
      | .pwait _ _ _ => false
      | .lrw => false
      | _ => true) &&
    k.dock.isEmpty && k.readyq.isEmpty && (tabGet [] s.mem.mail c.toNat).isEmpty && !jobsOf s c

/-- GATING_PREPARE (01 R28): 64,000 idle cycles have passed. -/
def execGatingPrepare (s : State) : Host.Outcome State Fault Refusal :=
  let c := s.ev.core
  .next (if isIdle s c && (s.core c).gate = .on && (s.core c).idle + 64000 ≤ s.cycle then
    s.mapCore c fun k => { k with gate := .prepare (s.cycle + 16) } else s)

/-- GATING_COMMIT (01 R28): 16 cycles after the preparation; a wake in this cycle aborts the gating. -/
def execGatingCommit (s : State) : Host.Outcome State Fault Refusal :=
  let c := s.ev.core
  .next (match (s.core c).gate with
    | .prepare n =>
      if n = s.cycle then
        if isIdle s c then s.mapCore c fun k => { k with gate := .off }
        else s.mapCore c fun k => { k with gate := .on, idle := s.cycle + 1 }
      else s
    | _ => s)

/-- A core wakes: a preparation is aborted, a gated core begins to ungate. -/
def wakeCore (s : State) (c : BitVec 10) : State :=
  match (s.core c).gate with
  | .prepare _ => s.mapCore c fun k => { k with gate := .on, idle := s.cycle + 1 }
  | .off => s.mapCore c fun k => { k with gate := .ungating (s.cycle + 2000) }
  | _ => s

/-- UNGATING_COMPLETE (01 R28): 2,000 cycles after the wake. -/
def execUngatingComplete (s : State) : Host.Outcome State Fault Refusal :=
  let c := s.ev.core
  .next (match (s.core c).gate with
    | .ungating n => if n ≤ s.cycle then s.mapCore c fun k => { k with gate := .on, idle := s.cycle + 1 } else s
    | _ => s)

/-! ### The time base (01 R31-R34) -/

/-- Change the time base. -/
def State.mapTime (s : State) (f : TimeBase → TimeBase) : State := { s with time := f s.time }

/-- Whether NOW has ever been locked: LOCKED, or HOLDOVER after it. -/
def everLocked (t : TimeBase) : Bool := t.locked || t.holdover || t.stepped

/-- The available source that ranks highest; 0 for none (01 R33). -/
def bestSource (t : TimeBase) : BitVec 4 :=
  (([t.first, t.second, t.third].find? fun x => x ≠ 0 && t.avail.getLsbD x.toNat)).getD 0

/-- The link of source 3; none while ANYLINK finds no link that is up (03 Table Host.9). -/
def sourceLink (s : State) : Option (BitVec 4) :=
  if s.time.anylink then
    (firstTrue (fun i => (s.link (BitVec.ofNat 4 i)).state = 2 || (s.link (BitVec.ofNat 4 i)).state = 3) (List.range 16)).map (BitVec.ofNat 4)
  else some s.time.cfgLink

/-- TIMESTAT.LINK follows the link of source 3 while that source is in use. -/
def relink (s : State) : State :=
  s.mapTime fun t => if t.source = 3 then { t with link := (sourceLink s).getD t.link } else t

/-- A measured offset, as TIMESTAT.OFFSET shows it. -/
def satOffset (x : Int) : BitVec 32 := BitVec.ofInt 32 (satInt x (-2147483648) 2147483647)

/-- Start to remove an offset by slew, at the largest rate: ±10,000 units of 0.01 ppm (01 R31; log entry 12). -/
def steer (t : TimeBase) (x : Int) : TimeBase :=
  { t with offset := satOffset x, residue := x, slew := if x = 0 then 0 else if x > 0 then 10000 else BitVec.ofInt 16 (-10000) }

/-- The first lock, with the offset of the source taken: one step of NOW, or, once a launch has run, slew alone (01 R32). -/
def firstLock (t : TimeBase) (x : Int) : TimeBase :=
  if t.launched then steer t x
  else { t with now := wrap (t.now.toNat + x), stepped := true, offset := satOffset x, residue := 0, slew := 0,
                offs := [1, 2, 3].foldl (fun o i => tabPut 0 o i (tabGet 0 t.offs i - x)) t.offs }

/-- Instants of NOW from which the device counts a time of its own move with a step of NOW: trainings, stalled channels, requests of peers,
messages to be sent again, handovers and boot resets (01 R32; 02 R38, R46, R49, R50; 03 R65, R72). -/
def shiftTimers (s : State) (x : Word) : State :=
  if x = 0 then s
  else { s with
    links := { s.links with
      links := tabMap .reset (fun _ l => { l with trainFrom := l.trainFrom + x, since := tabMap 0 (fun _ t => t + x) l.since }) s.links.links
      reqs := s.links.reqs.map fun r => { r with sent := r.sent + x }
      msgRetry := s.links.msgRetry.map fun m => (m.1, m.2 + x) }
    owner := { s.owner with handover := s.owner.handover.map (· + x) }
    mgmt := { s.mgmt with failReset := s.mgmt.failReset.map (· + x) } }

/-- Take the source that ranks highest, without a step but at the first lock; none left is holdover (01 R32, R33). -/
def chooseSource (s : State) : State :=
  let b := bestSource s.time
  let l := sourceLink s
  let t := s.mapTime fun t =>
    if b = 0 then (if everLocked t then { t with source := 0, link := 0, locked := false, holdover := true } else t)
    else
      let u := { t with source := b, link := if b = 3 then l.getD t.link else 0, locked := true, holdover := false }
      if everLocked t then u else firstLock u (tabGet 0 t.offs b.toNat)
  shiftTimers t (t.time.now - s.time.now)

/-- The discipline measures its source's time: OFFSET, and the slew toward it. Other sources' offsets are noted. -/
def measureOffset (s : State) (source : BitVec 4) (x : Int) : State :=
  s.mapTime fun t =>
    let t := { t with offs := tabPut 0 t.offs source.toNat x }
    if t.locked && t.source = source then steer t x else t

/-- A source becomes available; the first lock steps NOW if no launch has run (01 R32, R33). -/
def lockSource (s : State) (source : BitVec 4) (x : Int) : State :=
  if !(1 ≤ source.toNat && source.toNat ≤ 3) then s
  else
    let later := everLocked s.time
    let s := s.mapTime fun t => { t with avail := putField t.avail source.toNat 1 1, offs := tabPut 0 t.offs source.toNat x }
    let s := if bestSource s.time = 0 then s else chooseSource s
    if later then measureOffset s source x else s

/-- The difference of a source's time and NOW. -/
def offsetTo (s : State) (t : Word) : Int := (t - s.time.now).toInt

/-- TIME_SOURCE_LOCK (01 R32): source ix with its time in value. -/
def execTimeSourceLock (s : State) : Host.Outcome State Fault Refusal :=
  .next (lockSource s (BitVec.ofNat 4 s.ev.ix) (offsetTo s s.ev.value))

/-- A source is lost (01 R33). -/
def loseSource (s : State) (source : BitVec 4) : State :=
  let was := s.time.source
  let s := s.mapTime fun t => { t with avail := putField t.avail source.toNat 1 0 }
  if was = source && source ≠ 0 then chooseSource s else s

/-- TIME_SOURCE_LOSS (01 R33): source ix. -/
def execTimeSourceLoss (s : State) : Host.Outcome State Fault Refusal :=
  .next (if 1 ≤ s.ev.ix && s.ev.ix ≤ 3 then loseSource s (BitVec.ofNat 4 s.ev.ix) else s)

/-- TIME_SOURCE_SAMPLE (01 R33): source ix with its time in value. -/
def execTimeSourceSample (s : State) : Host.Outcome State Fault Refusal :=
  .next (measureOffset s (BitVec.ofNat 4 s.ev.ix) (offsetTo s s.ev.value))

/-- A write of TIMECFG: dropped if it names a code above 3 or a source twice (03 R79). -/
def writeTimecfg (s : State) (w : Who) (v : Word) : State :=
  ownerWrite s w fun s =>
    let a := v.extractLsb' 0 4
    let b := v.extractLsb' 4 4
    let c := v.extractLsb' 8 4
    if a > 3 || b > 3 || c > 3 || (a ≠ 0 && (a = b || a = c)) || (b ≠ 0 && b = c) then s
    else
      let s := s.mapTime fun t => { t with anylink := v.getLsbD 16, cfgLink := v.extractLsb' 12 4, third := c, second := b, first := a }
      chooseSource s

/-- TIMECFG_WRITE (03 R79). -/
def execTimecfgWrite (s : State) : Host.Outcome State Fault Refusal := .next (writeTimecfg s s.ev.who s.ev.value)

/-- What NOW advances by in a cycle: 0 or 2 in a slew step, which comes at most once in any 10,000 cycles (01 R31). In holdover
the last slew goes on. -/
def nowStep (t : TimeBase) : Nat :=
  if t.sinceSlew < 10000 || t.slew = 0 then 1 else if t.slew.toInt > 0 then 2 else 0

/-- One cycle of the time base (01 R30, R31). -/
def tickTime (t : TimeBase) : TimeBase :=
  let n := nowStep t
  let r : Int := if n = 1 then t.residue else if n = 2 then t.residue - 1 else t.residue + 1
  { t with cycle := t.cycle + 1, prev := t.now, now := t.now + BitVec.ofNat 64 n, sinceSlew := if n = 1 then min (t.sinceSlew + 1) 10000 else 1,
           residue := if t.holdover then t.residue else r,
           slew := if !t.holdover && r = 0 then 0 else t.slew }

/-! ### Ownership (03 R64, R65) -/

/-- Change the OWNER register's state. -/
def State.mapOwner (s : State) (f : Owner → Owner) : State := { s with owner := f s.owner }

/-- HOLDER changes: NEXT is cleared, CHANGES counts, an ownership event and an MSI-X of the PF follow. -/
def setHolder (s : State) (h : BitVec 2) : State :=
  let s := s.mapOwner fun o => { o with holder := h, next := 0, handover := none, changes := o.changes + 1 }
  sendFreeMsix (s.mapMgmt fun m => { m with telEvents := m.telEvents ++ [.ownership s.time.now h] })

/-- An ownership command by its code (Table Host.4); one that its writer may not give is ignored. -/
def ownerCommand (s : State) (w : Who) (cmd : Nat) : State :=
  let c := claimant s w
  if c = 0 || !reachable s w then s
  else match cmd with
    | 1 => if s.owner.holder = 0 then setHolder s c else s
    | 2 => if s.owner.holder = c then setHolder s 0 else s
    | 3 => if s.owner.holder = c && s.owner.next ≠ 0 then
        s.mapOwner fun o => { o with handover := some (s.time.now + 1000000000) } else s
    | 4 => if s.owner.next = c && s.owner.handover.isSome then setHolder s c else s
    | _ => s

/-- CLAIM (03 R64). -/
def execClaim (s : State) : Host.Outcome State Fault Refusal := .next (ownerCommand s s.ev.who 1)
/-- RELEASE (03 R64). -/
def execRelease (s : State) : Host.Outcome State Fault Refusal := .next (ownerCommand s s.ev.who 2)
/-- HANDOVER (03 R64): to the claimant that NEXT names. -/
def execHandover (s : State) : Host.Outcome State Fault Refusal := .next (ownerCommand s s.ev.who 3)
/-- ACCEPT (03 R64). -/
def execAccept (s : State) : Host.Outcome State Fault Refusal := .next (ownerCommand s s.ev.who 4)

/-- HANDOVER_LAPSE (03 R65): 1 s has passed. -/
def execHandoverLapse (s : State) : Host.Outcome State Fault Refusal :=
  .next (match s.owner.handover with
    | some t => if t ≤ s.time.now then s.mapOwner fun o => { o with next := 0, handover := none } else s
    | none => s)

/-- A write of OWNER: NEXT by the owner, a nonzero NEXT by another counts in OWNVIOL; then the command. -/
def writeOwner (s : State) (w : Who) (v : Word) : State :=
  let s := if !reachable s w then s
    else if isOwner s w then s.mapOwner fun o => { o with next := v.extractLsb' 12 2 }
    else if v.extractLsb' 12 2 = 0 then s else ownViolation s
  ownerCommand s w (fieldOf v 0 4)

/-! ### Telemetry and PLDM (03 R66-R68) -/

/-- A temperature in 1/16 °C as a register shows it. -/
def tempReg (x : Int) : Word := BitVec.ofInt 64 (x % 65536)

/-- A flag in a bit of a register. -/
def bitAt (b : Bool) (n : Nat) : Nat := if b then 2 ^ n else 0

/-- TIMESTAT (01 Table Package.6). -/
def timestatReg (t : TimeBase) : Word :=
  BitVec.ofNat 64 (2 ^ 32 * t.offset.toNat + 2 ^ 16 * t.slew.toNat + 2 ^ 8 * t.source.toNat + 2 ^ 4 * t.link.toNat + bitAt t.holdover 3 +
    bitAt t.stepped 2 + bitAt t.locked 1)

/-- LINKSTATn (02 Table Links.3). -/
def linkstatReg (l : Link) : Word :=
  BitVec.ofNat 64 (2 ^ 48 * l.crcerr.toNat + 2 ^ 32 * l.retry.toNat + 2 ^ 24 * l.fecunc.toNat + 2 ^ 16 * l.peer.toNat + 2 ^ 12 * l.lanes.toNat +
    2 ^ 4 * l.trains.toNat + l.state.toNat)

/-- GRANTn (03 Table Host.9). -/
def grantReg (k : Cluster) : Word := k.reserved ++ k.grant

/-- The sensors' copies of registers that read live: grants, costs, LINKSTAT, TIMESTAT and trace records lost (03 R67). -/
def sampleLive (s : State) (t : Telemetry) : Telemetry :=
  let t := (List.range 64).foldl (fun t i => tabPut 0 t (0xC00 + 8 * i) (grantReg (s.cluster (BitVec.ofNat 6 i)))) t
  let t := (List.range 15).foldl (fun t i => tabPut 0 t (0x3400 + 8 * i) ((s.power.cost.getD i 0).setWidth 64)) t
  let t := (List.range 16).foldl (fun t i => tabPut 0 t (0x400 + 8 * i) (linkstatReg (s.link (BitVec.ofNat 4 i)))) t
  let t := (List.range 4).foldl (fun t i => tabPut 0 t (0x1018 + 0x40 * i) (s.traceQ (BitVec.ofNat 2 i)).lost) t
  tabPut 0 t 0x200 (timestatReg s.time)

/-- The telemetry sample: temperatures, overdraw, ECC and drop counts at their offsets (03 Table Host.8), and what the sensors show of
the other registers, all of one NOW. -/
def sampleTel (s : State) : Telemetry :=
  let put (t : Telemetry) (o : Nat) (v : Word) : Telemetry := tabPut 0 t o v
  let t := put (sampleLive s s.mgmt.tel) 0x3000 s.time.now
  let t := (List.range 4).foldl (fun t q => put t (0x3008 + 8 * q) (tempReg (hottest s q))) t
  let t := put (put t 0x3028 (s.power.inlet.setWidth 64)) 0x3030 (s.power.outlet.setWidth 64)
  let t := s.clusters.foldl (fun t e => put t (0x3100 + 8 * e.1) e.2.overdraw) t
  let t := (List.range 4).foldl (fun t q => put (put t (0x3300 + 16 * q) (tabGet 0 s.mgmt.eccC q)) (0x3308 + 16 * q) (tabGet 0 s.mgmt.eccU q)) t
  put (put (put t 0x3340 s.owner.ownviol) 0x3348 s.links.routedrop) 0x3350 (s.sched.meshdrop.foldl (fun a e => a + e.2) 0)

/-- TELEMETRY_REFRESH (03 R67). With flag the environment gives its readings in flit: 32 junction sensors, inlet and outlet of
16 bits each, then the module's and the four quadrants' power of 32 bits each, in mW; data other than 0 is the cost table as the
management firmware recalibrates it, 15 rows of 32 bits (01 R19; log entry 6). -/
def execTelemetryRefresh (s : State) : Host.Outcome State Fault Refusal :=
  let f := s.ev.flit
  let p := s.power
  let s := if s.ev.flag then
      let t := (List.range 5).foldl (fun t i => tabPut 0 t (if i = 0 then 0x3038 else 0x3038 + 8 * i) (BitVec.ofNat 64 (fieldOf f (544 + 32 * i) 32))) s.mgmt.tel
      { s with
        power := { p with
          sensors := (List.range 32).foldl (fun t i => tabPut 0 t i (f.extractLsb' (16 * i) 16)) p.sensors,
          inlet := f.extractLsb' 512 16, outlet := f.extractLsb' 528 16,
          cost := if s.ev.data = 0 then p.cost else (List.range 15).map fun i => s.ev.data.extractLsb' (32 * i) 32 },
        mgmt := { s.mgmt with tel := t } }
    else s
  .next (s.mapMgmt fun m => { m with tel := sampleTel s })

/-- Change a step's entry of the boot record. -/
def writeBootStep (s : State) (n : Nat) (f : BootEntry → BootEntry) : State :=
  writeBoot s fun b => { b with steps := tabPut .reset b.steps n (f (tabGet .reset b.steps n)) }

/-- The recorded entry of a boot step. -/
def bootEntry (s : State) (n : Nat) : BootEntry := tabGet .reset (bootRecord s).steps n

/-- Set an image kind's bank in a table of banks. -/
def setBank (t : Tab Bool) (kind : Nat) (b : Bool) : Tab Bool := tabPut false t kind b

/-- FIRMWARE_UPDATE (03 R76): image kind ix; flag says that the bank that does not run was written and verified: it becomes active at the
next reset. An interrupted or failed update leaves the active bank. Image 0 is the management firmware of step 1, image 1 the command
processor's of step 6. -/
def execFirmwareUpdate (s : State) : Host.Outcome State Fault Refusal :=
  let k := s.ev.ix
  .next (if s.ev.flag then
    let s := s.mapMgmt fun m => { m with nextBank := tabPut none m.nextBank k (some (!tabGet false m.running k)) }
    let n := if k = 0 then 1 else if k = 1 then 6 else 0
    answer (if n ≠ 0 && ((bootEntry s n).outcome = .passedAlt || (bootEntry s n).outcome = .failed) then
      writeBootStep s n fun e => { e with outcome := .notRun } else s) .pldmOk
  else answer (s.mapMgmt fun m => { m with nextBank := tabPut none m.nextBank k none }) .refused)

/-- CLEAR_BOOT_MARK (03 R72, R73): the owner clears a unit's unavailable mark, or a step's alternate form: step ix, unit value. -/
def execClearBootMark (s : State) : Host.Outcome State Fault Refusal :=
  .next (if !(reachable s s.ev.who && isOwner s s.ev.who) || s.ev.ix = 0 || s.ev.ix > 9 then answer s .refused
    else answer (writeBootStep s s.ev.ix fun e =>
      let m := putField e.mask s.ev.value.toNat 1 0
      { e with mask := m, outcome := if e.outcome = .passedAlt || (m = 0 && (e.outcome = .failed || e.outcome = .skipped)) then .notRun else e.outcome })
      .pldmOk)

/-- SPDM_REQUEST (03 R77): a request for signed measurements (flag) takes one of the alias key's 2^20 signatures. Only the PF has the
mailbox (R58). -/
def execSpdmRequest (s : State) : Host.Outcome State Fault Refusal :=
  .next (if s.ev.who ≠ .fn 0 || !reachable s (.fn 0) then s
    else if !s.ev.flag then answer s (.measurement s.mgmt.aliasUsed)
    else if s.mgmt.aliasMade && s.mgmt.aliasUsed < 1048576 then
      answer (s.mapMgmt fun m => { m with aliasUsed := m.aliasUsed + 1 }) (.measurement s.mgmt.aliasUsed)
    else answer s .spdmError)

/-- PLDM_BASE_REQUEST (03 R66): type ix, command value; the supported types are 0, 2 and 5, the supported base commands those of
the type 0 specification that flag says the endpoint has (log entry 7). -/
def execPldmBaseRequest (s : State) : Host.Outcome State Fault Refusal :=
  .next (if s.ev.flag && (s.ev.ix = 0 || s.ev.ix = 2 || s.ev.ix = 5) then answer s .pldmBase else answer s .pldmError)

/-! ### Trace buffers (03 R69, R70, R79) -/

/-- A write of TRACEBASEq: a changed base restarts the ring. -/
def writeTraceBase (s : State) (w : Who) (q : BitVec 2) (v : Word) : State :=
  ownerWrite s w fun s => s.mapTrace q fun t =>
    let b : BitVec 52 := BitVec.ofNat 52 (fieldOf v 16 36 * 65536)
    if b = t.base then t else { t with base := b, head := 0, used := 0 }

/-- TRACEBASE_WRITE (03 R69): quadrant ix. -/
def execTracebaseWrite (s : State) : Host.Outcome State Fault Refusal :=
  .next (writeTraceBase s s.ev.who (BitVec.ofNat 2 s.ev.ix) s.ev.value)

/-- A write of TRACECFGq: a SIZE outside 16-32 drops it, a changed SIZE restarts the ring. -/
def writeTraceCfg (s : State) (w : Who) (q : BitVec 2) (v : Word) : State :=
  ownerWrite s w fun s =>
    let n := fieldOf v 0 5
    if n < 16 || n > 32 then s
    else s.mapTrace q fun t =>
      let t := { t with en := v.getLsbD 63, stop := v.getLsbD 8 }
      if BitVec.ofNat 5 n = t.size then t else { t with size := BitVec.ofNat 5 n, head := 0, used := 0 }

/-- TRACECFG_WRITE (03 R79): quadrant ix. -/
def execTracecfgWrite (s : State) : Host.Outcome State Fault Refusal :=
  .next (writeTraceCfg s s.ev.who (BitVec.ofNat 2 s.ev.ix) s.ev.value)

/-! ### Boot (03 R71-R77) -/

/-- Steps a warm reset keeps (Table Host.7). -/
def keptStep (n : Nat) : Bool := n = 1 || n = 3 || n = 4 || n = 5

/-- Whether this boot skips step n: a warm boot skips a kept step whose recorded outcome is a pass (03 R73). -/
def skipsStep (s : State) (n : Nat) : Bool :=
  s.mgmt.warm && keptStep n && ((bootEntry s n).outcome = .passed || (bootEntry s n).outcome = .passedAlt)

/-- Step n, or the first after it that this boot runs; m steps are looked at. -/
def nextStep (s : State) : Nat → Nat → Nat
  | 0, n => n
  | m + 1, n => if n ≤ 9 && skipsStep s n then nextStep s m (n + 1) else n

/-- Begin step n or the next one to run: in its alternate form if it failed, or passed by its alternate, before; step 2's alternate reads
the older copy of the record, and step 9 has none. At step 7 the links that are not disabled train. -/
def beginStep (s : State) (n : Nat) : State :=
  let n := nextStep s 9 n
  let o := (bootEntry s n).outcome
  let alt : Bool := n ≠ 5 && n ≠ 7 && n ≠ 9 && (o = .failed || o = .passedAlt)
  let s := s.mapMgmt fun m => { (if n = 2 && alt then olderCopy m else m) with bootStep := n, alt := alt }
  if n = 7 then
    let dead := (bootEntry s 7).mask
    (List.range 16).foldl (fun s i => s.mapLink (BitVec.ofNat 4 i) fun l =>
      { l with state := if dead.getLsbD i then 4 else 1, trainFrom := s.time.now }) s
  else s

/-- The alias key of a cold boot: the next ensign index is recorded before the signature leaves the unit (03 R77). -/
def makeAlias (s : State) : State :=
  if s.mgmt.warm then s
  else if (bootRecord s).ensign < 1048576 then
    (writeBoot s fun b => { b with ensign := b.ensign + 1 }).mapMgmt fun m => { m with aliasMade := true, aliasUsed := 0 }
  else s.mapMgmt fun m => { m with aliasMade := false }

/-- A mandatory step has failed (03 R72): step 1 tries bank B at once, step 9 and an alternate form stop the boot, which the management
unit reports (R71), any other step makes the management unit reset the module within 100 ms: when 100 ms have passed (DESIGN CHOICE,
log entry 84). -/
def failStep (s : State) (n : Nat) : State :=
  let s1 := writeBootStep s n fun e => { e with outcome := .failed, attempts := e.attempts + 1 }
  if s.mgmt.alt || n = 9 then s1.mapMgmt fun m => { m with stopped := true, telEvents := m.telEvents ++ [.bootStopped s.time.now n] }
  else if n = 1 then s1.mapMgmt fun m => { m with alt := true }
  else s1.mapMgmt fun m => { m with failReset := some (s.time.now + 100000000) }

/-- The units that an outcome marks unavailable. -/
def unitsOf : BootOutcome → BitVec 32
  | .unavailable m => m.setWidth 32
  | _ => 0

/-- The units of an optional step that an outcome leaves out: a step that fails as a whole leaves out all that it tries (03 R72; log entry 6). -/
def lostUnits (n : Nat) : BootOutcome → BitVec 32
  | .fail => if n = 5 then BitVec.allOnes 32 else 0xFFFF
  | o => unitsOf o

/-- How the host link has trained (03 R56): value gives the generation in bits [3:0], 7 when outside 4-7, and the width in bits [12:8], 16
when not 8 or 4; the alternate form of step 8 starts at 6.0; flag: the partner grants FLIT mode, which 64 GT/s and more always use. -/
def hostLinkOf (s : State) : HostLink :=
  let g := fieldOf s.ev.value 0 4
  let g := if 4 ≤ g && g ≤ 7 then g else 7
  let g := if s.mgmt.alt then min g 6 else g
  let w := fieldOf s.ev.value 8 5
  { gen := g, width := if w = 8 || w = 4 then w else 16, flit := decide (6 ≤ g) || s.ev.flag }

/-- What a mandatory step that passes leaves: step 2 reads the designated peer from the configuration (value), steps 1 and 6 run the bank
that passed (03 R76), step 8 trains the host link, step 9 makes the alias key. -/
def passStep (s : State) (n : Nat) : State :=
  let ran (k : Nat) : State := s.mapMgmt fun m => { m with running := setBank m.running k (tabGet false m.bank k ^^ m.alt) }
  match n with
  | 1 => ran 0
  | 2 => s.mapOwner fun w => { w with peerdev := s.ev.value.setWidth 6 }
  | 6 => ran 1
  | 8 => s.mapMgmt fun m => { m with hostLink := some (hostLinkOf s) }
  | 9 => makeAlias s
  | _ => s

/-- Units that an optional step leaves out of this boot: a channel leaves the physical map, a link reads DOWN (03 R72). -/
def leaveOut (s : State) (n : Nat) : State :=
  let m := (bootEntry s n).mask
  if n = 5 then s.mapMgmt fun k => { k with lpddrOut := m }
  else (setBits m 16).foldl (fun s i => s.mapLink (BitVec.ofNat 4 i) fun l => if l.state = 4 then l else { l with state := 0, lanes := 0 }) s

/-- The links that step 7 finds DOWN. -/
def downLinks (s : State) : BitVec 32 := BitVec.ofNat 32 (maskFrom (fun i => (s.link (BitVec.ofNat 4 i)).state = 0) 16)

/-- BOOT_STEP (03 R71, R72): the step in progress ends with an outcome, recorded before the next begins. -/
def execBootStep (s : State) : Host.Outcome State Fault Refusal :=
  let n := s.mgmt.bootStep
  .next (if n = 0 || n > 9 || s.mgmt.stopped || s.mgmt.failReset.isSome then s
    else if n = 5 || n = 7 then
      let m := lostUnits n s.ev.outcome ||| (if n = 7 then downLinks s else 0)
      let bad : Bool := m ≠ 0
      beginStep (leaveOut (writeBootStep s n fun e =>
        { e with outcome := if bad then .failed else if e.mask ≠ 0 then .skipped else .passed,
                 attempts := (if bad then e.attempts + 1 else e.attempts), mask := e.mask ||| m }) n) (n + 1)
    else match s.ev.outcome with
      | .fail => failStep s n
      | o =>
        beginStep (writeBootStep (passStep s n) n fun e =>
          { e with outcome := if s.mgmt.alt || o = .alternate then .passedAlt else .passed, mask := e.mask ||| unitsOf o }) (n + 1))

end Sys2Proof.Machine
end

