-- ==== Sys2Proof/Machine/Service.lean ====
section
/-! DEFINITION. The work of the service threads: the walker's reads and installations and the mooring moves, each an operation that is
offered, charged and counted as a scavenger's (10 R263-R265; 07 R168, R169; 01 R19, R22). -/

namespace Sys2Proof.Machine

/-- Whether a core's power is on for its service thread. -/
def powered (k : Core) : Bool :=
  match k.gate with
  | .on => true
  | .prepare _ => true
  | _ => false

/-- Whether a core runs an occurrence whose threads may be resumed. -/
def runsThreads (s : State) (c : BitVec 10) : Bool :=
  (s.core c).occ.isSome && (s.core c).run ≠ .preempted && !tabGet false s.sched.fenced c.toNat && (match (s.core c).gate with
    | .on => true
    | _ => false)

/-- Key of the mooring list of the occurrence that runs on a core. -/
def moorHere (s : State) (c : BitVec 10) : Nat := moorKey ((s.core c).occ.getD 0) c

/-- Whether a core's service thread has a moored frame to move (R263). -/
def moorDue (s : State) (c : BitVec 10) : Bool :=
  runsThreads s c && (s.core c).dock.length < 4 && (tabGet (0, 0) s.sched.moor (moorHere s c)).1 ≠ 0

/-- The posted miss of a mailbox entry, if it still waits. -/
def mailMiss (s : State) (x : Mail) : Option Miss := (tabGet none (s.slice x.slice).misses x.entry.toNat).filter fun m => m.stage = .posted

/-- The oldest entry of core c's mailbox, with its miss. -/
def walkTarget (s : State) (c : BitVec 10) : Option (Mail × Miss) :=
  match tabGet [] s.mem.mail c.toNat with
  | [] => none
  | x :: _ => (mailMiss s x).map fun m => (x, m)

/-- Where the walk for a miss stands at core c's walker. -/
def walkNow (s : State) (c : BitVec 10) (m : Miss) : Walk :=
  (tabGet none s.mem.walks c.toNat).getD { level := 4, root := (s.ctx m.ctx).ptroot.toNat, leaf := none }

/-- Core c's walker keeps where its walk stands. -/
def putWalk (s : State) (c : BitVec 10) (w : Option Walk) : State := s.mapMem fun m => { m with walks := tabPut none m.walks c.toNat w }

/-- The oldest mailbox entry of core c is done with. -/
def popMail (s : State) (c : BitVec 10) : State :=
  (putWalk s c none).mapMem fun m => { m with mail := tabPut [] m.mail c.toNat ((tabGet [] m.mail c.toNat).drop 1) }

/-- The next operation of core c's service thread, with the registers that it reads: PLD of the table entry that the walk needs next, STT of
the leaf that it has found (07 R169), or the move of the oldest moored frame (R263), which the model keeps as one operation in GLOBAL mode
(DESIGN CHOICE, log entry 100). -/
def serviceOp (s : State) (c : BitVec 10) : Option (Instr × Tab Word) :=
  match walkTarget s c with
  | some (x, m) =>
    let w := walkNow s c m
    match w.leaf with
    | none => some (.pld { g := gTrue, d := 1, a := 2, i := .imm 0, mode := .glob, p := 0, ord := .rlx, scope := 4 },
        [(2, BitVec.ofNat 64 (tableEntry (65536 * m.page) w.level w.root))])
    | some (leaf, huge) => some (.stt { g := gTrue, d := 1, a := 2, i := .reg 3, mode := .glob, p := 0, ord := .rlx, scope := 0 },
        [(1, leaf), (2, BitVec.ofNat 64 (m.ctx.toNat + (if huge then 1024 else 0) + 65536 * m.page)),
         (3, BitVec.ofNat 64 (x.slice.toNat + 65536 * x.entry.toNat))])
  | none => if moorDue s c && !tabGet false s.sched.moorBusy (moorHere s c) then some (.mooringMove, []) else none

/-- Whether core c's service thread has an operation to issue: its core is powered and not fenced. -/
def serviceWork (s : State) (c : BitVec 10) : Bool := powered (s.core c) && !tabGet false s.sched.fenced c.toNat && (serviceOp s c).isSome

/-- A word of the class and mode of every operation of the firmware: an M operation in GLOBAL mode. -/
def serviceWord : BitVec 64 := 0x4000000300000000

/-- Mailbox entries at the head of core c's mailbox whose misses no longer wait are passed over. -/
def dropStale (s : State) (c : BitVec 10) : State :=
  match (tabGet [] s.mem.mail c.toNat).dropWhile fun x => (mailMiss s x).isNone with
  | l => if l = tabGet [] s.mem.mail c.toNat then s else (putWalk s c none).mapMem fun m => { m with mail := tabPut [] m.mail c.toNat l }

/-- Core c's service thread becomes ready when it comes to have work, and is free when it has none (10 R241, R244). A word that stands in the
instruction cache at its PC is the firmware's own. -/
def wakeService (s : State) (c : BitVec 10) : State :=
  let s := dropStale s c
  match (s.thread c 7).st with
  | .free => if serviceWork s c then s.mapThread c 7 fun th => { th with st := .running, last := max th.last s.cycle } else s
  | .running =>
    if serviceWork s c || (s.core c).icache.any (fun d => d.line = (s.thread c 7).pc.toNat / 64) then s
    else s.mapThread c 7 fun th => { th with st := .free }
  | _ => s

/-- The cores whose service threads may have come to have work, or to have none. -/
def serviceCores (s : State) : List (BitVec 10) :=
  let busy : List Nat := (s.cores.filter fun e => (tabGet Thread.reset e.2.threads 7).st ≠ .free).map fun e => e.1
  let mail : List Nat := s.mem.mail.map fun e => e.1
  let moor : List Nat := s.sched.moor.map fun e => e.1 % 1024
  (mail ++ moor ++ busy).map (BitVec.ofNat 10)

/-- An operation of core c's service thread has run: a walk goes on with the entry that PLD has read, to its leaf or to a fault, which the
command processor reports; an entry that STT has served leaves the mailbox. After a trap the firmware begins its walk again (R265). -/
def restService (s : State) (c : BitVec 10) : State :=
  let th := s.thread c 7
  if th.st ≠ .running then s
  else
    let s := s.mapThread c 7 fun th => { th with issued := none }
    match walkTarget s c with
    | none => if (tabGet none s.mem.walks c.toNat).isSome then popMail s c else s
    | some (x, m) =>
      let w := walkNow s c m
      let fault (perm : Bool) : State :=
        let s := popMail s c
        { s with agenda := .event .pagefault { ix := x.slice.toNat, value := x.entry.setWidth 64, flag := perm } :: s.agenda }
      if w.leaf.isSome then popMail s c
      else match walkEntry s w.level (tabGet 0 th.x 1) with
        | .table r => putWalk s c (some { level := w.level - 1, root := r, leaf := none })
        | .leaf e huge => if permits e m.kind then putWalk s c (some { w with leaf := some (e, huge) }) else fault true
        | .fault => fault false

end Sys2Proof.Machine
end

