-- ==== Sys2Proof/Machine/Fabric.lean ====
section
/-! DEFINITION. Events of the mesh, of translation, of interleave domains, of memory errors, of reservations and race tags
(spec 07 R157-R181; 08 R201, R206-R208; 19 R465). -/

namespace Sys2Proof.Machine

/-! ### The static mesh (07 R157, R159) -/

/-- Grid position of a router (07 R157). -/
def routerX (r : Nat) : Nat := r % 4 + 4 * (r / 16 % 2)
/-- Its row. -/
def routerY (r : Nat) : Nat := r % 16 / 4 + 4 * (r / 32)

/-- The router at a grid position. -/
def routerAt (x y : Nat) : Nat := 16 * (x / 4 + 2 * (y / 4)) + 4 * (y % 4) + x % 4

/-- The neighbour through an output port, with the hop time and its input port; none outside the grid. -/
def neighbour (r port : Nat) : Option (Nat × Nat × Nat) :=
  let x := routerX r
  let y := routerY r
  match port with
  | 0 => if y = 0 then none else some (routerAt x (y - 1), if y = 4 then 3 else 1, 2)
  | 1 => if x = 7 then none else some (routerAt (x + 1) y, if x = 3 then 3 else 1, 3)
  | 2 => if y = 7 then none else some (routerAt x (y + 1), if y = 3 then 3 else 1, 0)
  | 3 => if x = 0 then none else some (routerAt (x - 1) y, if x = 4 then 3 else 1, 1)
  | _ => none

/-- A beat is discarded at a router. -/
def dropBeat (s : State) (r : Nat) : State :=
  s.mapSched fun m => { m with meshdrop := tabPut 0 m.meshdrop r (tabGet 0 m.meshdrop r + 1) }

/-- A beat reaches a core's receive buffer (19 R465): a fifth one is discarded and sets OVER. -/
def receiveBeat (s : State) (c : BitVec 10) (ch : BitVec 6) (v : BitVec 512) : State :=
  if (recvBuf (s.core c) ch).length ≥ 4 then
    (dropBeat s (clusterOf c).toNat).mapCore c fun k => { k with ovf := putField k.ovf ch.toNat 1 1 }
  else s.mapCore c fun k => { k with recv := tabPut [] k.recv ch.toNat (recvBuf k ch ++ [v]) }

/-- An entry moves a beat to an output port (07 R159). A beat for a core stands at port 5 until it is delivered. One
that OUT leads off the grid is discarded and counted (DESIGN CHOICE, log entry 110). -/
def moveBeat (s : State) (b : Beat) (e : RouterEntry) : State :=
  if e.out = 4 then
    s.mapSched fun m => { m with beats := m.beats ++ [{ b with port := 5, core := e.core, ch := e.chan, at_ := s.cycle + 1 }] }
  else match neighbour b.router.toNat e.out.toNat with
    | some (r, n, p) =>
      s.mapSched fun m => { m with beats := m.beats ++ [{ b with router := BitVec.ofNat 6 r, port := BitVec.ofNat 3 p, at_ := s.cycle + n }] }
    | none => dropBeat s b.router.toNat

/-- Whether an entry takes the beat in a phase: at LOCAL the injection entry of its core and channel. -/
def takesBeat (b : Beat) (ph : Nat) (e : RouterEntry) : Bool :=
  e.router = b.router && e.phase.toNat = ph && e.inp = b.port && (b.port ≠ 4 || (e.core = b.core && e.chan = b.ch))

/-- Take the first element for which p holds out of a list. -/
def takeFirst {α : Type} (p : α → Bool) : List α → Option (α × List α)
  | [] => none
  | a :: r => if p a then some (a, r) else (takeFirst p r).map fun e => (e.1, a :: e.2)

/-- The occurrences of the machine. -/
def occList (s : State) : List (Nat × Occ) := s.sched.occs.filterMap fun e => e.2.map fun o => (e.1, o)

/-- Whether a core is in a unit whose snapshot is in the store. -/
def Occ.stored (o : Occ) (c : BitVec 10) : Bool := o.units.any fun u => u.stage = .stored && u.cores.contains c

/-- Whether an occurrence owns its output ports: it runs, and not every core of it is in the store (07 R161; DEDUCED, log entry 55). -/
def Occ.ownsPorts (o : Occ) : Bool := (o.phase = .running || o.phase = .killing) && !o.coreList.all o.stored

/-- The entries of the running programs that take a beat in this cycle, each program at its own phase (07 R159, R162). -/
def takers (s : State) (b : Beat) : List RouterEntry :=
  (occList s).flatMap fun e => match e.2.router with
    | some r => if e.2.ownsPorts then r.entries.filter (takesBeat b (r.phaseAt s.cycle)) else []
    | none => []

/-- Whether a unit has reached its stop cycle. -/
def UnitStop.reached (cycle : Nat) (u : UnitStop) : Bool :=
  match u.stage with
  | .stopping n => decide (n ≤ cycle)
  | _ => true

/-- Whether every unit of an occurrence has reached its stop cycle: its router program then stands still (07 R162; 19 R466). -/
def Occ.halted (o : Occ) (cycle : Nat) : Bool := (coUnits o).all fun w => o.units.any fun u => u.cores = w && u.reached cycle

/-- The beats of an occurrence that has halted leave the mesh for its router record (19 R466). -/
def holdBeats (s : State) (id : Nat) : State :=
  let mine := s.sched.beats.filter fun b => b.occ = id
  (s.mapSched fun m => { m with beats := m.beats.filter fun b => b.occ ≠ id }).mapOcc id fun o =>
    { o with router := o.router.map fun r => { r with held := r.held ++ mine.map fun b => { b with at_ := b.at_ - s.cycle } } }

/-- The beats that an occurrence's router record holds go on from where they stood (19 R466). -/
def freeBeats (s : State) (id : Nat) : State :=
  let held : List Beat := match (s.occ? id).bind fun o => o.router with
    | some r => r.held.map fun b => { b with at_ := b.at_ + s.cycle }
    | none => []
  ((s.mapSched fun m => { m with beats := m.beats ++ held }).mapOcc id fun o => { o with router := o.router.map fun r => { r with held := [] } }).pushEvents
    ((held.filter fun b => b.at_ ≤ s.cycle).map fun _ => (.meshBeat, { ix := 0 }))

/-- MESH_BEAT (07 R159): the first beat that stands at a port in this cycle moves by every entry that names it, or is discarded. One for a core that its
launch does not hold any more, or not while its unit is in the store and others run on, is discarded too (DESIGN CHOICE, log entry 110). -/
def execMeshBeat (s : State) : Host.Outcome State Fault Refusal :=
  .next (match takeFirst (fun b => b.at_ ≤ s.cycle) s.sched.beats with
    | none => s
    | some (b, rest) =>
      let s := s.mapSched fun m => { m with beats := rest }
      if b.port = 5 then
        if (s.core (coreAt b.router b.core)).occ = some b.occ then receiveBeat s (coreAt b.router b.core) b.ch b.val
        else dropBeat s b.router.toNat
      else match takers s b with
        | [] => dropBeat s b.router.toNat
        | l => l.foldl (fun s e => moveBeat s b e) s)

/-- The injections of this cycle (19 R464): each VSEND's next beat stands at its router's LOCAL port when its phase comes; a core whose unit has
stopped injects none. -/
def injectCore (s : State) (c : BitVec 10) : State :=
  match routerOf s c, (s.core c).occ with
  | some r, some id =>
    if (s.occ? id).any fun o => o.units.any fun u => u.cores.contains c && u.reached (s.cycle - 1) then s else
    let ph := r.phaseAt s.cycle
    let due (j : Inject) : Bool := ph = (j.phase + j.sent) % r.period
    let bs := ((s.core c).inject.filter due).map fun j =>
      { router := clusterOf c, port := 4, core := memberOf c, val := j.val.extractLsb' (512 * j.sent) 512, at_ := s.cycle, occ := id, ch := j.ch : Beat }
    let s := s.mapCore c fun k => { k with inject := (mapIf due (fun j : Inject => { j with sent := j.sent + 1 }) k.inject).filter fun j => j.sent < 4 }
    s.mapSched fun m => { m with beats := m.beats ++ bs }
  | _, _ => s

/-- Inject the beats of every core. -/
def injectBeats (s : State) : State :=
  (s.cores.filter fun e => !e.2.inject.isEmpty).foldl (fun s e => injectCore s (BitVec.ofNat 10 e.1)) s

/-! ### Misses, the walker and page faults (07 R168-R170; 10 R264) -/

/-- Change a miss entry. -/
def mapMiss (s : State) (h : BitVec 8) (e : Nat) (f : Miss → Miss) : State :=
  s.mapSlice h fun k => { k with misses := tabPut none k.misses e ((tabGet none k.misses e).map f) }

/-- Mailbox of the walker of a slice. -/
def mailOf (s : State) (h : BitVec 8) : List Mail := tabGet [] s.mem.mail (walkerOf h).toNat

/-- MAILBOX_POST (07 R168): a slice (ix) posts its held misses while its walker's mailbox of 32 has room. -/
def execMailboxPost (s : State) : Host.Outcome State Fault Refusal :=
  let h : BitVec 8 := BitVec.ofNat 8 s.ev.ix
  .next ((s.slice h).misses.foldl (fun s e =>
    match e.2 with
    | some m =>
      if m.stage = .held && (mailOf s h).length < 32 then
        (mapMiss s h e.1 fun m => { m with stage := .posted }).mapMem fun k =>
          { k with mail := tabPut [] k.mail (walkerOf h).toNat (tabGet [] k.mail (walkerOf h).toNat ++ [{ slice := h, entry := BitVec.ofNat 6 e.1 }]) }
      else s
    | none => s) s)

/-- Code of an access kind (Table Fabric.8). -/
def AccessKind.code : AccessKind → Nat
  | .read => 0
  | .write => 1
  | .image => 2
  | .atomic => 3

/-- PAGE of a mailbox entry. -/
def missPage (m : Miss) : Nat := 65536 * m.page + 256 * m.kind.code + m.ctx.toNat

/-- The occurrence of a requester, if it is an agent of one or its preparation (04 R98). -/
def requesterOcc (s : State) : Requester → Option Nat
  | .thread c t => if t = 7 then none else some (s.thread c (t.setWidth 3)).occ
  | .job n j => some ((s.cluster n).job j.toNat).occ
  | .host _ _ => none
  | .halyard dir => halOcc (s.halAt dir)
  | .prep id => some id
  | .packet n => (tabGet none s.sched.packets n).map fun p => p.occ
  | .moor k => some (k / 1024)
  | .spawn o _ => (s.core o).occ
  | .peer _ => none

/-- A miss waits in fault for 10 ms, under the next fault identifier. -/
def reportFault (s : State) (h : BitVec 8) (e : Nat) (perm : Bool) : State :=
  let id := s.mem.nextFault
  (mapMiss s h e fun m => { m with stage := .fault, permission := perm, faultId := id, deadline := s.time.now + 10000000 }).mapMem
    fun k => { k with nextFault := id + 1 }

/-- PAGEFAULT (07 R169): slice ix, entry value, flag for a permission fault. The command processor writes the record, which names the
occurrence of the first requester that is an agent of one (04 R98); the requesters wait up to 10 ms for RESUME. -/
def execPagefault (s : State) : Host.Outcome State Fault Refusal :=
  let h : BitVec 8 := BitVec.ofNat 8 s.ev.ix
  let e := s.ev.value.toNat
  .next (match tabGet none (s.slice h).misses e with
    | none => s
    | some m =>
      eventRecord (reportFault s h e s.ev.flag) m.ctx 4 0x40 ((m.who :: m.also).findSome? (requesterOcc s))
        (payload2 (missPage m) (s.mem.nextFault.toNat + 2 ^ 16 * (if s.ev.flag then 2 else 1))))

/-- The fault waits for which p holds: slice and entry. -/
def faultWaits (s : State) (p : Miss → Bool) : List (BitVec 8 × Nat) :=
  s.mem.slices.flatMap fun e => e.2.misses.filterMap fun x =>
    match x.2 with
    | some m => if m.stage = .fault && m.deadline ≠ 0 && p m then some (BitVec.ofNat 8 e.1, x.1) else none
    | none => none

/-- Fail a miss: its requester's access fails with XLATE or its equivalent. -/
def failMiss (s : State) (h : BitVec 8) (e : Nat) : State :=
  match tabGet none (s.slice h).misses e with
  | none => s
  | some m => endMiss s h e (some (BitVec.ofNat 64 (65536 * m.page)))

/-- TRANSLATION_TIMEOUT (07 R169): fault identifier value; its 10 ms have passed. -/
def execTranslationTimeout (s : State) : Host.Outcome State Fault Refusal :=
  .next ((faultWaits s fun m => m.faultId.toNat = s.ev.value.toNat && m.deadline ≤ s.time.now).foldl (fun s e => failMiss s e.1 e.2) s)

/-- A RESUME or FAIL of a context's fault identifier. -/
def answerFault (s : State) (x : BitVec 6) (id : Nat) (resume : Bool) : State :=
  (faultWaits s fun m => m.ctx = x && m.faultId.toNat = id).foldl (fun s e =>
    if resume then mapMiss s e.1 e.2 fun m => { m with stage := .held, deadline := 0 } else failMiss s e.1 e.2) s

/-- XINVAL_RESUME (07 R169, R170): the walk is made again. -/
def execXinvalResume (s : State) : Host.Outcome State Fault Refusal := .next (answerFault s s.ev.ctx s.ev.value.toNat true)
/-- XINVAL_FAIL (07 R169, R170). -/
def execXinvalFail (s : State) : Host.Outcome State Fault Refusal := .next (answerFault s s.ev.ctx s.ev.value.toNat false)

/-- Write back and drop the scavenger cache lines of a core for which p holds, by virtual line. -/
def dropLines (s : State) (c : BitVec 10) (p : Nat → Bool) : State :=
  (dcOut s c fun d => p d.vline).mapCore c fun k => { k with icache := k.icache.filter (fun d => !p d.line), ccache := k.ccache.filter fun d => !p d.line }

/-- Whether a virtual address lies in an invalidation's range: 1 a 64 KiB page, 2 a 512 MiB page, 3 everything. -/
def inInval (r : Nat × Nat) (va : Nat) : Bool :=
  match r.1 with
  | 1 => va / 2 ^ 16 = r.2 / 2 ^ 16
  | 2 => va / 2 ^ 29 = r.2 / 2 ^ 29
  | _ => true

/-- Whether a translation maps part of the range. -/
def transIn (r : Nat × Nat) (x : BitVec 6) (t : Trans) : Bool :=
  t.ctx = x && (match r.1 with
    | 1 => t.page * pageBytes t.huge / 2 ^ 16 = r.2 / 2 ^ 16 || (t.huge && t.page = r.2 / 2 ^ 29)
    | 2 => t.page * pageBytes t.huge / 2 ^ 29 = r.2 / 2 ^ 29
    | _ => true)

/-- Invalidate a context's range at every slice and cache: its translations go, its lines are written back and invalidated (07 R170). -/
def invalidate (s : State) (x : BitVec 6) (r : Nat × Nat) : State :=
  let s := (s.cores.filter fun e => ctxOfCore s (BitVec.ofNat 10 e.1) = x).foldl (fun s e =>
    dropLines s (BitVec.ofNat 10 e.1) fun l => inInval r (64 * l)) s
  let s := (linesHeld s x fun l => inInval r (64 * l)).foldl evictLine s
  s.mapMem fun m => { m with slices := tabMap Slice.reset (fun _ k => { k with tlb := k.tlb.filter fun t => !transIn r x t }) m.slices }

/-- End a context's invalidation: it is done at every slice and BUSY is cleared. -/
def endInval (s : State) (x : BitVec 6) : State :=
  match (s.ctx x).inval with
  | none => s
  | some r =>
    -- a walk that has begun under the old entries begins again
    let s := (s.mem.walks.map fun e => BitVec.ofNat 10 e.1).foldl (fun s c => match walkTarget s c with
      | some (_, m) => if m.ctx = x then putWalk s c none else s
      | none => s) s
    (invalidate s x r).mapCtx x fun c => { c with inval := none, busy := false }

/-- Begin an invalidation; one in progress is completed first. -/
def beginInval (s : State) (x : BitVec 6) (kind va : Nat) : State :=
  (endInval s x).mapCtx x fun c => { c with inval := some (kind, va), busy := true }

/-- INVPAGE (07 R170): context, page value. -/
def execInvpage (s : State) : Host.Outcome State Fault Refusal := .next (beginInval s s.ev.ctx 1 s.ev.value.toNat)
/-- INVHUGE (07 R170). -/
def execInvhuge (s : State) : Host.Outcome State Fault Refusal := .next (beginInval s s.ev.ctx 2 s.ev.value.toNat)
/-- INVALL (07 R170). -/
def execInvall (s : State) : Host.Outcome State Fault Refusal := .next (beginInval s s.ev.ctx 3 0)
/-- INVALIDATION_COMPLETE (07 R170). -/
def execInvalidationComplete (s : State) : Host.Outcome State Fault Refusal := .next (endInval s s.ev.ctx)

/-! ### Interleave domains (07 R165, R166) -/

/-- Change a domain register. -/
def mapDom (s : State) (d : Nat) (f : Dom → Dom) : State := s.mapSched fun m => { m with doms := tabPut Dom.reset m.doms d (f (s.dom d)) }

/-- A write of DOMCFGd: dropped unless MASK + 1 is a power of two that divides BASE; it starts a domain change. -/
def writeDomcfg (s : State) (w : Who) (d : BitVec 6) (v : Word) : State :=
  ownerWrite s w fun s =>
    let b : Byte := v.extractLsb' 0 8
    let m : Byte := v.extractLsb' 8 8
    if m &&& (m + 1) ≠ 0 || b &&& m ≠ 0 then s
    else (mapDom s d.toNat fun k => { k with pending := true }).mapSched fun k => { k with domChanges := k.domChanges ++ [.cfg d b m] }

/-- DOMCFG_WRITE (07 R165, R166): domain ix. -/
def execDomcfgWrite (s : State) : Host.Outcome State Fault Refusal :=
  .next (writeDomcfg s s.ev.who (BitVec.ofNat 6 s.ev.ix) s.ev.value)

/-- Whether a context's DOMSEL is in use: an occurrence of it exists, or a slice holds a translation of it. -/
def domselUsed (s : State) (x : BitVec 6) : Bool :=
  (s.sched.occs.any fun e => match e.2 with
    | some o => o.ctx = x
    | none => false) || s.mem.slices.any fun e => e.2.tlb.any fun t => t.ctx = x

/-- The domains that a change affects: a register's own, and for a DOMSEL those of the regions whose number it changes (07 R166). -/
def affected (s : State) : DomChange → List Nat
  | .cfg n _ _ => [n.toNat]
  | .sel x v => ((List.range 8).filter fun j => fieldOf (s.ctx x).domsel (6 * j) 6 ≠ fieldOf v (6 * j) 6).map fun j => fieldOf (s.ctx x).domsel (6 * j) 6

/-- PENDING of every domain that the changes of a list affect. -/
def setPending (s : State) (l : List DomChange) : State := (l.flatMap (affected s)).foldl (fun s n => mapDom s n fun k => { k with pending := true }) s

/-- A write of a context's DOMSEL: one in use starts a domain change. -/
def writeDomsel (s : State) (x : BitVec 6) (v : Word) : State :=
  let v := putField v 48 16 0
  if domselUsed s x then (setPending s [.sel x v]).mapSched fun k => { k with domChanges := k.domChanges ++ [.sel x v] }
  else s.mapCtx x fun c => { c with domsel := v }

/-- DOMSEL_WRITE (07 R165): by the context's function. -/
def execDomselWrite (s : State) : Host.Outcome State Fault Refusal :=
  .next (if reachable s s.ev.who && s.ev.who = .fn (fnOf s.ev.ctx) then writeDomsel s s.ev.ctx s.ev.value else s)

/-- Whether a virtual address of a context belongs to a change. -/
def changes (s : State) (d : DomChange) (x : BitVec 6) (va : Nat) : Bool := (affected s d).contains (domainOf s x va)

/-- Whether a slice is an old home of the change's lines. -/
def oldHome (s : State) (d : DomChange) (h : Nat) : Bool :=
  (affected s d).any fun n => (s.dom n).base.toNat ≤ h && h ≤ (s.dom n).base.toNat + (s.dom n).mask.toNat

/-- Whether a granule of global memory belongs to a change; one whose line no slice holds may. -/
def granuleIn (s : State) (d : DomChange) (g : Nat) : Bool :=
  match (lineMark s (8 * (g - 2 ^ 48))).own with
  | some o => changes s d o.ctx (64 * o.vline)
  | none => true

/-- Whether the reservation queues of the old home slices have drained (07 R166 step 2). -/
def drained (s : State) (d : DomChange) : Bool :=
  s.mem.resq.all fun e => !(e.1 ≥ 2 ^ 20 && oldHome s d (e.1 - 2 ^ 20)) || !e.2.any fun w => granuleIn s d w.granule

/-- Step 2: the lines of the affected domains are written back and invalidated in their old slices. -/
def changedLines (s : State) (d : DomChange) : List Nat :=
  (s.mem.lines.filter fun e => match e.2.own with
    | some o => changes s d o.ctx (64 * o.vline)
    | none => false).map fun e => 64 * e.1

/-- Step 3: the new value. -/
def applyChange (s : State) : DomChange → State
  | .cfg n b m => mapDom s n.toNat fun k => { k with base := b, mask := m }
  | .sel x v => s.mapCtx x fun c => { c with domsel := v }

/-- A held LRW joins the queue of its new home slice, whose translation of the page is walked for now (log entry 95); one that has moved on,
or that finds no page, makes its own way. -/
def serveHeld (s : State) (w : LrwHold) : State :=
  let th := s.thread w.core w.thread
  if domainBusy s w.ctx w.va || th.st ≠ .running || th.pc ≠ w.pc then s
  else
    let s := match look s w.ctx w.va .atomic with
      | .hit _ _ _ => s
      | .wait _ => (walkInstall s w.ctx w.va).getD s
    match look s w.ctx w.va .atomic with
    | .wait _ => s
    | .hit _ _ pa =>
      match joinQueue s (sliceQueue (homeSlice s w.ctx w.va)) (physWordKey pa) (.thread w.core w.thread) with
      | .full => s
      | .held s => s.mapThread w.core w.thread fun th => { th with st := .lrw }
      | .waits s => s.mapThread w.core w.thread fun th => { th with st := .lrw }

/-- Step 4: PENDING is cleared but for the changes that still wait; then the held LRWs join the queues of their new homes, in the order in which
they were held. -/
def endChange (s : State) (old : List Nat) (r : List DomChange) : State :=
  let s := setPending (old.foldl (fun s n => mapDom s n fun k => { k with pending := false }) s) r
  let s := s.mem.lrwHeld.foldl serveHeld s
  s.mapMem fun m => { m with lrwHeld := m.lrwHeld.filter fun w => domainBusy s w.ctx w.va }

/-- DOMAIN_CHANGE_COMPLETE (07 R166): the oldest change, once its queues have drained: ranged write-back, new value, waiters go on. -/
def execDomainChangeComplete (s : State) : Host.Outcome State Fault Refusal :=
  .next (match s.sched.domChanges with
    | [] => s
    | d :: r =>
      if !drained s d then s
      else
        let old := affected s d
        let s := ((changedLines s d).foldl evictLine s).mapSched fun m => { m with domChanges := r }
        endChange (applyChange s d) old r)

/-! ### Responses of the dynamic network (07 R163) -/

/-- The miss entry of a thread's fill is free again (07 R174). -/
def freeFill (s : State) (c : BitVec 10) (t : BitVec 3) : State :=
  let ours (m : Miss) : Bool := m.stage = .fill && m.who = .thread c (t.setWidth 4)
  s.mapMem fun m => { m with slices := tabMap Slice.reset (fun _ k =>
    { k with misses := tabMap none (fun _ e => e.bind fun m => if ours m then none else some m) k.misses }) m.slices }

/-- Whether an operation is a plain load. -/
def plainLoad : Instr → Bool
  | .ldb _ => true
  | .ldbn _ => true
  | .ldh _ => true
  | .ldhn _ => true
  | .ldw _ => true
  | .ldwn _ => true
  | .ldd _ => true
  | _ => false

/-- The line of va arrives for core c's thread t, which its access then finds in the cache. A plain load's line is checked as it is filled (08 R203):
one that races is not, and the load finds the race at the home slice. -/
def fillThread (s : State) (c : BitVec 10) (t : BitVec 3) (x : BitVec 6) (va : Nat) (leaf : Word) (pa : Nat) : State :=
  let a : Ag := .thread c (t.setWidth 4)
  if (s.thread c t).issued.any plainLoad && !atReplica s (quadOf c) x leaf va && (accessRace s a x leaf va pa).isSome then s
  else dcFill s c x va leaf pa

/-- SLICE_RESPONSE (07 R163, R168): the fill or acknowledgement that a thread awaits arrives; its access goes on. -/
def execSliceResponse (s : State) : Host.Outcome State Fault Refusal :=
  let c := s.ev.core
  let t : BitVec 3 := s.ev.thread.setWidth 3
  .next (match (s.thread c t).st with
    | .response line =>
      let x := ctxOfThread s c t
      let s := freeFill s c t
      let s := match look s x (64 * line) .read with
        | .hit leaf _ pa => fillThread s c t x (64 * line) leaf pa
        | .wait _ => match look s x (64 * line) .write with
          | .hit leaf _ pa => fillThread s c t x (64 * line) leaf pa
          | .wait _ => s
      s.mapThread c t fun th => { th with st := .running }
    | _ => s)

/-! ### Memory errors (07 R179-R181; 11 R293) -/

/-- Quadrant of a physical address. -/
def quadOfPhys (pa : Nat) : BitVec 2 :=
  if pa < 0x4000000000 then BitVec.ofNat 2 (pa / 0x1000000000) else BitVec.ofNat 2 ((pa - 0x10000000000) / 0x800000000 / 8)

/-- Quadrant in which an error is counted. -/
def quadOfSite : ErrorSite → BitVec 2
  | .core c => quadOf c
  | .barrel c => quadOf c
  | .slice h => BitVec.ofNat 2 (h.toNat / 64)
  | .engine n => quadOfCluster n
  | .scratchpad c _ => quadOf c
  | .memory a => quadOfPhys a.toNat
  | .link l => BitVec.ofNat 2 (l.toNat / 4)

/-- The core whose SRAM holds the error. -/
def coreOfSite : ErrorSite → Option (BitVec 10)
  | .core c => some c
  | .barrel c => some c
  | .scratchpad c _ => some c
  | _ => none

/-- CORRECTED_ERROR (07 R179): counted; an error in a core's SRAM freezes the core and its gang for 24 cycles. -/
def execCorrectedError (s : State) : Host.Outcome State Fault Refusal :=
  let q := (quadOfSite s.ev.site).toNat
  let s1 := s.mapMgmt fun m => { m with eccC := tabPut 0 m.eccC q (tabGet 0 m.eccC q + 1) }
  .next (match coreOfSite s.ev.site with
    | some c => s1.mapCore c fun k => { k with eccLeft := 25 }
    | none => s1)

/-- ECC_FREEZE_END (07 R179): 24 cycles have passed. -/
def execEccFreezeEnd (s : State) : Host.Outcome State Fault Refusal :=
  .next (s.mapCore s.ev.core fun k => if k.eccLeft ≤ 1 then { k with eccLeft := 0 } else k)

/-- An uncorrectable error in the tag of the line at pa (07 R181): the line leaves its slice; a dirty one is written back with its words
poisoned. -/
def poisonLine (s : State) (pa : Nat) : State :=
  let dirty := (List.range 64).any fun i => (tabGet none s.mem.dirty (pa / 64 * 64 + i)).isSome
  let s := settleLine s pa
  if dirty then s.mapMem fun m => { m with poison := (List.range 8).foldl (fun t w => tabPut false t (pa / 64 * 8 + w) true) m.poison } else s

/-- UNCORRECTABLE_ERROR (07 R180, R181): the word is poisoned. For a core, ix numbers a register, an accumulator cell or an edge word,
or with flag a word of its instruction scratchpad; for a barrel, nothing more is stated; for a slice, ix is a translation's place, or
with flag the error is in the tag of the line at physical address value; for an engine with flag, the halyard of directory key ix. -/
def execUncorrectableError (s : State) : Host.Outcome State Fault Refusal :=
  let a := s.ev
  let s1 := countUncorr s (quadOfSite a.site)
  .next (match a.site with
    | .core c =>
      if a.flag then s1.mapMem fun m => { m with ipoison := tabPut false m.ipoison (65536 * c.toNat + a.ix % 65536) true }
      else s1.mapCore c fun k => { k with rpoison := tabPut false k.rpoison a.ix true }
    | .barrel _ => s1
    | .slice h =>
      if a.flag then poisonLine s1 a.value.toNat
      else s1.mapSlice h fun k => { k with tlb := k.tlb.eraseIdx a.ix }
    | .engine _ => if a.flag && (s1.halAt a.ix).st = .live then faultHal s1 a.ix else s1
    | .scratchpad c o => s1.mapMem fun m => { m with spoison := tabPut false m.spoison (spadWordKey c o.toNat) true }
    | .memory p => s1.mapMem fun m => { m with poison := tabPut false m.poison (p.toNat / 8) true }
    | .link _ => s1)

/-! ### Reservations and race tags (08 R201, R206-R208) -/

/-- Whether a holder's SCH is on its way to its bank. -/
def schOnWay (s : State) (w : Waiter) : Bool :=
  if w.thread = 8 then (s.core w.core).accs.any fun a => a.op = .sch || a.op = .schWrite
  else match (s.thread w.core (w.thread.setWidth 3)).issued with
    | some (.sch _) => true
    | _ => false

/-- Whether a waiter's reservation is to be revoked: 4,096 cycles without an SCH (08 R208). -/
def revocable (s : State) (w : Waiter) : Bool :=
  match w.held with
  | some n => n + 4096 ≤ s.cycle && !schOnWay s w
  | none => false

/-- RESERVATION_REVOKE (08 R208): queue ix; its next waiters begin to hold. -/
def execReservationRevoke (s : State) : Host.Outcome State Fault Refusal :=
  .next (mapQueue s s.ev.ix (·.filter fun w => !revocable s w))

/-- RACE_TAG_SWEEP (08 R201): cluster ix, agent code value. -/
def execRaceTagSweep (s : State) : Host.Outcome State Fault Refusal :=
  let n := s.ev.ix
  let w : Byte := s.ev.value.setWidth 8
  let r := tabGet 0 (s.cluster (BitVec.ofNat 6 n)).rel w.toNat
  .next (s.mapMem fun m => { m with stags := tabMap RaceTag.none (fun k t =>
    if k / (16384 * 16) = n && t.writer = w && (r - t.count).toNat > 16384 then .none else t) m.stags })

end Sys2Proof.Machine
end

