-- ==== Sys2Proof/Machine/Launch.lean ====
section
/-! DEFINITION. Schedule entries, launch records, preparation and image loads of occurrences (spec 04 R83-R96; 05 R101-R111;
07 R158-R161). -/

namespace Sys2Proof.Machine

/-! ### Schedule entries (04 R83, R85) -/

/-- A schedule entry's fields (04 Table Command.3). -/
structure Entry where
  instant : Word
  record : Word
  rep : Nat
  clusters : Word
  cores : BitVec 16
  flags : BitVec 16
  period : Nat
  deriving DecidableEq, Repr

/-- n bytes of the schedule table. -/
def tableField (s : State) (off n : Nat) : Nat := leNat ((List.range n).map fun i => tabGet 0 s.sched.table (off + i))

/-- Entry e of the schedule table. -/
def entryOf (s : State) (e : BitVec 12) : Entry :=
  let b := 32 * e.toNat
  let w := tableField s (b + 8) 8
  { instant := BitVec.ofNat 64 (tableField s b 8), record := BitVec.ofNat 64 (w % 2 ^ 57 / 256 * 256),
    rep := w / 2 ^ 57 * 256 + w % 256, clusters := BitVec.ofNat 64 (tableField s (b + 16) 8),
    cores := BitVec.ofNat 16 (tableField s (b + 24) 2), flags := BitVec.ofNat 16 (tableField s (b + 26) 2),
    period := tableField s (b + 28) 4 }

/-- VALID of an entry. -/
def entryValid (s : State) (e : BitVec 12) : Bool := (tabGet 0 s.sched.table (32 * e.toNat + 26)).getLsbD 0

/-- Set VALID of an entry. -/
def setValid (s : State) (e : BitVec 12) (v : Bool) : State :=
  s.mapSched fun m => { m with table := tabPut 0 m.table (32 * e.toNat + 26) (putField (tabGet 0 m.table (32 * e.toNat + 26)) 0 1 (if v then 1 else 0)) }

/-- Entries with VALID set, ascending. -/
def validEntries (s : State) : List (BitVec 12) :=
  (s.sched.table.filter fun c => c.1 % 32 = 26 && c.2.getLsbD 0).map fun c => BitVec.ofNat 12 (c.1 / 32)

/-- Whether entry e lies in the range of VF n's context. -/
def inRange (s : State) (n : Nat) (e : BitVec 12) : Bool :=
  let b := (s.ctx (BitVec.ofNat 6 n)).stbase.toNat
  s.sched.fnOn.getLsbD n && b ≤ e.toNat && e.toNat < b + 256

/-- The context that an entry belongs to (04 R83). -/
def ctxOfEntry (s : State) (e : BitVec 12) : BitVec 6 :=
  match (List.range 16).find? fun n => n ≠ 0 && inRange s n e with
  | some n => BitVec.ofNat 6 n
  | none => (entryOf s e).flags.extractLsb' 10 6

/-- How many occurrences an entry has; none: without end (04 R85). -/
def Entry.limit (e : Entry) : Option Nat := if e.period = 0 then some 1 else if e.rep = 0 then none else some e.rep

/-- The instant of occurrence i, if it is known: a shared entry's later ones count from B (04 R85). Where
occurrence 0 ends before it issues there is no B, and none of them (DESIGN CHOICE, log entry 106). -/
def occInstant (s : State) (e : BitVec 12) (i : Nat) : Option Nat :=
  let x := entryOf s e
  if x.instant ≠ 0 then some (x.instant.toNat + i * x.period * 16)
  else if i = 0 then none
  else match s.sched.baseInstant.find? fun b => b.1 = e.toNat with
    | some b => some (b.2.toNat + i * x.period * 16)
    | none => none

/-- Whether the next occurrence of a VALID entry is to begin its preparation (04 R86). -/
def prepDue (s : State) (e : BitVec 12) : Bool :=
  let i := tabGet 0 s.sched.nextOcc e.toNat
  let left : Bool := match (entryOf s e).limit with
    | some n => decide (i < n)
    | none => true
  entryValid s e && left && (match occInstant s e i with
    | some t => decide (t ≤ s.now + 100000)
    | none => false)

/-! ### Occurrences -/

/-- Whether an occurrence names core c. -/
def Occ.hasCore (o : Occ) (c : BitVec 10) : Bool := o.clusters.getLsbD (clusterOf c).toNat && o.cores.getLsbD (memberOf c).toNat

/-- The clusters of an occurrence. -/
def Occ.clusterList (o : Occ) : List (BitVec 6) := (setBits o.clusters 64).map (BitVec.ofNat 6)

/-- A new occurrence of an entry. -/
def newOcc (s : State) (e : BitVec 12) (i : Nat) (shared : Bool) (instant : Word) : Occ :=
  let x := entryOf s e
  { entry := e, num := i, ctx := ctxOfEntry s e, phase := if shared then .queued else .preparing, shared := shared, instant := instant,
    arm := tabGet 0 s.sched.arming e.toNat, limit := x.limit, bornAt := s.cycle, skipNow := 0, record := x.record, clusters := x.clusters, cores := x.cores, flags := x.flags, image := 0, routerAddr := 0, doneaddr := 0,
    entryWord := 0, gang := 0, power := 0, pclass := 0, keep := false, levels := [], stages := [], variants := 0xFFFF, vector := 0,
    wdPre := 0, wdKill := 0, wdFence := 0, queueCaps := [], halyards := [], args := [], router := none, prep := 0, late := none,
    atInstant := false, toLoad := [], reserved := false, prepWait := none, xfail := false, status := .ok, cause := 0, wdCount := 0,
    wdDone := 0, stopAt := none, stopKill := false, units := [], saved := [] }

/-- Add occurrence i of an entry; its number in the state. -/
def addOcc (s : State) (e : BitVec 12) (i : Nat) (shared : Bool) (instant : Word) : Nat × State :=
  let id := s.sched.nextOccId
  (id, (s.setOcc id (some (newOcc s e i shared instant))).mapSched fun m =>
    { m with nextOccId := id + 1, nextOcc := tabPut 0 m.nextOcc e.toNat (i + 1) })

/-- QUEUE of an occurrence. -/
def Occ.queue (o : Occ) : Nat := fieldOf o.flags 8 2

/-- Change a launch queue of a context. -/
def mapQueueOf (s : State) (x : BitVec 6) (q : Nat) (f : List (Nat × Nat) → List (Nat × Nat)) : State :=
  s.mapCtx x fun c => { c with lq := tabPut [] c.lq q (f (tabGet [] c.lq q)) }

/-! ### Power reservations (01 R20; 04 R91) -/

/-- Add n tokens for each of the cores to the reserved sums, or take them away. -/
def reservePower (s : State) (cs : List (BitVec 10)) (n : Nat) (add : Bool) : State :=
  cs.foldl (fun s c => s.mapCluster (clusterOf c) fun k =>
    { k with reserved := if add then k.reserved + BitVec.ofNat 32 n else k.reserved - BitVec.ofNat 32 n }) s

/-- Whether reservations of n tokens for each of the cores fit the grants. -/
def powerFits (s : State) (cs : List (BitVec 10)) (n : Nat) : Bool :=
  cs.all fun c =>
    let k := s.cluster (clusterOf c)
    k.reserved.toNat + n * (cs.filter fun d => clusterOf d = clusterOf c).length ≤ k.grant.toNat

/-- Tokens that a launch reserves for each core. -/
def Occ.tokens (o : Occ) : Nat := 200000 * o.power

/-- The cores whose power an occurrence holds. -/
def Occ.powered (o : Occ) : List (BitVec 10) := if o.reserved then o.coreList.filter fun c => !o.stored c else []

/-- Release an occurrence's power. -/
def releasePower (s : State) (id : Nat) : State :=
  match s.occ? id with
  | none => s
  | some o => (reservePower s o.powered o.tokens false).mapOcc id fun o => { o with reserved := false }

/-- Release the stage queues of an occurrence. -/
def releaseQueues (s : State) (id : Nat) (o : Occ) : State :=
  o.clusterList.foldl (fun s n => s.mapCluster n fun k => { k with queues := tabDrop (fun j => j / 32 = id) k.queues }) s

/-! ### The end of an occurrence that has not run (04 R85, R89, R94) -/

/-- An occurrence leaves the machine: its launch queue, its misses, and VALID after the last one of the entry's present arming (04 R85). -/
def retireOcc (s : State) (id : Nat) : State :=
  match s.occ? id with
  | none => s
  | some o =>
    let s := mapQueueOf s o.ctx o.queue (·.filter fun e => e.1 ≠ id)
    let s := (leaveMisses s (.prep id)).setOcc id none
    match o.limit with
    | some n => if o.num + 1 ≥ n && o.arm = tabGet 0 s.sched.arming o.entry.toNat then setValid s o.entry false else s
    | none => s

/-- Park or leave the halyards of an occurrence without waiting: used where nothing has been written for it yet. -/
def unbindHals (s : State) (id : Nat) : State :=
  (s.sched.hals.filter fun e => e.2.owner = some id && e.2.st = .live).foldl (fun s e => parkNow s e.1) s

/-- Nothing of a launch is left on a core; thread 7 and the gate stay. -/
def clearCore (s : State) (c : BitVec 10) : State :=
  (dcEmpty s c).mapCore c fun k =>
    { Core.reset with threads := k.threads.filter (fun t => t.1 = 7), gate := k.gate, idle := s.cycle + 1, used := k.used, usedAt := k.usedAt,
                      eccLeft := k.eccLeft, lastPick := k.lastPick, pickedAt := k.pickedAt, pickedNow := k.pickedNow }

/-- A core becomes free: selection is due (05 R117). -/
def freeCore (s : State) (c : BitVec 10) : State := (clearCore s c).mapSched fun m => { m with freed := true }

/-- Free every core that an occurrence holds. -/
def freeCores (s : State) (id : Nat) (o : Occ) : State :=
  (o.coreList.filter fun c => (s.core c).occ = some id).foldl freeCore s

/-- Release what an occurrence holds before it has run. -/
def releaseAll (s : State) (id : Nat) : State :=
  match s.occ? id with
  | none => s
  | some o => (freeCores (unbindHals (releaseQueues (releasePower s id) id o) id) id o).mapSched fun m => { m with freed := true }

/-- A refusal (04 R94): the record of kind 2, the release, the completion record. The spec gives the event record no payload
(log entry 1). One refused before its record is read sends vector 0 if FLAGS.IRQ is 1 and writes no completion record (DESIGN CHOICE, log entry 105). -/
def refuseOcc (s : State) (id reason : Nat) : State :=
  let s := eventRecord s (match s.occ? id with
    | some o => o.ctx
    | none => 0) 2 reason (some id) ((s.free 4097).toNat % 2 ^ 128)
  let s := releaseAll s id
  match s.occ? id with
  | none => s
  | some o => retireOcc (completionRecord s id o .refused (BitVec.ofNat 8 reason) 0 0) id

/-- The LAUNCHLATE record (04 R89, R98); the second half of its payload is not given (log entry 1). -/
def lateRecord (s : State) (id : Nat) (o : Occ) (reason lateness : Nat) : State :=
  eventRecord s o.ctx 1 reason (some id) (payload2 lateness (s.free 4098).toNat)

/-- A skipped occurrence whose record has been read: its completion record, with the NOW of the decision (04 R89). -/
def endSkip (s : State) (id : Nat) (o : Occ) : State :=
  retireOcc (completionAt s o.skipNow.toNat id o .skipped ((o.late.getD 0).setWidth 8) 0 0) id

/-- A late occurrence with LATE = 1 is skipped at once (04 R89): its event record is written and it holds nothing from then on; a launch record
that has not been read yet is read first for the completion record. -/
def skipOcc (s : State) (id : Nat) (o : Occ) (reason : Nat) : State :=
  let s := releaseAll (lateRecord s id o reason 0) id
  let o' := { o with late := some (BitVec.ofNat 3 reason), skipNow := s.time.now, phase := .skipped }
  if o.prep ≥ 1 then endSkip s id o' else s.mapOcc id fun o => { o with late := o'.late, skipNow := o'.skipNow, phase := .skipped, toLoad := [] }

/-- An occurrence is found late; the first reason stands. -/
def lateOcc (s : State) (id reason : Nat) : State :=
  match s.occ? id with
  | none => s
  | some o =>
    if o.late.isSome then s
    else if o.flags.getLsbD 3 then skipOcc s id o reason
    else s.mapOcc id fun o => { o with late := some (BitVec.ofNat 3 reason) }

/-! ### Reading a context's memory for a preparation (04 R91; 07 R168, R169) -/

/-- n bytes at va in parts that lie in one 64 KiB page each. -/
def pageParts (va n : Nat) : List (Nat × Nat) :=
  if n = 0 then []
  else (rangeOf (va / 65536) ((va + n - 1) / 65536)).map fun p =>
    (max va (65536 * p), min (va + n) (65536 * (p + 1)) - max va (65536 * p))

/-- What a step of preparation came to; gone: the occurrence has ended. -/
inductive Prep where
  | ok (s : State)
  | wait (s : State)
  | refuse (reason : Nat) (s : State)
  | gone (s : State)
  deriving DecidableEq, Repr

/-- Go on after a step. -/
def Prep.andThen (p : Prep) (k : State → Prep) : Prep :=
  match p with
  | .ok s => k s
  | p => p

/-- The lines of a preparation's read: a launch record and a router program are read at system scope, past their home slices; an image through them
(04 R91; 07 R172). -/
def prepServe (s : State) (x : BitVec 6) (leaf : Word) (kind : AccessKind) (va pa n : Nat) : State :=
  if kind = .read then (linesOf pa n).foldl evictLine s else serveLines s x leaf va pa n

/-- Make every part readable, then k; a failed read is refused with a reason. -/
def prepRead (s : State) (id : Nat) (o : Occ) (kind : AccessKind) (reason : Nat) (k : State → Prep) : List (Nat × Nat) → Prep
  | [] => k s
  | p :: r =>
    if p.1 + p.2 > 2 ^ 57 then .refuse reason s
    else match look s o.ctx p.1 kind with
      | .hit leaf _ pa =>
        if fillHeld s o.ctx leaf p.1 pa p.2 then .wait s
        else if physPoisoned s pa p.2 then .refuse reason s
        else prepRead (prepServe s o.ctx leaf kind p.1 pa p.2) id o kind reason k r
      | .wait perm =>
        if o.xfail then .refuse reason s
        else if domainBusy s o.ctx p.1 then .wait s
        else
          let h := homeSlice s o.ctx p.1
          match requestMiss s h o.ctx p.1 kind (.prep id) perm with
          | (some e, s) => .wait (s.mapOcc id fun o => { o with prepWait := some (h, e) })
          | (none, s) => .wait s

/-- Bytes at va, once readable. -/
def prepBytes (s : State) (o : Occ) (kind : AccessKind) (va n : Nat) : List Byte :=
  (pageParts va n).flatMap fun p => match look s o.ctx p.1 kind with
    | .hit _ _ pa => physBytes s pa p.2
    | .wait _ => []

/-! ### The launch record (04 R91-R94, Table Command.7) -/

/-- n 2-byte fields from offset off. -/
def halves (v off n : Nat) : List (BitVec 16) := (List.range n).map fun i => BitVec.ofNat 16 (recField v (off + 2 * i) 2)
/-- n 4-byte fields from offset off. -/
def words32 (v off n : Nat) : List (BitVec 32) := (List.range n).map fun i => BitVec.ofNat 32 (recField v (off + 4 * i) 4)

/-- The record's fields in an occurrence. -/
def occOfRecord (o : Occ) (v : Nat) : Occ :=
  { o with
    image := BitVec.ofNat 64 (recField v 0 8), routerAddr := BitVec.ofNat 64 (recField v 8 8), doneaddr := BitVec.ofNat 64 (recField v 16 8)
    entryWord := BitVec.ofNat 16 (recField v 24 2), gang := recField v 28 1, power := recField v 29 1, pclass := recField v 30 1
    keep := recField v 31 1 % 2 = 1, levels := words32 v 32 8, stages := halves v 64 4, variants := BitVec.ofNat 16 (recField v 72 2)
    vector := BitVec.ofNat 16 (recField v 74 2), wdPre := BitVec.ofNat 32 (recField v 80 4), wdKill := BitVec.ofNat 32 (recField v 84 4)
    wdFence := BitVec.ofNat 32 (recField v 88 4), queueCaps := halves v 96 32, halyards := words32 v 160 8
    args := (List.range 8).map fun i => BitVec.ofNat 64 (recField v (192 + 8 * i) 8) }

/-- Numbers that are not 0 never decrease. -/
def rising : List Nat → Bool
  | a :: b :: r => a ≤ b && rising (b :: r)
  | _ => true

/-- A record refused with RECORD (04 Table Command.9; DEDUCED, log entry 54). -/
def recordBad (v : Nat) : Bool :=
  recField v 26 2 ≠ 0 || recField v 76 4 ≠ 0 || recField v 92 4 ≠ 0 || recField v 31 1 > 1 || recField v 30 1 > 3 ||
    recField v 0 8 % 64 ≠ 0 || recField v 16 8 % 32 ≠ 0 ||
    (words32 v 32 8).any (fun l => l.toNat / 256 ≠ 0 || l.getLsbD 3) ||
    (words32 v 160 8).any (fun h => fieldOf h 12 4 ≠ 0 || fieldOf h 26 5 ≠ 0) ||
    !rising ([recField v 80 4, recField v 84 4, recField v 88 4].filter (· ≠ 0))

/-- GANGMASK (04 Table Command.9; 05 R102). -/
def gangBad (o : Occ) : Bool :=
  o.gang > 4 || o.cores = 0 || o.clusters = 0 ||
    (List.range 16).any fun k => k % 2 ^ o.gang = 0 && !(fieldOf o.cores k (2 ^ o.gang) = 0 || fieldOf o.cores k (2 ^ o.gang) = 2 ^ 2 ^ o.gang - 1)

/-- SCOPE of a level declaration. -/
def levelScope (l : BitVec 32) : Nat := fieldOf l 4 3

/-- The smallest scope that contains a domain (04 R93). -/
def domainScope (d : Nat) : Nat :=
  match d with
  | 0 => 0
  | 1 => 0
  | 2 => 1
  | 3 => 1
  | 4 => 2
  | 5 => 3
  | _ => 4

/-- Domain codes strictly increase. -/
def increasing : List Nat → Bool
  | a :: b :: r => a < b && increasing (b :: r)
  | _ => true

/-- LEVELS (04 R93). -/
def levelsBad (o : Occ) : Bool :=
  let l := o.levels.filter levelOn
  l ≠ o.levels.take l.length || !increasing (l.map levelDomain) ||
    l.any fun x => levelDomain x = 7 || levelScope x > 4 || levelScope x < domainScope (levelDomain x)

/-- PLACE (04 Table Command.9; 05 R129). -/
def placeBad (s : State) (o : Occ) : Bool :=
  o.clusters &&& ~~~(s.ctx o.ctx).clusters ≠ 0 || o.coreList.any fun c => tabGet false s.sched.fenced c.toNat

/-- Reason of the checks of steps 3 to 5 (04 R94). -/
def maskReason (s : State) (o : Occ) : Option Nat :=
  if gangBad o then some 3 else if levelsBad o then some 7 else if placeBad s o then some 8 else none

/-- Step 1: the launch record is read and checked, and the masks. For a skipped occurrence only DONEADDR, FLAGS and VECTOR matter; one
whose record cannot be read has no completion record (DEDUCED, log entry 89). -/
def prepRecord (s : State) (id : Nat) : Prep :=
  match s.occ? id with
  | none => .gone s
  | some o =>
    if o.prep ≥ 1 then .ok s
    else
      let unowned : Bool := s.owner.holder = 0
      let r := prepRead s id o .read (if unowned then 9 else 1) (fun s =>
        let v := leNat (prepBytes s o .read o.record.toNat 256)
        let s := s.mapOcc id fun o => { occOfRecord o v with prep := 1 }
        match s.occ? id with
        | none => .gone s
        | some o =>
          if o.phase = .skipped then .gone (endSkip s id o)
          else if unowned then .refuse 9 s
          else if recordBad v then .refuse 1 s
          else match maskReason s o with
            | some r => .refuse r s
            | none => .ok s) (pageParts o.record.toNat 256)
      match r with
      | .refuse n s => if o.phase = .skipped then .gone (retireOcc s id) else .refuse n s
      | r => r

/-! ### Router programs (07 R158-R161) -/

/-- An entry's fields (07 Table Fabric.4). -/
def routerEntry (r : Nat) (v : Nat) : RouterEntry :=
  { router := BitVec.ofNat 6 r, core := BitVec.ofNat 4 (v / 2 ^ 22 % 16), chan := BitVec.ofNat 6 (v / 2 ^ 16 % 64),
    out := BitVec.ofNat 3 (v / 2 ^ 13 % 8), inp := BitVec.ofNat 3 (v / 2 ^ 10 % 8), phase := BitVec.ofNat 10 (v % 1024) }

/-- An entry outside its limits, or one that names a core outside the launch (07 R160). -/
def routerEntryBad (o : Occ) (period v : Nat) (e : RouterEntry) : Bool :=
  v / 2 ^ 26 ≠ 0 || e.out.toNat > 4 || e.inp.toNat > 4 || e.phase.toNat ≥ period ||
    (if e.out = 4 || e.inp = 4 then !o.hasCore (coreAt e.router e.core) else e.core ≠ 0)

/-- Two entries of one router with the same PHASE and OUT. -/
def routerClash : List RouterEntry → Bool
  | [] => false
  | e :: r => r.any (fun f => f.router = e.router && f.phase = e.phase && f.out = e.out) || routerClash r

/-- The program is whole: its entries do not clash. -/
def routerDone (s : State) (id : Nat) (period sync : Nat) (l : List RouterEntry) : Prep :=
  if routerClash l then .refuse 1 s
  else .ok (s.mapOcc id fun o => { o with prep := 2, router := some { period := period, sync := BitVec.ofNat 16 sync, entries := l, phase := 0, at_ := 0, held := [] } })

/-- Read the sections left of a router program from va on. -/
def routerSections (id : Nat) (o : Occ) (period sync : Nat) : Nat → Nat → List RouterEntry → State → Prep
  | 0, _, l, s => routerDone s id period sync l
  | n + 1, va, l, s =>
    prepRead s id o .read 1 (fun s =>
      let h := leNat (prepBytes s o .read va 8)
      let r := recField h 0 2
      let c := recField h 2 2
      if r > 63 || c = 0 || c > 1024 || recField h 4 4 ≠ 0 then .refuse 1 s
      else prepRead s id o .read 1 (fun s =>
        let vs := (chunks 8 c (prepBytes s o .read (va + 8) (8 * c))).map leNat
        if vs.any fun v => routerEntryBad o period v (routerEntry r v) then .refuse 1 s
        else routerSections id o period sync n (va + 8 + 8 * c) (l ++ vs.map (routerEntry r)) s) (pageParts (va + 8) (8 * c))) (pageParts va 8)

/-- Step 2: the router program is read and checked. -/
def prepRouter (s : State) (id : Nat) : Prep :=
  match s.occ? id with
  | none => .gone s
  | some o =>
    if o.prep ≥ 2 then .ok s
    else if o.routerAddr = 0 then .ok (s.mapOcc id fun o => { o with prep := 2 })
    else prepRead s id o .read 1 (fun s =>
      let h := leNat (prepBytes s o .read o.routerAddr.toNat 16)
      let period := recField h 4 2
      let n := recField h 6 2
      let sync := recField h 8 2
      if recField h 0 4 ≠ 0x544D5A31 || period = 0 || period > 1024 || n = 0 || n > 64 || !(sync ≤ 511 || sync = 0xFFFF) ||
          recField h 10 6 ≠ 0 then .refuse 1 s
      else routerSections id o period sync n (o.routerAddr.toNat + 16) [] s) (pageParts o.routerAddr.toNat 16)

/-- The router programs loaded: of every occurrence that has passed its fit. -/
def loadedPrograms (s : State) (id : Nat) : List RouterEntry :=
  (occList s).flatMap fun e => if e.1 ≠ id && e.2.prep ≥ 3 && e.2.phase ≠ .restart then
    (match e.2.router with
     | some r => r.entries
     | none => []) else []

/-- Whether every router still holds at most 1,024 entries with the program of an occurrence (07 R160). -/
def routerFits (s : State) (id : Nat) (o : Occ) : Bool :=
  match o.router with
  | none => true
  | some r =>
    let l := loadedPrograms s id
    r.entries.all fun e => ((r.entries.filter fun f => f.router = e.router).length + (l.filter fun f => f.router = e.router).length) ≤ 1024

/-- Whether the output ports that an occurrence names are free (07 R161). -/
def portsFree (s : State) (id : Nat) (o : Occ) : Bool :=
  match o.router with
  | none => true
  | some r => (occList s).all fun e => e.1 = id || !e.2.ownsPorts || (match e.2.router with
      | none => true
      | some q => r.entries.all fun a => q.entries.all fun b => !(a.router = b.router && a.out = b.out))

/-! ### Reservations (04 R91; 05 R106, R108; 06 R151; 22 R478) -/

/-- Declared occupancies are too many for the pool in some cluster. -/
def queuesBad (o : Occ) : Bool := o.queueCaps.foldl (fun n d => n + d.toNat) 0 > 512 * (setBits o.cores 16).length

/-- Empty stage queues of an occurrence in each of its clusters. -/
def makeQueues (s : State) (id : Nat) (o : Occ) : State :=
  o.clusterList.foldl (fun s n => s.mapCluster n fun k =>
    { k with queues := (List.range 32).foldl (fun t j =>
        tabPut .reset t (32 * id + j) { StageQ.reset with
          base := (o.queueCaps.take j).foldl (fun m d => m + d.toNat) 0, cap := (o.queueCaps.getD j 0).toNat }) k.queues }) s

/-- Step 3: the router program fits, and power and queues are reserved. -/
def prepReserve (s : State) (id : Nat) : Prep :=
  match s.occ? id with
  | none => .gone s
  | some o =>
    if o.prep ≥ 3 then .ok s
    else if !routerFits s id o then .refuse 1 s
    else if o.power = 0 || o.power > 7 || !(o.reserved || powerFits s o.coreList o.tokens) then .refuse 4 s
    else
      let s := if o.reserved then s else reservePower s o.coreList o.tokens true
      let s := s.mapOcc id fun o => { o with reserved := true }
      if queuesBad o then .refuse 5 s
      else .ok ((if o.queueCaps.any (· ≠ 0) then makeQueues s id o else s).mapOcc id fun o => { o with prep := 3 })

/-- Present bindings of a record: halyard and global core (04 Table Command.7). -/
def Occ.bindings (o : Occ) : List (BitVec 12 × BitVec 10) :=
  (o.halyards.filter fun h => h.getLsbD 31).map fun h => (h.extractLsb' 0 12, coreAt (h.extractLsb' 16 6) (h.extractLsb' 22 4))

/-- Bind the halyards of a record one after the other; a wait goes on later with those not yet bound. -/
def bindAll (id : Nat) (o : Occ) : List (BitVec 12 × BitVec 10) → State → Prep
  | [], s => .ok (s.mapOcc id fun o => { o with prep := 4 })
  | b :: r, s =>
    let dir := 4096 * o.ctx.toNat + b.1.toNat
    let h := s.halAt dir
    let g := o.guidonOf b.2
    if h.owner = some id && h.st = .live && h.bound = some g then bindAll id o r s
    else if (h.st ≠ .parked && h.st ≠ .live) || !o.hasCore b.2 || apertureElsewhere h (clusterOf g) || liveIn s (clusterOf g) dir ≥ 64 then
      .refuse 6 s
    else match halReady s dir (bindNeeds s dir) with
      | .wait s => .wait s
      | .fail => .refuse 6 (failHal s dir (bindNeeds s dir))
      | .ok => bindAll id o r (bindHal (halHold s dir (bindNeeds s dir)) dir g (some id))

/-- Step 4: the halyards are bound. -/
def prepHalyards (s : State) (id : Nat) : Prep :=
  match s.occ? id with
  | none => .gone s
  | some o => if o.prep ≥ 4 then .ok s else bindAll id o o.bindings s

/-! ### Images (04 R95, R96, Table Command.10; 05 R109-R111) -/

/-- An image's header with its virtual addresses. -/
structure Image where
  words : Nat
  code : Nat
  tags : Nat
  segs : Nat
  segCount : Nat
  cw : Option Nat
  deriving DecidableEq, Repr

/-- The header of an image at va, if it is well formed. -/
def imageHdr (va v : Nat) : Option Image :=
  let n := recField v 4 4
  if recField v 0 4 = 0x314E574B && 1 ≤ n && n ≤ 65536 && recField v 8 8 % 4 = 0 && recField v 32 4 ≤ 64 && recField v 36 4 = 0 &&
      recField v 48 16 = 0 then
    some { words := n, code := va + recField v 8 8, tags := va + recField v 16 8, segs := va + recField v 24 8, segCount := recField v 32 4,
           cw := if recField v 40 8 = 0 then none else some (va + recField v 40 8) }
  else none

/-- A segment: address of its data, destination and length. -/
structure Seg where
  va : Nat
  dest : Nat
  len : Nat
  deriving DecidableEq, Repr

/-- The segments of a segment table. -/
def segsOf (va n : Nat) (l : List Byte) : List Seg :=
  (chunks 16 n l).map fun b =>
    let v := leNat b
    { va := va + recField v 0 8, dest := recField v 8 4, len := recField v 12 4 }

/-- A segment within its limits. -/
def segOk (g : Seg) : Bool := g.dest < 2 ^ 20 && g.dest % 16 = 0 && g.len % 16 = 0 && g.dest + g.len ≤ 2 ^ 20

/-- An image as read: code words with tags, segments, constant-window bases. -/
structure Loaded where
  words : List (BitVec 34)
  segs : List Seg
  cw : List Word
  deriving DecidableEq, Repr

/-- The tagged words of an image. -/
def imageWords (n : Nat) (code tags : List Byte) : List (BitVec 34) :=
  let ts : List (BitVec 2) := tags.flatMap fun b => [b.extractLsb' 0 2, b.extractLsb' 2 2, b.extractLsb' 4 2, b.extractLsb' 6 2]
  ((chunks 4 n code).zip ts).map fun e => e.2 ++ BitVec.ofNat 32 (leNat e.1)

/-- Read an image whole, then k. -/
def readImage (s : State) (id : Nat) (o : Occ) (k : Loaded → State → Prep) : Prep :=
  let va := o.image.toNat
  prepRead s id o .image 2 (fun s =>
    match imageHdr va (leNat (prepBytes s o .image va 64)) with
    | none => .refuse 2 s
    | some h =>
      prepRead s id o .image 2 (fun s =>
        let segs := segsOf va h.segCount (prepBytes s o .image h.segs (16 * h.segCount))
        if !segs.all segOk then .refuse 2 s
        else prepRead s id o .image 2 (fun s =>
          k { words := imageWords h.words (prepBytes s o .image h.code (4 * h.words)) (prepBytes s o .image h.tags (ceilDiv h.words 4)),
              segs := segs,
              cw := match h.cw with
                | some w => (chunks 8 8 (prepBytes s o .image w 64)).map fun b => BitVec.ofNat 64 (leNat b)
                | none => [] } s)
          (pageParts h.code (4 * h.words) ++ pageParts h.tags (ceilDiv h.words 4) ++ segs.flatMap (fun g => pageParts g.va g.len) ++
            (match h.cw with
             | some w => pageParts w 64
             | none => [])))
        (pageParts h.segs (16 * h.segCount))) (pageParts va 64)

/-- Whether stage st is present (05 R109). -/
def stageOn (o : Occ) (st : Nat) : Bool := st = 0 || (st < 4 && o.stages.getD st 0xFFFF ≠ 0xFFFF)

/-- Word i of an image is tagged t. -/
def taggedAs (l : Loaded) (t : BitVec 2) (i : Nat) : Bool := tagOf (l.words.getD i 0) = t && i < l.words.length

/-- Word w of block st of the variant table. -/
def vWord (o : Occ) (l : Loaded) (st w : Nat) : Half := wordOf (l.words.getD (o.variants.toNat + 24 * st + w) 0)

/-- A present block keeps R110 and R111. -/
def blockOk (o : Occ) (l : Loaded) (st : Nat) : Bool :=
  let w (i : Nat) : Half := vWord o l st i
  let n := fieldOf (w 2) 0 3
  let hi : Bool := (w 0).getLsbD 21
  let lo : Bool := (w 0).getLsbD 20
  let gov : Bool := (w 0).getLsbD 31
  fieldOf (w 0) 0 20 = 0 && fieldOf (w 2) 3 29 = 0 && w 3 = 0 && 1 ≤ n && n ≤ 4 &&
    (List.range 4).all (fun v =>
      if v < n then fieldOf (w (4 + 5 * v)) 16 16 = 0 && taggedAs l 1 (fieldOf (w (4 + 5 * v)) 0 16) &&
        (List.range (2 ^ o.gang)).all (fun i => fieldOf (w (5 + 5 * v + i / 4)) (8 * (i % 4)) 8 ≠ 0)
      else (List.range 5).all fun j => w (4 + 5 * v + j) = 0) &&
    (!(gov && hi) || stageOn o (fieldOf (w 0) 24 2)) && (!(gov && lo) || stageOn o (fieldOf (w 0) 22 2)) &&
    (!(hi && lo) || fieldOf (w 1) 16 16 > fieldOf (w 1) 0 16)

/-- The blocks of the variant table: stage 0 to the highest present stage. -/
def tableBlocks (o : Occ) : List Nat := (List.range 4).filter fun st => (List.range 4).any fun t => st ≤ t && stageOn o t

/-- The variant table keeps R111. -/
def variantsOk (o : Occ) (l : Loaded) : Bool :=
  (tableBlocks o).all fun st =>
    (List.range 24).all (fun w => taggedAs l 3 (o.variants.toNat + 24 * st + w)) &&
      (if stageOn o st then blockOk o l st else (List.range 24).all fun w => vWord o l st w = 0)

/-- An active governor watches a queue that holds no entry (05 R111: QUEUES). -/
def governorBad (o : Occ) (l : Loaded) : Bool :=
  (tableBlocks o).any fun st =>
    let w := vWord o l st 0
    stageOn o st && w.getLsbD 31 && (w.getLsbD 21 || w.getLsbD 20) && o.queueCaps.getD (fieldOf w 26 5) 0 = 0

/-- ENTRY and the present stages stand on words tagged 01 (04 R93). -/
def startsOk (o : Occ) (l : Loaded) : Bool :=
  taggedAs l 1 o.entryWord.toNat && o.stages.all fun w => w = 0xFFFF || taggedAs l 1 w.toNat

/-- Step 5: the image and the variant table are checked; the loads of the cores may then be made. -/
def prepImage (s : State) (id : Nat) : Prep :=
  match s.occ? id with
  | none => .gone s
  | some o =>
    if o.prep ≥ 5 then .ok s
    else readImage s id o fun l s =>
      if !startsOk o l || (o.variants ≠ 0xFFFF && !variantsOk o l) then .refuse 2 s
      else if o.variants ≠ 0xFFFF && governorBad o l then .refuse 5 s
      else .ok (s.mapOcc id fun o => { o with prep := 5, toLoad := o.coreList })

/-- Whether an occurrence has been selected, or needs no selection: its preparation goes beyond the router program. -/
def Occ.selected (o : Occ) : Bool := o.phase = .preparing

/-- Preparation goes on as far as it can (04 R86, R94; 05 R104). -/
def prepare (s : State) (id : Nat) : State :=
  let r := ((prepRecord s id).andThen fun s => prepRouter s id).andThen fun s =>
    match s.occ? id with
    | none => .gone s
    | some o =>
      if o.selected then ((prepReserve s id).andThen fun s => prepHalyards s id).andThen fun s => prepImage s id
      else .ok s
  match r with
  | .ok s => s
  | .wait s => s
  | .gone s => s
  | .refuse reason s => refuseOcc s id reason

/-! ### Loading a core (04 R95, R96; 08 R205; 09 R239; 10 R270) -/

/-- Whether an occurrence keeps its scratchpads: RFLAGS.KEEP, and its cores last ran the previous occurrence of the entry (04 R96). -/
def keeps (s : State) (o : Occ) : Bool :=
  o.keep && o.num ≥ 1 && o.coreList.all fun c => tabGet none s.sched.lastRun c.toNat = some (o.entry, o.num - 1)

/-- The image in a core's instruction scratchpad; the words beyond it are 0 with tag 00. -/
def loadCode (s : State) (c : BitVec 10) (l : Loaded) : State :=
  s.mapMem fun m => { m with imem := tabReplace 0 (65536 * c.toNat) 65536 l.words m.imem,
                             ipoison := tabReplace false (65536 * c.toNat) 65536 [] m.ipoison }

/-- The data scratchpad zeroed, and the segments copied in. -/
def loadData (s : State) (c : BitVec 10) (o : Occ) (l : Loaded) : State :=
  let s := s.mapMem fun m => { m with spad := tabReplace 0 (1048576 * c.toNat) 1048576 [] m.spad,
                                      spoison := tabReplace false (131072 * c.toNat) 131072 [] m.spoison }
  l.segs.foldl (fun s g => s.mapMem fun m =>
    { m with spad := putBytes m.spad (1048576 * c.toNat + g.dest) (prepBytes s o .image g.va g.len) }) s

/-- Agent codes of the agents of a core in its cluster (08 Table Model.3). -/
def coreCodes (c : BitVec 10) : List Nat := (0x80 + (memberOf c).toNat) :: (List.range 8).map (8 * (memberOf c).toNat + ·)

/-- Keys of the agents of a core. -/
def agentKeys (c : BitVec 10) : List Nat := (Ag.prim c).key :: (List.range 8).map fun t => (Ag.thread c (BitVec.ofNat 4 t)).key

/-- Tags (0xFF, 0), REL and ACQ 0 (08 R205), under KEEP too: nothing of an earlier agent's counts is left to be published or taken. -/
def loadTags (s : State) (c : BitVec 10) : State :=
  let codes := coreCodes c
  (s.mapMem fun m => { m with stags := tabReplace .none (16384 * c.toNat) 16384 [] m.stags
                              relInfo := tabReplace [] (131072 * c.toNat) 131072 [] m.relInfo
                              lastRel := tabReplace none (131072 * c.toNat) 131072 [] m.lastRel
                              seen := tabDrop (fun n => (agentKeys c).contains n) m.seen
                              fenceRel := tabDrop (fun n => (agentKeys c).contains n) m.fenceRel }).mapCluster (clusterOf c) fun k =>
    { k with rel := tabDrop (fun i => codes.contains i) k.rel, acq := tabDrop (fun i => codes.contains (i / 256)) k.acq,
             far := tabDrop (fun i => codes.contains (i / 16384)) k.far }

/-- The launch state of a core (09 Table Primary.14; 05 R102). -/
def launchCore (k : Core) (id : Nat) (o : Occ) (c : BitVec 10) (cw : List Word) : Core :=
  { k with
    sreg := tabOfList 0 1 o.args, cw := tabOfList 0 0 cw, pc := o.entryWord, gangSize := o.gang, guidon := o.guidonOf c,
    rank := c.toNat - (o.guidonOf c).toNat, run := .idle, occ := some id }

/-- What a core's scratchpads hold: of which entry's which occurrence (04 R96). -/
def noteRun (s : State) (c : BitVec 10) (v : Option (BitVec 12 × Nat)) : State :=
  s.mapSched fun m => { m with lastRun := tabPut none m.lastRun c.toNat v }

/-- Load core c of an occurrence from its image; under KEEP only the registers. A full load leaves nothing of an earlier occurrence. -/
def loadCore (s : State) (id : Nat) (o : Occ) (c : BitVec 10) (l : Loaded) : State :=
  let s := if keeps s o then s else noteRun (loadData (loadCode s c l) c o l) c none
  (loadTags (clearCore s c) c).mapCore c fun k => launchCore k id o c l.cw

/-- Whether a core may be loaded for an occurrence: nothing else holds it, and its power is on. -/
def loadable (s : State) (id : Nat) (c : BitVec 10) : Bool :=
  let k := s.core c
  (k.occ = none || k.occ = some id) && (k.gate = .on || (match k.gate with
    | .prepare _ => true
    | _ => false)) && !tabGet false s.sched.fenced c.toNat

/-- The first occurrence that waits to load core c. -/
def loaderOf (s : State) (c : BitVec 10) : Option (Nat × Occ) := (occList s).find? fun e => e.2.toLoad.contains c

/-- A core of the occurrence has been loaded; the last load completes the preparation. -/
def Occ.loaded (c : BitVec 10) (o : Occ) : Occ :=
  let r := o.toLoad.filter (· ≠ c)
  { o with toLoad := r, phase := if r.isEmpty then .ready else o.phase }

/-- IMAGE_LOAD (04 R95, R96): the copy unit loads a free core; the last load completes the preparation. -/
def execImageLoad (s : State) : Host.Outcome State Fault Refusal :=
  let c := s.ev.core
  .next (match loaderOf s c with
    | none => s
    | some (id, o) =>
      if !loadable s id c then s
      else match readImage s id o fun l s => .ok (loadCore s id o c l) with
        | .ok s => s.mapOcc id (Occ.loaded c)
        | .wait s => s
        | .gone s => s
        | .refuse reason s => refuseOcc s id reason)

end Sys2Proof.Machine
end

