-- ==== Sys2Proof/Machine/Uses.lean ====
section
/-! DEFINITION. What a primary slot operation names: the registers, literals and edges that the bundle rules count (09 R213,
R218; 14 R354), its issue traps, and its token cost (01 R19). -/

namespace Sys2Proof.Machine

/-- The registers of an operation's fields, one entry per field, and its literals. -/
structure Uses where
  /-- scalar registers read and written -/
  rs : List (BitVec 6) := []
  ws : List (BitVec 6) := []
  /-- predicates written, and predicate operands read -/
  wp : List (BitVec 4) := []
  rp : List (BitVec 4) := []
  rv : List (BitVec 5) := []
  wv : List (BitVec 5) := []
  rm : List (BitVec 3) := []
  wm : List (BitVec 3) := []
  /-- loop register and ln written -/
  wl : List (BitVec 2) := []
  ln : Bool := false
  /-- control and hoist registers written -/
  wc : List Nat := []
  /-- literals named -/
  lits : List Nat := []
  /-- a V extension is read -/
  ext : Bool := false
  /-- MOVX: its source may lie on the other side -/
  cross : Bool := false
  /-- a push or shift of ea, of eb -/
  ea : Bool := false
  eb : Bool := false
  deriving DecidableEq, Repr

/-- Scalar registers of a second operand. -/
def Src.regs : Src → List (BitVec 6)
  | .reg r => [r]
  | _ => []

/-- Literals of a second operand. -/
def Src.literals : Src → List Nat
  | .lit .pair n => [n.toNat, n.toNat + 1]
  | .lit _ n => [n.toNat]
  | _ => []

/-- Layouts SA, with the destination also read or not. -/
def aluUses (f : AluForm) (old : Bool) : Uses :=
  { rs := f.a :: Src.regs f.b ++ (if old then [f.d] else []), ws := [f.d], lits := Src.literals f.b }

/-- Layout SU. -/
def unUses (f : UnForm) (cross : Bool) : Uses := { rs := [f.a], ws := [f.d], cross := cross }

/-- Compares. -/
def cmpUses (f : CmpForm) : Uses := { rs := f.a :: Src.regs f.b, wp := [f.d], lits := Src.literals f.b }

/-- The predicate that code p names in a slot; none for code 0. -/
def codePred (slot : Slot) (p : BitVec 3) : List (BitVec 4) :=
  if p = 0 then [] else [if slot = .m1 then p.setWidth 4 + 8 else p.setWidth 4]

/-- M operations with a data register: what is read and written beside base and index. -/
def memUses (slot : Slot) (f : MemForm) (reads writes : Bool) (pair : Bool) : Uses :=
  { rs := (if reads then [f.d] else []) ++ (if pair then [f.d + 1] else []) ++ f.a :: Src.regs f.i, ws := if writes then [f.d] else [],
    wp := codePred slot f.p, lits := Src.literals f.i }

/-- A vector result under a mask: the lanes that the mask leaves keep the destination's value. -/
def maskOld (d : BitVec 5) (m : BitVec 3) : List (BitVec 5) := if m = 0 then [] else [d]

/-- Layout VV. -/
def vvUses (f : VForm) (old ext : Bool) : Uses :=
  { rv := [f.a, f.b] ++ (if old then [f.d] else maskOld f.d f.m), wv := [f.d], rm := [f.m], ext := ext }

/-- Whether an arithmetic V operation reads the extension (14 R347). -/
def floatType (t : VType) : Bool := t = .f32 || t = .bf16 || t = .f16

/-- Registers of an X source. -/
def xRegs : XSrc → List (BitVec 6)
  | .desc n => [n ++ 0#1, n ++ 1#1]
  | _ => []

/-- The descriptor register that a push writes. -/
def xAdvance : XSrc → List (BitVec 6)
  | .desc n => [n ++ 0#1]
  | _ => []

/-- Vector registers of an X source. -/
def xVecs : XSrc → List (BitVec 5)
  | .vec n => [n ++ 0#1, n ++ 1#1]
  | _ => []

/-- E operations with two registers. -/
def e2Uses (f : E2Form) (pair : Bool) : Uses := { rs := [f.a], ws := f.d :: (if pair then [f.d + 1] else []) }

/-- E operations with three registers. -/
def e3Uses (f : E3Form) : Uses := { rs := [f.a, f.b], ws := [f.d] }

/-- What an operation in a slot names. -/
def usesOf (slot : Slot) : Instr → Uses
  | .add f | .sub f | .addw f | .subw f | .mul f | .mulh f | .mulhn f | .div f | .divn f | .rem f | .remn f
  | .and f | .or f | .xor f | .andn f | .orn f | .shl f | .shr f | .sra f | .rotr f | .min f | .max f | .minn f | .maxn f
  | .extr f | .sxt f | .zxt f | .lea f | .fadd f | .fsub f | .fmul f | .fmin f | .fmax f | .mix f => aluUses f false
  | .insr f | .ffma f => aluUses f true
  | .clz f | .ctz f | .popc f | .brev f | .mov f | .fcvtI2f f | .fcvtN2f f | .fcvtF2i f | .fcvtF2n f => unUses f false
  | .movx f => unUses f true
  | .cmp f | .cmpn f | .fcmp f => cmpUses f
  | .li f => { rs := Src.regs f.b, ws := [f.d], lits := Src.literals f.b }
  | .pand f | .por f | .pxor f => { rp := [f.a, f.b], wp := [f.d] }
  | .pnot f | .pmov f => { rp := [f.a], wp := [f.d] }
  | .pset f => { wp := [f.d] }
  | .mfc f => { ws := [f.r] }
  | .mtc f => { rs := [f.r], wc := [f.c.toNat] }
  | .now f | .cyc f => { ws := [f.d] }
  | .hset f => { rs := [f.r], wc := [2048 + f.h.toNat] }
  | .hget f => { ws := [f.r] }
  | .ldb f | .ldbn f | .ldh f | .ldhn f | .ldw f | .ldwn f | .ldd f | .lda f | .ptest f | .lrw f => memUses slot f false true false
  | .stb f | .sth f | .stw f | .std f | .strl f | .praise f | .sch f => memUses slot f true false false
  | .pwait f | .aadd f | .aand f | .aor f | .axor f | .amin f | .amax f | .aminn f | .amaxn f | .axch f => memUses slot f true true false
  | .acas f => memUses slot f true true true
  | .ldv f => { rs := f.a :: Src.regs f.i, wv := [f.v], lits := Src.literals f.i }
  | .stv f => { rs := f.a :: Src.regs f.i, rv := [f.v], lits := Src.literals f.i }
  | .vgath f => { rs := [f.a], rv := [f.vi], wv := [f.v] }
  | .vscat f => { rs := [f.a], rv := [f.vi, f.v] }
  | .vadd f | .vsub f | .vmul f => vvUses f false (floatType f.t)
  | .vfma f | .vfms f => vvUses f true (floatType f.t)
  | .vpack f => vvUses f false true
  | .vsel f => { rv := [f.a, f.b], wv := [f.d], rm := [f.m] }
  | .vmulh f | .vmin f | .vmax f | .vand f | .vor f | .vxor f | .vshl f | .vshr f | .vsra f | .vperm f | .vrand f => vvUses f false false
  | .vabs f | .vneg f | .vnot f => { rv := f.a :: maskOld f.d f.m, wv := [f.d], rm := [f.m] }
  | .vargmx f => { rv := [f.a, f.d], wv := [f.d], rm := [f.m] }
  | .vcmp f | .vcmpx f => { rv := [f.a, f.b], wm := [f.n], rm := [f.m] }
  | .vcvt f => { rv := f.a :: maskOld f.d f.m, wv := [f.d], rm := [f.m] }
  | .vunpk f => { rv := f.a :: maskOld f.d f.m ++ maskOld (f.d + 1) f.m, wv := [f.d, f.d + 1], rm := [f.m] }
  | .vqdec f => { rv := f.a :: maskOld f.d f.m, wv := [f.d], rm := [f.m] }
  | .vexp2 f | .vlog2 f | .vrcp f | .vrsq f | .vsqrt f => { rv := f.a :: maskOld f.d f.m, wv := [f.d], rm := [f.m] }
  | .vred f => { rv := [f.a, f.d], wv := [f.d], rm := [f.m] }
  | .vscan f => { rv := f.a :: maskOld f.d f.m, wv := [f.d], rm := [f.m] }
  | .vshuf f => { rv := f.a :: maskOld f.d f.m, wv := [f.d], rm := [f.m] }
  | .vcx f => { rv := [f.a], wv := [f.d], rm := [f.m] }
  | .vbc f => { rs := [f.s], rv := maskOld f.d f.m, wv := [f.d], rm := [f.m] }
  | .vins f => { rs := [f.s], rv := [f.d], wv := [f.d], rm := [f.m] }
  | .vext f => { rv := [f.a], ws := [f.s], rm := [f.m] }
  | .viota f => { rv := maskOld f.d f.m, wv := [f.d], rm := [f.m] }
  | .mand f | .mor f | .mxor f => { rm := [f.a, f.b], wm := [f.d] }
  | .mnot f => { rm := [f.a], wm := [f.d] }
  | .mpop f | .mfirst f | .mtos f => { rm := [f.a], ws := [f.s] }
  | .mfrom f => { rs := [f.s], wm := [f.d] }
  | .mbeat f =>
    let a := if f.pushA then f.a else .none
    let b := if f.pushB then f.b else .none
    { rs := xRegs a ++ xRegs b ++ (if f.drain && f.dkind then [f.dest] else []), ws := xAdvance a ++ xAdvance b,
      rv := xVecs a ++ xVecs b, wv := if f.drain && !f.dkind then [f.dest.setWidth 5] else [],
      ea := f.pushA || f.shA, eb := f.pushB || f.shB }
  | .mscl f => { rs := xRegs f.a ++ xRegs f.b, ws := xAdvance f.a ++ xAdvance f.b, rv := xVecs f.a ++ xVecs f.b }
  | .msave f | .mload f => { rs := [f.dest] }
  | .bri f | .holdcReg f | .holdu f | .phase f | .fmtReg f => { rs := [f.r] }
  | .call _ => { ln := true }
  | .calli f => { rs := [f.r], ln := true }
  | .loop f => { wl := [f.l] }
  | .loopx f => { rs := [f.r], wl := [f.l] }
  | .setfReg f => { rs := [f.r] }
  | .setfLit f => { lits := [f.l.toNat] }
  | .fmtLit f => { lits := [f.l.toNat] }
  | .cpy f | .cpyV f | .cpyq f | .cpyw f | .cpyk f | .hbindBind f | .hbindPark f | .hbindClose f => e2Uses f false
  | .hcut f | .hcutT f => e2Uses f true
  | .hread f => { rs := [f.a], ws := [f.d] }
  | .hbindOpen f | .hframe f | .htent f | .hcommit f | .hckpt f | .hplayHold f | .hplaySource f | .hplayHorizon f
  | .sqput f | .sqget f | .sqlenArmHigh f | .sqlenArmLow f => e3Uses f
  | .sqlen f => { rs := [f.a], ws := [f.d] }
  | .tspawn f | .twake f => { rs := f.a :: (if f.other then [f.b] else []), ws := [f.d] }
  | .trace f => { rs := [f.d, f.a, f.b] }
  | .vsend f => { rv := [f.v] }
  | .vrecv f => { wv := [f.v] }
  | _ => {}

/-- The guard of a slot operation. -/
def guardOf? : Instr → Guard
  | .add f | .sub f | .addw f | .subw f | .mul f | .mulh f | .mulhn f | .div f | .divn f | .rem f | .remn f
  | .and f | .or f | .xor f | .andn f | .orn f | .shl f | .shr f | .sra f | .rotr f | .min f | .max f | .minn f | .maxn f
  | .extr f | .sxt f | .zxt f | .lea f | .fadd f | .fsub f | .fmul f | .fmin f | .fmax f | .mix f | .insr f | .ffma f => f.g
  | .clz f | .ctz f | .popc f | .brev f | .mov f | .fcvtI2f f | .fcvtN2f f | .fcvtF2i f | .fcvtF2n f | .movx f => f.g
  | .cmp f | .cmpn f | .fcmp f => f.g
  | .li f => f.g
  | .pand f | .por f | .pxor f => f.g
  | .pnot f | .pmov f => f.g
  | .pset f => f.g
  | .mfc f | .mtc f => f.g
  | .now f | .cyc f => f.g
  | .hset f | .hget f => f.g
  | .ldb f | .ldbn f | .ldh f | .ldhn f | .ldw f | .ldwn f | .ldd f | .lda f | .ptest f | .lrw f
  | .stb f | .sth f | .stw f | .std f | .strl f | .praise f | .sch f
  | .pwait f | .aadd f | .aand f | .aor f | .axor f | .amin f | .amax f | .aminn f | .amaxn f | .axch f | .acas f => f.g
  | .ldv f | .stv f => f.g
  | .vgath f | .vscat f => f.g
  | .vadd f | .vsub f | .vmul f | .vfma f | .vfms f | .vpack f | .vsel f
  | .vmulh f | .vmin f | .vmax f | .vand f | .vor f | .vxor f | .vshl f | .vshr f | .vsra f | .vperm f | .vrand f => f.g
  | .vabs f | .vneg f | .vnot f | .vargmx f => f.g
  | .vcmp f | .vcmpx f => f.g
  | .vcvt f => f.g
  | .vunpk f => f.g
  | .vqdec f => f.g
  | .vexp2 f | .vlog2 f | .vrcp f | .vrsq f | .vsqrt f => f.g
  | .vred f | .vscan f => f.g
  | .vshuf f | .vcx f => f.g
  | .vbc f | .vins f => f.g
  | .vext f => f.g
  | .viota f => f.g
  | .mand f | .mor f | .mxor f => f.g
  | .mnot f => f.g
  | .mpop f | .mfirst f | .mtos f => f.g
  | .mfrom f => f.g
  | .mbeat f => f.g
  | .mscl f => f.g
  | .msave f | .mload f => f.g
  | .cpy f | .cpyV f | .cpyq f | .cpyw f | .cpyk f | .hbindBind f | .hbindPark f | .hbindClose f | .hcut f | .hcutT f => f.g
  | .hread f => f.g
  | .hbindOpen f | .hframe f | .htent f | .hcommit f | .hckpt f | .hplayHold f | .hplaySource f | .hplayHorizon f
  | .sqput f | .sqget f | .sqlen f | .sqlenArmHigh f | .sqlenArmLow f | .trace f => f.g
  | .tspawn f | .twake f => f.g
  | .vsend f | .vrecv f => f.g
  | _ => gTrue

/-- Registers whose uncorrectable error stops an operation that reads them, as numbers of destinations (07 R180). -/
def readNums (k : Core) (u : Uses) : List Nat :=
  (u.rs.filter (· ≠ 0)).map (fun r => (Dest.s (physS k r.toNat)).num) ++
    (u.rp.filter fun q => q ≠ 0 && q ≠ 8).map (fun q => (Dest.q (physQ k q.toNat)).num) ++
    u.rv.map (fun v => (Dest.v v).num) ++ (u.rm.filter (· ≠ 0)).map (fun m => (Dest.m m).num)

/-- Accumulator cells and edge words that an X operation reads: first number and count (07 R180; 11 R293). Cells stand from
4096 on, bank k0 then k1; ea, eb, sa and sb from 12288 on, 64 each. -/
def accNums : Instr → List (Nat × Nat)
  | .mbeat f =>
    let b : Nat := if f.bank then 1 else 0
    let d : Nat := if f.acc || f.fold then 1 - b else b
    (if f.acc || f.fold then [(4096 + 4096 * b, 4096)] else []) ++ (if f.drain then [(4096 + 4096 * d + 64 * f.amt.toNat, 64)] else []) ++
      (if (f.acc || f.shA) && !f.pushA then [(12288, 64)] else []) ++ (if (f.acc || f.shB) && !f.pushB then [(12352, 64)] else []) ++
      (if f.fold then [(12416, 128)] else [])
  | .msave f => (imageBits f.parts).map fun b =>
      match b with
      | 5 => (4096, 4096)
      | 4 => (8192, 4096)
      | n => (12288 + 64 * (3 - n), 64)
  | _ => []

/-- The issue traps of an operation, apart from those of the bundle as a whole (14 R355 orders 2, 5, 6, 8 to 12, 14, 15). -/
def opTrap (i : Instr) (s : State) : Option TrapInfo :=
  match i with
  | .mfc f => mfcTrap f s
  | .mtc f => mtcTrap f s
  | .ldb f | .ldbn f | .stb f => memTrap s f 1
  | .ldh f | .ldhn f | .sth f => memTrap s f 2
  | .ldw f | .ldwn f | .stw f => memTrap s f 4
  | .ldd f | .std f | .lda f | .strl f | .praise f | .ptest f | .pwait f | .lrw f | .sch f
  | .aadd f | .aand f | .aor f | .axor f | .amin f | .amax f | .aminn f | .amaxn f | .axch f | .acas f => memTrap s f 8
  | .ldv f | .stv f => vmemTrap s f
  | .vgath f | .vscat f => gathTrap s f
  | .vadd f | .vsub f | .vmul f | .vfma f | .vfms f => extTrap s f.t
  | .vpack f => packTrap s f
  | .mbeat f => mbeatTrap s f
  | .mscl f => msclTrap s f
  | .msave f | .mload f => imageTrap s f
  | .br _ | .bri _ | .call _ | .calli _ | .ret _ => delayTrap s
  | .loop f => loopTrap s f.g f.e
  | .loopx f => loopTrap s f.g f.e
  | .iret f => iretTrap s f
  | .phase f => phaseTrap s f
  | .fmtReg f => fmtTrap s f.g
  | .fmtLit f => fmtTrap s f.g
  | .mseek f => mseekTrap s f
  | .trap f => trapTrap s f
  | .brk f => brkTrap s f
  | .cpy f => cpyTrap s f false
  | .cpyV f => cpyTrap s f true
  | .hcommit f => hcommitTrap s f
  | .hcut f | .hcutT f => hcutTrap s f
  | .hread f => hreadTrap s f
  | .sqput f | .sqget f => sqTrap s f
  | .tspawn f | .twake f => spawnTrap s f
  | .vsend f => vsendTrap s f
  | .vrecv f => vrecvTrap s f
  | _ => none

/-- Whether an operation writes or reads memory for an access of its M slot in CORE or WEAVE mode; the mode of an M word. -/
def modeOf? : Instr → Option Mode
  | .ldb f | .ldbn f | .ldh f | .ldhn f | .ldw f | .ldwn f | .ldd f | .lda f | .ptest f | .lrw f
  | .stb f | .sth f | .stw f | .std f | .strl f | .praise f | .sch f
  | .pwait f | .aadd f | .aand f | .aor f | .axor f | .amin f | .amax f | .aminn f | .amaxn f | .axch f | .acas f
  | .cflush f | .cinv f | .cpre f | .pld f | .stt f => some f.mode
  | .ldv f | .stv f => some f.mode
  | .vgath f | .vscat f => some f.mode
  | _ => none

/-- Row n of the cost table in force. -/
def State.cost (s : State) (n : Nat) : Nat := (s.power.cost.getD n 0).toNat

/-- Tokens of a slot operation of class slot (01 R19, Table Package.4). All the rows of an MSAVE or MLOAD are debited at its issue (DESIGN
CHOICE, log entry 96). -/
def opTokens (s : State) (slot : Slot) (i : Instr) : Nat :=
  match slot with
  | .s0 => s.cost 0
  | .s1 => s.cost 0
  | .m0 => s.cost (if modeOf? i = some .glob then 2 else 1)
  | .m1 => s.cost (if modeOf? i = some .glob then 2 else 1)
  | .v => s.cost 3
  | .e => s.cost 4
  | .c => s.cost 9
  | .x =>
    match i with
    | .mbeat f =>
      let n := (if f.pushA then s.cost 5 else 0) + (if f.pushB then s.cost 5 else 0) + (if f.acc then s.cost 6 else 0) +
        (if f.fold then s.cost 7 else 0) + (if f.drain then s.cost 8 else 0)
      if f.pushA || f.pushB || f.acc || f.fold || f.drain then n else s.cost 11
    | .mscl _ => s.cost 12
    | .msave f => s.cost 14 * imageCycles f.parts
    | .mload f => s.cost 14 * imageCycles f.parts
    | _ => s.cost 13

end Sys2Proof.Machine
end

