-- ==== Sys2Proof/Machine/Issue.lean ====
section
/-! DEFINITION. Fetching and checking a bundle (14 R338-R355; 09 R211-R213, R218, R220, R230; 07 R180). -/

namespace Sys2Proof.Machine

/-! ### Fetch (14 R338-R340) -/

/-- Slots in the order of their words, with their bits in the header. -/
def slotBits : List (Slot × Nat) := [(.c, 22), (.s0, 23), (.s1, 24), (.m0, 25), (.m1, 26), (.v, 27), (.x, 28), (.e, 29)]

/-- The present slots with the places of their words, from place n on. -/
def placeSlots (h : Half) : List (Slot × Nat) → Nat → List (Slot × Nat)
  | [], _ => []
  | (sl, b) :: r, n => if h.getLsbD b then (sl, n) :: placeSlots h r (n + if sl = .x then 2 else 1) else placeSlots h r n

/-- A bundle as fetched: its words with tags, and its slots decoded. -/
structure Fetched where
  pc : BitVec 16
  words : List (BitVec 34)
  slots : List (Slot × Nat × Decoded)
  deriving DecidableEq, Repr

/-- Decode the word or words of a slot. -/
def decodeSlot (sl : Slot) (w u : Half) : Decoded :=
  match sl with
  | .c => decodeC w
  | .s0 => decodeS w
  | .s1 => decodeS w
  | .m0 => decodeM w
  | .m1 => decodeM w
  | .v => decodeV w
  | .x => decodeX w u
  | .e => decodeE w

/-- Header of a fetched bundle. -/
def Fetched.hdr (f : Fetched) : Half := wordOf (f.words.headD 0)

/-- LITS of a header (14 Table Enc.2). -/
def hdrLits (h : Half) : Nat := fieldOf h 19 3
/-- SCOPE. -/
def hdrScope (h : Half) : BitVec 3 := h.extractLsb' 16 3
/-- HOISTEN. -/
def hdrHoistEn (h : Half) : Bool := h.getLsbD 15
/-- HOIST. -/
def hdrHoist (h : Half) : BitVec 9 := h.extractLsb' 6 9

/-- The literal pool. -/
def Fetched.lits (f : Fetched) : List Half := (f.words.drop (f.words.length - hdrLits f.hdr)).map wordOf

/-- Fetch the bundle at a word of core c's instruction scratchpad. -/
def fetchBundle (s : State) (c : BitVec 10) (pc : BitVec 16) : Fetched :=
  let h := wordOf (imemWord s c pc)
  let ws := (List.range (bundleLen h)).map fun i => imemWord s c (pc + BitVec.ofNat 16 i)
  let at_ (i : Nat) : Half := wordOf (ws.getD i 0)
  { pc := pc, words := ws, slots := (placeSlots h slotBits 1).map fun p => (p.1, p.2, decodeSlot p.1 (at_ p.2) (at_ (p.2 + 1))) }

/-- The legal operations of a fetched bundle. -/
def Fetched.ops (f : Fetched) : List (Slot × Instr) :=
  f.slots.filterMap fun p => match p.2.2 with
    | .ok i => some (p.1, i)
    | .illegal _ => none

/-! ### Bundle rules (14 R339, R340, R354; 09 R213, R230) -/

/-- A mask of slots. -/
def maskOf (l : List Slot) : BitVec 8 := l.foldl (fun m y => m ||| BitVec.ofNat 8 (2 ^ y.bit)) 0

/-- Present mask of a header as slots of c.trapmask. -/
def presentMask (h : Half) : BitVec 8 := maskOf ((slotBits.filter fun e => h.getLsbD e.2).map fun e => e.1)

/-- The header itself is illegal (14 R339). -/
def hdrBad (h : Half) (inui : Bool) : Bool :=
  fieldOf h 30 2 ≠ 2 || fieldOf h 0 6 ≠ 0 || (hdrScope h).toNat > 4 || (!hdrHoistEn h && hdrHoist h ≠ 0) || (hdrHoistEn h && inui)

/-- Side of a scalar register (09 R212). -/
def sideOf (r : BitVec 6) : Nat := r.toNat / 32

/-- Home side of a slot; none for V, X and E (09 Table Primary.1). -/
def Slot.home : Slot → Option Nat
  | .c => some 0
  | .s0 => some 0
  | .m0 => some 0
  | .s1 => some 1
  | .m1 => some 1
  | _ => none

/-- The destinations of a slot that R354 case 1 and R218 count: physical registers; s0, q0, q8 and m0 are none. -/
def destsOf (k : Core) (u : Uses) : List Dest :=
  (u.ws.filter (· ≠ 0)).map (fun r => .s (physS k r.toNat)) ++ (u.wp.filter fun q => q ≠ 0 && q ≠ 8).map (fun q => .q (physQ k q.toNat)) ++
    u.wv.map .v ++ (u.wm.filter (· ≠ 0)).map .m ++ u.wl.map .lc ++ (if u.ln then [.ln] else [])

/-- Slots of a list for which p holds. -/
def slotsWhere (l : List (Slot × Uses)) (p : Slot → Uses → Bool) : List Slot := (l.filter fun e => p e.1 e.2).map fun e => e.1

/-- Slots that write a destination another slot also writes, a control or hoist register among them (R354 case 1). -/
def doubleWriters (k : Core) (l : List (Slot × Uses)) : List Slot :=
  slotsWhere l fun sl u => l.any fun e => e.1 ≠ sl &&
    ((destsOf k u).any (fun d => (destsOf k e.2).contains d) || u.wc.any fun n => e.2.wc.contains n)

/-- Scalar registers of a side in a list of fields; s0 takes no port. -/
def portsOf (side : Nat) (l : List (BitVec 6)) : Nat := (l.filter fun r => r ≠ 0 && sideOf r = side).length

/-- Sum over slots. -/
def sumSlots (l : List (Slot × Uses)) (f : Uses → Nat) : Nat := l.foldl (fun n e => n + f e.2) 0

/-- Slots that use a side whose ports are exceeded (R354 case 2). -/
def portViolators (l : List (Slot × Uses)) : List Slot :=
  [0, 1].flatMap fun side =>
    if sumSlots l (fun u => portsOf side u.rs) > 6 || sumSlots l (fun u => portsOf side u.ws) > 3 then
      slotsWhere l fun _ u => portsOf side u.rs + portsOf side u.ws > 0
    else []

/-- Cross-side reads that a slot makes of a side (09 R213). -/
def crossReads (side : Nat) (sl : Slot) (u : Uses) : Nat :=
  match sl.home with
  | some h => if h = side then 0 else portsOf side u.rs
  | none => if sl = .v then portsOf side u.rs else 0

/-- Slots that break the side rules (R354 case 3). -/
def sideViolators (l : List (Slot × Uses)) : List Slot :=
  (slotsWhere l fun sl u => match sl.home with
    | some h => (!u.cross && crossReads (1 - h) sl u > 0) || portsOf (1 - h) u.ws > 0 ||
        u.wp.any (fun q => if h = 0 then q.toNat = 0 || q.toNat ≥ 8 else q.toNat ≤ 8)
    | none => false) ++
  [0, 1].flatMap fun side =>
    if l.foldl (fun n e => n + crossReads side e.1 e.2) 0 > 1 then slotsWhere l fun sl u => crossReads side sl u > 0 else []

/-- Slots that name a literal or an extension beyond LITS (R354 case 4; R347). -/
def litViolators (h : Half) (l : List (Slot × Uses)) : List Slot :=
  slotsWhere l fun _ u => u.lits.any (fun n => n ≥ hdrLits h) || (u.ext && hdrLits h = 0)

/-- The body words with a wrong tag: their places, and the slots whose word or named literal has one (R340). -/
def wrongTags (f : Fetched) (l : List (Slot × Uses)) : List Nat × List Slot :=
  let bad := ((List.range f.words.length).drop 1).filter fun i => tagOf (f.words.getD i 0) ≠ 0
  let pool := f.words.length - hdrLits f.hdr
  (bad, (f.slots.filter fun p => bad.contains p.2.1 || (p.1 = .x && bad.contains (p.2.1 + 1))).map (fun p => p.1) ++
    slotsWhere l fun _ u => u.lits.any fun n => n < hdrLits f.hdr && bad.contains (pool + n))

/-- Whether the bundle is illegal, with the slots involved. -/
def illBundle (k : Core) (f : Fetched) (l : List (Slot × Uses)) : Option (BitVec 8) :=
  if hdrBad f.hdr k.inui then some 0
  else
    let tags := wrongTags f l
    let all := tags.2 ++ doubleWriters k l ++ portViolators l ++ sideViolators l ++ litViolators f.hdr l ++
      (if k.inui then (f.slots.map fun p => p.1).filter (fun y => y = Slot.v || y = Slot.x) else [])
    if tags.1.isEmpty && all.isEmpty then none else some (maskOf all)

/-! ### Issue traps (14 R355) -/

/-- Place of a cause in the order of R355; UNCORR of a fetch has place 1. -/
def causeOrder : Cause → Nat
  | .brtgt => 2
  | .handlerlong => 3
  | .illbundle => 4
  | .illop => 5
  | .priv => 6
  | .landcol => 7
  | .illfmt => 8
  | .sprange => 9
  | .misalign => 10
  | .hoistmask => 11
  | .routemiss => 12
  | .uncorr => 13
  | .brk => 14
  | .trap => 15
  | _ => 16

/-- A condition found: its place, slots, trap, and the operation whose own meaning takes it. -/
structure Found where
  order : Nat
  mask : BitVec 8
  trap : TrapInfo
  op : Option (Slot × Instr)
  deriving DecidableEq, Repr

/-- A trap at a bundle with its word index in c.trapaddr. -/
def atBundle (pc : BitVec 16) (cause : Cause) (info : Word) : TrapInfo := { cause := cause, mask := 0, info := info, addr := pc.setWidth 64 }

/-- The step's surroundings for an operation of a bundle of core c. -/
def curOf (c : BitVec 10) (b : Bundle) (sl : Slot) : Cur :=
  { Cur.reset with agent := .prim c, slot := sl, pc := b.pc, lits := b.lits, scope := b.scope, cout := b.cout, mword := b.mword,
                   next := b.next, gborn := b.gborn, status := b.status, inBundle := true }

/-- The state as an operation of the bundle sees it. -/
def seenBy (s : State) (c : BitVec 10) (b : Bundle) (sl : Slot) : State := { s with cur := curOf c b sl }

/-- A destination of an earlier bundle that has not landed (R218). -/
def notLanded (k : Core) (d : Dest) : Bool := k.pend.any (fun p => p.dest = d) || k.accs.any (fun a => a.dest = some d || a.pdest = some d) ||
  k.lateTraps.any fun x => x.dest = some d || x.pdest = some d

/-- The first register of a slot that is still pending, as LANDCOL codes it (R355; 11 R282). -/
def landCode (k : Core) (u : Uses) : Option Nat :=
  match (destsOf k u).find? (notLanded k) with
  | some d => some d.code
  | none =>
    if u.ea && k.eaDue > k.tick then some 0xE0
    else if u.eb && k.ebDue > k.tick then some 0xE1
    else none

/-- Whether an operation of a bundle reads its registers: one of the C slot is the guidon's, but for a PHASE's measure (09 R220; 15 R372, R382). -/
def consumes (v : State) (sl : Slot) (i : Instr) : Bool :=
  if sl = .c then
    match v.cur.cout with
    | some o => o.fired && (match i with
      | .phase _ => true
      | _ => false)
    | none => (coutOf v i).fired
  else executes v (guardOf? i)

/-- Whether a sparse beat reads an uncorrectable metadata word from its own instruction scratchpad (07 R180; 11 R288). -/
def metaPoisoned (s : State) (i : Instr) : Bool :=
  match i with
  | .mbeat f => f.sparse && executes s f.g && s.cur.mword.isNone &&
      tabGet false s.mem.ipoison (65536 * (guidonOf s s.me).toNat + (s.core (guidonOf s s.me)).mpc.toNat)
  | _ => false

/-- The conditions of the slots of a bundle: LANDCOL, an uncorrectable register or metadata word, and the operations' own traps. -/
def slotFound (s : State) (c : BitVec 10) (b : Bundle) : List Found :=
  let k := s.core c
  b.ops.flatMap fun e =>
    let u := usesOf e.1 e.2
    let v := seenBy s c b e.1
    let m := maskOf [e.1]
    (match landCode k u with
     | some n => [{ order := 7, mask := m, trap := atBundle b.pc .landcol (BitVec.ofNat 64 n), op := none : Found }]
     | none => []) ++
    (if consumes v e.1 e.2 && ((readNums k u).any (fun n => tabGet false k.rpoison n) ||
        (accNums e.2).any fun a => k.rpoison.any fun p => p.2 && a.1 ≤ p.1 && p.1 < a.1 + a.2) then
      [{ order := 13, mask := m, trap := atBundle b.pc .uncorr (failInfo b.pc e.1 .uncorr), op := none : Found }] else []) ++
    (if metaPoisoned v e.2 then
      [{ order := 13, mask := m, op := none,
         trap := { atBundle b.pc .uncorr (failInfo b.pc e.1 .uncorr) with addr := (s.core (guidonOf s c)).mpc.setWidth 64 } : Found }] else []) ++
    (match opTrap e.2 v with
     | some t => [{ order := causeOrder t.cause, mask := m, trap := t, op := some e : Found }]
     | none => [])

/-- The conditions of a bundle at its fetch by the core that decodes it. -/
def fetchFound (s : State) (c : BitVec 10) (f : Fetched) : List Found :=
  let k := s.core c
  let l := f.ops.map fun e => (e.1, usesOf e.1 e.2)
  let bad := f.words.length.fold (fun i _ (r : List Nat) =>
    if tabGet false s.mem.ipoison (65536 * c.toNat + (f.pc + BitVec.ofNat 16 i).toNat) then r ++ [i] else r) []
  let t := tagOf (f.words.headD 0)
  let ill := (f.slots.filter fun p => match p.2.2 with
    | .illegal _ => true
    | .ok _ => false).map fun p => p.1
  (match bad with
   | i :: _ => [{ order := 1, mask := 0, trap := { cause := .uncorr, mask := 0, info := failInfo f.pc .m0 .uncorr,
                                                    addr := (f.pc + BitVec.ofNat 16 i).setWidth 64 }, op := none : Found }]
   | [] => []) ++
  (if t ≠ 1 then [{ order := 2, mask := 0, trap := atBundle f.pc .brtgt (t.setWidth 64), op := none : Found }] else []) ++
  (if k.inui && k.handlerCount ≥ 64 then [{ order := 3, mask := 0, trap := atBundle f.pc .handlerlong 0, op := none : Found }] else []) ++
  (match illBundle k f l with
   | some m => [{ order := 4, mask := m, trap := atBundle f.pc .illbundle 0, op := none : Found }]
   | none => []) ++
  (if ill.isEmpty then [] else [{ order := 5, mask := maskOf ill, trap := atBundle f.pc .illop 0, op := none : Found }])

/-- The one condition raised: the first in the order of R355, with every slot that meets it. -/
def chooseFound (l : List Found) : Option Found :=
  match l.foldl (fun (b : Option Found) f => match b with
      | none => some f
      | some g => if f.order < g.order then some f else some g) none with
  | none => none
  | some g => some { g with mask := (l.filter fun f => f.order = g.order).foldl (fun m f => m ||| f.mask) 0 }

/-! ### The bundle that issues -/

/-- The bundle of a fetch, as its own core issues it. A BRK or TRAP resumed by TRAPCTL counts as not executing. -/
def bundleOf (s : State) (c : BitVec 10) (f : Fetched) : Bundle :=
  let k := s.core c
  let resumed : Bool := k.skipTrap = some (f.pc, k.inui)
  let skip (i : Instr) : Bool := resumed && (match i with
    | .brk _ => true
    | .trap _ => true
    | _ => false)
  { pc := f.pc, hdr := f.hdr, len := f.words.length, ops := f.ops.filter fun e => !skip e.2, lits := f.lits,
    scope := hdrScope f.hdr, cout := none, mword := none, skipTrap := resumed, status := 0, next := f.pc + BitVec.ofNat 16 f.words.length,
    halt := false, gborn := k.tick }

/-- What a follower receives of a bundle: the guidon's outcome of its control slot and its metadata word (09 R220, R236). -/
def forwardOf (s : State) (c : BitVec 10) (f : Fetched) (b : Bundle) : Bundle :=
  let outcome : COut :=
    match b.ops.find? fun e => e.1 = .c with
    | some e => coutOf (seenBy s c b .c) e.2
    | none => ⟨false, 0⟩
  let sparse := f.ops.any fun e => match e.2 with
    | .mbeat g => g.sparse
    | _ => false
  { b with ops := f.ops, cout := some outcome, mword := if sparse then some (metaWord (seenBy s c b .x)) else none }

/-- Tokens that a bundle costs (01 R19). -/
def bundleTokens (s : State) (l : List (Slot × Instr)) : Nat := l.foldl (fun n e => n + opTokens s e.1 e.2) 0

/-- Debit a primary's tokens: against its own reservation, then the pool, then overdraw, which saturates (01 R21; 03 Table Host.8). A core's
debit of the period is kept where a launch ends and another starts on it within the period (DESIGN CHOICE, log entry 103). -/
def debitPrimary (s : State) (c : BitVec 10) (n : Nat) : State :=
  if n = 0 then s
  else
    let cl := clusterOf c
    let reserved := match (s.core c).occ.bind s.occ? with
      | some o => 200000 * o.power
      | none => 0
    s.mapCluster cl fun k =>
      let used := tabGet 0 k.debit (memberOf c).toNat
      let own := min n (reserved - used)
      let rest := n - own
      { k with debit := tabPut 0 k.debit (memberOf c).toNat (used + n), pool := k.pool - n,
               overdraw := BitVec.ofNat 64 (min (k.overdraw.toNat + min rest (n - min n k.pool)) (2 ^ 64 - 1)) }

/-- Charge a context for a cycle in which a core issues an operation of its shared occurrence (05 R116). -/
def chargeCredit (s : State) (c : BitVec 10) (occ : Option Nat) : State :=
  match occ.bind s.occ? with
  | none => s
  | some o =>
    if !o.shared || (s.core c).charged = s.cycle + 1 then s
    else
      let key := 64 * (clusterOf c).toNat + o.ctx.toNat
      (s.mapCore c fun k => { k with charged := s.cycle + 1 }).mapSched fun m =>
        { m with credits := tabPut 0 m.credits key (tabGet 0 m.credits key - 1) }

end Sys2Proof.Machine
end

