-- ==== Sys2Proof/Machine/Pipe.lean ====
section
/-! DEFINITION. The cycle of the primaries: accesses on their way to their banks, freezes, bundle boundaries, the issue of a
bundle, its end (09 R211, R216, R219, R224-R226, R236; 07 R155; 08 R186; 16 R390; 15 R375). -/

namespace Sys2Proof.Machine

/-! ### Accesses at their banks (07 R155; 08 R186; 16 R389, R390) -/

/-- Whether a primary's SQPUT or SQGET is held back at the pool entry that it needs (19 R461). -/
def poolHeld (s : State) (c : BitVec 10) (a : Access) (flat : List (BitVec 10 × Access)) : Bool :=
  match a.op with
  | .sq put j =>
    let s := { s with cur := { s.cur with agent := .prim c } }
    let q := stageQ s j.toNat
    q.cap ≠ 0 && holdsPort flat (portsOfPiece (poolPiece s (q.base + (if put then q.tail else q.head) % q.cap)) put)
  | _ => false

/-- Whether an access is an array's push from LOCAL words or an MSCL, whose reads follow those of its bundle's M slots at each port (11 R281). -/
def Access.isPush (a : Access) : Bool :=
  match a.op with
  | .beat _ _ _ _ _ _ => true
  | .scl _ _ _ => true
  | _ => false

/-- The order in which a core's due accesses are served at a port: a drain after the others (11 R286), unless one of them follows it to the same
bytes (08 R186). -/
def serveOrder (l : List Access) : List Access :=
  let late (a : Access) : Bool := a.op = .drain && !l.any fun b => b.op ≠ .drain && a.precedes b && (b.op.releases || a.meets b)
  l.filter (fun a => !late a) ++ l.filter late

/-- What late service finds on a core: the due accesses that are served, those that are not, and those whose several words at one port begin to be
served, with the cycles that this takes. -/
structure Lateness where
  win : List Access
  stuck : List Access
  long : List (Access × Nat)
  deriving DecidableEq, Repr

/-- Whether all is served in time. -/
def Lateness.none (l : Lateness) : Bool := l.stuck.isEmpty && l.long.isEmpty

/-- The accesses that wait. -/
def Lateness.waits (l : Lateness) : List Access := l.stuck ++ l.long.map fun e => e.1

/-- One due access in the order of service: it waits for its word, its port, the order of its bytes, and as a release for every earlier access
that waits (07 R155; 08 R186, R191; 16 R390). -/
def latenessOf (s : State) (flat : List (BitVec 10 × Access)) (c : BitVec 10) (held : List Access) (l : Lateness) (a : Access) : Lateness :=
  let first := if a.isPush then (l.win ++ l.stuck).filter fun e => e.born = a.born && (e.slot = .m0 || e.slot = .m1) else []
  let earlier := (l.win ++ l.waits).filter fun e => !first.contains e
  if wordLocked s c a.words || loses c a earlier flat || held.contains a || poolHeld s c a flat ||
      l.waits.any (fun e => e.precedes a && (a.op.releases || e.meets a)) then { l with stuck := l.stuck ++ [a] }
  else
    let n := burst first a
    if !a.paid && 1 < n then { l with long := l.long ++ [(a, n)] } else { l with win := l.win ++ [a] }

/-- What is late on core c while the accesses of flat use the ports. -/
def lateness (s : State) (flat : List (BitVec 10 × Access)) (c : BitVec 10) : Lateness :=
  (serveOrder (dueOf (s.core c))).foldl (latenessOf s flat c (heldBack s c (s.core c).accs)) { win := [], stuck := [], long := [] }

/-- Whether two accesses are one, however far it has come. -/
def Access.same (a b : Access) : Bool := a.born = b.born && a.slot = b.slot && a.op = b.op && a.pieces = b.pieces

/-- A core with late accesses, or one whose accesses go on in a freeze for the order of bytes: those that win their ports are served, in program order,
the others wait; a port serves an access of several words in a cycle for each, with those of its bundle that wait at the port. In the freeze for
the order of bytes the accesses that are not due come a cycle nearer (08 R186); in another one what an access makes is a cycle farther, since only active
cycles count (09 R216; 11 R286). -/
def serveLate (s : State) (c : BitVec 10) (advance : Bool) (l : Lateness) : State :=
  let old := (s.core c).accs
  let joint (a : Access) : Bool := l.long.any fun e => e.1 = a || (e.1.born = a.born && sharePort e.1 a)
  let s := s.mapCore c fun k => { k with
    accs := k.accs.map fun a =>
      if l.waits.contains a then { a with left := 0, paid := a.paid || joint a }
      else if advance && 1 < a.left then { a with left := a.left - 1 } else a
    serviceLeft := if l.long.isEmpty then k.serviceLeft else l.long.foldl (fun n e => max n e.2) 1 - 1 }
  let s := performAll s c (old.filter l.win.contains)
  if advance then s
  else s.mapCore c fun k => { k with accs := k.accs.map fun a => if old.any a.same then a else { a with left := a.left + 1 } }

/-- The words that wait for an atomic, LRW or SCH of a core that their own freeze stops: its interval runs on (16 R390; DESIGN CHOICE, log entry 115). -/
def runLocks (s : State) (d : BitVec 10) (ws : List Nat) : State :=
  let mine := (s.core d).accs.filter fun l => l.op.locks && l.words.any ws.contains
  performAll (s.mapCore d fun k => { k with accs := mapIf (fun a => mine.contains a && 1 < a.left) (fun a => { a with left := a.left - 1 }) k.accs }) d
    (mine.filter fun a => a.left ≤ 1)

/-- Late service (07 R155; 08 R186; 16 R389, R390): the cores whose accesses cannot all be served in this cycle, and what is served meanwhile. -/
def lateService (s : State) : List (BitVec 10) × State :=
  let go := (coresIn s).filter fun c => !(dueOf (s.core c)).isEmpty && movable s c
  let flat := portHolders s
  let order := go.filter fun c => !(heldBack s c (s.core c).accs).isEmpty
  let all := go.map fun c => (c, lateness s flat c)
  let late := all.filter fun e => !e.2.none
  let lost := late.map fun e => e.1
  -- the order of bytes lets every access of the frozen gang go on
  let gang := (coresIn s).filter fun c => order.any fun o => (gangOf s (guidonOf s o)).contains c
  let serve (s : State) (c : BitVec 10) : State :=
    match all.find? fun e => e.1 = c with
    | some e => if e.2.none && !gang.contains c then s else serveLate s c (gang.contains c) e.2
    | none => if gang.contains c then serveLate s c true { win := [], stuck := [], long := [] } else s
  let locked := late.flatMap fun e => ((gangOf s (guidonOf s e.1)).filter fun d => d ≠ e.1 && !gang.contains d).map fun d =>
    (d, e.2.stuck.flatMap Access.words)
  let s := (coresIn s).foldl serve s
  (lost, locked.foldl (fun s e => runLocks s e.1 e.2) s)

/-! ### Bundle boundaries -/

/-- The oldest pending cause of an enabled source, if one may be taken at this boundary (09 R228, R229). -/
def takable (s : State) (svc : List (BitVec 10)) (c : BitVec 10) : Option Word :=
  let k := s.core c
  if k.run = .running && isGuidon s c && k.uie && !k.inui && !k.uiHold && k.xfer.isNone && k.hold.isNone && k.hoistHeld.isNone && !k.stopPending &&
      (freezeOf s svc c).isNone then k.uiq.find? (sourceOn k)
  else none

/-- Whether a guidon or single core reaches a hoist bundle in this cycle (16 R403). -/
def reachesHoist (s : State) (svc : List (BitVec 10)) (c : BitVec 10) : Bool :=
  let k := s.core c
  let w := imemWord s c k.pc
  k.run = .running && isGuidon s c && k.hoistHeld.isNone && !k.stopPending && tagOf w = 1 && hdrHoistEn (wordOf w) &&
    !hdrBad (wordOf w) k.inui && (freezeOf s svc c).isNone

/-- Whether a core has primary work in this cycle: it runs, or results are still on their way. -/
def hasWork (k : Core) : Bool := k.run = .running || k.stopPending || !k.pend.isEmpty || !k.accs.isEmpty || !k.lateTraps.isEmpty || k.eccLeft > 0 || k.serviceLeft > 0

/-- Whether a core's barrel may have work. -/
def barrelWork (k : Core) : Bool := (k.threads.any fun t => t.2.st ≠ .free) || k.occ.isSome

/-- Whether a core takes its access traps at the boundary that comes: it runs, or has halted with accesses still on their way (09 R231). -/
def takesTraps (k : Core) : Bool := (k.run = .running || k.run = .halted) && !k.traps.isEmpty

/-- The slots of the bundle that a running core would issue in this cycle: a SERVICE freeze that begins in it was not known when the others were
advertised, and those are offered in its first cycle (10 R245). -/
def wouldUse (s : State) (c : BitVec 10) : BitVec 8 :=
  let k := s.core c
  if k.run ≠ .running then 0
  else if isGuidon s c then presentMask (wordOf (imemWord s c k.pc))
  else match k.feed with
    | f :: _ => if f.left ≤ 1 then presentMask f.b.hdr else 0
    | [] => 0

/-- Name the freeze of every core and queue the cores: their primaries, then their barrels. -/
def goCycle (s : State) (svc : List (BitVec 10)) : State :=
  let s := (serviceCores s).foldl wakeService s
  let cs := coresIn s
  let fr := cs.map fun c => (c, freezeOf s svc c)
  let s := fr.foldl (fun s e => s.mapCore e.1 fun k =>
    { k with frz := e.2, mute := offersNothing s e.1, used := if e.2 = some .service && k.frz ≠ some .service then wouldUse s e.1 else 0 }) s
  let prims := (cs.filter fun c => hasWork (s.core c)).map Task.issue
  let bars := (cs.filter fun c => barrelWork (s.core c) && powered (s.core c)).flatMap fun c => .threads c :: (List.range 5).map (Task.offer c)
  { s with agenda := prims ++ bars ++ s.agenda }

/-! ### A frozen cycle -/

/-- A PWAIT's wait ends: the read that counts is made in the next active cycle (16 R393). -/
def endPwait (k : Core) (p : PWaitSt) : Core := { k with pwait := none, accs := insertAcc { p.acc with op := .pwaitLast, left := 1 } k.accs }

/-- Whether a hold's deadline has been reached (15 R377). -/
def holdOver (s : State) (k : Core) : Bool :=
  match k.hold with
  | some (.runCount n) => n ≤ k.active + k.freeze
  | some (.instant n) => n ≤ s.time.now
  | _ => false

/-- Whether an operation is a release of its thread: it issues only after every earlier access has been performed (16 R391, Table Mem.3; 08
R187, R191, R195). -/
def barReleases : Instr → Bool
  | .strl _ => true
  | .praise _ => true
  | .sch _ => true
  | .aadd f => ordRel f.ord
  | .aand f => ordRel f.ord
  | .aor f => ordRel f.ord
  | .axor f => ordRel f.ord
  | .amin f => ordRel f.ord
  | .amax f => ordRel f.ord
  | .aminn f => ordRel f.ord
  | .amaxn f => ordRel f.ord
  | .axch f => ordRel f.ord
  | .acas f => ordRel f.ord
  | .fence f => ordRel f.ord
  | .tspawn _ => true
  | .twake _ => true
  | .cpy _ => true
  | .cpyV _ => true
  | .tyield => true
  | .tyieldPark => true
  | .sysc _ => true
  | _ => false

/-- A primary frozen in a wait: its copy jobs and TSPAWNs that have issued reach their releases all the same, and the accesses that precede such a
release are performed then, but for a PWAIT or LRW that still waits. No other access moves (08 R195; 09 R216; 19 R455, R462; DEDUCED, log entry 94). -/
def moveMarks (s : State) (c : BitVec 10) : State :=
  let waits : Bool := match (s.core c).frz with
    | some .hoist => true
    | some .jobwait => true
    | some .hold => true
    | some .pwait => true
    | some .lrw => true
    | _ => false
  let mark (a : Access) : Bool := match a.op with
    | .jobRel _ => true
    | .spawn _ => true
    | _ => false
  if !waits || !(s.core c).accs.any mark then s
  else
    let due := (s.core c).accs.filter fun a => mark a && a.left ≤ 1
    let s := s.mapCore c fun k => { k with accs := mapIf (fun a => mark a && 1 < a.left) (fun a => { a with left := a.left - 1 }) k.accs }
    due.foldl (fun s m =>
      let s := settleFirst s c (fun e => e.precedes m && e.op ≠ .hoistAcq) 4
      if waitsBefore (s.core c) m || !(s.core c).accs.contains m then s else performAll s c [m]) s

/-- Whether a core's PHASE hold runs in this cycle: no other member of its gang freezes it (05 R113; 09 R226). -/
def holdsAlone (s : State) (c : BitVec 10) : Bool :=
  (s.core c).frz = some .hold && (gangOf s (guidonOf s c)).all fun m =>
    m = c || (match (s.core m).frz with
      | none => true
      | some .preemptPending => true
      | some .hold => (match (s.core m).hold with
        | some (.phase _ _ _ _) => true
        | _ => false)
      | some _ => false)

/-- One cycle of a frozen primary (09 R216, R225): c.freeze, which no cycle of a stopped core adds to but one that waits for its unit, and the
counts that run in it; alone: its PHASE hold runs. -/
def frozenCycle (alone waits : Bool) (k : Core) : Core :=
  let k := if (k.run = .running || waits) && k.active ≠ 0 then { k with freeze := k.freeze + 1 } else k
  if k.run = .preempted then { k with eccLeft := k.eccLeft - 1 }
  else
    let k := match k.pwait with
      | some p => if p.woken then endPwait k p else { k with pwait := some { p with left := p.left.map (· - 1) } }
      | none => k
    let k := match k.hold with
      | some (.fence n) => { k with hold := if n ≤ 1 then none else some (.fence (n - 1)) }
      | some (.phase n a b o) =>
        -- a follower's bundles go on arriving in its own PHASE hold
        if alone then { k with hold := some (.phase (n - 1) a b o), feed := k.feed.map (fun f : Feed => { f with left := Nat.max (f.left - 1) 1 }) } else k
      | _ => k
    { k with eccLeft := k.eccLeft - 1, serviceLeft := k.serviceLeft - 1 }

/-! ### Issue (09 R211) -/

/-- The accesses of an active cycle: those due are performed in their order, the others move on. -/
def activeAccesses (s : State) (c : BitVec 10) : State :=
  let due := dueOf (s.core c)
  performAll (s.mapCore c fun k => { k with accs := k.accs.map fun a => if a.left ≤ 1 then a else { a with left := a.left - 1 } }) c due

/-- The end of an active cycle in which a core issues nothing: its results go on (09 R231; 15 R378). -/
def idleCycle (s : State) (c : BitVec 10) : State := s.mapCore c fun k => landDue s.cycle { k with tick := k.tick + 1 }

/-- The newest armed loop whose end bundle stands at pc (15 R375, R376); in a handler only its own loops. -/
def loopAt (k : Core) (pc : BitVec 16) : Option (Nat × LoopReg) :=
  k.loops.foldl (fun (b : Option (Nat × LoopReg)) e =>
    if e.2.armed && e.2.endw = pc && (!k.inui || e.2.handler) then
      match b with
      | none => some e
      | some f => if e.2.age > f.2.age then some e else b
    else b) none

/-- The armed loops that end at the bundle at pc, newest first (15 R375): one that has iterations left takes its back-edge, one that has
none is disarmed and the next older one is looked at; then the next word. There are four loop registers. -/
def loopsEnd (k : Core) (pc next : BitVec 16) : Nat → Core
  | 0 => { k with pc := next }
  | n + 1 =>
    match loopAt k pc with
    | none => { k with pc := next }
    | some e =>
      if e.2.count.toNat ≤ 1 then loopsEnd { k with loops := tabPut .reset k.loops e.1 { e.2 with count := 0, armed := false } } pc next n
      else { k with loops := tabPut .reset k.loops e.1 { e.2 with count := e.2.count - 1 }, pc := e.2.start }

/-- Where the core goes after a bundle: the target of a transfer whose delay bundles have issued, the back-edge of a loop, or the next
word (09 R219, R230; 15 R375). -/
def nextBundle (k : Core) (b : Bundle) : Core :=
  match k.xfer with
  | some x =>
    if x.left ≤ 1 then
      let k := { k with xfer := none, pc := x.target }
      if x.iret then leaveHandler k else k
    else { k with xfer := some { x with left := x.left - 1 }, pc := b.next }
  | none => loopsEnd k b.pc b.next 4

/-- The end of an issued bundle. A follower of a stopped guidon stops once it has issued what was forwarded to it (R232). -/
def endBundle (s : State) (c : BitVec 10) (b : Bundle) : State :=
  let stop := (s.core (guidonOf s c)).run
  s.mapCore c fun k =>
    let k := nextBundle { k with bund := none, uiHold := false, active := k.active + 1, tick := k.tick + 1,
                                 handlerCount := if k.inui then k.handlerCount + 1 else k.handlerCount } b
    let k := if b.halt then { k with run := .halted } else if k.stopPending && k.feed.isEmpty then (if stop = .preempted || stop = .killed then { k with run := stop, was := .running } else { k with run := stop, stopPending := false }) else k
    landDue s.cycle k

/-- Take a bundle-level trap of a primary. -/
def boundaryTrap (s : State) (c : BitVec 10) (f : Found) : State := takePrimTrap s c { f.trap with mask := f.mask }

/-- The followers of core c's gang. -/
def followersOf (s : State) (c : BitVec 10) : List (BitVec 10) := (gangOf s c).filter (· ≠ c)

/-- Send a bundle to the followers, four active cycles on (09 R236). -/
def sendFeed (s : State) (c : BitVec 10) (b : Bundle) (ui : Option (Word × BitVec 16)) : State :=
  (followersOf s c).foldl (fun s m => s.mapCore m fun k => { k with feed := k.feed ++ [{ left := 5, b := b, ui := ui }] }) s

/-- A bundle begins: charges, then its operations stand ready. A stopped one takes its trap, or leaves the operation that
raises it to take it. -/
def beginBundle (s : State) (c : BitVec 10) (b : Bundle) (all : List (Slot × Instr)) (found : Option Found) : State :=
  match found with
  | some f =>
    match f.op with
    | none => boundaryTrap s c f
    | some e => s.mapCore c fun k => { k with bund := some { b with ops := [e] }, pc := b.pc }
  | none =>
    let s := debitPrimary (chargeCredit s c (if all.isEmpty then none else (s.core c).occ)) c (bundleTokens s all)
    s.mapCore c fun k =>
      { k with bund := some { b with status := BitVec.ofNat 64 (statusOf k) }, used := presentMask b.hdr, hoistHeld := none, pc := b.pc,
               skipTrap := match k.skipTrap with
                 | some x => if x.2 = k.inui then none else some x
                 | none => none }

/-- The trap found at an issue, for the mask that the operation's own meaning needs. -/
def issueGuidon (s : State) (c : BitVec 10) : BitVec 8 × State :=
  let k := s.core c
  let f := fetchBundle s c k.pc
  let b := bundleOf s c f
  let found := chooseFound (fetchFound s c f ++ slotFound s c b)
  let m := match found with
    | some x => x.mask
    | none => 0
  let s1 := beginBundle s c b f.ops found
  -- the first bundle of a handler carries the cause to the followers
  let ui := if k.inui && k.handlerCount = 0 then some (k.uicause, (tabGet 0 k.sreg 71).setWidth 16) else none
  (m, if found.isNone then sendFeed s1 c (forwardOf s c f b) ui else s1)

/-- A follower enters the handler with the guidon's cause when the bundle of that boundary arrives (09 R229). -/
def followHandler (s : State) (c : BitVec 10) (ui : Option (Word × BitVec 16)) : State :=
  match ui with
  | none => s
  | some w => s.mapCore c fun k => enterHandler k w.1 w.2

/-- Whether a bundle arrives at a follower in this cycle. -/
def Core.arrives (k : Core) : Bool :=
  match k.feed with
  | f :: _ => decide (f.left ≤ 1)
  | [] => false

/-- A running follower that has no bundle to issue yet, after a resume: the cycle is not active for it (09 R216). -/
def waitsFeed (s : State) (c : BitVec 10) : Bool := !isGuidon s c && !(s.core c).arrives

/-- One cycle on for the bundles on their way to a follower. -/
def moveFeed (k : Core) : Core := { k with feed := k.feed.map fun f => { f with left := f.left - 1 } }

/-- Whether a follower that comes after c in this cycle finds an issue trap in the bundle that arrives at all of them, in the handler that the bundle
begins: the bundle commits in none (09 R229, R232). -/
def trapsElsewhere (s : State) (c : BitVec 10) : Bool :=
  (followersOf s (guidonOf s c)).any fun m => (s.core m).usedAt ≠ s.cycle + 1 && (s.core m).run = .running && (s.core m).arrives &&
    match (s.core m).feed with
    | f :: _ => (chooseFound (slotFound (followHandler s m f.ui) m f.b)).isSome
    | [] => false

/-- A follower issues the bundle that arrives (09 R236). -/
def issueFollower (s : State) (c : BitVec 10) : BitVec 8 × State :=
  let s := s.mapCore c moveFeed
  match (s.core c).feed with
  | f :: r =>
    if f.left = 0 then
      let s := followHandler (s.mapCore c fun k => { k with feed := r }) c f.ui
      let b := f.b
      let found := chooseFound (slotFound s c b)
      if found.isNone && trapsElsewhere s c then (0, s.mapCore c fun k => { k with pc := b.pc })
      else
        ((match found with
          | some x => x.mask
          | none => 0), beginBundle s c b b.ops found)
    else (0, s)
  | [] => (0, s)

end Sys2Proof.Machine
end

