-- ==== Sys2Proof/Machine/Sched.lean ====
section
/-! DEFINITION. The command processor's scheduling: arming, preparation and start of occurrences, sharing, pre-emption, watchdogs,
kills and ends; contexts (spec 04 R80-R90, R97; 05 R103-R130; 01 R20, R26, R29). -/

namespace Sys2Proof.Machine

/-! ### Units that hold a core (05 R103) -/

/-- Change the unit that holds a core. -/
def mapUnit (s : State) (id : Nat) (c : BitVec 10) (f : UnitStop → UnitStop) : State :=
  s.mapOcc id fun o => { o with units := mapIf (fun u => u.cores.contains c) f o.units }

/-! ### Requests to stop (05 R120-R122, R125) -/

/-- Records of cores in the snapshot store of a quadrant, or on their way to it. -/
def storeUse (s : State) (q : BitVec 2) : Nat :=
  (occList s).foldl (fun n e => n + (e.2.units.flatMap fun u => u.cores.filter fun c => quadOf c = q).length) 0

/-- The snapshot store takes a unit: 4 GiB a quadrant, 0x12_C000 bytes a core (05 R122; 09 R234). -/
def storeTakes (s : State) (u : List (BitVec 10)) : Bool :=
  (List.range 4).all fun q => (storeUse s (BitVec.ofNat 2 q) + (u.filter fun c => quadOf c = BitVec.ofNat 2 q).length) * 0x12C000 ≤ 2 ^ 32

/-- Whether a request for units of an occurrence can be made: class 3 needs no snapshot. -/
def canPreempt (s : State) (o : Occ) (us : List (List (BitVec 10))) : Bool := o.pclass = 3 || storeTakes s us.flatten

/-- Pre-empt units of a running occurrence; class 3 stops the whole occurrence. S lies 64 cycles ahead. -/
def preemptUnits (s : State) (id : Nat) (us : List (List (BitVec 10))) : State :=
  s.mapOcc id fun o =>
    if o.ending || o.stopAt.isSome then o
    else if o.pclass = 3 then { o with stopAt := some (s.cycle + 64) }
    else { o with units := o.units ++ (us.filter fun u => !o.units.any fun w => w.cores = u).map fun u =>
            { cores := u, stage := .stopping (s.cycle + 64), phase := 0 } }

/-- The units of an occurrence that hold one of the cores and run. -/
def holdingUnits (s : State) (id : Nat) (o : Occ) (cs : List (BitVec 10)) : List (List (BitVec 10)) :=
  (coUnits o).filter fun u => u.any fun c => cs.contains c && (s.core c).occ = some id

/-! ### Free cores (04 R86, R90; 05 R117, R119) -/

/-- Whether a time-triggered occurrence in preparation claims core c. -/
def claimed (s : State) (id : Nat) (c : BitVec 10) : Bool :=
  (occList s).any fun e => e.1 ≠ id && !e.2.shared && (e.2.phase = .preparing || e.2.phase = .ready || e.2.phase = .restart) && e.2.hasCore c

/-- Whether a core is free for a shared candidate. -/
def coreFree (s : State) (id : Nat) (c : BitVec 10) : Bool :=
  (s.core c).occ = none && !claimed s id c && !tabGet false s.sched.fenced c.toNat

/-- An occurrence that has been selected and has not started goes back to the head of its queue (05 R119; DEDUCED, log entry 56); one that
was to start again waits for that. -/
def putBack (s : State) (id : Nat) (o : Occ) : State :=
  let s := releaseAll s id
  let s := s.mapOcc id fun o => { o with phase := if o.atInstant then .restart else .queued, prep := 2, toLoad := [] }
  mapQueueOf s o.ctx o.queue fun l => (id, 0) :: l

/-- The holder of a core, other than one occurrence. -/
def holderOf (s : State) (id : Nat) (c : BitVec 10) : Option (Nat × Occ) :=
  match (s.core c).occ with
  | none => none
  | some j => if j = id then none else (s.occ? j).map fun o => (j, o)

/-- A shared unit that a time-triggered preparation pre-empts (05 R119). -/
def yields (pre : Bool) (h : Occ) : Bool := pre && h.shared && h.phase = .running && 1 ≤ h.pclass && h.pclass ≤ 3

/-- A selected occurrence that has not started. -/
def unstarted (h : Occ) : Bool := h.shared && (h.phase = .preparing || h.phase = .ready)

/-- Whether a core makes the preparation of an occurrence late with BUSY (04 R89, R90; 05 R119). -/
def busyCore (s : State) (id : Nat) (pre : Bool) (c : BitVec 10) : Bool :=
  claimed s id c || (match holderOf s id c with
    | none => false
    | some (_, h) => !unstarted h && !yields pre h)

/-- Units of an occurrence that hold one of the cores and have not been told to stop. -/
def unitsToStop (s : State) (j : Nat) (h : Occ) (cs : List (BitVec 10)) : List (List (BitVec 10)) :=
  (holdingUnits s j h cs).filter fun u => !h.units.any fun w => w.cores = u

/-- Whether the snapshot store takes what the holders of a list of cores would have to save for it (05 R122). -/
def storeFits (s : State) (id : Nat) (cs : List (BitVec 10)) : Bool :=
  storeTakes s ((occList s).flatMap fun e =>
    if e.1 = id || e.2.phase ≠ .running || e.2.pclass = 3 then [] else (unitsToStop s e.1 e.2 cs).flatten)

/-- A unit's cores and its power are free, and a shared unit stands at the head of its queue (05 R117, R122, R123). -/
def toStore (s : State) (id : Nat) (o : Occ) (u : UnitStop) : State :=
  let s := reservePower (u.cores.foldl freeCore s) u.cores o.tokens false
  let s := mapUnit s id (u.cores.headD 0) fun u => { u with stage := .stored }
  if o.shared then mapQueueOf s o.ctx o.queue fun l => (id, (u.cores.headD 0).toNat + 1) :: l else s

/-- A unit that has been taken out of the store and does not run yet. -/
def UnitStop.coming (u : UnitStop) : Bool :=
  match u.stage with
  | .chosen => true
  | .restoring _ => true
  | _ => false

/-- Take the cores from a shared holder for a time-triggered occurrence (05 R119, R124): one that has not started goes back to its queue; one
that may be pre-empted is, and a unit of it that was coming back goes to the store again. -/
def claimCore (s : State) (id : Nat) (pre : Bool) (c : BitVec 10) : State :=
  match holderOf s id c with
  | none => s
  | some (j, h) =>
    if unstarted h then putBack s j h
    else if !yields pre h then s
    else match h.units.find? fun u => u.cores.contains c with
      | some u => if u.coming then toStore s j h u else s
      | none =>
        let us := holdingUnits s j h [c]
        if canPreempt s h us then preemptUnits s j us else s

/-! ### Preparation of a time-triggered occurrence (04 R86-R90) -/

/-- Preparation begins: the claim of its cores, BUSY, ungating, and the steps (04 R86; 01 R29). One that is refused or skipped claims
nothing. -/
def beginTimed (s : State) (id : Nat) (posted : Bool) : State :=
  match s.occ? id with
  | none => s
  | some o =>
    let pre := o.flags.getLsbD 5
    let busy := o.coreList.any (busyCore s id pre) || (pre && !storeFits s id o.coreList)
    let live (s : State) : Bool := (s.occ? id).any fun o => o.phase ≠ .skipped
    let s := if posted then lateOcc s id 1 else s
    let s := if busy then lateOcc s id 2 else s
    let s := prepare (if live s then o.coreList.foldl wakeCore s else s) id
    if live s then o.coreList.foldl (fun s c => claimCore s id pre c) s else s

/-- Whether an occurrence was posted after its preparation should have begun: LAUNCHLATE with reason POSTED (04 R86, R89). -/
def postedLate (s : State) (e : BitVec 12) (t : Nat) : Bool :=
  (entryOf s e).instant ≠ 0 && (match s.sched.validPrev.find? fun v => v.1 = e.toNat with
    | some v => decide (t ≤ v.2.toNat + 100000)
    | none => decide (t ≤ 100000))

/-- PREPARATION_BEGIN (04 R86): the next occurrence of entry ix, and then those that are due with it; with aux the preparation of
occurrence aux - 1 goes on. -/
def execPreparationBegin (s : State) : Host.Outcome State Fault Refusal :=
  .next (if s.ev.aux ≠ 0 then prepare s (s.ev.aux.toNat - 1)
    else
      let e : BitVec 12 := BitVec.ofNat 12 s.ev.ix
      let i := tabGet 0 s.sched.nextOcc e.toNat
      match prepDue s e, occInstant s e i with
      | true, some t =>
        let r := addOcc s e i false (BitVec.ofNat 64 t)
        let s := beginTimed r.2 r.1 (postedLate s e t)
        if prepDue s e then s.pushEvents [(.preparationBegin, { ix := e.toNat })] else s
      | _, _ => s)

/-! ### Start (04 R87-R89; 05 R104; 01 R26, R32) -/

/-- Whether every core of an occurrence is loaded, ungated and outside a thermal freeze. -/
def startable (s : State) (id : Nat) (o : Occ) : Bool :=
  o.phase = .ready && !o.ending && portsFree s id o && o.coreList.all fun c =>
    let k := s.core c
    k.occ = some id && !s.power.frozen.getLsbD (quadOf c).toNat && (k.gate = .on || (match k.gate with
      | .prepare _ => true
      | _ => false))

/-- The guidons issue the entry bundle in this cycle; followers receive it four cycles on. -/
def startOcc (s : State) (id : Nat) (o : Occ) : State :=
  let s := o.coreList.foldl (fun s c =>
    noteRun (s.mapCore c fun k => { k with run := .running, active := 0, freeze := 0, res := .reset, resWas := .reset, idle := s.cycle + 1, gate := .on }) c
      (some (o.entry, o.num))) s
  let s := match o.late with
    | some r => lateRecord s id o r.toNat (s.now - o.instant.toNat)
    | none => s
  let s := s.mapOcc id fun o =>
    { o with phase := .running, router := o.router.map fun r => { r with phase := 0, at_ := s.cycle },
             late := none, atInstant := true }
  let s := s.mapTime fun t => { t with launched := true }
  if o.shared && o.num = 0 && o.arm = tabGet 0 s.sched.arming o.entry.toNat && (entryOf s o.entry).period ≠ 0 then
    s.mapSched fun m => if m.baseInstant.any fun b => b.1 = o.entry.toNat then m
      else { m with baseInstant := m.baseInstant ++ [(o.entry.toNat, s.time.now)] }
  else s

/-- A prepared occurrence starts, or is refused with UNOWNED while the device has no owner (03 R62; DEDUCED, log entry 99). -/
def beginOcc (s : State) (id : Nat) (o : Occ) : State := if s.owner.holder = 0 then refuseOcc s id 9 else startOcc s id o

/-- OCCURRENCE_START (04 R87): occurrence ix, prepared, with NOW at or after its instant. -/
def execOccurrenceStart (s : State) : Host.Outcome State Fault Refusal :=
  .next (match s.occ? s.ev.ix with
    | none => s
    | some o => if !o.shared && startable s s.ev.ix o && o.instant ≤ s.time.now then beginOcc s s.ev.ix o else s)

/-- SHARED_START (05 R104): a selected shared occurrence whose second part is complete. -/
def execSharedStart (s : State) : Host.Outcome State Fault Refusal :=
  .next (match s.occ? s.ev.ix with
    | none => s
    | some o => if o.shared && startable s s.ev.ix o then beginOcc s s.ev.ix o else s)

/-- Whether a core is held by a launch that the occurrence does not take it from: one whose unit is not about to leave it. -/
def barred (s : State) (id : Nat) (c : BitVec 10) : Bool :=
  match holderOf s id c with
  | none => false
  | some (_, h) => h.stopAt.isNone && !h.units.any fun u => u.cores.contains c && !u.coming

/-- Why an occurrence that has not started at its instant is late: 2 BUSY, 3 THERMAL, 4 PREPARE (04 R89; 01 R26). -/
def lateReason (s : State) (id : Nat) (o : Occ) : Nat :=
  if o.coreList.any (barred s id) || !portsFree s id o then 2
  else if o.coreList.any fun c => s.power.frozen.getLsbD (quadOf c).toNat then 3 else 4

/-- OCCURRENCE_INSTANT (04 R89; 01 R26): occurrence ix has not started at its instant: BUSY, THERMAL or PREPARE. -/
def execOccurrenceInstant (s : State) : Host.Outcome State Fault Refusal :=
  .next (match s.occ? s.ev.ix with
    | none => s
    | some o =>
      if o.atInstant || s.time.now < o.instant || o.phase = .running then s
      else lateOcc (s.mapOcc s.ev.ix fun o => { o with atInstant := true }) s.ev.ix (lateReason s s.ev.ix o))

/-! ### Arming (04 R82-R86; 05 R104) -/

/-- Enqueue a shared occurrence and make the first part of its preparation. -/
def enqueueShared (s : State) (e : BitVec 12) : State :=
  let r := addOcc s e 0 true 0
  let x := ctxOfEntry s e
  prepare (mapQueueOf r.2 x (fieldOf (entryOf s e).flags 8 2) fun l => l ++ [(r.1, 0)]) r.1

/-- An entry with VALID set: its occurrences count from 0, and NOW of the cycle before is kept for LATE (04 R85, R86, R96). -/
def armEntry (s : State) (e : BitVec 12) : State :=
  (setValid s e true).mapSched fun m =>
    { m with nextOcc := tabPut 0 m.nextOcc e.toNat 0, arming := tabPut 0 m.arming e.toNat (tabGet 0 m.arming e.toNat + 1), baseInstant := m.baseInstant.filter (fun b => b.1 ≠ e.toNat),
             validPrev := m.validPrev.filter (fun b => b.1 ≠ e.toNat) ++ [(e.toNat, s.time.prev)],
             lastRun := tabMap none (fun _ v => match v with
               | some (a, n) => if a = e then none else some (a, n)
               | none => none) m.lastRun }

/-- VALID_SET (04 R85, R86): entry ix is armed. -/
def execValidSet (s : State) : Host.Outcome State Fault Refusal :=
  let e : BitVec 12 := BitVec.ofNat 12 s.ev.ix
  .next (if entryValid s e then s
    else
      let s := armEntry s e
      -- a preparation that is due begins with those of the other entries (04 R90)
      if (entryOf s e).instant = 0 then enqueueShared s e else s)

/-- VALID_CLEAR (04 R86): no further occurrence of entry ix begins its preparation, and one whose preparation began in this very cycle is
cancelled. -/
def execValidClear (s : State) : Host.Outcome State Fault Refusal :=
  let e : BitVec 12 := BitVec.ofNat 12 s.ev.ix
  .next (if !entryValid s e then s
    else (occList s).foldl (fun s x =>
      if x.2.entry = e && x.2.bornAt = s.cycle && x.2.phase ≠ .running then retireOcc (releaseAll s x.1) x.1 else s) (setValid s e false))

/-! ### Stopping (05 R121; 09 R233) -/

/-- A core stops: it keeps how it ran, and one that ran may freeze with PREEMPT-PENDING until its unit has stopped. -/
def stopCore (r : Run) (k : Core) : Core := { k with run := r, was := k.run, stopPending := k.run = .running }

/-- Stop the guidon of a gang at its boundary, then its followers: at the same bundle, or in the freeze they stand in. -/
def stopGangAt (s : State) (g : BitVec 10) (r : Run) : State :=
  let frozen := (freezeOf s [] g).isSome
  let s := if (s.core g).run = .running && !stopsLater (s.core g) then
      (followersOf s g).foldl (fun s m => s.mapCore m fun k => { k with stopPending := !frozen }) (s.mapCore g (stopCore r))
    else s
  if (s.core g).run = .running then s
  else (followersOf s g).foldl (fun s m => s.mapCore m fun k =>
    if k.run = .running && !stopsLater k && (!k.stopPending || k.feed.isEmpty) then stopCore r k else k) s

/-- The guidons among a list of cores. -/
def guidonsIn (s : State) (cs : List (BitVec 10)) : List (BitVec 10) := cs.filter (isGuidon s)

/-- Stop cores for a pre-emption; a core that does not run is already stopped. -/
def stopForPreempt (s : State) (cs : List (BitVec 10)) : State :=
  let s := (guidonsIn s cs).foldl (fun s g => stopGangAt s g .preempted) s
  cs.foldl (fun s c => s.mapCore c fun k => if k.run ≠ .running && k.run ≠ .preempted then stopCore .preempted k else k) s

/-- Stop cores for a kill. -/
def stopForKill (s : State) (cs : List (BitVec 10)) : State := (guidonsIn s cs).foldl (fun s g => stopGangAt s g .killed) s

/-- Whether every core has stopped. -/
def allStopped (s : State) (cs : List (BitVec 10)) : Bool := cs.all fun c => (s.core c).run ≠ .running

/-- The translation requests and fills of a core's scavengers are withdrawn. -/
def dropMisses (s : State) (c : BitVec 10) : State := (List.range 7).foldl (fun s t => leaveMisses s (.thread c (BitVec.ofNat 4 t))) s

/-- What a pre-empted core does before its snapshot is read: accesses are performed in program order, waits are left to execute
again, its cache is written back (09 R233; 10 R269; 05 Table Scheduler.6). -/
def quiesce (s : State) (c : BitVec 10) : State :=
  let s := settleFirst s c (fun _ => true) 4
  let wait := (s.core c).lrwWait
  let s := dropWaits s (.prim c)
  let s := (List.range 7).foldl (fun s t => dropWaits s (.thread c (BitVec.ofNat 3 t))) s
  let s := (dropMisses (dcEmpty s c) c).mapSched fun m => { m with hoists := m.hoists.filter fun h => h.core ≠ c }
  s.mapCore c fun k =>
    { k with
      hoistHeld := none, stopPending := false, lrwWait := none, uiHold := true
      accs := match wait with
        | some a => insertAcc { a with left := 1 } k.accs
        | none => k.accs
      threads := tabMap .reset (fun t th =>
        if t = 7 then th
        else match th.st with
          | .free => th
          -- a PWAIT whose wait is over goes on with its last read
          | .running => if th.lastRead then th else { th with issued := none }
          | .sleep _ => th
          | .pwait _ _ _ => th
          | .depart _ _ _ => th
          | .resume _ => th
          | _ => { th with st := .running, issued := if th.lastRead then th.issued else none }) k.threads }

/-- Cycles in which the copy units write or read a unit's snapshot: 18 µs for sixteen cores of a cluster, 25 µs for a whole quadrant
(05 R122; log entry 4). -/
def snapshotTime (cs : List (BitVec 10)) : Nat :=
  let most (l : List (List (BitVec 10))) : Nat := l.foldl (fun n g => max n g.length) 0
  max (1125 * most (groupBy (fun c => (clusterOf c).toNat) cs)) (25000 * most (groupBy (fun c => (quadOf c).toNat) cs) / 256)

/-- Whether no access of a scavenger of the core is on its way to a bank. -/
def Core.settled (k : Core) : Bool := k.threads.all fun e => e.1 = 7 || e.2.post.isNone

/-- A unit that is to stop: its gangs stop; once all have, and their threads' accesses have been decided, the snapshot is written. -/
def stopUnit (s : State) (id : Nat) (u : UnitStop) : State :=
  let ph : Nat := match (s.occ? id).bind fun o => o.router with
    | some r => r.phaseAt s.cycle
    | none => 0
  -- the router's phase at the stop cycle is kept (07 R162)
  let s := mapUnit s id (u.cores.headD 0) fun w => if w.stage = .stopping s.cycle then { w with phase := ph } else w
  let s := if u.stage = .stopping s.cycle && (s.occ? id).any (·.halted s.cycle) then holdBeats s id else s
  let s := stopForPreempt s u.cores
  if !allStopped s u.cores || u.cores.any (fun c => !(s.core c).settled) then s
  else mapUnit (u.cores.foldl quiesce s) id (u.cores.headD 0) fun w => { w with stage := .snapshot (s.cycle + snapshotTime u.cores) }

/-! ### Kills (05 R125, R128) -/

/-- Jobs of an occurrence, by cluster and slot. -/
def jobsOfOcc (s : State) (id : Nat) : List (BitVec 6 × Nat) :=
  s.clusters.flatMap fun e => (e.2.jobs.filter fun j => j.2.occ = id && j.2.unfinished).map fun j => (BitVec.ofNat 6 e.1, j.1)

/-- Cancel every job of an occurrence. -/
def cancelJobs (s : State) (id : Nat) : State := (jobsOfOcc s id).foldl (fun s j => cancelJob s j.1 j.2) s

/-- Discard what is in flight on a core of an occurrence: results, accesses, threads, hoists, reservations. -/
def discardCore (s : State) (c : BitVec 10) : State :=
  let s := dropReservations s (.prim c)
  let s := (List.range 7).foldl (fun s t => dropReservations s (.thread c (BitVec.ofNat 3 t))) s
  let s := (dropMisses s c).mapSched fun m => { m with hoists := m.hoists.filter fun h => h.core ≠ c }
  s.mapCore c fun k =>
    { k with stopPending := false, pend := [], accs := [], feed := [], bund := none, hoistHeld := none, pwait := none, lrwWait := none, ewait := none,
             hacts := [], hold := none, traps := [], lateTraps := [], inject := [], readyq := [], dock := [],
             threads := k.threads.filter fun t => t.1 = 7 }

/-- The moored frames of an occurrence are discarded; its packets on their way become orphans. -/
def discardMoored (s : State) (id : Nat) : State :=
  s.mapSched fun m => { m with
                        moor := tabDrop (fun k => k / 1024 = id) m.moor, moorFail := tabDrop (fun k => k / 1024 = id) m.moorFail,
                        moorBusy := tabDrop (fun k => k / 1024 = id) m.moorBusy }

/-- The effects of a kill once every core has stopped, the halyards and reservations apart (05 R128 steps 1 to 4). Beats on their way find no
entry at their next router, which discards them (07 R159). -/
def discardOcc (s : State) (id : Nat) (o : Occ) : State :=
  let s := (o.coreList.filter fun c => (s.core c).occ = some id).foldl discardCore s
  cancelJobs (dropOccWaits (discardMoored s id) id) id

/-- The cores that an occurrence holds. -/
def heldCores (s : State) (id : Nat) (o : Occ) : List (BitVec 10) := o.coreList.filter fun c => (s.core c).occ = some id

/-- A class 3 occurrence has stopped: it waits to start again (05 R125). -/
def restartOcc (s : State) (id : Nat) (o : Occ) : State :=
  let s := freeCores (releasePower (discardOcc s id o) id) id o
  let s := s.mapOcc id fun o => { o with phase := .restart, prep := 2, stopAt := none, units := [], saved := [], toLoad := [] }
  if o.shared then mapQueueOf s o.ctx o.queue fun l => (id, 0) :: l else s

/-- A whole occurrence that is to stop: for a kill or for a class 3 restart. -/
def stopWhole (s : State) (id : Nat) (o : Occ) : State :=
  let cs := heldCores s id o
  let s := stopForKill s cs
  if !allStopped s cs then s
  else if o.stopKill then
    (discardOcc s id o).mapOcc id fun o => { o with phase := .killing, stopAt := none, saved := [], units := o.units.filter fun u => u.stage = .stored }
  else restartOcc s id o

/-- Whether an occurrence or a unit of it has reached its stop cycle and has not stopped. -/
def stopDue (s : State) (o : Occ) : Bool :=
  (match o.stopAt with
   | some n => decide (n ≤ s.cycle)
   | none => false) || o.units.any fun u => match u.stage with
    | .stopping n => decide (n ≤ s.cycle)
    | _ => false

/-- STOP_CYCLE (05 R121): occurrence ix, from its stop cycle on until all its cores have stopped. -/
def execStopCycle (s : State) : Host.Outcome State Fault Refusal :=
  let id := s.ev.ix
  .next (match s.occ? id with
    | none => s
    | some o =>
      let whole : Bool := match o.stopAt with
        | some n => decide (n ≤ s.cycle)
        | none => false
      if whole then stopWhole s id o
      else (o.units.filter fun u => match u.stage with
        | .stopping n => decide (n ≤ s.cycle)
        | _ => false).foldl (fun s u => stopUnit s id u) s)

/-! ### Selection (05 R115-R119, R124) -/

/-- The cores of a candidate: of an occurrence, or of a pre-empted unit. -/
def candCores (o : Occ) (u : Nat) : List (BitVec 10) :=
  if u = 0 then o.coreList
  else match o.units.find? fun w => (w.cores.headD 0).toNat + 1 = u with
    | some w => w.cores
    | none => []

/-- The head of a context's highest-priority nonempty launch queue. -/
def headOf (c : Ctx) : Option (Nat × Nat × Nat) :=
  (List.range 4).findSome? fun q => match tabGet [] c.lq q with
    | [] => none
    | e :: _ => some (q, e)

/-- The candidates: context, queue, occurrence, unit. -/
def candidates (s : State) : List (BitVec 6 × Nat × Nat × Nat) :=
  s.sched.ctxs.filterMap fun e => (headOf e.2).map fun h => (BitVec.ofNat 6 e.1, h)

/-- Credit of a context in a cluster. -/
def creditOf (s : State) (x : BitVec 6) (n : BitVec 6) : Int := tabGet 0 s.sched.credits (64 * n.toNat + x.toNat)

/-- Credits of a context summed over the clusters of a list of cores. -/
def creditSum (s : State) (x : BitVec 6) (cs : List (BitVec 10)) : Int :=
  ((groupBy (fun c => (clusterOf c).toNat) cs).map fun g => creditOf s x (clusterOf (g.headD 0))).foldl (· + ·) 0

/-- Whether a candidate fits: checked, its cores and ports free, and a unit's power. -/
def candFits (s : State) (id u : Nat) : Bool :=
  match s.occ? id with
  | none => false
  | some o =>
    let cs := candCores o u
    !o.ending && !cs.isEmpty && cs.all (coreFree s id) && portsFree s id o &&
      (if u = 0 then (o.phase = .queued && o.prep ≥ 2) || (o.phase = .restart && powerFits s cs o.tokens) else powerFits s cs o.tokens)

/-- The fitting candidate of the largest credit; the lower context on a tie. -/
def bestCandidate (s : State) : Option (BitVec 6 × Nat × Nat × Nat) :=
  let best := ((candidates s).filter fun e => candFits s e.2.2.1 e.2.2.2).foldl
    (fun (b : Option ((BitVec 6 × Nat × Nat × Nat) × Int)) e =>
      let cr := match s.occ? e.2.2.1 with
        | some o => creditSum s e.1 (candCores o e.2.2.2)
        | none => 0
      match b with
      | none => some (e, cr)
      | some f => if cr > f.2 then some (e, cr) else b) none
  best.map fun b => b.1

/-- Take the cores for an occurrence; a gated one wakes. -/
def holdCores (s : State) (id : Nat) (cs : List (BitVec 10)) (r : Run) : State :=
  cs.foldl (fun s c => (wakeCore s c).mapCore c fun k => { k with occ := some id, run := r }) s

/-- A unit is taken out of the store: its cores and its power are its own again; UNIT_RESUME begins the restore. -/
def chooseUnit (s : State) (id : Nat) (o : Occ) (c : BitVec 10) (cs : List (BitVec 10)) : State :=
  let s := holdCores (reservePower s cs o.tokens true) id cs .preempted
  (mapUnit s id c fun u => { u with stage := .chosen }).pushEvents [(.unitResume, { ix := id, value := c.setWidth 64 })]

/-- An occurrence of class 3 starts again: its power is its own again (05 R124, R125). -/
def restartAgain (s : State) (id : Nat) (o : Occ) : State :=
  let s := holdCores (reservePower s o.coreList o.tokens true) id o.coreList .idle
  (s.mapOcc id fun o => { o with phase := .preparing, reserved := true }).pushEvents [(.unitResume, { ix := id, flag := true })]

/-- A candidate is taken from its queue: the second part of its preparation begins, or its unit resumes (05 R104, R124). -/
def takeCandidate (s : State) (e : BitVec 6 × Nat × Nat × Nat) : State :=
  let id := e.2.2.1
  let s := mapQueueOf s e.1 e.2.1 (·.drop 1)
  match s.occ? id with
  | none => s
  | some o =>
    if e.2.2.2 ≠ 0 then chooseUnit s id o ((candCores o e.2.2.2).headD 0) (candCores o e.2.2.2)
    else if o.phase = .restart then restartAgain s id o
    else prepare ((holdCores s id o.coreList .idle).mapOcc id fun o => { o with phase := .preparing }) id

/-- Selection repeats until no candidate fits. -/
def selectShared : Nat → State → State
  | 0, s => s
  | n + 1, s => match bestCandidate s with
    | none => s
    | some e => selectShared n (takeCandidate s e)

/-- Time-triggered occurrences that their own watchdogs pre-empted resume before every shared candidate (05 R124). -/
def resumeTimed (s : State) : State :=
  (occList s).foldl (fun s e =>
    if e.2.shared || e.2.ending then s
    else
      let ok (s : State) (cs : List (BitVec 10)) : Bool :=
        cs.all (fun c => (s.core c).occ.isNone && !tabGet false s.sched.fenced c.toNat) && powerFits s cs e.2.tokens && portsFree s e.1 e.2
      if e.2.phase = .restart then
        if ok s e.2.coreList then restartAgain s e.1 e.2 else s
      else (e.2.units.filter fun u => u.stage = .stored).foldl (fun s u =>
        if ok s u.cores then chooseUnit s e.1 e.2 (u.cores.headD 0) u.cores else s) s) s

/-- What can no longer be placed because one of its cores has been fenced (05 R129): an occurrence that has not started, or waits to start
again, is refused with PLACE; one with a unit in the store on such a core is killed (DESIGN CHOICE, log entry 89). -/
def refuseFenced (s : State) : State :=
  (occList s).foldl (fun s e =>
    let bad (cs : List (BitVec 10)) : Bool := cs.any fun c => tabGet false s.sched.fenced c.toNat
    if e.2.ending || e.2.prep = 0 then s
    else if (e.2.phase = .queued || e.2.phase = .preparing || e.2.phase = .ready || e.2.phase = .restart) && bad e.2.coreList then refuseOcc s e.1 8
    else if e.2.units.any fun u => u.stage = .stored && bad u.cores then killOccurrence s e.1 .killed 0
    else s) s

/-- Cores have become free, or a round begins: time-triggered work first, then sharing (05 R117, R119, R124). -/
def afterFree (s : State) : State :=
  (selectShared 1024 (resumeTimed (refuseFenced s))).mapSched fun m => { m with freed := false }

/-- The pre-emption that a time-triggered unit in the store, or waiting to start again, makes for its cores (05 R124). -/
def claimForTimed (s : State) : State :=
  (occList s).foldl (fun s e =>
    if e.2.shared || e.2.ending then s
    else
      let cs := if e.2.phase = .restart then e.2.coreList else e.2.coreList.filter e.2.stored
      cs.foldl (fun s c => claimCore s e.1 (e.2.flags.getLsbD 5) c) s) s

/-- UNIT_RESUME (05 R124, R125): the unit of core value of occurrence ix begins its restore; with flag the occurrence starts again from
its entry bundle. -/
def execUnitResume (s : State) : Host.Outcome State Fault Refusal :=
  .next (if s.ev.flag then prepare s s.ev.ix
    else mapUnit s s.ev.ix (s.ev.value.setWidth 10) fun u =>
      { u with stage := if u.stage = .chosen then .restoring (s.cycle + snapshotTime u.cores) else u.stage })

/-- A snapshot record of a core (09 R234). -/
def saveCore (s : State) (c : BitVec 10) : Saved :=
  let codes := coreCodes c
  let own {α : Type} (lo n : Nat) (t : Tab α) : Tab α := t.filter fun e => lo ≤ e.1 && e.1 < lo + n
  let mine {α : Type} (t : Tab α) : Tab α := t.filter fun e => (agentKeys c).contains e.1
  { core := c, state := s.core c, spad := own (1048576 * c.toNat) 1048576 s.mem.spad, spoison := own (131072 * c.toNat) 131072 s.mem.spoison,
    stags := own (16384 * c.toNat) 16384 s.mem.stags,
    rel := (s.cluster (clusterOf c)).rel.filter (fun e => codes.contains e.1), acq := (s.cluster (clusterOf c)).acq.filter (fun e => codes.contains (e.1 / 256)),
    far := (s.cluster (clusterOf c)).far.filter (fun e => codes.contains (e.1 / 16384)),
    relInfo := own (131072 * c.toNat) 131072 s.mem.relInfo, lastRel := own (131072 * c.toNat) 131072 s.mem.lastRel,
    seen := mine s.mem.seen, fenceRel := mine s.mem.fenceRel }

/-- A unit's snapshot is in the store (05 R122). -/
def storeUnit (id : Nat) (o : Occ) (s : State) (u : UnitStop) : State :=
  toStore (s.mapOcc id fun o => { o with saved := o.saved.filter (fun r => !u.cores.contains r.core) ++ u.cores.map (saveCore s) }) id o u

/-- Whether a unit's snapshot is written by now. -/
def UnitStop.written (cycle : Nat) (u : UnitStop) : Bool :=
  match u.stage with
  | .snapshot n => decide (n ≤ cycle)
  | _ => false

/-- Whether a unit's restore has ended by now. -/
def UnitStop.restored (cycle : Nat) (u : UnitStop) : Bool :=
  match u.stage with
  | .restoring n => decide (n ≤ cycle)
  | _ => false

/-- SNAPSHOT_COMPLETE (05 R122): the snapshots of occurrence ix that are written; the cores become free. -/
def execSnapshotComplete (s : State) : Host.Outcome State Fault Refusal :=
  let id := s.ev.ix
  .next (match s.occ? id with
    | none => s
    | some o =>
      afterFree ((o.units.filter (UnitStop.written s.cycle)).foldl (storeUnit id o) s))

/-- The PWAITs of a core whose words are nonzero when they are read again at its resume (05 Table Scheduler.6; 16 R393). -/
def rereads (s : State) (c : BitVec 10) (k : Core) : List (Instr × EvArg) :=
  (match k.pwait with
   | some p => if spadWordVal s (pwaitKey p.acc) ≠ 0 then [(Instr.pwaitWake, { core := c, thread := 8, flag := true })] else []
   | none => []) ++
  k.threads.filterMap fun t => match t.2.st with
    | .pwait g w _ =>
      if (if g then leNat (physBytes s (8 * w) 8) else spadWordVal s w) ≠ 0 then some (.pwaitWake, { core := c, thread := BitVec.ofNat 4 t.1 }) else none
    | _ => none

/-- A core's record is put back: registers, scratchpad, tags, counts; its code comes from the image (09 R234, R235). -/
def restoreCore (s : State) (id : Nat) (o : Occ) (l : Loaded) (r : Saved) : State :=
  let c := r.core
  let s := noteRun s c (some (o.entry, o.num))
  let gate := (s.core c).gate
  let seven := (s.core c).threads.filter fun t => t.1 = 7
  let s := loadTags (loadCode s c l) c
  let back {α : Type} (n : Nat) (t own : Tab α) : Tab α := t.filter (fun e => e.1 / n < c.toNat) ++ own ++ t.filter (fun e => e.1 / n > c.toNat)
  let s := s.mapMem fun m =>
    { m with spad := r.spad.foldl (fun t e => tabPut 0 t e.1 e.2) (tabReplace 0 (1048576 * c.toNat) 1048576 [] m.spad)
             stags := back 16384 m.stags r.stags
             spoison := back 131072 m.spoison r.spoison
             -- releases to words of global memory lie above those to scratchpads
             relInfo := back 131072 m.relInfo r.relInfo
             lastRel := back 131072 m.lastRel r.lastRel
             seen := r.seen.foldl (fun t e => tabPut [] t e.1 e.2) m.seen
             fenceRel := r.fenceRel.foldl (fun t e => tabPut [] t e.1 e.2) m.fenceRel }
  let s := s.mapCluster (clusterOf c) fun k =>
    { k with rel := r.rel.foldl (fun t e => tabPut 0 t e.1 e.2) k.rel, acq := r.acq.foldl (fun t e => tabPut none t e.1 e.2) k.acq,
             far := r.far.foldl (fun t e => tabPut none t e.1 e.2) k.far }
  let s := s.setCore c { r.state with run := r.state.was, occ := some id, gate := gate, threads := r.state.threads.filter (fun t => t.1 ≠ 7) ++ seven,
                                      imemOld := [], uiHold := true }
  -- a hold whose end has come meanwhile does not freeze the core again (15 R377)
  if r.state.was = .running && holdOver s (s.core c) then s.pushEvents [(.holdRelease, { core := c })] else s

/-- The units us of an occurrence run again; the router's phase is that of their stop if no other unit runs, and its beats go on (05 R124; 07 R162; 19
R466). -/
def restoreUnits (id : Nat) (o : Occ) (us : List UnitStop) (l : Loaded) (s : State) : State :=
  let back := o.saved.filter fun r => us.any fun u => u.cores.contains r.core
  let s := back.foldl (fun s r => restoreCore s id o l r) s
  let s := s.pushEvents (back.flatMap fun r => rereads s r.core r.state)
  let alone := o.halted s.cycle
  let s := s.mapOcc id fun o =>
    { o with units := o.units.filter (fun u => !us.contains u), saved := o.saved.filter (fun r => !us.any fun u => u.cores.contains r.core),
             router := if alone then o.router.map fun r => { r with phase := (us.headD ⟨[], .stored, 0⟩).phase, at_ := s.cycle } else o.router }
  if alone then freeBeats s id else s

/-- RESTORE_COMPLETE (05 R124; 07 R162): the units of occurrence ix whose restore has ended issue their stopped bundles. An image that
cannot be read again kills the occurrence (log entry 5). -/
def execRestoreComplete (s : State) : Host.Outcome State Fault Refusal :=
  let id := s.ev.ix
  .next (match s.occ? id with
    | none => s
    | some o =>
      match o.units.filter (UnitStop.restored s.cycle) with
      | [] => s
      | us =>
        match readImage s id o fun l s => .ok (restoreUnits id o us l s) with
        | .ok s => s
        | .wait s => s
        | .gone s => s
        | .refuse _ s => killOccurrence s id .killed 0)

/-- Contexts of shared occurrences that contend in a cluster (05 R115). -/
def contending (s : State) (n : Nat) : List (BitVec 6) :=
  ((occList s).filter fun e => e.2.shared && e.2.clusters.getLsbD n).foldl (fun r e => if r.contains e.2.ctx then r else r ++ [e.2.ctx]) []

/-- The credits of a new round (05 R115). -/
def roundCredits (s : State) : Tab Int :=
  (List.range 64).foldl (fun t n =>
    let xs := contending s n
    let w := xs.foldl (fun a x => a + (s.ctx x).weight.toNat) 0
    xs.foldl (fun t x => tabPut 0 t (64 * n + x.toNat)
      (min (creditOf s x (BitVec.ofNat 6 n) + (1600000 * (s.ctx x).weight.toNat / w : Nat)) 3200000)) t) []

/-- A candidate of a context with positive credit pre-empts the shared units that hold its cores, if each is of class 2 or 3 and of a
context in deficit in its clusters, and the store takes them (05 R118, R122). -/
def sharingPreempt (s : State) (e : BitVec 6 × Nat × Nat × Nat) : State :=
  match s.occ? e.2.2.1 with
  | none => s
  | some o =>
    let cs := candCores o e.2.2.2
    let hs := cs.filterMap fun c => (holderOf s e.2.2.1 c).map fun h => (h.1, h.2, c)
    let ok (h : Nat × Occ × BitVec 10) : Bool :=
      h.2.1.shared && h.2.1.phase = .running && !h.2.1.ending && (h.2.1.pclass = 2 || h.2.1.pclass = 3) &&
        (holdingUnits s h.1 h.2.1 [h.2.2]).all fun u => u.all fun c => creditOf s h.2.1.ctx (clusterOf c) < 0
    if o.ending || creditSum s e.1 cs ≤ 0 || hs.isEmpty || !hs.all ok || !storeFits s e.2.2.1 cs || cs.any (claimed s e.2.2.1) then s
    else hs.foldl (fun s h => preemptUnits s h.1 (holdingUnits s h.1 h.2.1 [h.2.2])) s

/-- ROUND_START (05 R115, R117, R118): at CYCLE mod 100,000 = 0. -/
def execRoundStart (s : State) : Host.Outcome State Fault Refusal :=
  let s := { s with sched := { s.sched with credits := roundCredits s } }
  .next (afterFree ((candidates s).foldl sharingPreempt s))

/-! ### The end of an occurrence (04 R97; 05 R128 steps 5, 6; 06 R151; 01 R23) -/

/-- Park the halyards bound to an occurrence; none while one must wait for a translation. One whose record cannot be written becomes FAULTED
(06 R152). -/
def parkOwned (s : State) : List Nat → Option State × State
  | [] => (some s, s)
  | dir :: r =>
    let h := s.halAt dir
    match recordReady s dir with
    | .ok => parkOwned (parkHal s dir) r
    | .wait s => (none, s)
    | .fail => parkOwned ((failHal s dir [(h.addr.toNat, 256, .write)]).mapHalKey dir fun h => { h with bound := none, owner := none }) r

/-- Whether an operation of a thread writes memory, a frame or a queue, or is one whose issue makes such a write. -/
def barWrites : Instr → Bool
  | .stb _ => true
  | .sth _ => true
  | .stw _ => true
  | .std _ => true
  | .sqput _ => true
  | i => barReleases i

/-- Whether a halted core has nothing of the occurrence still to perform: accesses, halyard actions, waits in an engine, traps to be taken,
and writes of its scavengers that have issued, wherever they wait. -/
def Core.drained (k : Core) : Bool :=
  k.accs.isEmpty && k.hacts.isEmpty && k.ewait.isNone && k.traps.isEmpty && k.lateTraps.isEmpty && k.readyq.all (fun e => !e.late) && k.threads.all fun e => e.1 = 7 || !e.2.issued.any barWrites

/-- Whether an occurrence has ended: its cores have halted and all they issued has been performed, and its jobs have retired; or it has been
killed (04 R97). -/
def ended (s : State) (id : Nat) (o : Occ) : Bool :=
  (jobsOfOcc s id).isEmpty &&
    (o.phase = .killing || (o.phase = .running && o.units.isEmpty && o.coreList.all fun c =>
      (s.core c).run = .halted && (s.core c).occ = some id && (s.core c).drained))

/-- The largest of a count over the cores of an occurrence, saved ones included. -/
def largest (s : State) (o : Occ) (f : Core → Word) : Nat :=
  o.coreList.foldl (fun n c => max n (f (s.core c)).toNat) (o.saved.foldl (fun n r => max n (f r.state).toNat) 0)

/-- What an ending occurrence gives up once its halyards are parked: queues, power, cores; then VALID after the last occurrence. -/
def closeOcc (s : State) (id : Nat) (o : Occ) (status : OccStatus) (cause : Byte) : State :=
  let s := (heldCores s id o).foldl (fun s c => dcEmpty s c) s
  let s := completionRecord s id o status cause (largest s o (·.active)) (largest s o (·.freeze))
  let s := releasePower (releaseQueues s id o) id
  let s := freeCores s id o
  afterFree (lowerGrants (retireOcc s id))

/-- OCCURRENCE_END (04 R97): occurrence ix. -/
def execOccurrenceEnd (s : State) : Host.Outcome State Fault Refusal :=
  let id := s.ev.ix
  .next (match s.occ? id with
    | none => s
    | some o =>
      if !ended s id o then s
      else match parkOwned s ((s.sched.hals.filter fun e => e.2.owner = some id && e.2.st = .live).map fun e => e.1) with
        | (none, s) => s
        | (some s, _) => closeOcc s id o o.status o.cause)

/-! ### Watchdogs (05 R126-R130) -/

/-- The watchdog counts of a cycle in which NOW reaches or passes a multiple of 1,000 (05 R126). -/
def watchTick (s : State) : State :=
  if s.time.now.toNat / 1000 = s.time.prev.toNat / 1000 then s
  else (occList s).foldl (fun s e =>
    let live : Bool := e.2.stopKill || (e.2.phase = .running && e.2.coreList.any fun c =>
      (s.core c).occ = some e.1 && ((s.core c).run = .running || (s.core c).run = .held || ((s.core c).run = .preempted && (s.core c).stopPending)))
    if live && (e.2.phase = .running || e.2.phase = .killing) then s.mapOcc e.1 fun o => { o with wdCount := o.wdCount + 1 } else s) s

/-- A watchdog record (05 Table Scheduler.7). -/
def wdRecord (s : State) (id : Nat) (o : Occ) (reason v : Nat) : State := eventRecord s o.ctx 4 reason (some id) (payload2 o.wdCount v)

/-- WATCHDOG_PREEMPT (05 R127): the count of occurrence ix has reached the pre-empt limit; class 0, and a limit equal to the kill limit,
skip the step. -/
def execWatchdogPreempt (s : State) : Host.Outcome State Fault Refusal :=
  .next (match s.occ? s.ev.ix with
    | none => s
    | some o =>
      if o.wdPre = 0 || o.wdCount < o.wdPre.toNat || o.wdDone % 2 = 1 then s
      else
        let s := s.mapOcc s.ev.ix fun o => { o with wdDone := o.wdDone + 1 }
        if o.pclass = 0 || o.wdPre = o.wdKill || o.ending || !canPreempt s o (unitsToStop s s.ev.ix o o.coreList) then s
        else preemptUnits (wdRecord s s.ev.ix o 0x20 o.queue) s.ev.ix (holdingUnits s s.ev.ix o o.coreList))

/-- WATCHDOG_KILL (05 R128). -/
def execWatchdogKill (s : State) : Host.Outcome State Fault Refusal :=
  .next (match s.occ? s.ev.ix with
    | none => s
    | some o =>
      if o.wdKill = 0 || o.wdCount < o.wdKill.toNat || o.wdDone / 2 % 2 = 1 then s
      else killOccurrence (wdRecord (s.mapOcc s.ev.ix fun o => { o with wdDone := o.wdDone + 2 }) s.ev.ix o 0x21 o.queue) s.ev.ix .killed 0)

/-- A core is fenced: it issues nothing and answers nothing until a reset (05 R129). -/
def fenceCore (s : State) (c : BitVec 10) : State :=
  (freeCore (discardCore s c) c).mapSched fun m => { m with fenced := tabPut false m.fenced c.toNat true }

/-- A core whose unit is in the store is fenced: what another launch runs there issues nothing more and is killed (DESIGN CHOICE, log entry
89). -/
def fenceAway (s : State) (c : BitVec 10) : State :=
  let s := s.mapSched fun m => { m with fenced := tabPut false m.fenced c.toNat true }
  match (s.core c).occ with
  | some j => killOccurrence (s.mapCore c fun k => if k.run = .running then { k with run := .killed, bund := none } else k) j .killed 0
  | none => s

/-- The fence step (05 R129): cores that have not stopped are fenced, all of them if the kill step is disabled, those of units in the store
too; the completion record does not wait for the jobs. -/
def fenceOcc (s : State) (id : Nat) (o : Occ) : State :=
  let away := if o.wdKill = 0 then o.coreList.filter fun c => (s.core c).occ ≠ some id else []
  let cs := ((heldCores s id o).filter fun c => o.wdKill = 0 || (s.core c).run = .running) ++ away
  let s := wdRecord (s.mapOcc id fun o => { o with wdDone := o.wdDone + 4 }) id o 0x22
    (cs.length + 2 ^ 16 * (cs.foldl (fun m c => min m c.toNat) (cs.headD 0).toNat))
  let act := largest s o (·.active)
  let frz := largest s o (·.freeze)
  let s := away.foldl fenceAway ((cs.filter fun c => !away.contains c).foldl fenceCore (discardOcc s id o))
  let s := unbindHals s id
  let s := completionRecord s id o .killed 0 act frz
  let s := freeCores (releasePower (releaseQueues s id o) id) id o
  afterFree (lowerGrants (retireOcc s id))

/-- WATCHDOG_FENCE (05 R129): the count of occurrence ix has reached the fence limit. -/
def execWatchdogFence (s : State) : Host.Outcome State Fault Refusal :=
  .next (match s.occ? s.ev.ix with
    | none => s
    | some o => if o.wdFence = 0 || o.wdCount < o.wdFence.toNat || o.wdDone / 4 % 2 = 1 then s else fenceOcc s s.ev.ix o)

/-! ### Contexts (04 R80-R82; 03 R57, R61) -/

/-- Whether a writer may command a context: the PF, and function n for its own (04 Table Command.1). -/
def mayCommand (x : BitVec 6) (w : Who) : Bool :=
  match w with
  | .fn n => n = 0 || (x.toNat ≤ 15 && n.toNat = x.toNat)
  | _ => false

/-- Clear VALID of every entry of a context. -/
def clearEntries (s : State) (x : BitVec 6) : State :=
  (validEntries s).foldl (fun s e => if ctxOfEntry s e = x then setValid s e false else s) s

/-- CREATE of a context (04 R80, R82): its schedule entries are invalid; contexts 16-63 also take their reset registers. -/
def createCtx (s : State) (x : BitVec 6) : State :=
  if (s.ctx x).st ≠ .free || (x.toNat ≤ 15 && !s.sched.fnOn.getLsbD x.toNat) then s
  else (clearEntries s x).mapCtx x fun c =>
    if x.toNat ≥ 16 then { Ctx.resetOf x with st := .active } else { c with st := .active, entryerr := 0, framedrop := 0, evlost := 0, aperbase := 0 }

/-- Kill every occurrence of a context. -/
def killCtx (s : State) (x : BitVec 6) : State :=
  (occList s).foldl (fun s e => if e.2.ctx = x then killOccurrence s e.1 .killed 0 else s) s

/-- A context is stopped: its launches are killed, its entries cleared; its halyards are closed before it is FREE. -/
def stopCtx (s : State) (x : BitVec 6) : State :=
  if (s.ctx x).st = .free then s
  else (killCtx (clearEntries s x) x).mapCtx x fun c => { c with st := .stopping }

/-- CREATE (04 R82): context by a writer that may command it. -/
def execCreate (s : State) : Host.Outcome State Fault Refusal :=
  .next (if reachable s s.ev.who && mayCommand s.ev.ctx s.ev.who then createCtx s s.ev.ctx else s)
/-- DESTROY (04 R82). -/
def execDestroy (s : State) : Host.Outcome State Fault Refusal :=
  .next (if reachable s s.ev.who && mayCommand s.ev.ctx s.ev.who then stopCtx s s.ev.ctx else s)

/-- Open halyards of a context. -/
def openHals (s : State) (x : BitVec 6) : List Nat :=
  (s.sched.hals.filter fun e => e.1 / 4096 = x.toNat && e.2.st ≠ .closed).map fun e => e.1

/-- Close halyards one after the other; none while one must wait. A record that cannot be reached is left as it is. -/
def closeAll (s : State) : List Nat → Option State × State
  | [] => (some s, s)
  | dir :: r =>
    match recordReady s dir with
    | .wait s => (none, s)
    | _ => closeAll (closeHal s dir) r

/-- The context registers that a function writes take their reset values (03 R61); DOMSEL as a write of it does (07 R166). -/
def clearContext (s : State) (x : BitVec 6) : State :=
  writeDomsel (s.mapCtx x fun c => { c with
    ptroot := 0, aperbase := 0, evbase := 0, evcfg := (Ctx.resetOf x).evcfg, evhead := 0, evtail := 0, flr := false }) x 0

/-- CONTEXT_FREE (04 R82; 06 R151): kills and closes of a STOPPING context are done; its directory entries are cleared. -/
def execContextFree (s : State) : Host.Outcome State Fault Refusal :=
  let x := s.ev.ctx
  .next (if (s.ctx x).st ≠ .stopping || (occList s).any (fun e => e.2.ctx = x) then s
    else match closeAll s (openHals s x) with
      | (none, s) => s
      | (some s, _) =>
        let s := s.mapSched fun m => { m with hals := tabDrop (fun k => k / 4096 = x.toNat) m.hals }
        let s := s.mapCtx x fun c => { c with st := .free, lq := [] }
        if (s.ctx x).flr then clearContext s x else s)

/-- FUNCTION_ENABLE (04 R80, R82): function ix, whose context is FREE, becomes enabled. -/
def execFunctionEnable (s : State) : Host.Outcome State Fault Refusal :=
  let n : BitVec 4 := BitVec.ofNat 4 s.ev.ix
  .next (if s.sched.fnOn.getLsbD n.toNat || (s.ctx (n.setWidth 6)).st ≠ .free then s
    else (s.mapSched fun m => { m with fnOn := putField m.fnOn n.toNat 1 1 }).mapCtx (n.setWidth 6) fun _ =>
      { Ctx.resetOf (n.setWidth 6) with st := .active })

/-- FUNCTION_DISABLE (04 R80; 03 R57): the context of VF ix ends and its entry range is withdrawn. -/
def execFunctionDisable (s : State) : Host.Outcome State Fault Refusal :=
  let n : BitVec 4 := BitVec.ofNat 4 s.ev.ix
  .next (if n = 0 || !s.sched.fnOn.getLsbD n.toNat then s
    else (stopCtx s (n.setWidth 6)).mapSched fun m => { m with fnOn := putField m.fnOn n.toNat 1 0 })

/-- The windows of a function that serve a list of contexts are cleared: the bytes of the schedule entries that belong to them, its frame
slots, and the context registers that its function writes, at once for a FREE context and for one that stops when its kills and closes, which
go through its translation, are done (03 R61, Table Host.2; DEDUCED, log entry 99). -/
def clearWindows (s : State) (n : BitVec 4) (xs : List (BitVec 6)) : State :=
  let gone (k : Nat) : Bool := xs.contains (ctxOfEntry s (BitVec.ofNat 12 (k / 32)))
  let t := s.mapSched fun m => { m with table := tabDrop gone m.table, frames := tabDrop (fun k => k / 2 ^ 24 = n.toNat) m.frames }
  xs.foldl (fun s x => if (s.ctx x).st = .free then clearContext s x else s.mapCtx x fun c => { c with aperbase := 0, flr := true }) t

/-- FUNCTION_LEVEL_RESET (03 R61; 04 R82): of VF ix, or of the PF for contexts 0 and 16-63: contexts become STOPPING, windows and the
MSI-X table are cleared. -/
def execFunctionLevelReset (s : State) : Host.Outcome State Fault Refusal :=
  let n : BitVec 4 := BitVec.ofNat 4 s.ev.ix
  let xs : List (BitVec 6) := if n = 0 then 0 :: (List.range 48).map fun i => BitVec.ofNat 6 (16 + i) else [n.setWidth 6]
  .next ((clearWindows (xs.foldl stopCtx s) n xs).mapMgmt fun m =>
    { m with msixOn := putField m.msixOn n.toNat 1 0, msixTab := tabDrop (fun k => k / 512 = n.toNat) m.msixTab
             msixPend := m.msixPend.filter fun e => e.1 ≠ n })

/-! ### The schedule-table and frame windows (04 R83, R84, R99) -/

/-- Bytes of a host write: offset and byte. -/
def writeBytes (off n : Nat) (data : Lanes) : List (Nat × Byte) := (List.range n).map fun i => (off + i, data.extractLsb' (8 * i) 8)

/-- A write to one entry's bytes (04 R84): offsets within the entry. -/
def writeEntry (s : State) (e : BitVec 12) (l : List (Nat × Byte)) : State :=
  if entryValid s e then
    if l.any fun b => b.1 < 26 || b.1 > 27 then s.mapCtx (ctxOfEntry s e) fun c => { c with entryerr := satInc c.entryerr }
    else match l.find? fun b => b.1 = 26 with
      | some b => if b.2.getLsbD 0 then s else s.pushEvents [(.validClear, { ix := e.toNat })]
      | none => s
  else
    let put (s : State) (b : Nat × Byte) : State :=
      s.mapSched fun m => { m with table := tabPut 0 m.table (32 * e.toNat + b.1) (if b.1 = 26 then b.2 &&& 0x38 else b.2) }
    let s := l.foldl put s
    if l.any fun b => b.1 = 26 && b.2.getLsbD 0 then s.pushEvents [(.validSet, { ix := e.toNat })] else s

/-- The entry of the PF numbering that a function's window offset reaches; none outside its window. -/
def windowEntry (s : State) (fn : BitVec 4) (i : Nat) : Option (BitVec 12) :=
  if fn = 0 then (if i < 4096 then some (BitVec.ofNat 12 i) else none)
  else if i < 256 then some (BitVec.ofNat 12 ((s.ctx (fn.setWidth 6)).stbase.toNat + i)) else none

/-- Key of a frame-window byte. -/
def frameByteKey (fn : BitVec 4) (off : Nat) : Nat := 2 ^ 24 * fn.toNat + off

/-- Bytes of a function's schedule window and of its frame window (03 Table Host.2). -/
def windowSize (fn : BitVec 4) (frame : Bool) : Nat :=
  if frame then (if fn = 0 then 2 ^ 20 else 2 ^ 16) else if fn = 0 then 2 ^ 17 else 2 ^ 13

/-- A write through the frame window: the slots whose GO byte it sets are submitted in order (04 R99). -/
def writeFrames (s : State) (fn : BitVec 4) (l : List (Nat × Byte)) : State :=
  let s := s.mapSched fun m => { m with frames := l.foldl (fun t b => tabPut 0 t (frameByteKey fn b.1) b.2) m.frames }
  s.pushEvents ((l.filter fun b => b.1 % 256 = 31 && b.2 ≠ 0).map fun b => (.frameSubmit, { who := .fn fn, ix := b.1 / 256 }))

/-- SCHEDULE_ENTRY_WRITE (03 R59; 04 R83, R84, R99): a function writes aux bytes (data) at offset ix of its BAR 2, in the schedule table or,
from 0x10_0000 on, in the frame window. A write that crosses the end of a window is answered Unsupported Request; one beyond it is
dropped. -/
def execScheduleEntryWrite (s : State) : Host.Outcome State Fault Refusal :=
  let n := min s.ev.aux.toNat 256
  .next (match s.ev.who with
    | .fn f =>
      let frame : Bool := s.ev.ix ≥ 0x100000
      let o := if frame then s.ev.ix - 0x100000 else s.ev.ix
      if !reachable s s.ev.who || n = 0 || o ≥ windowSize f frame then s
      else if o + n > windowSize f frame then answer s .unsupported
      else if frame then writeFrames s f (writeBytes o n s.ev.data)
      else (rangeOf (o / 32) ((o + n - 1) / 32)).foldl (fun s i =>
        match windowEntry s f i with
        | some e => writeEntry s e (((writeBytes o n s.ev.data).filter fun b => b.1 / 32 = i).map fun b => (b.1 % 32, b.2))
        | none => s) s
    | _ => s)

end Sys2Proof.Machine
end

