-- ==== Sys2Proof/Machine/Frames.lean ====
section
/-! DEFINITION. Frames and the halyard engine's own events: submission, the playback cursor, one frame per halyard and cycle, the end
of a cut (spec 04 R99, R100; 06 R138-R147, R152; 22 R478). -/

namespace Sys2Proof.Machine

/-! ### Submission (04 R99, R100) -/

/-- The contents of slot j of function fn, byte 0 lowest. -/
def slotFrame (s : State) (fn : BitVec 4) (j : Nat) : Nat :=
  leNat ((List.range 256).map fun i => tabGet 0 s.sched.frames (frameByteKey fn (256 * j + i)))

/-- The context of a frame: CONTEXT of the PF's frames, a VF's own (Table Command.12). -/
def frameCtx (fn : BitVec 4) (v : Nat) : BitVec 6 := if fn = 0 then BitVec.ofNat 6 (recField v 16 1) else fn.setWidth 6

/-- Reserved fields of a frame are zero. -/
def frameClean (v : Nat) : Bool := recField v 12 2 < 4096 && recField v 16 1 < 64 && recField v 17 14 = 0

/-- A dropped frame: FRAMEDROP counts and its record is written (R100). -/
def dropFrame (s : State) (x : BitVec 6) (v arrival reason : Nat) : State :=
  let f := frameHdr v
  let s := s.mapCtx x fun c => { c with framedrop := satInc c.framedrop }
  eventRecord s x 5 reason (halOcc (s.halAt (4096 * x.toNat + f.hal % 4096))) (payload2 (f.hal + 2 ^ 16 * f.kind + 2 ^ 32 * f.seq.toNat) arrival)

/-- Why a frame is dropped at its submission; 0 when it passes (R100; R152). -/
def frameRefusal (s : State) (x : BitVec 6) (v : Nat) : Nat :=
  let f := frameHdr v
  if f.kind = 0 || f.kind > 3 then 1
  else if f.len > 224 then 2
  else if !frameClean v then 3
  else if (s.ctx x).st ≠ .active then 4
  else match (s.halAt (4096 * x.toNat + f.hal)).st with
    | .closed => 5
    | .faulted => 6
    | _ => 0

/-- FRAME_SUBMIT (04 R99, R100): function who, slot ix. A frame that passes waits for the engine, or the command processor while its
halyard is parked. -/
def execFrameSubmit (s : State) : Host.Outcome State Fault Refusal :=
  .next (match s.ev.who with
    | .fn fn =>
      if !reachable s (.fn fn) || s.ev.ix ≥ (if fn = 0 then 4096 else 256) then s
      else
        let v := slotFrame s fn s.ev.ix
        let x := frameCtx fn v
        let r := frameRefusal s x v
        if r ≠ 0 then dropFrame s x v s.now r
        else
          let dir := 4096 * x.toNat + (frameHdr v).hal
          let h := s.halAt dir
          s.mapSched fun m => { m with frameq := m.frameq ++
            [{ dir := dir, bytes := BitVec.ofNat 2048 v, at_ := s.time.now, p := if h.st = .live then some h.p else none }] }
    | _ => s)

/-! ### The playback cursor (06 R138) -/

/-- Whether a live halyard's P may have to move: a position beyond it, no pending cut at it, no HOLD. -/
def mayPlay (h : Hal) : Bool :=
  h.st = .live && h.p < h.g && (h.cutpos = allOnes64 || h.p < h.cutpos) && !h.mode.getLsbD 2

/-- The accesses that passing the next position makes: its entries, and the pennant when DRAINED follows. -/
def playNeeds (s : State) (dir : Nat) : List (Nat × Nat × AccessKind) :=
  let h := s.halAt dir
  let l := readsOf h h.p.toNat (h.p.toNat + 1)
  if h.p + 1 = h.g && halReady s dir l = .ok && playable s dir s.now h.p.toNat then l ++ eventNeeds h [6] else l

/-- Pass positions while their entries can be read and are playable, n at most; an entry that cannot be read makes the halyard
FAULTED (R152). -/
def playOn (s : State) (dir : Nat) : Nat → State
  | 0 => s
  | n + 1 =>
    let h := s.halAt dir
    if !mayPlay h then s
    else match halReady s dir (playNeeds s dir) with
      | .fail => failHal s dir (playNeeds s dir)
      | .wait s => s
      | .ok =>
        if playable s dir s.now h.p.toNat then
          let s := (halHold s dir (playNeeds s dir)).mapHalKey dir fun h => { h with p := h.p + 1 }
          playOn (if h.p + 1 = h.g then raiseHal s dir 6 else s) dir n
        else s

/-- PLAYBACK_ADVANCE (06 R138): the halyard of directory key ix. -/
def execPlaybackAdvance (s : State) : Host.Outcome State Fault Refusal :=
  .next (playOn s s.ev.ix ((s.halAt s.ev.ix).g.toNat - (s.halAt s.ev.ix).p.toNat))

/-- Whether the update of P does anything in this cycle. -/
def playDue (s : State) (dir : Nat) : Bool :=
  let h := s.halAt dir
  mayPlay h && (match halReady s dir (playNeeds s dir) with
    | .ok => playable s dir s.now h.p.toNat
    | _ => true)

/-- The updates of P that a cycle begins with. -/
def playEvents (s : State) : List (Instr × EvArg) :=
  (s.sched.hals.filter fun e => playDue s e.1).map fun e => (.playbackAdvance, { ix := e.1 })

/-! ### Frames at the engine (06 R140, R152; 22 R478) -/

/-- The oldest frame waiting for a halyard. -/
def frameAt (s : State) (dir : Nat) : Option QFrame := s.sched.frameq.find? fun e => e.dir = dir

/-- The queue without the oldest frame of a halyard. -/
def dropHead (dir : Nat) : List QFrame → List QFrame
  | [] => []
  | e :: r => if e.dir = dir then r else e :: dropHead dir r

/-- The accesses that this frame makes: none for a duplicate, the event's for one without room. -/
def frameWants (h : Hal) (v : Nat) : List (Nat × Nat × AccessKind) :=
  let f := frameHdr v
  if (f.seq - h.nextseq).toInt < 0 then []
  else if 2 ^ h.qlg.toNat < (h.a - h.i).toNat + (if f.kind = 1 then 2 else 1) then eventNeeds h [4]
  else frameNeeds h f.kind (0 < (f.seq - h.nextseq).toInt)

/-- Whether the engine records a frame as late when it takes it, its entries being readable (06 R143). -/
def frameLate (s : State) (dir : Nat) (e : QFrame) : Bool :=
  let f := frameHdr e.bytes.toNat
  let h := s.halAt dir
  h.st = .live && (f.seq - h.nextseq).toInt ≥ 0 && (h.a - h.i).toNat + (if f.kind = 1 then 2 else 1) ≤ 2 ^ h.qlg.toNat &&
    ((lateDeadline h f.src e.at_.toNat).isSome || (f.kind = 2 && (cutPoint s dir f.src e.at_.toNat (e.p.getD h.p).toNat).2.isSome))

/-- All accesses of a frame: once those that are sure can be made, the pennant's too when the frame is late. -/
def frameAll (s : State) (dir : Nat) (e : QFrame) : List (Nat × Nat × AccessKind) :=
  let l := frameWants (s.halAt dir) e.bytes.toNat
  if halReady s dir l = .ok && frameLate s dir e then l ++ eventNeeds (s.halAt dir) [3] else l

/-- Whether one of the accesses through the aperture is refused. -/
def refusedAccess (s : State) (dir : Nat) (l : List (Nat × Nat × AccessKind)) : Bool :=
  halReady s dir (l.filter fun e => inAperture e.1) = .fail

/-- Handle the oldest frame of a halyard if its kind is k: by the engine while the halyard is LIVE, by the command processor while it
is PARKED; a frame whose accesses must wait stays. -/
def handleFrame (s : State) (dir k : Nat) : State :=
  match frameAt s dir with
  | none => s
  | some e =>
    let v := e.bytes.toNat
    let t := e.at_
    if (frameHdr v).kind ≠ k then s
    else
      let out := s.mapSched fun m => { m with frameq := dropHead dir m.frameq }
      let h := s.halAt dir
      match h.st with
      | .closed => dropFrame out (halCtx dir) v t.toNat 5
      | .faulted => dropFrame out (halCtx dir) v t.toNat 6
      | _ =>
        let l := frameAll s dir e
        match halReady s dir l with
        | .wait s => s
        | .ok => takeFrame (halHold out dir l) dir v t.toNat e.p (h.st = .live)
        | .fail => dropFrame (failHal out dir l) (halCtx dir) v t.toNat (if refusedAccess s dir l then 7 else 6)

/-- MERGE_FRAME (06 R140): the oldest frame of halyard ix. -/
def execMergeFrame (s : State) : Host.Outcome State Fault Refusal := .next (handleFrame s s.ev.ix 1)
/-- CUT_FRAME (06 R140, R142). -/
def execCutFrame (s : State) : Host.Outcome State Fault Refusal := .next (handleFrame s s.ev.ix 2)
/-- END_FRAME (06 R140). -/
def execEndFrame (s : State) : Host.Outcome State Fault Refusal := .next (handleFrame s s.ev.ix 3)

/-- The event of a frame. -/
def frameEvent (v : Nat) : Instr :=
  match (frameHdr v).kind with
  | 1 => .mergeFrame
  | 2 => .cutFrame
  | _ => .endFrame

/-- One frame per halyard and cycle, in submission order. -/
def frameEvents (s : State) : List (Instr × EvArg) :=
  (s.sched.frameq.foldl (fun (r : List QFrame) e => if r.any fun x => x.dir = e.dir then r else r ++ [e]) []).map
    fun e => (frameEvent e.bytes.toNat, { ix := e.dir })

/-! ### The end of a cut (06 R144) -/

/-- CUT_COMPLETE (06 R144): every slice has answered the discards of halyard ix's cut. -/
def execCutComplete (s : State) : Host.Outcome State Fault Refusal :=
  .next (match (s.halAt s.ev.ix).cut with
    | some w => if w.done ≤ s.cycle then s.mapHalKey s.ev.ix fun h => { h with cut := some { w with ended := true } } else s
    | none => s)

/-- The cuts that complete in this cycle. -/
def cutEvents (s : State) : List (Instr × EvArg) :=
  (s.sched.hals.filter fun e => match e.2.cut with
    | some w => !w.ended && decide (w.done ≤ s.cycle)
    | none => false).map fun e => (.cutComplete, { ix := e.1 })

end Sys2Proof.Machine
end

