-- ==== Sys2Proof/Machine/Offers.lean ====
section
/-! DEFINITION. The scavenger barrel's cycle: fetching, offers, picks, denials and charges (10 R241-R251, R254, R266; 01 R22). -/

namespace Sys2Proof.Machine

/-! ### Fetch of a barrel operation (10 R254) -/

/-- The word at a thread's PC in the core's instruction cache: the cached word, or the new one if a program has changed it. -/
def barrelWord (s : State) (c : BitVec 10) (t : BitVec 3) : Option (BitVec 64) :=
  let pc := (s.thread c t).pc.toNat
  match (s.core c).icache.find? fun d => d.line = pc / 64 with
  | none => none
  | some d =>
    let old := BitVec.ofNat 64 (leNat (lineBytes d.data (pc % 64) 8))
    if t = 7 then some old
    else match look s (ctxOfThread s c t) pc .image with
      | .hit _ _ pa =>
        let new := BitVec.ofNat 64 (leNat (homeBytes s pa 8))
        some (if s.freeChoice (freeCode c 2049) then new else old)
      | .wait _ => some old

/-- Put a line into the instruction cache of 256 lines. -/
def icFill (k : Core) (d : ILine) : Core := { k with icache := (d :: k.icache.filter fun e => e.line ≠ d.line).take 256 }

/-- Whether the cached word at a PC is poisoned. -/
def icPoisoned (k : Core) (pc : Nat) : Bool := k.icache.any fun d => d.line = pc / 64 && d.poison.getLsbD (pc % 64 / 8)

/-- Fetch the line of a thread's PC if it is absent: filled at once, a wait for its translation, or the thread trap XLATE once
R169 has failed; a poisoned word is the trap UNCORR (07 R180; log entry 53). Thread 7 runs in firmware memory, which no line describes. -/
def fetchLine (s : State) (c : BitVec 10) (t : BitVec 3) : State :=
  let th := s.thread c t
  if th.st ≠ .running || th.trapped.isSome || th.retry > s.cycle || t = 7 then s
  else if icHas (s.core c) th.pc.toNat then
    if icPoisoned (s.core c) th.pc.toNat && th.issued.isNone then takeThreadTrap s c t .uncorr (th.pc.setWidth 64) else s
  else match threadLook s c t (ctxOfThread s c t) th.pc.toNat .image (fun leaf pa s =>
      if fillHeld s (ctxOfThread s c t) leaf th.pc.toNat pa 1 then threadHold s c t
      else
        let s := recallNear (holdLine s (ctxOfThread s c t) leaf th.pc.toNat pa) pa
        let s := s.mapThread c t fun th => { th with last := max th.last s.cycle }
        .ok 0 (s.mapCore c fun k => icFill k (codeLine s th.pc.toNat pa))) with
    | .ok _ s => s.mapThread c t fun th => { th with xfail := none }
    | .wait s => s
    | .fail _ => s
    | .xlate => takeThreadTrap s c t .xlate (th.pc.setWidth 64)

/-! ### Picks (10 R242-R244) -/

/-- Classes of operation word that slot class i takes (10 Table Barrel.1). -/
def slotFits (i : Nat) (w : BitVec 64) : Bool :=
  match (w.extractLsb' 62 2).toNat with
  | 0 => i ≤ 1
  | 1 => i = 2 || i = 3
  | 2 => i = 4
  | _ => i ≤ 1

/-- Whether a thread is ready in this cycle: running, not inside an operation, not denied until later, not picked yet. -/
def threadReady (s : State) (th : Thread) : Bool := th.st = .running && th.issued.isNone && th.trapped.isNone && th.retry ≤ s.cycle && th.last ≤ s.cycle

/-- The operation of a word, if it is legal. -/
def barrelOp (w : BitVec 64) : Option Instr :=
  match decodeBarrel w with
  | .ok i => some i
  | .illegal _ => none

/-- Whether the order of a thread's operations lets w issue in this cycle: a release does not in the one that performs its thread's access. -/
def mayFollow (s : State) (th : Thread) (w : BitVec 64) : Bool := th.servedAt ≠ s.cycle + 1 || !(barrelOp w).any barReleases

/-- The word at which a thread stands; the service thread's next operation has a word of its class. -/
def offeredWord (s : State) (c : BitVec 10) (t : Nat) : Option (BitVec 64) :=
  if t = 7 && serviceWork s c then some serviceWord else barrelWord s c (BitVec.ofNat 3 t)

/-- The word a ready thread offers to a slot class. -/
def candidate (s : State) (c : BitVec 10) (i t : Nat) : Option (BitVec 64) :=
  if threadReady s (s.thread c (BitVec.ofNat 3 t)) && !icPoisoned (s.core c) (s.thread c (BitVec.ofNat 3 t)).pc.toNat && (t = 7 || (s.core c).run ≠ .preempted) then
    match offeredWord s c t with
    | some w => if slotFits i w && mayFollow s (s.thread c (BitVec.ofNat 3 t)) w then some w else none
    | none => none
  else none

/-- The last thread picked in an earlier cycle. -/
def lastPicked (k : Core) (cycle : Nat) : Nat := if k.pickedAt < cycle then k.pickedNow else k.lastPick

/-- The thread that has waited longest, and on a tie the first after the last thread picked (10 R244). -/
def pickThread (s : State) (c : BitVec 10) (i : Nat) : Option (Nat × BitVec 64) :=
  let k := s.core c
  let w := lastPicked k s.cycle
  let ts := (List.range 8).map fun j => (w + 1 + j) % 8
  let all := ts.filterMap fun t => (candidate s c i t).map fun x => (t, x)
  all.foldl (fun (b : Option (Nat × BitVec 64)) e =>
    match b with
    | none => some e
    | some f => if (s.thread c (BitVec.ofNat 3 e.1)).last < (s.thread c (BitVec.ofNat 3 f.1)).last then some e else b) none

/-- Note a pick. -/
def notePick (k : Core) (cycle t : Nat) : Core :=
  { k with lastPick := lastPicked k cycle, pickedAt := cycle, pickedNow := t }

/-- Whether a slot class is offered in this cycle: the primary's bundle leaves it empty, and its freeze offers it (10 R243). -/
def isOffered (s : State) (c : BitVec 10) (i : Nat) : Bool :=
  let k := s.core c
  k.frz ≠ some .ecc && k.frz ≠ some .thermal && !k.mute &&
    !(k.usedAt = s.cycle + 1 && k.used.getLsbD (slotOfClass i).bit)

/-! ### Denials (10 R246-R248; 01 R22; 07 R156) -/

/-- Tokens of a barrel operation's class. -/
def barrelTokens (s : State) (w : BitVec 64) : Nat :=
  match (w.extractLsb' 62 2).toNat with
  | 0 => s.cost 0
  | 1 => s.cost (if w.extractLsb' 32 2 = 3 then 2 else 1)
  | 2 => s.cost 4
  | _ => s.cost 10

/-- Tokens that the primaries of a cluster may still draw from their reservations in this period: the reserved sum less what each core
has drawn from its own. -/
def reservedLeft (s : State) (n : BitVec 6) : Nat :=
  (s.cluster n).reserved.toNat - ((coresIn s).filter fun c => clusterOf c = n).foldl (fun a c =>
    match (s.core c).occ.bind s.occ? with
    | some o => a + min (200000 * o.power) (tabGet 0 (s.cluster n).debit (memberOf c).toNat)
    | none => a) 0

/-- Whether the pool denies a cost (01 R22). -/
def tokenDenied (s : State) (c : BitVec 10) (n : Nat) : Bool := (s.cluster (clusterOf c)).pool < reservedLeft s (clusterOf c) + n

/-- The scratchpad bytes that a thread's operation reaches, if it reaches any. -/
def barrelPiece (s : State) (c : BitVec 10) (i : Instr) : Option (Mode × Piece × Bool × Bool) :=
  let at_ (f : MemForm) (n : Nat) (write atom : Bool) : Option (Mode × Piece × Bool × Bool) :=
    match placeOf s c f.mode (effAddr s f) n with
    | .spad p => some (f.mode, p, write, atom)
    | _ => none
  match i with
  | .ldb f | .ldbn f => at_ f 1 false false
  | .ldh f | .ldhn f => at_ f 2 false false
  | .ldw f | .ldwn f => at_ f 4 false false
  | .ldd f | .lda f | .ptest f | .pwait f => at_ f 8 false false
  | .stb f => at_ f 1 true false
  | .sth f => at_ f 2 true false
  | .stw f => at_ f 4 true false
  | .std f | .strl f | .praise f => at_ f 8 true false
  | .lrw f | .sch f | .aadd f | .aand f | .aor f | .axor f | .amin f | .amax f | .aminn f | .amaxn f | .axch f | .acas f => at_ f 8 false true
  | _ => none

/-- The core of the same M slot holds the crossbar request slot in this cycle: an active one, the first to the third after the issue of a CORE
or WEAVE access (07 R156). -/
def netDenied (k : Core) (sl : Slot) : Bool :=
  k.frz.isNone && k.accs.any fun a => a.slot = sl && a.remote && a.born + 1 < k.tick && k.tick ≤ a.born + 4

/-! ### Outcomes of an attempt (10 R246, R251) -/

/-- Add one to a residue count while a launch occupies the core. -/
def countResidue (k : Core) (i : Nat) (f : Residue → Tab Word) (g : Residue → Tab Word → Residue) : Core :=
  if k.occ.isSome then { k with res := g k.res (tabPut 0 (f k.res) i (tabGet 0 (f k.res) i + 1)) } else k

/-- A denied attempt commits nothing; its thread offers the operation again later. -/
def deny (s : State) (c : BitVec 10) (t : Nat) (until_ : Nat) (f : Core → Core) : State :=
  (s.mapCore c f).mapThread c (BitVec.ofNat 3 t) fun th => { th with last := until_, retry := until_, issued := none, post := none }

/-- An attempt issues: charge, credit, pick. -/
def issueAttempt (s : State) (c : BitVec 10) (t : Nat) (w : BitVec 64) : State :=
  let n := barrelTokens s w
  let s := s.mapCluster (clusterOf c) fun k => { k with pool := k.pool - n }
  let s := chargeCredit s c (if t = 7 then none else some (s.thread c (BitVec.ofNat 3 t)).occ)
  s.mapThread c (BitVec.ofNat 3 t) fun th => { th with last := s.cycle + 1, issued := barrelOp w }

/-- Count a taken attempt. -/
def countTaken (s : State) (c : BitVec 10) (i : Nat) : State :=
  s.mapCore c fun k => countResidue k i (·.taken) fun r v => { r with taken := v }

/-- A thread issues into slot class i. -/
def noteClass (s : State) (c : BitVec 10) (i t : Nat) : State := s.mapThread c (BitVec.ofNat 3 t) fun th => { th with cls := i }

/-- An attempt that is taken at its issue. -/
def take (s : State) (c : BitVec 10) (i t : Nat) (w : BitVec 64) : State := countTaken (noteClass (issueAttempt s c t w) c i t) c i

/-- An attempt that a bank decides: its access is on its way (10 R246). -/
def postAccess (s : State) (c : BitVec 10) (i t : Nat) (w : BitVec 64) (x : Mode × Piece × Bool × Bool) : State :=
  (issueAttempt s c t w).mapThread c (BitVec.ofNat 3 t) fun th =>
    { th with cls := i, post := some { cls := i, at_ := s.cycle, mode := x.1, piece := x.2.1, write := x.2.2.1, atom := x.2.2.2, lost := false, served := false } }

/-- The access that an operation sends to a bank, if it executes and traps on nothing before. -/
def sends (s : State) (c : BitVec 10) (i : Instr) : Option (Mode × Piece × Bool × Bool) :=
  if executes s (guardOf? i) && (opTrap i s).isNone then barrelPiece s c i else none

/-- The step's surroundings for a thread's operation. -/
def curThread (c : BitVec 10) (t i : Nat) : Cur := { Cur.reset with agent := .thread c (BitVec.ofNat 3 t), slot := slotOfClass i, cls := i }

/-- The next operation of core c's service thread issues (10 R264): it runs at once, and the firmware then goes on. -/
def issueService (s : State) (c : BitVec 10) (i : Nat) : Option Instr × State :=
  match serviceOp s c with
  | none => (none, s)
  | some (op, regs) =>
    let s := (take s c i 7 serviceWord).mapThread c 7 fun th => { th with x := regs, issued := none }
    (some op, { s with ev := { core := c }, agenda := .rest c :: s.agenda })

/-- Offer slot class i of core c: the operation to run, if one is taken at its issue and its word is legal (10 R243-R251, R266). One that
reaches a scratchpad bank goes on its way, and is run when it is served. -/
def offer (s : State) (c : BitVec 10) (i : Nat) : Option Instr × State :=
  if !isOffered s c i then (none, s)
  else
    let s := s.mapCore c fun k => countResidue k i (·.offered) fun r v => { r with offered := v }
    match pickThread s c i with
    | none => (none, s)
    | some (t, w) =>
      let s := s.mapCore c fun k => notePick k s.cycle t
      let s := { s with cur := curThread c t i }
      if tokenDenied s c (barrelTokens s w) then
        (none, deny s c t (s.cycle + 2) fun k => countResidue k i (·.tokdeny) fun r v => { r with tokdeny := v })
      else if t = 7 && serviceWork s c then issueService s c i
      else if barPrivileged w && t ≠ 7 then (none, takeThreadTrap (take s c i t w) c (BitVec.ofNat 3 t) .priv 0)
      else match decodeBarrel w with
        | .illegal _ => (none, takeThreadTrap (take s c i t w) c (BitVec.ofNat 3 t) .illop 0)
        | .ok op =>
          match sends s c op with
          | some x => (none, postAccess s c i t w x)
          | none => (some op, take s c i t w)

/-! ### Accesses at their banks (10 R246, R248; 07 R155) -/

/-- An access of a thread, with the thread. -/
structure Poster where
  core : BitVec 10
  thread : Nat
  post : Post
  deriving DecidableEq, Repr

/-- The accesses of threads that are on their way. -/
def posters (s : State) : List Poster :=
  s.cores.flatMap fun e => e.2.threads.filterMap fun t =>
    (t.2.post.filter fun p => !p.served).map fun p => { core := BitVec.ofNat 10 e.1, thread := t.1, post := p }

/-- The place of an access in the order of a port: the bank's own core first, then by core, slot and thread (DESIGN CHOICE after the order of
07 R155: no rule orders two barrel accesses; log entry 98). -/
def Poster.rank (x : Poster) : Nat :=
  (if x.post.piece.core = x.core then 0 else 1 + x.core.toNat) * 64 + 8 * x.post.cls + x.thread

/-- Whether the primaries refuse an access in this cycle: a primary's access holds its port or its word, or between an atomic's read and its
write a primary's write reaches its word (R248; 16 R390). -/
def primaryRefuses (s : State) (flat : List (BitVec 10 × Access)) (p : Post) : Bool :=
  let ws := p.piece.words
  holdsPort flat (p.needs s.cycle) ||
  (s.cycle = p.bank && wordHeld s ws) ||
  (p.atom && p.bank < s.cycle && flat.any fun a => a.2.op.writes && a.2.pieces.any fun q => q.words.any ws.contains)

/-- Decide the accesses of threads that reach their banks in this cycle, before its picks (R246): one that no port refuses is served, and
its operation goes on; of an atomic the read decides nothing yet. -/
def decidePosts (s : State) : State :=
  match posters s with
  | [] => s
  | ps =>
    let flat := portHolders s
    let free := ps.filter fun x => !primaryRefuses s flat x.post
    let refused (x : Poster) : Bool := x.post.lost || !free.contains x ||
      free.any fun y => y.rank < x.rank && (y.post.needs s.cycle).any fun n => (x.post.needs s.cycle).contains n
    ps.foldl (fun s x =>
      let t := BitVec.ofNat 3 x.thread
      let set_ (f : Thread → Thread) : State := s.mapThread x.core t f
      if s.cycle = x.post.bank + (if x.post.atom then 2 else 0) then
        if refused x then
          deny s x.core x.thread (s.cycle + 2) fun k => countResidue k x.post.cls (·.bankdeny) fun r v => { r with bankdeny := v }
        else countTaken (set_ fun th => { th with post := some { x.post with served := true }, servedAt := s.cycle + 1 }) x.core x.post.cls
      else if refused x then set_ fun th => { th with post := some { x.post with lost := true } }
      else s) s

/-- The crossbar decides an access in the cycle after its issue (07 R156; R246). -/
def decideNet (s : State) (c : BitVec 10) : State :=
  (List.range 8).foldl (fun s t =>
    match (s.thread c (BitVec.ofNat 3 t)).post with
    | some p =>
      if p.mode ≠ .loc && s.cycle = p.at_ + 1 && netDenied (s.core c) (slotOfClass p.cls) then
        deny s c t (s.cycle + 2) fun k => countResidue k p.cls (·.netdeny) fun r v => { r with netdeny := v }
      else s
    | none => s) s

/-! ### The cycle -/

/-- Settle the cycle: access traps first; then the accesses of threads are decided; then late services, user interrupts and hoist arrivals; then the cores' tasks. -/
def settle (s : State) : State :=
  match (coresIn s).filter fun c => takesTraps (s.core c) with
  | c :: _ => { s with agenda := .event .accessTrap { core := c } :: .settle :: s.agenda }
  | [] =>
    let s := decidePosts s
    let r := lateService s
    let s := r.2
    let ui := ((coresIn s).filter fun c => (takable s r.1 c).isSome).map fun c => Task.event .userInterruptTake { core := c }
    let ho := ((coresIn s).filter fun c => (takable s r.1 c).isNone && reachesHoist s r.1 c).map fun c => Task.event .hoistArrival { core := c }
    { s with agenda := ui ++ ho ++ .go r.1 :: s.agenda }

/-! ### Operations that go on -/

/-- A thread that waits inside its operation and may go on in this cycle: one with an access on its way may when it is served, also while its
core is pre-empted (10 R269). -/
def mayGoOn (s : State) (c : BitVec 10) (t : Nat) : Bool :=
  let th := s.thread c (BitVec.ofNat 3 t)
  let may : Bool := match th.post with
    | some p => p.served
    | none => t = 7 || (s.core c).run ≠ .preempted
  th.issued.isSome && th.retry ≤ s.cycle && may && (match th.st with
    | .running => true
    | .engine => true
    | .lrw => s.mem.resq.any fun e => e.2.any fun w => w.is s (.thread c (BitVec.ofNat 3 t)) && w.held.isSome
    | _ => false)

/-- The next thread of a core to go on inside its operation, with the operation. -/
def goOn (s : State) (c : BitVec 10) : Option (Nat × Instr) :=
  (List.range 8).findSome? fun t => if mayGoOn s c t then (s.thread c (BitVec.ofNat 3 t)).issued.map fun i => (t, i) else none

end Sys2Proof.Machine
end

