-- ==== Sys2Proof/Machine/CoreEvents.lean ====
section
/-! DEFINITION. Events of the cores: access traps, user interrupts, TRAPCTL, hoists, holds, waits, and the lives of barrel threads
between their operations (spec 05 R112, R113; 07 R162; 09 R227-R237; 10 R256-R266, R484; 15 R377; 16 R393, R402-R404; 19 R468). -/

namespace Sys2Proof.Machine

/-! ### Traps and user interrupts (09 R227-R232) -/

/-- ACCESS_TRAP (09 R231): core's oldest access trap is taken at this boundary. -/
def execAccessTrap (s : State) : Host.Outcome State Fault Refusal :=
  .next (match (s.core s.ev.core).traps with
    | t :: _ => takePrimTrap s s.ev.core t
    | [] => s)

/-- Whether a core's timer fires (R227). -/
def timerDue (s : State) (k : Core) : Bool := k.rank = 0 && k.uitime ≠ 0 && k.uitime ≤ s.time.now

/-- UI_TIMER_FIRE (09 R227): core's timer. -/
def execUiTimerFire (s : State) : Host.Outcome State Fault Refusal :=
  let c := s.ev.core
  .next (if timerDue s (s.core c) then
      (gangOf s c).foldl (fun s m => s.mapCore m fun k => { k with uitime := 0 }) (queueCause s c (uiCause 4 0 0 0))
    else s)

/-- The queue without its oldest cause of an enabled source. -/
def dropCause (k : Core) : List Word → List Word
  | [] => []
  | w :: r => if sourceOn k w then r else w :: dropCause k r

/-- A copy job's interrupt, when it is taken, acquires the job's release for the gang's primaries, also when the job's slot has been freed
since (08 R195). -/
def jobAcquire (s : State) (c : BitVec 10) (w : Word) : State :=
  if causeSource w ≠ 1 then s
  else (gangOf s c).foldl (fun s m => acquireWords s (.prim m) 4 [jobRelKey (clusterOf c).toNat (fieldOf w 32 16)]) s

/-- USER_INTERRUPT_TAKE (09 R229): core's oldest pending cause of an enabled source. -/
def execUserInterruptTake (s : State) : Host.Outcome State Fault Refusal :=
  let c := s.ev.core
  .next (match takable s [] c with
    | some w => (jobAcquire s c w).mapCore c fun k => enterHandler { k with uiq := dropCause k k.uiq } w k.pc
    | none => s)

/-- The occurrence that a TRAPCTL command of context x reaches at core c: one of x held by BRK or TRAP (R232). A
command may name the held follower of a stopped guidon as well: RESUME then passes BRK or TRAP over on that core alone (DESIGN CHOICE, log entry 111). -/
def heldAt (s : State) (x : BitVec 6) (c : BitVec 10) : Option Nat :=
  if (s.core c).run = .held && ctxOfCore s c = x then (s.core c).occ else none

/-- TRAPCTL_RESUME (09 R232): core of context ctx, by the context's function. -/
def execTrapctlResume (s : State) : Host.Outcome State Fault Refusal :=
  .next (if s.ev.who = .fn (fnOf s.ev.ctx) && (heldAt s s.ev.ctx s.ev.core).isSome then resumeHeld s s.ev.core else s)

/-- TRAPCTL_KILL (09 R232). -/
def execTrapctlKill (s : State) : Host.Outcome State Fault Refusal :=
  .next (match heldAt s s.ev.ctx s.ev.core with
    | some id => if s.ev.who = .fn (fnOf s.ev.ctx) then killOccurrence s id .killed 0 else s
    | none => s)

/-! ### Hoists (09 R237; 16 R402, R403; 08 R194) -/

/-- Hoist register n of core c. -/
def hoistReg (s : State) (c : BitVec 10) (n : Nat) : Word := tabGet 0 (s.core c).hreg n

/-- Whether a core mask of a cluster splits a gang of size greater than one. -/
def splitsGang (s : State) (n : BitVec 6) (m : BitVec 16) : Bool :=
  (List.range 16).any fun i =>
    let g := gangOf s (coreAt n (BitVec.ofNat 4 i))
    g.length > 1 && (g.any fun c => m.getLsbD (memberOf c).toNat) && !g.all fun c => m.getLsbD (memberOf c).toNat

/-- The wait of a core that arrives at hoist n, with its masks. -/
def hoistWait (s : State) (c : BitVec 10) (n : Nat) : HoistWait :=
  if n ≥ 448 then
    { core := c, hoist := BitVec.ofNat 9 n, cmask := (hoistReg s c (n - 448)).setWidth 16, xmask := hoistReg s c n, arrived := s.cycle }
  else { core := c, hoist := BitVec.ofNat 9 n, cmask := (hoistReg s c n).setWidth 16, xmask := 0, arrived := s.cycle }

/-- The masks of an arrival break R403 by themselves. -/
def hoistBad (s : State) (w : HoistWait) : Bool :=
  w.cmask = 0 || !w.cmask.getLsbD (memberOf w.core).toNat || (w.hoist.toNat ≥ 448 && !w.xmask.getLsbD (clusterOf w.core).toNat) ||
    splitsGang s (clusterOf w.core) w.cmask

/-- Whether two waits at one hoist carry masks that share a core and differ (R403). -/
def hoistClash (a b : HoistWait) : Bool :=
  let same : Bool := clusterOf a.core = clusterOf b.core
  a.hoist = b.hoist && a.core ≠ b.core &&
    if a.hoist.toNat ≤ 447 then same && a.cmask &&& b.cmask ≠ 0 && a.cmask ≠ b.cmask
    else if same then a.cmask &&& b.cmask ≠ 0 && (a.cmask ≠ b.cmask || a.xmask ≠ b.xmask)
    else a.xmask &&& b.xmask ≠ 0 && a.xmask ≠ b.xmask

/-- A held or arriving core raises HOISTMASK at its hoist bundle, or what comes before it in the order of R355. -/
def hoistTrap (s : State) (w : HoistWait) : State :=
  let s := s.mapSched fun m => { m with hoists := m.hoists.filter fun h => h.core ≠ w.core }
  let f := fetchBundle s w.core (s.core w.core).pc
  let found := (chooseFound (fetchFound s w.core f ++ slotFound s w.core (bundleOf s w.core f))).filter fun x => x.order < causeOrder .hoistmask
  let s := s.mapCore w.core fun k => { k with hoistHeld := none }
  match found with
  | some x => boundaryTrap s w.core x
  | none => takePrimTrap s w.core (atBundle (s.core w.core).pc .hoistmask (w.hoist.setWidth 64))

/-- Whether a held core takes part in the hoist of a wait: one of their masks names a core of the other's (R237, R403). -/
def hoistShares (a h : HoistWait) : Bool :=
  h.hoist = a.hoist && h.core ≠ a.core &&
    if clusterOf h.core = clusterOf a.core then h.cmask &&& a.cmask ≠ 0 else a.hoist.toNat ≥ 448 && h.xmask &&& a.xmask ≠ 0

/-- HOIST_ARRIVAL (16 R403; 09 R237): core's guidon stands at a hoist bundle. -/
def execHoistArrival (s : State) : Host.Outcome State Fault Refusal :=
  let c := s.ev.core
  .next (if !reachesHoist s [] c then s
    else
      let n := (hdrHoist (wordOf (imemWord s c (s.core c).pc))).toNat
      let w := hoistWait s c n
      -- a mask that splits a gang traps in every held participant (R237)
      if hoistBad s w then ((if splitsGang s (clusterOf c) w.cmask then s.sched.hoists.filter (hoistShares w) else []) ++ [w]).foldl hoistTrap s
      else
        let all := s.sched.hoists ++ [w]
        let bad := all.filter fun a => (all.any fun b => hoistClash a b) && (a = w || hoistClash a w)
        if bad.isEmpty then (s.mapSched fun m => { m with hoists := all }).mapCore c fun k => { k with hoistHeld := some (n, 0) }
        else bad.foldl hoistTrap s)

/-- The waits at a wait's hoist that belong to it, oldest first: in a cluster those of its mask, in the chip those of its cluster
mask. -/
def hoistGroup (s : State) (w : HoistWait) : List HoistWait :=
  s.sched.hoists.filter fun h => h.hoist = w.hoist &&
    if w.hoist.toNat ≤ 447 then clusterOf h.core = clusterOf w.core && h.cmask = w.cmask else h.xmask = w.xmask

/-- The core mask of cluster n for a group: that of its first held core there. -/
def groupMask (l : List HoistWait) (n : BitVec 6) : BitVec 16 :=
  match l.find? fun h => clusterOf h.core = n with
  | some h => h.cmask
  | none => 0

/-- The clusters of a group. -/
def groupClusters (w : HoistWait) : List (BitVec 6) :=
  if w.hoist.toNat ≤ 447 then [clusterOf w.core] else (setBits w.xmask 64).map (BitVec.ofNat 6)

/-- The cores that take part in a group's hoist. -/
def groupCores (l : List HoistWait) (w : HoistWait) : List (BitVec 10) :=
  (groupClusters w).flatMap fun n => (setBits (groupMask l n) 16).map fun i => coreAt n (BitVec.ofNat 4 i)

/-- The release cycle of a group whose every participant is held (R237). -/
def hoistRelease (s : State) (w : HoistWait) : Option Nat :=
  let l := hoistGroup s w
  let cs := groupCores l w
  if (groupClusters w).all fun n => groupMask l n ≠ 0 && ((setBits (groupMask l n) 16).all fun i =>
      l.any fun h => h.core = guidonOf s (coreAt n (BitVec.ofNat 4 i))) then
    some ((l.filter fun h => cs.contains h.core).foldl (fun m h => max m h.arrived) 0 + if w.hoist.toNat ≤ 447 then 2 else 14)
  else none

/-- A launch's router program restarts its phases when its SYNC hoist releases the guidons (07 R162). -/
def syncRouter (s : State) (c : BitVec 10) (n : Nat) : State :=
  match (s.core c).occ with
  | some id => s.mapOcc id fun o =>
      { o with router := o.router.map fun r => if r.sync.toNat = n then { r with phase := 0, at_ := s.cycle } else r }
  | none => s

/-- The accesses by which a released participant synchronises: its release with its hoist bundle, which its earlier accesses precede, its acquire
before the accesses that lie the ordering distance behind (08 R194; 16 R391). ahead: cycles until it issues the hoist bundle. -/
def hoistSync (s : State) (c : BitVec 10) (ahead : Nat) (scope : BitVec 3) (parts : List (BitVec 10)) : State :=
  let t := (s.core c).tick
  let who : Lanes := BitVec.ofNat 2048 (parts.foldl (fun n p => n ||| 2 ^ p.toNat) 0)
  let acc (op : AccOp) (d : Nat) : Access :=
    { op := op, slot := .c, left := ahead + d + 1, born := t + ahead, lag := 0, remote := false, paid := false, checked := false, due := t, dest := none, pdest := none, addr := 0, bundle := (s.core c).pc,
      pieces := [], data := who, data2 := 0, scope := scope }
  s.mapCore c fun k => { k with accs := k.accs ++ [acc .hoistRel 0, acc .hoistAcq 9] }

/-- A held guidon or single core is released: it issues its hoist bundle in this cycle, its followers four cycles on. -/
def releaseHoist (s : State) (parts : List (BitVec 10)) (w : HoistWait) : State :=
  let scope := hdrScope (wordOf (imemWord s w.core (s.core w.core).pc))
  let s := s.mapCore w.core fun k => { k with hoistHeld := some (w.hoist.toNat, 1) }
  syncRouter ((gangOf s w.core).foldl (fun s m => hoistSync s m (if m = w.core then 0 else 4) scope parts) s) w.core w.hoist.toNat

/-- The held cores of a group leave their hoist together. -/
def releaseGroup (s : State) (w : HoistWait) : State :=
  let l := hoistGroup s w
  let cs := groupCores l w
  let out := l.filter fun h => cs.contains h.core
  out.foldl (fun s h => releaseHoist s cs h) (s.mapSched fun m => { m with hoists := m.hoists.filter fun h => !out.contains h })

/-- HOIST_RELEASE (09 R237; 16 R403): the group of the wait of core, at its release cycle. -/
def execHoistRelease (s : State) : Host.Outcome State Fault Refusal :=
  .next (match s.sched.hoists.find? fun h => h.core = s.ev.core with
    | none => s
    | some w =>
      match hoistRelease s w with
      | none => s
      | some r =>
        if s.cycle < r then s else releaseGroup s w)

/-- The releases of this cycle: one event for each group. -/
def hoistEvents (s : State) : List (Instr × EvArg) :=
  (s.sched.hoists.filter fun w => (hoistGroup s w).head? = some w && (match hoistRelease s w with
    | some r => decide (r ≤ s.cycle)
    | none => false)).map fun w => (.hoistRelease, { core := w.core, ix := w.hoist.toNat })

/-! ### Holds (15 R377; 05 R112, R113) -/

/-- HOLD_RELEASE (15 R377): core's hold. -/
def execHoldRelease (s : State) : Host.Outcome State Fault Refusal :=
  .next (s.mapCore s.ev.core fun k => if holdOver s k then { k with hold := none } else k)

/-- The measures of the members of core g's gang, by rank (R112). -/
def measures (s : State) (g : BitVec 10) : List Nat :=
  (gangOf s g).map fun m => match (s.core m).hold with
    | some (.phase _ _ t _) => t.toNat
    | _ => 0

/-- Weight of member i in variant v of stage st (Table Scheduler.3). -/
def weightOf (s : State) (c : BitVec 10) (o : Occ) (st v i : Nat) : Nat := fieldOf (variantWord s c o st (5 + 5 * v + i / 4)) (8 * (i % 4)) 8

/-- The cost of variant u, as a fraction: the largest t[i] × w(u, i) / w(v, i). -/
def variantCost (w : Nat → Nat → Nat) (v u : Nat) (l : List (Nat × Nat)) : Nat × Nat :=
  l.foldl (fun b e =>
    let n := e.2 * w u e.1
    let d := w v e.1
    if n * b.2 > b.1 * d then (n, d) else b) (0, 1)

/-- The variant of least cost, the lowest on a tie (R112). -/
def bestVariant (cost : Nat → Nat × Nat) (n : Nat) : Nat :=
  (List.range n).foldl (fun b u => if (cost u).1 * (cost b).2 < (cost b).1 * (cost u).2 then u else b) 0

/-- START(st) (R109). -/
def startWord (o : Occ) (st : Nat) : BitVec 16 := if st = 0 && o.stages.getD 0 0xFFFF = 0xFFFF then o.entryWord else o.stages.getD st 0xFFFF

/-- The stage that the governor of stage st enters at occupancy n (R112). -/
def governed (s : State) (c : BitVec 10) (o : Occ) (st n : Nat) : Nat :=
  let w0 := variantWord s c o st 0
  let w1 := variantWord s c o st 1
  if w0.getLsbD 31 && w0.getLsbD 21 && n ≥ fieldOf w1 16 16 then fieldOf w0 24 2
  else if w0.getLsbD 31 && w0.getLsbD 20 && n ≤ fieldOf w1 0 16 then fieldOf w0 22 2
  else st

/-- The decision of a PHASE: the new stage, variant and target; none while the launch has no variant table (R112, R113). -/
def phaseDecision (s : State) (g : BitVec 10) : Option (BitVec 16 × BitVec 8 × BitVec 16) :=
  match (s.core g).occ.bind s.occ?, (s.core g).hold with
  | some o, some (.phase _ _ _ (some n)) =>
    let st := (s.core g).stage.toNat
    let v := (s.core g).variant.toNat
    let s2 := governed s g o st n
    if s2 ≠ st then some (BitVec.ofNat 16 s2, 0, startWord o s2)
    else
      let l := (List.range (measures s g).length).zip (measures s g)
      let cost (u : Nat) : Nat × Nat := variantCost (fun u i => weightOf s g o st u i) v u l
      let u := bestVariant cost (fieldOf (variantWord s g o st 2) 0 3)
      some (BitVec.ofNat 16 st, BitVec.ofNat 8 u, (variantWord s g o st (4 + 5 * u)).setWidth 16)
  | _, _ => none

/-- PHASE_HOLD_END (05 R113): core's eight cycles have passed. The guidon goes to the target; a follower takes over its guidon's
stage and variant, and its next bundle is the one that arrives. -/
def execPhaseHoldEnd (s : State) : Host.Outcome State Fault Refusal :=
  let c := s.ev.core
  .next (match (s.core c).hold with
    | some (.phase 0 _ _ _) =>
      if isGuidon s c then
        match phaseDecision s c with
        | some (st, v, t) => s.mapCore c fun k => { k with hold := none, stage := st, variant := v, pc := t }
        | none => s.mapCore c fun k => { k with hold := none }
      else
        let g := s.core (guidonOf s c)
        s.mapCore c fun k => { k with hold := none, stage := g.stage, variant := g.variant, pc := match k.feed with
          | f :: _ => f.b.pc
          | [] => k.pc }
    | _ => s)

/-! ### Waits (16 R393, R394; 19 R468) -/

/-- PWAIT_WAKE (16 R393): a write has left the word of core's thread nonzero; thread 8 is the primary, whose freeze lasts until the
end of this cycle. -/
def execPwaitWake (s : State) : Host.Outcome State Fault Refusal :=
  let c := s.ev.core
  .next (if s.ev.thread = 8 then
      s.mapCore c fun k => match k.pwait with
        | some p => if s.ev.flag || k.usedAt = s.cycle + 1 then endPwait k p else { k with pwait := some { p with woken := true } }
        | none => k
    else s.mapThread c (s.ev.thread.setWidth 3) fun th => match th.st with
      | .pwait _ _ _ => { th with st := .running, lastRead := true }
      | _ => th)

/-- PWAIT_TIMEOUT (16 R393): the bound of core's thread has passed. -/
def execPwaitTimeout (s : State) : Host.Outcome State Fault Refusal :=
  let c := s.ev.core
  .next (if s.ev.thread = 8 then
      s.mapCore c fun k => match k.pwait with
        | some p => if p.left = some 0 then endPwait k p else k
        | none => k
    else s.mapThread c (s.ev.thread.setWidth 3) fun th => match th.st with
      | .pwait _ _ (some 0) => { th with st := .running, lastRead := true }
      | _ => th)

/-- The waits of a core whose bound has passed. -/
def timeoutsOf (c : BitVec 10) (k : Core) : List (Instr × EvArg) :=
  (match k.pwait with
   | some p => if p.left = some 0 && k.run = .running then [(Instr.pwaitTimeout, { core := c, thread := 8 })] else []
   | none => []) ++
  k.threads.filterMap fun t => match t.2.st with
    | .pwait _ _ (some 0) => some (Instr.pwaitTimeout, { core := c, thread := BitVec.ofNat 4 t.1 })
    | _ => none

/-- One wait cycle of a thread. -/
def tickThread (th : Thread) : Thread :=
  match th.st with
  | .pwait g w (some n) => { th with st := .pwait g w (some (n - 1)) }
  | _ => th

/-- A cycle begins for a core: its residue counts stand as MFC reads them (20 R470), and its threads' waits count one cycle, but for a pre-empted
unit's (05 R123). -/
def tickWaits (k : Core) : Core :=
  let k := { k with resWas := k.res }
  if k.run = .preempted then k else { k with threads := tabMap .reset (fun _ th => tickThread th) k.threads }

/-- A primary that has come to hold the granule of its LRW reads it in this cycle (16 R394). -/
def grantLrw (s : State) (c : BitVec 10) : State :=
  match (s.core c).lrwWait with
  | some a =>
    if s.mem.resq.any fun e => e.2.any fun w => w.is s (.prim c) && w.held.isSome then
      s.mapCore c fun k => { k with lrwWait := none, accs := insertAcc { a with op := .lrwRead, left := 1 } k.accs }
    else s
  | none => s

/-- SLEEP_EXPIRY (19 R468): thread of core. -/
def execSleepExpiry (s : State) : Host.Outcome State Fault Refusal :=
  .next (s.mapThread s.ev.core (s.ev.thread.setWidth 3) fun th => match th.st with
    | .sleep w => if w ≤ s.time.now then { th with st := .running, last := s.cycle } else th
    | _ => th)

/-! ### Frames: resume (10 R256, R257, R484; 08 R187) -/

/-- The lowest free scavenger slot. -/
def freeSlot (s : State) (c : BitVec 10) : Option Nat := (List.range 7).find? fun t => (s.thread c (BitVec.ofNat 3 t)).st = .free

/-- The registers of a resumed thread: the named ones, every other free (R257). -/
def resumedRegs (s : State) (c : BitVec 10) (t : Nat) (live : Half) (x : Tab Word) : Tab Word :=
  (List.range 31).foldl (fun r i =>
    let n := i + 1
    tabPut 0 r n (if live.getLsbD n then tabGet 0 x n else (s.free (freeCode c (8192 + 64 * t + n))).setWidth 64)) []

/-- The registers that a frame holds, by its live mask. -/
def frameRegs (live : Half) (v : Nat) : Tab Word :=
  let l := liveRegs live
  (l.zip (List.range l.length)).foldl (fun r e => tabPut 0 r e.1 (BitVec.ofNat 64 (recField v (24 + 8 * e.2) 8))) []

/-- A slot begins to run a thread. -/
def startThread (s : State) (c : BitVec 10) (t : Nat) (occ : Nat) (frame : Word) (pc : BitVec 57) (live : Half) (f : BitVec 4) (x : Tab Word) : State :=
  let regs := resumedRegs s c t live x
  s.mapThread c (BitVec.ofNat 3 t) fun _ =>
    { Thread.reset with x := regs, f := f, pc := pc, live := live, frame := frame, st := .running, last := s.cycle, occ := occ }

/-- The acquire of a resume: of the frame's TYIELD or TSPAWN (R187). -/
def acquireFrame (s : State) (c : BitVec 10) (t : Nat) (x : BitVec 6) (fp : Word) : State :=
  let sc := (tabGet [] s.mem.relInfo (frameKey x fp)).foldl (fun m i => max m i.scope.toNat) 0
  threadAcquire s c (BitVec.ofNat 4 t) sc [frameKey x fp]

/-- A slot that takes a frame pointer loads the frame (R257, R484; 19 R462). Its PC is taken as it stands (R240; DESIGN CHOICE, log entry 112). -/
def loadFrame (s : State) (c : BitVec 10) (t : Nat) (wake : Bool) : State :=
  let th := s.thread c (BitVec.ofNat 3 t)
  let t3 : BitVec 3 := BitVec.ofNat 3 t
  let x := ctxOfThread s c t3
  let fp := th.frame.toNat
  let keep (s : State) : State := s.mapThread c t3 fun h => { h with st := .resume wake }
  let lose (s : State) (w : Cause) : State := frameFault (s.mapThread c t3 fun _ => Thread.reset) x (some th.occ) fp w 1 c
  match frameRead s c t3 x fp with
  | .wait s => keep s
  | .fail w => lose s w
  | .ok v s =>
    let st := recField v 21 1
    if wake && st ≠ 1 && st ≠ 4 then s.mapThread c t3 fun _ => Thread.reset
    else match frameWrite s c t3 x fp [(21, [2])] with
      | .wait s => keep s
      | .fail w => lose s w
      | .ok s =>
        let live : Half := BitVec.ofNat 32 (recField v 16 4)
        let s := startThread (acquireFrame s c t x th.frame) c t th.occ th.frame (BitVec.ofNat 57 (recField v 0 8)) live
          (BitVec.ofNat 4 (2 * (recField v 20 1 % 8))) (frameRegs live v)
        -- a mask of more than 29 registers is the trap ILLOP
        if (liveRegs live).length > 29 then takeThreadTrap s c t3 .illop 0 else s

/-- A slot takes a frame pointer. -/
def takePointer (s : State) (c : BitVec 10) (t : Nat) (fp : Word) (wake : Bool) : State :=
  let occ := (s.core c).occ.getD 0
  loadFrame (s.mapThread c (BitVec.ofNat 3 t) fun _ => { Thread.reset with frame := fp, st := .resume wake, occ := occ }) c t wake

/-- A thread that arrives by migration goes on: the acquire of R187 at scope 3. -/
def resumePacket (s : State) (c : BitVec 10) (t : Nat) (p : Packet) : State :=
  let s := startThread s c t p.occ p.frame p.pc p.live p.f p.x
  threadAcquire s c (BitVec.ofNat 4 t) 3 [frameKey p.ctx p.frame]

/-- A pointer that a slot may take: a TSPAWN has written its STATE (19 R462). -/
def Ready.visible (e : Ready) : Bool := e.maker.isNone

/-- FRAME_RESUME (10 R257): on core, a slot that loads its frame goes on (thread), or the lowest free one takes the oldest frame of
the dock, else of the ready queue. -/
def execFrameResume (s : State) : Host.Outcome State Fault Refusal :=
  let c := s.ev.core
  .next (if !runsThreads s c then s
    else match (s.thread c (s.ev.thread.setWidth 3)).st, freeSlot s c with
      | .resume w, _ => loadFrame s c s.ev.thread.toNat w
      | _, none => s
      | _, some t =>
        match (s.core c).dock, takeFirst Ready.visible (s.core c).readyq with
        | p :: r, _ =>
          let s := s.mapCore c fun k => { k with dock := r }
          if p.moored then takePointer s c t p.frame false else resumePacket s c t p
        | [], some (e, r) => takePointer (s.mapCore c fun k => { k with readyq := r }) c t e.fp e.wake
        | [], none => s)

/-- The resumes of a core in this cycle: the slots that still load, then as many frames as there are free slots. -/
def resumesOf (s : State) (c : BitVec 10) : List (Instr × EvArg) :=
  if !runsThreads s c then []
  else
    let ts := (List.range 7).filter fun t => match (s.thread c (BitVec.ofNat 3 t)).st with
      | .resume _ => true
      | _ => false
    let free := ((List.range 7).filter fun t => (s.thread c (BitVec.ofNat 3 t)).st = .free).length
    (ts.map fun t => (Instr.frameResume, { core := c, thread := BitVec.ofNat 4 t })) ++
      List.replicate (min free ((s.core c).dock.length + ((s.core c).readyq.filter Ready.visible).length)) (Instr.frameResume, { core := c, thread := 7 })

/-! ### Migration (10 R259-R263; 08 R187) -/

/-- A thread leaves for a core in a packet: its reservations are dropped, its earlier accesses released at scope 3. -/
def departThread (s : State) (c : BitVec 10) (t : BitVec 3) (o : BitVec 10) (next : Bool) (extra : BitVec 32) : State :=
  let th := s.thread c t
  let x := ctxOfThread s c t
  let live := th.live ||| extra
  let s := dropReservations s (.thread c t)
  let s := releaseAt (threadRelease s c 3) (.thread c (t.setWidth 4)) 3 (frameKey x th.frame)
  -- a live mask of more than 29 registers is the operation's trap, after the release (step 4)
  if (liveRegs live).length > 29 then takeThreadTrap (s.mapThread c t fun th => { th with st := .running }) c t .illop 0
  else
  let p : Packet :=
    { dest := o, occ := th.occ, ctx := x, frame := th.frame, pc := if next then th.pc + 8 else th.pc, live := live, f := th.f,
      x := th.x.filter (fun e => live.getLsbD e.1), moored := false, xfail := false }
  (s.mapThread c t fun _ => Thread.reset).mapSched fun m =>
    { m with packets := tabPut none m.packets m.nextPacket (some p), nextPacket := m.nextPacket + 1 }

/-- MIGRATION_DEPARTURE (10 R261): thread of core drops its reservations, releases at scope 3 and leaves in a packet. -/
def execMigrationDeparture (s : State) : Host.Outcome State Fault Refusal :=
  let c := s.ev.core
  let t : BitVec 3 := s.ev.thread.setWidth 3
  .next (match (s.thread c t).st with
    | .depart o next extra => departThread s c t o next extra
    | _ => s)

/-- Remove a packet. -/
def dropPacket (s : State) (n : Nat) : State := s.mapSched fun m => { m with packets := tabPut none m.packets n none }

/-- Moor an arriving thread: its frame is written with STATE MOORED and CORE, and linked at the tail of its list (R262); a frame that
cannot be written drops the packet with a FRAMEFAULT record (R484). -/
def moorPacket (s : State) (n : Nat) (p : Packet) : State :=
  let a : Ag := .thread p.dest 0
  let key := moorKey p.occ p.dest
  let old := tabGet (0, 0) s.sched.moor key
  let lost (w : Cause) : State := frameFault (dropPacket s n) p.ctx (some p.occ) p.frame.toNat w 4 p.dest
  match frameLook s a p.ctx p.frame.toNat .write (.packet n) p.xfail with
  | .wait s => s
  | .fail w => lost w
  | l =>
    let put (s : State) (tail : Option FLook) : State :=
      let s := framePut s a l (frameParts { Thread.reset with pc := p.pc, live := p.live, f := p.f, x := p.x } p.pc 3)
      let s := framePut s a l [(8, leBytes 8 0), (22, leBytes 2 p.dest.toNat)]
      let s := match tail with
        | some t => framePut s a t [(8, leBytes 8 p.frame.toNat)]
        | none => s
      (dropPacket s n).mapSched fun m => { m with moor := tabPut (0, 0) m.moor key (if old.1 = 0 then p.frame else old.1, p.frame) }
    if old.1 = 0 then put s none
    else match frameLook s a p.ctx old.2.toNat .write (.packet n) p.xfail with
      | .wait s => s
      | .fail w => lost w
      | t => put s (some t)

/-- MIGRATION_ARRIVAL (10 R262): packet ix. -/
def execMigrationArrival (s : State) : Host.Outcome State Fault Refusal :=
  let n := s.ev.ix
  .next (match tabGet none s.sched.packets n with
    | none => s
    | some p =>
      let c := p.dest
      let gone : Bool := match s.occ? p.occ with
        | none => true
        | some o => o.ending
      if gone then eventRecord (dropPacket s n) p.ctx 4 0x50 (some p.occ) (payload2 p.frame.toNat p.pc.toNat)
      else if (s.core c).occ = some p.occ && (s.core c).run ≠ .preempted then
        match freeSlot s c with
        | some t => resumePacket (dropPacket s n) c t p
        | none =>
          if (s.core c).dock.length < 4 then (dropPacket s n).mapCore c fun k => { k with dock := k.dock ++ [p] }
          else moorPacket s n p
      else moorPacket s n p)

/-- The head of a mooring list, which lies at l, goes into the dock: LINK and CORE are cleared and the list goes on at LINK. -/
def moveMoored (s : State) (c : BitVec 10) (l : FLook) : State :=
  let x := ctxOfCore s c
  let key := moorHere s c
  let m := tabGet (0, 0) s.sched.moor key
  let link : Word := BitVec.ofNat 64 (frameGet s l 8)
  let p : Packet := { dest := c, occ := (s.core c).occ.getD 0, ctx := x, frame := m.1, pc := 0, live := 0, f := 0, x := [], moored := true, xfail := false }
  let s := framePut s (.thread c 7) l [(8, leBytes 8 0), (22, leBytes 2 0)]
  (s.mapSched fun k => { k with moor := tabPut (0, 0) k.moor key (if link = 0 then (0, 0) else (link, m.2)),
                                moorFail := tabPut false k.moorFail key false }).mapCore c fun k => { k with dock := k.dock ++ [p] }

/-- Whether the move of a mooring list has issued and awaits its frame's translation. -/
def moorAwaits (s : State) (key : Nat) (b : Bool) : State := s.mapSched fun m => { m with moorBusy := tabPut false m.moorBusy key b }

/-- MOORING_MOVE (10 R263): the oldest moored frame of core's list goes into the dock, LINK and CORE cleared. A list whose head
cannot be read is lost, with a FRAMEFAULT record for the frame. -/
def execMooringMove (s : State) : Host.Outcome State Fault Refusal :=
  let c := s.ev.core
  .next (if !moorDue s c then moorAwaits s (moorHere s c) false
    else
      let x := ctxOfCore s c
      let key := moorHere s c
      let m := tabGet (0, 0) s.sched.moor key
      match frameLook s (.thread c 7) x m.1.toNat .write (.moor key) (tabGet false s.sched.moorFail key) with
      | .wait s => moorAwaits s key true
      | .fail w =>
        frameFault ((moorAwaits s key false).mapSched fun k => { k with moor := tabPut (0, 0) k.moor key (0, 0), moorFail := tabPut false k.moorFail key false })
          x (s.core c).occ m.1.toNat w 1 c
      | l => moveMoored (moorAwaits s key false) c l)

end Sys2Proof.Machine
end

