-- ==== Sys2Proof/Machine/Links.lean ====
section
/-! DEFINITION. Fyzil links: flits, retry, routing, requests of peers, messages, the NOW exchange (spec 02). What the spec leaves to
the device makers (contents of MESSAGE and LINKCTL, how credits are given, the place of a response's fault, codes of the atomic
operations) is fixed by log entry 7. -/

namespace Sys2Proof.Machine

/-! ### Flits (02 R40-R42) -/

/-- Header fields (Table Links.1). -/
def fDst (f : Flit) : BitVec 6 := f.extractLsb' 58 6
/-- SRC. -/
def fSrc (f : Flit) : BitVec 6 := f.extractLsb' 52 6
/-- VC. -/
def fVc (f : Flit) : Nat := fieldOf f 50 2
/-- KIND. -/
def fKind (f : Flit) : Nat := fieldOf f 46 4
/-- SEQ. -/
def fSeq (f : Flit) : BitVec 12 := f.extractLsb' 34 12
/-- ACK. -/
def fAck (f : Flit) : BitVec 12 := f.extractLsb' 22 12
/-- NAK. -/
def fNak (f : Flit) : Bool := f.getLsbD 21
/-- HOPS. -/
def fHops (f : Flit) : Nat := fieldOf f 12 6
/-- TAG. -/
def fTag (f : Flit) : BitVec 12 := f.extractLsb' 0 12

/-- Byte k of the payload. -/
def fByte (f : Flit) (k n : Nat) : Nat := fieldOf f (64 + 8 * k) (8 * n)

/-- Shift bits through the CRC-64 of ECMA-182. -/
def crcBits : Nat → Word → Word
  | 0, c => c
  | n + 1, c => crcBits n (if c.getLsbD 63 then (c <<< 1) ^^^ 0x42F0E1EBA9EA3693 else c <<< 1)

/-- One byte. -/
def crcByte (c : Word) (b : Byte) : Word := crcBits 8 (c ^^^ (b.setWidth 64 <<< 56))

/-- The CRC of bytes 0-119: initial value all ones, result inverted (R40). -/
def flitCrc (f : Flit) : Word := ~~~ ((leBytes 120 f.toNat).foldl crcByte (BitVec.allOnes 64))

/-- A flit with its CRC. -/
def sealFlit (f : Flit) : Flit := putField f 960 64 (flitCrc f).toNat

/-- The virtual channel of a kind (Table Links.2); none for a reserved one. -/
def kindVc (k : Nat) : Option Nat :=
  match k with
  | 0 => some 0
  | 8 => some 0
  | 9 => some 0
  | 1 => some 1
  | 3 => some 1
  | 5 => some 1
  | 2 => some 2
  | 4 => some 2
  | 6 => some 2
  | 7 => some 3
  | _ => none

/-- Whether a kind is sequenced. -/
def sequenced (k : Nat) : Bool := 1 ≤ k && k ≤ 7

/-- A flit from this device, not yet sealed. -/
def newFlit (s : State) (dst : BitVec 6) (kind len : Nat) (tag : BitVec 12) (payload : List Byte) : Flit :=
  BitVec.ofNat 1024 (2 ^ 64 * leNat payload + (2 ^ 58 * dst.toNat + 2 ^ 52 * s.links.devnum.toNat + 2 ^ 50 * (kindVc kind).getD 0 + 2 ^ 46 * kind +
    2 ^ 18 * len + 2 ^ 12 * 15 + tag.toNat))

/-- The event that the arrival of a kind of flit is. -/
def kindEventOf (k : Nat) : Instr :=
  match k with
  | 1 => .read
  | 2 => .readrsp
  | 3 => .write
  | 4 => .writeack
  | 5 => .atomic
  | 6 => .atomicrsp
  | 7 => .message
  | 8 => .time
  | 9 => .linkctl
  | _ => .idle

/-! ### Sending (02 R39, R43, R45) -/

/-- Whether a link carries flits. -/
def Link.isUp (l : Link) : Bool := l.state = 2 || l.state = 3

/-- A flit leaves on a link. -/
def output (s : State) (n : BitVec 4) (f : Flit) : State := { s with links := { s.links with out := s.links.out ++ [(n, f)] } }

/-- Whether the neighbour has a credit for a channel (R44). -/
def Link.hasCredit (l : Link) (vc : Nat) : Bool := tabGet 0 l.credits vc ≠ 0

/-- Take (a negative count) or give credits of a channel. -/
def Link.addCredits (l : Link) (vc : Nat) (n : Int) : Link :=
  { l with credits := tabPut 0 l.credits vc (Int.ofNat (tabGet 0 l.credits vc) + n).toNat }

/-- Send a sequenced flit: it takes a credit and the next SEQ, and stays in the replay buffer (R43, R44). It asks for no resend. -/
def transmit (s : State) (n : BitVec 4) (f : Flit) : State :=
  let l := s.link n
  let f := sealFlit (putField (putField (putField f 34 12 l.nextSeq.toNat) 22 12 l.lastSeq.toNat) 21 1 0)
  output (s.mapLink n fun l => { l.addCredits (fVc f) (-1) with nextSeq := l.nextSeq + 1, replay := l.replay ++ [f], since := tabPut 0 l.since (fVc f) s.time.now }) n f

/-- Send an IDLE, TIME or LINKCTL flit, which needs a credit of channel 0 (R44): the neighbour uses it up as it arrives, and its credit is
back at once (log entry 7). -/
def sendBare (s : State) (n : BitVec 4) (kind len : Nat) (nak : Bool) (payload : List Byte) : State :=
  let l := s.link n
  let f := newFlit s l.peer kind len 0 payload
  if !l.hasCredit 0 then s
  else output s n (sealFlit (putField (putField f 22 12 l.lastSeq.toNat) 21 1 (if nak then 1 else 0)))

/-- Put a flit on a link: it waits while the link trains, the replay buffer of 1,024 is full or its channel has no credit, in order on its
channel: another channel's flits do not wait for it (R43, R44). -/
def putFlit (s : State) (n : BitVec 4) (fresh : Bool) (f : Flit) : State :=
  let l := s.link n
  if l.isUp && l.replay.length < 1024 && l.hasCredit (fVc f) && !l.waiting.any (fun g => fVc g = fVc f) then transmit s n f
  else s.mapLink n fun l =>
    { l with waiting := l.waiting ++ [f]
             since := if fresh && !l.waiting.any (fun g => fVc g = fVc f) then tabPut 0 l.since (fVc f) s.time.now else l.since }

/-- Send what waits for a link. -/
def flushLink (s : State) (n : BitVec 4) : State :=
  (s.link n).waiting.foldl (fun s f => putFlit s n false f) (s.mapLink n fun l => { l with waiting := [] })

/-- Messages of this device wait 1 ms after a failure, in order behind those that failed before them (R50). -/
def laterMessage (s : State) (f : Flit) : State :=
  { s with links := { s.links with msgRetry := s.links.msgRetry ++ [(f, s.time.now + 1000000)] } }

/-- Payload of a report that a message failed: 1 in byte 8, the device it was for in byte 9 and its TAG in bytes 10-11 (log entry 7). -/
def reportBytes (f : Flit) : List Byte := leBytes 8 0 ++ [1, (fDst f).setWidth 8] ++ leBytes 2 (fTag f).toNat

/-- Whether a message is such a report. -/
def isReport (f : Flit) : Bool := fByte f 8 1 = 1

/-- A flit is discarded and counted (R45). -/
def countDrop (s : State) : State := { s with links := { s.links with routedrop := satInc s.links.routedrop } }

/-- Send a flit to its destination: this device, or the link that the route table names (R45); one that cannot go is discarded. -/
def trySend (s : State) (f : Flit) (lost : State → State) : State :=
  if fDst f = s.links.devnum then s.pushEvents [(kindEventOf (fKind f), { ix := 16, flit := f })]
  else
    let r := tabGet 0 s.links.routes (fDst f).toNat
    let n : BitVec 4 := r.setWidth 4
    if !r.getLsbD 7 || (s.link n).state = 0 || (s.link n).state = 4 then lost (countDrop s) else putFlit s n true f

/-- A lost message comes to its sender's notice: this device sends its own again after 1 ms, another device is sent a report. Of a
report none is made (R50, R55; log entry 7). -/
def loseMessage (s : State) (f : Flit) : State :=
  if fKind f ≠ 7 || isReport f then s
  else if fSrc f = s.links.devnum then laterMessage s f
  else trySend s (newFlit s (fSrc f) 7 1 0 (reportBytes f)) id

/-- A flit is discarded and counted, and a message is reported (R45, R50). -/
def dropFlit (s : State) (f : Flit) : State := loseMessage (countDrop s) f

/-- Send a flit of this device or of another. -/
def sendFlit (s : State) (f : Flit) : State := trySend s f fun s => loseMessage s f

/-- Send a message of this device: behind those to the same receiver that wait after a failure, or at once (R47, R50). -/
def sendMessage (s : State) (f : Flit) : State :=
  if s.links.msgRetry.any fun m => fDst m.1 = fDst f then laterMessage s f else sendFlit s f

/-- A new message of this device: it takes the next TAG, under which it is kept in case a report of its failure comes back (R50). -/
def postMessage (s : State) (f : Flit) : State :=
  let f := putField f 0 12 s.links.msgTag.toNat
  sendMessage { s with links := { s.links with msgTag := s.links.msgTag + 1, msgSent := tabPut 0 s.links.msgSent s.links.msgTag.toNat f } } f

/-- Forward a flit: HOPS falls by 1, and at 0 it is discarded. -/
def forward (s : State) (f : Flit) : State :=
  if fHops f ≤ 1 then dropFlit s f else sendFlit s (putField f 12 6 (fHops f - 1))

/-! ### Arrival (02 R40, R41, R43) -/

/-- How far back from the newest a sequence number lies. -/
def seqBack (newest seq : BitVec 12) : Nat := (newest - seq).toNat

/-- An ACK takes every flit up to it out of the replay buffer. -/
def takeAck (l : Link) (ack : BitVec 12) : Link :=
  let gone (q : BitVec 12) : Bool := seqBack ack q < 2048
  { l with replay := l.replay.filter fun f => !gone (fSeq f)
           tries := if l.replay.any fun f => gone (fSeq f) then tabDrop (fun q => gone (BitVec.ofNat 12 q)) l.tries else l.tries }

/-- Send what the replay buffer holds, in order. -/
def sendReplay (s : State) (n : BitVec 4) : State :=
  let l := s.link n
  l.replay.foldl (fun s f => output s n (sealFlit (putField f 22 12 l.lastSeq.toNat))) s

/-- A NAK: every buffered flit is sent again, in order; one that has now been replayed 8 times retrains the link (R39, R43). -/
def resend (s : State) (n : BitVec 4) : State :=
  if (s.link n).replay.isEmpty then s
  else
    let s := sendReplay (s.mapLink n fun l =>
      { l with retry := satInc l.retry
               tries := l.replay.foldl (fun t f => tabPut 0 t (fSeq f).toNat (tabGet 0 t (fSeq f).toNat + 1)) l.tries }) n
    if (s.link n).tries.any fun e => e.2 ≥ 8 then s.pushEvents [(.linkRetrain, { ix := n.toNat })] else s

/-- A flit that fails, or is treated as failing, its CRC: counted and answered with NAK. -/
def failFlit (s : State) (n : BitVec 4) : State :=
  sendBare (s.mapLink n fun l => { l with crcerr := satInc l.crcerr }) n 0 0 true []

/-- Add to a saturating count. -/
def satAdd {w : Nat} (x : BitVec w) (n : Nat) : BitVec w := if x.toNat + n < 2 ^ w then BitVec.ofNat w (x.toNat + n) else BitVec.allOnes w

/-- Uncorrectable codewords touched the flit (R37, R39): aux - 1 that no flit before it has counted, or 1 when aux is 0. The periods of
65,536 ns are those of NOW, as for TIME flits (DESIGN CHOICE, log entry 85). -/
def countUncorrectable (s : State) (n : BitVec 4) : State :=
  let c : Nat := if s.ev.aux = 0 then 1 else s.ev.aux.toNat - 1
  let s := s.mapLink n fun l =>
    { l with fecunc := satAdd l.fecunc c, uncorr := (if l.uncorrIn = s.now / 65536 then l.uncorr else 0) + c, uncorrIn := s.now / 65536 }
  if (s.link n).uncorr ≥ 64 then s.pushEvents [(.linkRetrain, { ix := n.toNat })] else s

/-- What the header of a sound flit does: its ACK and its NAK, and what waited for room in the replay buffer is sent. -/
def takeHeader (s : State) (n : BitVec 4) (f : Flit) : State :=
  let s := s.mapLink n fun l => takeAck l (fAck f)
  flushLink (if fNak f then resend s n else s) n

/-- A sequenced flit is taken in and acknowledged: at once, in an IDLE flit of its own, as every NAK is too (DESIGN CHOICE, log entry 85).
A LINKCTL flit gives its channel's credit back (log entry 7). -/
def acceptFlit (s : State) (n : BitVec 4) (f : Flit) : State :=
  let s := sendBare (s.mapLink n fun l => { l with lastSeq := fSeq f }) n 0 0 false []
  sendBare s n 9 1 false (leBytes 8 (2 ^ (16 * fVc f)))

/-- Whether a flit of a kind is sound: its CRC, its kind and the kind's channel (R40, R43). -/
def soundFlit (f : Flit) (kind : Nat) : Bool := flitCrc f = f.extractLsb' 960 64 && fKind f = kind && kindVc kind = some (fVc f)

/-- The arrival of a flit of a kind on link ix; ix 16 is this device's own. flag: an uncorrectable codeword touched it. -/
def arrive (s : State) (kind : Nat) (deliver : Flit → State → State) : State :=
  let f := s.ev.flit
  if s.ev.ix ≥ 16 then deliver f s
  else
    let n : BitVec 4 := BitVec.ofNat 4 s.ev.ix
    if !(s.link n).isUp then s
    else if s.ev.flag then failFlit (countUncorrectable s n) n
    else if !soundFlit f kind then failFlit s n
    else
      let s := takeHeader s n f
      if !sequenced kind then deliver f s
      else
        let l := s.link n
        if fSeq f = l.lastSeq + 1 then
          let s := acceptFlit s n f
          if fDst f = s.links.devnum then deliver f s else forward s f
        else if seqBack l.lastSeq (fSeq f) < 2048 then sendBare s n 0 0 false []
        else sendBare s n 0 0 true []

/-- IDLE (R40): its ACK and NAK. -/
def execIdle (s : State) : Host.Outcome State Fault Refusal := .next (arrive s 0 fun _ s => s)
/-- LINKCTL (R40, R44): its ACK and NAK, and credits of the four channels, 16 bits each (log entry 7). -/
def execLinkctl (s : State) : Host.Outcome State Fault Refusal :=
  .next (arrive s 9 fun f s =>
    if s.ev.ix ≥ 16 then s
    else
      let n : BitVec 4 := BitVec.ofNat 4 s.ev.ix
      flushLink ((List.range 4).foldl (fun s v => s.mapLink n fun l => l.addCredits v (fByte f (2 * v) 2)) s) n)

/-! ### Requests of peers (02 R42, R48) -/

/-- Whether a command breaks R42: a reserved field, its byte count, or a context that this device does not run. Counted with them
(DESIGN CHOICE, log entry 86): a scope code above 4, bits [7:6] of byte 8, an operation in a READ or WRITE, a run over a 64 KiB page, and
an ATOMIC of other than 8 aligned bytes or of no operation. -/
def commandBad (s : State) (f : Flit) (atomic : Bool) : Bool :=
  let va := fByte f 0 8
  let n := fByte f 9 1
  va ≥ 2 ^ 57 || fByte f 8 1 ≥ 64 || n = 0 || n > 96 || fByte f 10 1 % 8 > 4 || fByte f 11 1 ≠ 0 ||
    (s.ctx (BitVec.ofNat 6 (fByte f 8 1))).st ≠ .active || va / 65536 ≠ (va + n - 1) / 65536 ||
    (if atomic then fByte f 10 1 / 8 > 9 || n ≠ 8 || va % 8 ≠ 0 else fByte f 10 1 / 8 ≠ 0)

/-- The response to a request: the command comes back, byte 11 is 1 for a fault, and data follow (log entry 7). -/
def respond (s : State) (f : Flit) (fault : Bool) (data : List Byte) : State :=
  let kind := fKind f + 1
  let cmd := leBytes 16 (putField (BitVec.ofNat 128 (fByte f 0 16)) 88 8 (if fault then 1 else 0)).toNat
  let payload := if kind = 4 && !fault then [] else cmd ++ (if fault then [] else data)
  sendFlit s (newFlit s (fSrc f) kind (ceilDiv payload.length 16) (fTag f) payload)

/-- What a peer's access came to. -/
inductive PeerRes where
  | ok (data : List Byte) (s : State)
  | wait (permission : Bool) (s : State)
  | fail
  deriving DecidableEq, Repr

/-- An atomic operation by its code (Table Mem.6). -/
def atomOf (n : Nat) : AtomOp :=
  match n with
  | 0 => .add
  | 1 => .and
  | 2 => .or
  | 3 => .xor
  | 4 => .min
  | 5 => .max
  | 6 => .minn
  | 7 => .maxn
  | 8 => .xch
  | _ => .cas

/-- Perform a peer's access at the home slice (R48); at system scope a line is written back before it is read (07 R172). An address in the
scratchpad aperture reaches that scratchpad as the host's does (03 R60; 08 Table Model.4; DEDUCED, log entry 86). The second operand of a
compare-and-swap stands in bytes 24-31 of the payload (DESIGN CHOICE, log entry 86). -/
def peerAccess (s : State) (f : Flit) : PeerRes :=
  let va := fByte f 0 8
  let x : BitVec 6 := BitVec.ofNat 6 (fByte f 8 1)
  let n := fByte f 9 1
  let through : Bool := fByte f 10 1 % 8 = 4
  let kind : AccessKind := if fKind f = 1 then .read else if fKind f = 3 then .write else .atomic
  if inAperture va then
    let p : Piece := { core := apertureCore va, off := BitVec.ofNat 20 (apertureOff va), len := n, pos := 0 }
    let right : Right := if kind = .write then .write else if kind = .read then .read else .atomic
    if p.off.toNat + n > 2 ^ 20 || inPool s p.core p.off.toNat n || !windowOk s .peer p.core right p.off.toNat n then .fail
    else if kind ≠ .write && p.poisoned s then .fail
    else match kind with
      | .write => .ok [] (plainWrite s .peer (fByte f 16 n) [p])
      | .atomic =>
        let old : Word := BitVec.ofNat 64 (gatherPieces s [p])
        match atomResult (atomOf (fByte f 10 1 / 8)) old (BitVec.ofNat 64 (fByte f 16 8)) (BitVec.ofNat 64 (fByte f 24 8)) with
        | some v => .ok (leBytes 8 old.toNat) (syncWrite s .peer false 4 v.toNat p)
        | none => .ok (leBytes 8 old.toNat) s
      | _ => .ok (leBytes n (gatherPieces s [p])) s
  else if domainBusy s x va then .wait false s
  else match engineLook s x va kind with
    | .wait _ p => .wait p s
    | .ok pa leaf =>
      let s := if through then (linesOf pa n).foldl evictLine s else serveLines s x leaf va pa n
      if kind ≠ .write && physPoisoned s pa n then .fail
      else match kind with
        | .write => .ok [] (homeWriteAll s .peer x leaf through va pa (leBytes n (fByte f 16 n)))
        | .atomic =>
          let old : Word := BitVec.ofNat 64 (leNat (physBytes s pa 8))
          match atomResult (atomOf (fByte f 10 1 / 8)) old (BitVec.ofNat 64 (fByte f 16 8)) (BitVec.ofNat 64 (fByte f 24 8)) with
          | some v => .ok (leBytes 8 old.toNat) (homeWrite s .peer x leaf through va pa 8 v.toNat)
          | none => .ok (leBytes 8 old.toNat) s
        | _ => .ok (physBytes s pa n) s

/-- A request that waits is kept; its translation is asked for. -/
def holdRequest (s : State) (f : Flit) (permission : Bool) (id : Nat) : State :=
  let s := { s with links := { s.links with
      peerWaits := (s.links.peerWaits.filter fun w => w.id ≠ id) ++ [{ id := id, flit := f }], nextWait := max s.links.nextWait (id + 1) } }
  let x : BitVec 6 := BitVec.ofNat 6 (fByte f 8 1)
  if domainBusy s x (fByte f 0 8) then s
  else (requestMiss s (homeSlice s x (fByte f 0 8)) x (fByte f 0 8)
    (if fKind f = 1 then .read else if fKind f = 3 then .write else .atomic) (.peer id) permission).2

/-- A request for this device: refused under R42, performed and answered, or held while its translation is made. aux is 1 + the number
of a request that was held, flag then says that its wait has failed. -/
def serveRequest (f : Flit) (s : State) : State :=
  let again : Bool := s.ev.aux ≠ 0
  let id := if again then s.ev.aux.toNat - 1 else s.links.nextWait
  let gone (s : State) : State := { s with links := { s.links with peerWaits := s.links.peerWaits.filter fun w => w.id ≠ id } }
  if commandBad s f (fKind f = 5) || (again && s.ev.flag) then respond (gone s) f true []
  else match peerAccess s f with
    | .ok data s => respond (gone s) f false data
    | .fail => respond (gone s) f true []
    | .wait p s => holdRequest s f p id

/-- READ (R42, R48). -/
def execRead (s : State) : Host.Outcome State Fault Refusal := .next (arrive s 1 serveRequest)
/-- WRITE (R42, R48). -/
def execWrite (s : State) : Host.Outcome State Fault Refusal := .next (arrive s 3 serveRequest)
/-- ATOMIC (R42, R48). -/
def execAtomic (s : State) : Host.Outcome State Fault Refusal := .next (arrive s 5 serveRequest)

/-- Held requests whose translation has not been asked for. -/
def idleWaits (s : State) : List (Instr × EvArg) :=
  (s.links.peerWaits.filter fun w => !(s.mem.slices.any fun e => e.2.misses.any fun m => match m.2 with
      | some m => m.of (.peer w.id)
      | none => false)).map fun w => (kindEventOf (fKind w.flit), { ix := 16, flit := w.flit, aux := BitVec.ofNat 64 (w.id + 1) })

/-! ### Requests of this device's copy jobs (02 R42, R49) -/

/-- Change a job of a cluster. -/
def mapJob (s : State) (cl : BitVec 6) (j : Nat) (f : Job → Job) : State := setJob s cl j (f ((s.cluster cl).job j))

/-- A tag that no outstanding request has. -/
def freeTag (s : State) : Option (BitVec 12) :=
  ((List.range 4096).find? fun i => !s.links.reqs.any fun r => r.tag = (s.links.nextTag + BitVec.ofNat 12 i).setWidth 16).map
    fun i => s.links.nextTag + BitVec.ofNat 12 i

/-- Send a request of a job: a READ of n bytes, or a WRITE of data. Its 1 ms runs from here, also while its flit waits for the link
(DESIGN CHOICE, log entry 85). -/
def peerRequest (s : State) (cl : BitVec 6) (j : Nat) (kind dev x va n scope : Nat) (data : List Byte) : State :=
  match freeTag s with
  | none => s
  | some t =>
    let b := ((s.cluster cl).job j).burgee
    let cmd := leBytes 8 va ++ leBytes 1 x ++ leBytes 1 n ++ leBytes 2 scope ++ leBytes 2 b.toNat ++ leBytes 2 cl.toNat
    let s := { s with links := { s.links with nextTag := t + 1
                                              reqs := s.links.reqs ++ [{ tag := t.setWidth 16, cluster := cl, slot := BitVec.ofNat 6 j, sent := s.time.now }] } }
    sendFlit (mapJob s cl j fun k => { k with peerTag := some (t.setWidth 16) })
      (newFlit s (BitVec.ofNat 6 dev) kind (1 + ceilDiv data.length 16) t (cmd ++ data))

/-- A request ends: its job's answer, or the cause it fails with. -/
def endRequest (s : State) (r : PeerReq) (bad : Byte) (data : List Byte) : State :=
  let s := { s with links := { s.links with reqs := s.links.reqs.filter fun q => q ≠ r } }
  let k := (s.cluster r.cluster).job r.slot.toNat
  if k.st = .running && k.peerTag = some r.tag then
    setJob s r.cluster r.slot.toNat { k with peerTag := none, peerBad := bad, answer := if bad = 0 then some data else none }
  else s

/-- A response: it completes the request of its tag; one that comes too late finds none (R49). -/
def takeResponse (f : Flit) (s : State) : State :=
  match s.links.reqs.find? fun r => r.tag = (fTag f).setWidth 16 with
  | none => s
  | some r => if fByte f 11 1 = 1 then endRequest s r 0x68 [] else endRequest s r 0 (if fKind f = 4 then [] else leBytes (fByte f 9 1) (fByte f 16 96))

/-- READRSP. -/
def execReadrsp (s : State) : Host.Outcome State Fault Refusal := .next (arrive s 2 takeResponse)
/-- WRITEACK. -/
def execWriteack (s : State) : Host.Outcome State Fault Refusal := .next (arrive s 4 takeResponse)
/-- ATOMICRSP. -/
def execAtomicrsp (s : State) : Host.Outcome State Fault Refusal := .next (arrive s 6 takeResponse)

/-- Whether a request has been out for 1 ms. -/
def overdue (s : State) (r : PeerReq) : Bool := r.sent.toNat + 1000000 ≤ s.now

/-- LINK_REQUEST_TIMEOUT (R49): tag ix. -/
def execLinkRequestTimeout (s : State) : Host.Outcome State Fault Refusal :=
  .next (match s.links.reqs.find? fun r => r.tag.toNat = s.ev.ix && overdue s r with
    | none => s
    | some r => endRequest s r 0x67 [])

/-! ### Messages (02 R50; 03 R64) -/

/-- A message that has arrived: a report of a failed one, which is sent again after 1 ms, or a write of OWNER by the peer, which reaches
the register in the next cycle (03 R64). Other codes of byte 8 coordinate launches: the spec gives them no effect here (log entry 7). -/
def takeMessage (f : Flit) (s : State) : State :=
  match fByte f 8 1 with
  | 0 => { s with inbox := s.inbox ++ [(.registerWrite, { who := .peer (fSrc f), ix := 0x100, value := BitVec.ofNat 64 (fByte f 0 8) })] }
  | 1 =>
    let g := tabGet 0 s.links.msgSent (fByte f 10 2)
    if fKind g = 7 && fDst g = BitVec.ofNat 6 (fByte f 9 1) then laterMessage s g else s
  | _ => s

/-- MESSAGE (log entry 7). With ix 17 the management unit or the command processor of this device sends one: destination and payload
stand in the flit. -/
def execMessage (s : State) : Host.Outcome State Fault Refusal :=
  .next (if s.ev.ix = 17 then postMessage s (newFlit s (fDst s.ev.flit) 7 7 0 (leBytes 112 (fByte s.ev.flit 0 112)))
    else arrive s 7 takeMessage)

/-- MESSAGE_RETRY (R50): messages reported as failed 1 ms ago are sent again, in their order. -/
def execMessageRetry (s : State) : Host.Outcome State Fault Refusal :=
  let due := s.links.msgRetry.filter fun m => m.2 ≤ s.time.now
  let s := { s with links := { s.links with msgRetry := s.links.msgRetry.filter fun m => !(m.2 ≤ s.time.now) } }
  .next (due.foldl (fun s m => sendMessage s m.1) s)

/-! ### The NOW exchange (02 R51-R53; 01 R33) -/

/-- The offset θ of a neighbour's clock, truncated toward zero (R52). -/
def theta (trx tnb t4 tsend : Word) : Int := ((trx - tnb).toInt - (t4 - tsend).toInt).tdiv 2

/-- The delay δ of a link, truncated toward zero (R52). -/
def delayOf (trx tnb t4 tsend : Word) : Int := ((trx - tnb).toInt + (t4 - tsend).toInt).tdiv 2

/-- A sample of a link: its delay, and, for this device's chosen neighbour, the offset; the first makes its source available. -/
def takeSample (s : State) (n : BitVec 4) (x d : Int) : State :=
  let s := s.mapLink n fun l => { l with missed := 0, delay := d }
  if sourceLink s ≠ some n then s else if s.time.avail.getLsbD 3 then measureOffset s 3 x else lockSource s 3 x

/-- TIME (R52, R53): one whose t_rx and t_nb are all ones gives no sample. -/
def execTime (s : State) : Host.Outcome State Fault Refusal :=
  let n : BitVec 4 := BitVec.ofNat 4 s.ev.ix
  .next (arrive s 8 fun f s =>
    let tsend : Word := BitVec.ofNat 64 (fByte f 0 8)
    let trx : Word := BitVec.ofNat 64 (fByte f 8 8)
    let tnb : Word := BitVec.ofNat 64 (fByte f 16 8)
    let t4 := s.time.now
    let s := s.mapLink n fun l => { l with lastTime := some (tsend, t4) }
    if trx = BitVec.allOnes 64 && tnb = BitVec.allOnes 64 then s
    else takeSample s n (theta trx tnb t4 tsend) (delayOf trx tnb t4 tsend))

/-- TIME_FLIT_SEND (R51, R53): link ix; a period of 65,536 ns begins: a sample is due on every link, and one that is up sends.
The count of 02 R39 starts again with each such period of NOW, and not with a sliding one (DESIGN CHOICE, log entry 85). -/
def execTimeFlitSend (s : State) : Host.Outcome State Fault Refusal :=
  let n : BitVec 4 := BitVec.ofNat 4 s.ev.ix
  let l := s.link n
  .next (if s.now % 65536 ≠ 0 then s
    else
      let p := l.lastTime.getD (BitVec.allOnes 64, BitVec.allOnes 64)
      let s := s.mapLink n fun l => { l with uncorr := 0, missed := min (l.missed + 1) 5 }
      if !l.isUp then s else sendBare s n 8 2 false (leBytes 8 s.now ++ leBytes 8 p.2.toNat ++ leBytes 8 p.1.toNat))

/-- Whether the neighbour source has missed four samples in a row (R53); where no link is up, on every link. -/
def neighbourSilent (s : State) : Bool :=
  s.time.avail.getLsbD 3 && match sourceLink s with
    | some n => (s.link n).missed > 4
    | none => (List.range 16).all fun i => (s.link (BitVec.ofNat 4 i)).missed > 4

/-- NEIGHBOUR_SOURCE_LOST (R53; 01 R33). -/
def execNeighbourSourceLost (s : State) : Host.Outcome State Fault Refusal := .next (if neighbourSilent s then loseSource s 3 else s)

/-! ### Training and failures of links (02 R38, R39, R46, R55) -/

/-- LINK_RETRAIN (R39): link ix stops sending. -/
def execLinkRetrain (s : State) : Host.Outcome State Fault Refusal :=
  .next (relink (s.mapLink (BitVec.ofNat 4 s.ev.ix) fun l =>
    if l.isUp then { l with state := 1, trains := l.trains + 1, tries := [], uncorr := 0, trainFrom := s.time.now } else l))

/-- A link goes down: what it held is discarded, messages are reported, older ones first, telemetry and the owner are told, and the boot record notes it
(R38, R55). Only an owner that has MSI-X is sent one: the PF (DESIGN CHOICE, log entry 85). -/
def linkDown (s : State) (n : BitVec 4) : State :=
  let l := s.link n
  let s := relink (s.mapLink n fun l => { l with state := 0, lanes := 0, replay := [], waiting := [], tries := [], credits := [] })
  let s := l.waiting.foldl dropFlit (l.replay.foldl loseMessage s)
  let s := s.mapMgmt fun m => { m with telEvents := m.telEvents ++ [.linkDown s.time.now n] }
  let s := if s.owner.holder = 1 then sendFreeMsix s else s
  writeBootStep s 7 fun e => { e with outcome := .failed, mask := putField e.mask n.toNat 1 1 }

/-- The credits of the four channels that training agrees on: aux gives 15 bits for each (R44; log entry 7). -/
def trainCredits (a : Word) : Tab Nat := tabOfList 0 0 ((List.range 4).map fun i => fieldOf a (15 * i) 15)

/-- LINK_TRAINING_DONE (R38): link ix; its unacknowledged flits are sent again in order, then what waited. -/
def execLinkTrainingDone (s : State) : Host.Outcome State Fault Refusal :=
  let n : BitVec 4 := BitVec.ofNat 4 s.ev.ix
  .next (if (s.link n).state ≠ 1 then s
    else match s.ev.train with
      | .failed => linkDown s n
      | .up lanes peer =>
        if !(lanes = 8 || lanes = 4 || lanes = 2) then s
        else
          let s := relink (s.mapLink n fun l =>
            { l with state := if lanes = 8 then 2 else 3, lanes := lanes, peer := peer, credits := trainCredits s.ev.aux })
          flushLink (sendReplay s n) n)

/-- Whether a link has trained for 10 ms in vain (R38). -/
def trainingOver (s : State) (l : Link) : Bool := l.state = 1 && l.trainFrom.toNat + 10000000 ≤ s.now

/-- A write of ROUTEd (R45; 03 Table Host.9). -/
def writeRoute (s : State) (w : Who) (d : Nat) (v : Word) : State :=
  ownerWrite s w fun s =>
    { s with links := { s.links with routes := tabPut 0 s.links.routes d (v.setWidth 8 &&& 0x8F) } }

/-- ROUTE_WRITE (R45): destination ix. -/
def execRouteWrite (s : State) : Host.Outcome State Fault Refusal := .next (writeRoute s s.ev.who (s.ev.ix % 64) s.ev.value)

/-- Whether a channel of a link has made no progress for 1 ms while flits wait (R46). -/
def stalled (s : State) (l : Link) (vc : Nat) : Bool :=
  l.isUp && l.waiting.any (fun f => fVc f = vc) && (tabGet 0 l.since vc).toNat + 1000000 ≤ s.now

/-- ROUTE_STALL_DISCARD (R46): link ix, channel aux. -/
def execRouteStallDiscard (s : State) : Host.Outcome State Fault Refusal :=
  let n : BitVec 4 := BitVec.ofNat 4 s.ev.ix
  let l := s.link n
  let vc := s.ev.aux.toNat
  .next (if !stalled s l vc then s
    else (l.waiting.filter fun f => fVc f = vc).foldl dropFlit
      (s.mapLink n fun l => { l with waiting := l.waiting.filter fun f => fVc f ≠ vc }))

/-- What the links bring by themselves in a cycle. -/
def linkEvents (s : State) : List (Instr × EvArg) :=
  let ups := s.links.links.filter fun e => e.2.isUp
  (if s.now % 65536 = 0 && s.time.prev ≠ s.time.now then (List.range 16).map fun i => (Instr.timeFlitSend, { ix := i }) else []) ++
    (s.links.links.filter fun e => trainingOver s e.2).map (fun e => (Instr.linkTrainingDone, { ix := e.1 })) ++
    (if neighbourSilent s then [(Instr.neighbourSourceLost, { ix := 0 })] else []) ++
    (s.links.reqs.filter (overdue s)).map (fun r => (Instr.linkRequestTimeout, { ix := r.tag.toNat })) ++
    (if s.links.msgRetry.any fun m => m.2 ≤ s.time.now then [(Instr.messageRetry, { ix := 0 })] else []) ++
    (ups.flatMap fun e => ((List.range 4).filter (stalled s e.2)).map fun v => (Instr.routeStallDiscard, { ix := e.1, aux := BitVec.ofNat 64 v })) ++
    idleWaits s

end Sys2Proof.Machine
end

