-- ==== Sys2Proof/Machine/Jobs.lean ====
section
/-! DEFINITION. Copy jobs at work: the start, the elements and the end of a job (19 R448-R454; 21 R475; 08 R195; 06 R145). -/

namespace Sys2Proof.Machine

/-! ### Ends (19 R453, R454) -/

/-- A job finishes: its release, its state, its interrupt (R454). -/
def finishJob (s : State) (cl : BitVec 6) (j : Nat) (st : JobState) : State :=
  let x := (s.cluster cl).job j
  let s := if st = .done && x.control.getLsbD 15 then
      releaseAt s (.job cl (BitVec.ofNat 6 j)) (fieldOf x.control 16 3) (jobRelKey cl.toNat x.burgee.toNat) else s
  let s := setJob s cl j { x with st := st, seq := s.cycle, missAt := none, peerTag := none, answer := none }
  jobIrq s x

/-- The fault record of a job (R453). -/
def jobRecord (s : State) (cl : BitVec 6) (j : Nat) (cause : Byte) (addr : Word) : State :=
  let x := (s.cluster cl).job j
  eventRecord s x.ctx 4 cause.toNat (some x.occ)
    (payload2 (x.burgee.toNat + 2 ^ 16 * cl.toNat + 2 ^ 24 * j + 2 ^ 32 * (x.next % 2 ^ 32)) addr.toNat)

/-- A job fails with a cause at an address: its record, then its end without a release. -/
def faultJob (s : State) (cl : BitVec 6) (j : Nat) (cause : Byte) (addr : Word) : State :=
  finishJob (mapJob (jobRecord s cl j cause addr) cl j fun x => { x with cause := cause }) cl j .faulted

/-- The poison of an element is counted (07 R180) and recorded once per job, and the job goes on. -/
def notePoison (s : State) (cl : BitVec 6) (j : Nat) (addr : Word) : State :=
  let s := countUncorr s (quadOfCluster cl)
  if ((s.cluster cl).job j).poisonRec then s
  else mapJob (jobRecord s cl j 0x64 addr) cl j fun x => { x with poisonRec := true }

/-! ### Where an access of a job goes (19 R448, R450) -/

/-- Whether a job is paused by what touches core o: both belong to one unit, and the unit has stopped (05 R105, R123). -/
def jobPaused (s : State) (x : Job) (o : BitVec 10) : Bool :=
  match s.occ? x.occ with
  | none => false
  | some oc => oc.units.any fun u => u.cores.contains o && u.cores.contains x.core &&
      (match u.stage with
       | .stopping _ => preempted s x.core
       | _ => true)

/-- A place that an access of a job names. -/
inductive JobPlace where
  | spad (ps : List Piece)
  | glob (va : Nat)
  | range
  deriving DecidableEq, Repr

/-- A scratchpad piece of a job must lie in the core and outside a queue pool. -/
def jobPieces (s : State) (l : List Piece) : JobPlace :=
  if l.all fun p => p.off.toNat + p.len ≤ 2 ^ 20 && !inPool s p.core p.off.toNat p.len then .spad l else .range

/-- n bytes at a virtual address of the job's context. -/
def virtPlace (s : State) (va : Word) (n : Nat) : JobPlace :=
  if va.toNat ≥ 2 ^ 57 then .range
  else if inAperture va.toNat then
    jobPieces s [{ core := apertureCore va.toNat, off := BitVec.ofNat 20 (apertureOff va.toNat), len := n, pos := 0 }]
  else .glob va.toNat

/-- The scratchpad mode of a code. -/
def spadMode (n : Nat) : Mode := if n = 0 then .loc else if n = 1 then .core else .weave

/-- n bytes at a scratchpad address of the job's issuer; in WEAVE mode a large element lies in words of 8 bytes. -/
def spadPlace (s : State) (x : Job) (mode : Nat) (a : Word) (n : Nat) : JobPlace :=
  let w := if mode = 2 && n > 8 then 8 else n
  match allSome ((List.range (n / w)).map fun i => (spadTarget x.core (spadMode mode) (a + BitVec.ofNat 64 (w * i))).map fun t =>
      { core := t.1, off := t.2, len := w, pos := w * i : Piece }) with
  | some l => jobPieces s l
  | none => .range

/-- What a job's read or write came to: what it read with the places of its poisoned words, a wait, a pause, or a cause. -/
inductive JobRes where
  | ok (v : Nat) (bad : List Nat) (s : State)
  | wait (s : State)
  | pause
  | fault (cause : Byte)
  deriving DecidableEq, Repr

/-- The cause of a refused access. -/
def AccFail.jobCause : AccFail → Byte
  | .nack => 0x62
  | .race _ _ _ => 0x65
  | .uncorr => 0x64

/-- The words of a piece that are poisoned, by their place in the element. -/
def Piece.badWords (s : State) (p : Piece) : List Nat :=
  ((List.range (ceilDiv p.len 8)).filter fun i => tabGet false s.mem.spoison (spadWordKey p.core (p.off.toNat + 8 * i))).map fun i => p.pos / 8 + i

/-- Wait for the translation of va. -/
def jobMiss (s : State) (cl : BitVec 6) (j : Nat) (x : Job) (va : Nat) (kind : AccessKind) (permission : Bool) : JobRes :=
  if x.xfail.isSome then .fault 0x61
  else if domainBusy s x.ctx va then .wait s
  else
    let h := homeSlice s x.ctx va
    match requestMiss s h x.ctx va kind (.job cl (BitVec.ofNat 6 j)) permission with
    | (some e, s) => .wait (mapJob s cl j fun k => { k with missAt := some (h, e) })
    | (none, s) => .wait s

/-- Read n bytes for a job: plain for its data, of acquire kind for its descriptor (R450, R451). -/
def jobRead (s : State) (cl : BitVec 6) (j : Nat) (x : Job) (p : JobPlace) (n : Nat) : JobRes :=
  let a : Ag := .job cl (BitVec.ofNat 6 j)
  match p with
  | .range => .fault 0x63
  | .spad ps =>
    if ps.any (fun q => jobPaused s x q.core) || copyDenied s ps false then .pause
    else match piecesFail s a .read true false ps with
      | some (f, _) => .fault f.jobCause
      | none => .ok (gatherPieces s ps) (ps.flatMap fun q => q.badWords s) s
  | .glob va =>
    if domainBusy s x.ctx va then .wait s
    else match engineLook s x.ctx va .read with
      | .wait _ perm => jobMiss s cl j x va .read perm
      | .ok pa leaf =>
        if (rangeRace s a x.ctx leaf va pa n).isSome then .fault 0x65
        else
          let s := serveLines s x.ctx leaf va pa n
          .ok (leNat (physBytes s pa n)) ((List.range (ceilDiv n 8)).filter fun i => tabGet false s.mem.poison (pa / 8 + i)) s

/-- The words of a place of a job become poisoned. -/
def poisonSpad (s : State) (ps : List Piece) (bad : List Nat) : State :=
  s.mapMem fun m => { m with spoison := ps.foldl (fun t q => bad.foldl (fun t w =>
    if q.pos / 8 ≤ w && w < q.pos / 8 + ceilDiv q.len 8 then tabPut false t (spadWordKey q.core (q.off.toNat + 8 * (w - q.pos / 8))) true else t) t) m.spoison }

/-- Whether the halyard engine rejects a bound job's write (06 R145). -/
def fencedWrite (s : State) (x : Job) (va : Nat) : Bool :=
  let dir := 4096 * x.ctx.toNat + fieldOf x.control 24 12
  let h := s.halAt dir
  x.control.getLsbD 20 && h.st = .live && (match kvPosition h va with
    | some p => decide (h.t.toNat ≤ p)
    | none => false)

/-- Write an element for a job (R450). The wait for a translation, XLATE and RACE come before FENCED (06 R145; DESIGN CHOICE, log entry 108). -/
def jobWrite (s : State) (cl : BitVec 6) (j : Nat) (x : Job) (p : JobPlace) (n v : Nat) (bad : List Nat) : JobRes :=
  let a : Ag := .job cl (BitVec.ofNat 6 j)
  match p with
  | .range => .fault 0x63
  | .spad ps =>
    if ps.any (fun q => jobPaused s x q.core) || copyDenied s ps true then .pause
    else match piecesFail s a .write true false ps with
      | some (f, _) => .fault f.jobCause
      | none => .ok 0 [] (poisonSpad (plainWrite s a v ps) ps bad)
  | .glob va =>
    if domainBusy s x.ctx va then .wait s
    else match engineLook s x.ctx va .write with
      | .wait _ perm => jobMiss s cl j x va .write perm
      | .ok pa leaf =>
        if (rangeRace s a x.ctx leaf va pa n).isSome then .fault 0x65
        else if fencedWrite s x va then .fault 0x66
        else
          let s := homeWriteAll s a x.ctx leaf false va pa (leBytes n v)
          .ok 0 [] (s.mapMem fun m => { m with poison := bad.foldl (fun t w => tabPut false t (pa / 8 + w) true) m.poison })

/-! ### The start of a job (19 R448, R449, R451; 21 R475) -/

/-- The job's agent takes its issuer's counts; they replace what the slot held (21 R475). -/
def takeIssue (s : State) (cl : BitVec 6) (j : Nat) : State :=
  let s := countIssue s cl j
  let a : Ag := .job cl (BitVec.ofNat 6 j)
  let s := s.mapCluster cl fun k => { k with acq := tabDrop (fun i => i / 256 = a.code.toNat) k.acq, far := tabDrop (fun i => i / 16384 = a.code.toNat) k.far }
  acquireWords s a 1 [jobIssueKey cl.toNat j]

/-- A dimension of a descriptor: extent, source and destination stride (Table Engine.2). -/
def dimOf (v m : Nat) : Dim :=
  { ext := BitVec.ofNat 32 (recField v (16 + 16 * m) 4), sstr := BitVec.ofNat 48 (recField v (20 + 16 * m) 6),
    dstr := BitVec.ofNat 48 (recField v (26 + 16 * m) 6) }

/-- The job that a descriptor states; dimension 0 is the contiguous run. -/
def jobOfDesc (x : Job) (v : Nat) : Job :=
  let c : Word := BitVec.ofNat 64 (recField v 16 8)
  let es := BitVec.ofNat 48 (2 ^ fieldOf c 8 3)
  let d0 : Dim := { ext := BitVec.ofNat 32 (recField v 24 4), sstr := es, dstr := es }
  let ds := d0 :: (List.range (fieldOf c 11 3 - 1)).map fun i => dimOf v (i + 1)
  { x with src := BitVec.ofNat 64 (recField v 0 8), dst := BitVec.ofNat 64 (recField v 8 8), control := c, dims := ds,
           tags := BitVec.ofNat 64 (recField v 32 8), next := 0, doneCnt := 0, total := ds.foldl (fun n d => n * d.ext.toNat) 1 }

/-- Fields of CONTROL (Table Engine.3). -/
def Job.skind (x : Job) : Nat := fieldOf x.control 0 2
/-- DKIND. -/
def Job.dkind (x : Job) : Nat := fieldOf x.control 2 2
/-- Element size in bytes. -/
def Job.esize (x : Job) : Nat := 2 ^ fieldOf x.control 8 3
/-- Core that an instruction-scratchpad job writes. -/
def Job.imemCore (x : Job) (cl : BitVec 6) : BitVec 10 := coreAt cl (x.dst.extractLsb' 20 4)

/-- The checks of R449 on a descriptor's value. -/
def descBad (s : State) (cl : BitVec 6) (x : Job) (v : Nat) : Bool :=
  let c := x.control
  let dims := fieldOf c 11 3
  let n := x.esize
  let code := x.dkind = 3
  let unused : Bool := (List.range 6).any fun i =>
    i + 1 ≥ dims && (if code && i = 0 then recField v 40 8 ≠ 0 else recField v (32 + 16 * i) 16 ≠ 0)
  fieldOf c 48 16 ≠ 0 || fieldOf c 21 3 ≠ 0 || recField v 28 4 ≠ 0 || unused || x.skind = 3 || fieldOf c 4 2 = 3 || fieldOf c 6 2 = 3 ||
    fieldOf c 16 3 > 4 || dims = 0 || fieldOf c 8 3 = 7 || x.src.toNat % n ≠ 0 || x.dst.toNat % n ≠ 0 ||
    ((x.dims.drop 1).any fun d => d.sstr.toNat % n ≠ 0 || d.dstr.toNat % n ≠ 0) ||
    (x.skind = 1 && x.src.toNat ≥ 2 ^ 24) || ((x.dkind = 1 || code) && x.dst.toNat ≥ 2 ^ 24) ||
    (code && (fieldOf c 8 3 ≠ 2 || dims ≠ 1 || (s.core (x.imemCore cl)).occ ≠ some x.occ ||
      x.dst.toNat % 2 ^ 20 + 4 * x.total > 2 ^ 18)) ||
    (c.getLsbD 20 && (let h := s.halAt (4096 * x.ctx.toNat + fieldOf c 24 12)
      h.st ≠ .live || h.bound.map clusterOf ≠ some cl))

/-- The acquire that the ACQ flag makes of the descriptor's words (08 R195). -/
def descAcquire (s : State) (cl : BitVec 6) (j : Nat) (x : Job) : State :=
  let a : Ag := .job cl (BitVec.ofNat 6 j)
  let sc := fieldOf x.control 16 3
  if !x.control.getLsbD 14 then s
  else if !x.virt then acquireWords s a sc (rangeOf (spadWordKey x.core x.desc.toNat) (spadWordKey x.core (x.desc.toNat + 127)))
  else match virtPlace s x.desc 128 with
    | .spad ps => acquireWords s a sc (ps.flatMap Piece.words)
    | .range => s
    | .glob va => match engineLook s x.ctx va .read with
      | .ok pa _ => acquireWords s a sc (physKeys pa 128)
      | .wait _ _ => s

/-- The place of a job's descriptor. -/
def descPlace (s : State) (x : Job) : JobPlace := if x.virt then virtPlace s x.desc 128 else spadPlace s x 0 x.desc 128

/-- The acquire of the ACQ flag before the read's own race check: what the release that published the descriptor orders is ordered before the
read too (08 R195, R203; DEDUCED, log entry 119). -/
def descSees (s : State) (cl : BitVec 6) (j : Nat) (x : Job) : State :=
  match descPlace s x with
  | .range => s
  | .spad ps => descAcquire s cl j (jobOfDesc x (gatherPieces s ps))
  | .glob va =>
    if domainBusy s x.ctx va then s
    else match engineLook s x.ctx va .read with
      | .wait _ _ => s
      | .ok pa leaf =>
        let t := serveLines s x.ctx leaf va pa 128
        descAcquire t cl j (jobOfDesc x (leNat (physBytes t pa 128)))

/-- Read a job's descriptor. In the issuing core's own scratchpad it is an access of the issuer, which no window refuses (09 R223; 22
R483; DEDUCED, log entry 10); at a virtual address it is read as the job's data are. -/
def descRead (s : State) (cl : BitVec 6) (j : Nat) (x : Job) : JobRes :=
  let a : Ag := .job cl (BitVec.ofNat 6 j)
  let s := descSees s cl j x
  match descPlace s x with
  | .spad ps =>
    if x.virt then jobRead s cl j x (.spad ps) 128
    else if ps.any (fun q => jobPaused s x q.core) || copyDenied s ps false then .pause
    else match ps.find? fun p => (racingTag s a p).isSome || p.poisoned s with
      | some p => .fault (if (racingTag s a p).isSome then 0x65 else 0x64)
      | none => .ok (gatherPieces s ps) [] s
  | p => jobRead s cl j x p 128

/-- Whether the copy unit takes a job in this cycle: its issuer's earlier accesses have all been performed, also where the issuer waits (08
R195; log entry 94). -/
def jobStartable (s : State) (x : Job) : Bool := x.st = .queued && x.ready ≤ s.cycle && x.missAt.isNone && x.counted

/-- COPY_JOB_START (R449, R451): cluster ix, slot value. -/
def execCopyJobStart (s : State) : Host.Outcome State Fault Refusal :=
  let cl : BitVec 6 := BitVec.ofNat 6 s.ev.ix
  let j := s.ev.value.toNat
  let x := (s.cluster cl).job j
  .next (if !jobStartable s x then s
    else
      let s := takeIssue s cl j
      match descRead s cl j x with
      | .pause => s
      | .wait s => s
      | .fault c => faultJob (if c = 0x64 then countUncorr s (quadOfCluster cl) else s) cl j c x.desc
      | .ok v bad s =>
        if !bad.isEmpty then faultJob (countUncorr s (quadOfCluster cl)) cl j 0x64 x.desc
        else
          let y := { jobOfDesc ((s.cluster cl).job j) v with st := .running }
          let s := setJob s cl j y
          if descBad s cl y v then faultJob s cl j 0x60 x.desc
          else
            let s := descAcquire s cl j y
            if y.total = 0 then finishJob s cl j .done else s)

/-! ### Elements (19 R450) -/

/-- The offset of element n from SRC or DST: dimension 0 fastest. -/
def elementOff (str : Dim → BitVec 48) : List Dim → Nat → Int
  | [], _ => 0
  | d :: r, n => (n % d.ext.toNat : Nat) * (str d).toInt + elementOff str r (n / d.ext.toNat)

/-- Address of the next element on a side. -/
def elementAddr (base : Word) (str : Dim → BitVec 48) (x : Job) : Word := base + BitVec.ofInt 64 (elementOff str x.dims x.next)

/-- The tag of word i of an instruction-scratchpad job, read from the tag stream (R448). -/
def readTag (s : State) (cl : BitVec 6) (j : Nat) (x : Job) : JobRes :=
  match jobRead s cl j x (virtPlace s (x.tags + BitVec.ofNat 64 (x.next / 4)) 1) 1 with
  | .ok v bad s => .ok (v / 2 ^ (2 * (x.next % 4)) % 4) bad s
  | r => r

/-- Write an instruction word with its tag; the old word is kept until the core's next IFENCE (09 R221). -/
def writeCode (s : State) (o : BitVec 10) (i : Nat) (v tag : Nat) (bad : Bool) : State :=
  let key := 65536 * o.toNat + i
  let old := tabGet 0 s.mem.imem key
  let s := s.mapMem fun m => { m with imem := tabPut 0 m.imem key (BitVec.ofNat 34 (tag * 2 ^ 32 + v)), ipoison := tabPut false m.ipoison key bad }
  s.mapCore o fun k => if (tabGet none k.imemOld i).isSome then k else { k with imemOld := tabPut none k.imemOld i (some old) }

/-- The element has been written: the job goes on to the next. -/
def nextElement (s : State) (cl : BitVec 6) (j : Nat) : State :=
  mapJob s cl j fun x => { x with next := x.next + 1, doneCnt := x.doneCnt + 1, answer := none, xfail := none }

/-- Write the element that has been read as v, with its poisoned words. -/
def writeElement (s : State) (cl : BitVec 6) (j : Nat) (x : Job) (v : Nat) (bad : List Nat) (from_ : Word) : State :=
  let n := x.esize
  let dst := elementAddr x.dst Dim.dstr x
  let poison (s : State) : State := if bad.isEmpty then s else notePoison s cl j from_
  if x.dkind = 2 then
    peerRequest (poison s) cl j 3 (fieldOf x.control 36 6) (fieldOf x.control 42 6) dst.toNat n (fieldOf x.control 16 3) (leBytes n v)
  else if x.dkind = 3 then
    let o := x.imemCore cl
    if jobPaused s x o then s
    -- a core that is stopped or fenced refuses it as its data scratchpad does (05 R105, R129)
    else if tabGet false s.sched.fenced o.toNat || (preempted s o && !inUnitOf s o (.job cl (BitVec.ofNat 6 j))) then faultJob s cl j 0x62 dst
    else match readTag s cl j x with
      | .pause => s
      | .wait s => s
      | .fault c => faultJob s cl j c (x.tags + BitVec.ofNat 64 (x.next / 4))
      | .ok tag tbad s =>
        let s := if tbad.isEmpty then poison s else notePoison s cl j (x.tags + BitVec.ofNat 64 (x.next / 4))
        nextElement (writeCode s o (x.dst.toNat % 2 ^ 20 / 4 + x.next) v tag (!bad.isEmpty || !tbad.isEmpty)) cl j
  else match jobWrite s cl j x (if x.dkind = 1 then spadPlace s x (fieldOf x.control 6 2) dst n else virtPlace s dst n) n v bad with
    | .pause => s
    | .wait s => s
    | .fault c => faultJob s cl j c dst
    | .ok _ _ s => nextElement (poison s) cl j

/-- The next element of a running job: read, then written; a peer's side waits for its response. -/
def doElement (s : State) (cl : BitVec 6) (j : Nat) (x : Job) : State :=
  let src := elementAddr x.src Dim.sstr x
  if x.peerBad ≠ 0 then faultJob s cl j x.peerBad (if x.dkind = 2 then elementAddr x.dst Dim.dstr x else src)
  else match x.answer with
    | some [] => nextElement s cl j
    | some l => writeElement s cl j x (leNat l) [] src
    | none =>
      if x.skind = 2 then
        peerRequest s cl j 1 (fieldOf x.control 36 6) (fieldOf x.control 42 6) src.toNat x.esize (fieldOf x.control 16 3) []
      else match jobRead s cl j x (if x.skind = 1 then spadPlace s x (fieldOf x.control 4 2) src x.esize else virtPlace s src x.esize) x.esize with
        | .pause => s
        | .wait s => s
        | .fault c => faultJob s cl j c src
        | .ok v bad s => writeElement s cl j ((s.cluster cl).job j) v bad src

/-- Whether a job can go on with an element. -/
def jobGoes (x : Job) : Bool := x.st = .running && x.missAt.isNone && x.peerTag.isNone && x.next < x.total

/-- COPY_ELEMENT (R450): cluster ix, slot value. -/
def execCopyElement (s : State) : Host.Outcome State Fault Refusal :=
  let cl : BitVec 6 := BitVec.ofNat 6 s.ev.ix
  let j := s.ev.value.toNat
  let x := (s.cluster cl).job j
  .next (if jobGoes x then doElement s cl j x else s)

/-- COPY_JOB_FINISH (R454): cluster ix, slot value; every element has been written. -/
def execCopyJobFinish (s : State) : Host.Outcome State Fault Refusal :=
  let cl : BitVec 6 := BitVec.ofNat 6 s.ev.ix
  let j := s.ev.value.toNat
  let x := (s.cluster cl).job j
  .next (if x.st = .running && x.next ≥ x.total then finishJob s cl j .done else s)

/-! ### Service in a cycle (19 R451) -/

/-- The slots of a cluster in this cycle's round-robin order, primaries' jobs first. -/
def jobOrder (s : State) (k : Cluster) : List (Nat × Job) :=
  let turn (j : Nat) : Nat := (j + 64 - s.cycle % 64) % 64
  let ins (e : Nat × Job) (l : List (Nat × Job)) : List (Nat × Job) :=
    l.takeWhile (fun f => turn f.1 < turn e.1) ++ e :: l.dropWhile fun f => turn f.1 < turn e.1
  let l := (k.jobs.filter fun e => jobGoes e.2).foldl (fun l e => ins e l) []
  (l.filter fun e => e.2.thread = 8) ++ l.filter fun e => e.2.thread ≠ 8

/-- How many elements of each job a budget of bytes covers, in turns of one element. -/
def serveJobs : Nat → Nat → List (Nat × Nat × Nat) → List Nat
  | 0, _, _ => []
  | _ + 1, _, [] => []
  | n + 1, budget, (j, left, size) :: r =>
    if size > budget then serveJobs n budget r
    else j :: serveJobs n (budget - size) (if left ≤ 1 then r else r ++ [(j, left - 1, size)])

/-- The elements of a group of jobs that 1,024 bytes cover. -/
def groupServe (budget : Nat) (l : List (Nat × Job)) : List Nat :=
  serveJobs 1100 budget (l.map fun e => (e.1, min (e.2.total - e.2.next) (if e.2.skind = 2 || e.2.dkind = 2 then 1 else 1024), e.2.esize))

/-- The copy-job events of a cluster in a cycle: starts, elements of up to 1 KiB in all, ends. -/
def jobEventsOf (s : State) (n : Nat) (k : Cluster) : List (Instr × EvArg) :=
  let ev (i : Instr) (j : Nat) : Instr × EvArg := (i, { ix := n, value := BitVec.ofNat 64 j })
  let l := jobOrder s k
  let p := groupServe 1024 (l.filter fun e => e.2.thread = 8)
  let used := p.foldl (fun a j => a + (k.job j).esize) 0
  let b := groupServe (1024 - used) (l.filter fun e => e.2.thread ≠ 8)
  ((k.jobs.filter fun e => jobStartable s e.2).map fun e => ev .copyJobStart e.1) ++ (p ++ b).map (ev .copyElement) ++
    (k.jobs.filter fun e => e.2.st = .running && e.2.next ≥ e.2.total).map fun e => ev .copyJobFinish e.1

/-- The copy-job events of a cycle. -/
def jobEvents (s : State) : List (Instr × EvArg) := s.clusters.flatMap fun e => jobEventsOf s e.1 e.2

end Sys2Proof.Machine
end

