-- ==== Sys2Proof/Machine/HostPort.lean ====
section
/-! DEFINITION. The host port: registers as they read, register writes, accesses through BAR 4, PLDM sensors (spec 03 R56-R60, R66, R67,
R78, R79; 04 R80, R81; 01 R34; 02 R54; 07 R165, R170). -/

namespace Sys2Proof.Machine

/-! ### Registers as they read -/

/-- OWNER (03 Table Host.3). -/
def ownerReg (s : State) : Word :=
  BitVec.ofNat 64 (2 ^ 24 * s.owner.changes.toNat + 2 ^ 18 * s.owner.peerdev.toNat + 2 ^ 12 * s.owner.next.toNat + 2 ^ 10 * s.owner.holder.toNat)

/-- TIMECFG (03 Table Host.9). -/
def timecfgReg (t : TimeBase) : Word :=
  BitVec.ofNat 64 (bitAt t.anylink 16 + 2 ^ 12 * t.cfgLink.toNat + 2 ^ 8 * t.third.toNat + 2 ^ 4 * t.second.toNat + t.first.toNat)

/-- TRACECFGq (03 Table Host.9). -/
def tracecfgReg (t : TraceQ) : Word := BitVec.ofNat 64 (bitAt t.en 63 + bitAt t.stop 8 + t.size.toNat)

/-- DOMCFGd (07 Table Fabric.6). -/
def domReg (d : Dom) : Word := BitVec.ofNat 64 (d.base.toNat + 2 ^ 8 * d.mask.toNat + bitAt d.pending 16)

/-- The administration register at an offset, 0 where none lies (Table Host.8). -/
def adminReg (s : State) (o : Nat) : Word :=
  if o % 8 ≠ 0 then 0
  else if o = 0x100 then ownerReg s
  else if o = 0x108 then s.links.devnum.setWidth 64
  else if o = 0x200 then timestatReg s.time
  else if o = 0x208 then timecfgReg s.time
  else if 0x400 ≤ o && o < 0x480 then linkstatReg (s.link (BitVec.ofNat 4 ((o - 0x400) / 8)))
  else if 0x800 ≤ o && o < 0xA00 then (tabGet 0 s.links.routes ((o - 0x800) / 8)).setWidth 64
  else if 0xC00 ≤ o && o < 0xE00 then grantReg (s.cluster (BitVec.ofNat 6 ((o - 0xC00) / 8)))
  else if 0x1000 ≤ o && o < 0x1100 then
    let t := s.traceQ (BitVec.ofNat 2 ((o - 0x1000) / 0x40))
    match o % 0x40 with
    | 0x00 => t.base.setWidth 64
    | 0x08 => tracecfgReg t
    | 0x10 => t.head
    | 0x18 => t.lost
    | _ => 0
  else if 0x2000 ≤ o && o < 0x2200 then domReg (s.dom ((o - 0x2000) / 8))
  else if 0x3000 ≤ o && o < 0x3400 then tabGet 0 s.mgmt.tel o
  else if 0x3400 ≤ o && o < 0x3478 then (s.power.cost.getD ((o - 0x3400) / 8) 0).setWidth 64
  else 0

/-- Code of a context's state (04 Table Command.2). -/
def CtxState.code : CtxState → Nat
  | .free => 0
  | .active => 1
  | .stopping => 2

/-- The register of a context at an offset, 0 where none lies or it is write-only (04 Tables Command.1, Command.2). -/
def ctxReg (s : State) (x : BitVec 6) (o : Nat) : Word :=
  let c := s.ctx x
  match o with
  | 0x000 => BitVec.ofNat 64 (16 * c.st.code)
  | 0x008 => c.ptroot
  | 0x010 => c.aperbase
  | 0x018 => c.evbase
  | 0x020 => c.evcfg
  | 0x028 => c.evhead
  | 0x030 => c.evtail
  | 0x038 => c.stbase
  | 0x040 => c.clusters
  | 0x048 => c.weight
  | 0x050 => BitVec.ofNat 64 (2 ^ 48 * c.entryerr.toNat + 2 ^ 32 * c.framedrop.toNat + 2 ^ 16 * c.evlost.toNat)
  | 0x058 => c.domsel
  | 0x068 => BitVec.ofNat 64 (bitAt c.busy 0)
  | _ => 0

/-- Where an offset of a function's BAR 0 lies: an administration register, a context's register, or beyond the region. -/
inductive RegPlace where
  | admin (o : Nat)
  | ctx (x : BitVec 6) (o : Nat)
  | outside
  deriving DecidableEq, Repr

/-- The register that a path reaches at an offset (03 R59, R63, R78; 04 R80): a VF sees its context alone, the management controller
and a peer see the administration registers. -/
def regPlace (w : Who) (o : Nat) : RegPlace :=
  match w with
  | .fn n =>
    if n = 0 then
      if o < 0x10000 then .admin o
      else if o < 0x410000 then .ctx (BitVec.ofNat 6 (o / 0x10000 - 1)) (o % 0x10000)
      else if o < 0x1000000 then .admin 0xFFF8
      else .outside
    else if o < 0x10000 then .ctx (n.setWidth 6) o else .outside
  | _ => if o < 0x10000 then .admin o else .outside

/-- The 8-byte register that a path reads at an offset. -/
def readReg (s : State) (w : Who) (o : Nat) : Word :=
  match regPlace w o with
  | .admin o => adminReg s o
  | .ctx x o => ctxReg s x o
  | .outside => 0

/-- Bytes of the BAR 0 that a path reaches (Table Host.2). -/
def bar0Size : Who → Nat
  | .fn n => if n = 0 then 2 ^ 24 else 2 ^ 16
  | _ => 2 ^ 16

/-- What a read of n bytes at an offset of BAR 0 gives: an aligned one of 4 or 8 bytes shows the register or its half, any other zero
(DESIGN CHOICE, log entry 99); none is Unsupported Request, where it crosses the end of the region (03 R59, R78). -/
def readBar0 (s : State) (w : Who) (o n : Nat) : Option Word :=
  if o + n > bar0Size w then none
  else
    let v := readReg s w (o / 8 * 8)
    if n = 8 && o % 8 = 0 then some v
    else if n = 4 && o % 4 = 0 then some (BitVec.ofNat 64 (fieldOf v (8 * (o % 8)) 32))
    else some 0

/-- Byte i of an entry as a function reads it: RUNNING tells that an occurrence of it occupies cores (04 Tables Command.3, Command.4). -/
def readEntryByte (s : State) (fn : BitVec 4) (i : Nat) : Byte :=
  match windowEntry s fn (i / 32) with
  | none => 0
  | some e =>
    let b := tabGet 0 s.sched.table (32 * e.toNat + i % 32)
    if i % 32 = 26 then
      putField b 1 1 (if (s.cores.any fun k => (k.2.occ.bind s.occ?).any fun o => o.entry = e) then 1 else 0)
    else b

/-! ### Writes of administration registers (03 R62, R78, R79; 02 R54) -/

/-- A write of DEVNUM (02 R45). -/
def writeDevnum (s : State) (w : Who) (v : Word) : State :=
  ownerWrite s w fun s => { s with links := { s.links with devnum := v.setWidth 6 } }

/-- A write of LINKSTATn: the owner clears counter bits by writing ones (02 R54). -/
def writeLinkstat (s : State) (w : Who) (n : BitVec 4) (v : Word) : State :=
  ownerWrite s w fun s => s.mapLink n fun l =>
    { l with crcerr := l.crcerr &&& ~~~(v.extractLsb' 48 16), retry := l.retry &&& ~~~(v.extractLsb' 32 16), fecunc := l.fecunc &&& ~~~(v.extractLsb' 24 8) }

/-- Whether a read-only administration register lies at an offset (Table Host.8). -/
def readOnlyAdmin (o : Nat) : Bool :=
  o = 0x200 || (0x1000 ≤ o && o < 0x1100 && (o % 0x40 = 0x10 || o % 0x40 = 0x18)) || (0x3000 ≤ o && o ≤ 0x3058) || (0x3100 ≤ o && o < 0x3340) ||
    (0x3340 ≤ o && o ≤ 0x3350) || (0x3400 ≤ o && o < 0x3478)

/-- A write of 8 bytes at an administration offset; an unlisted one drops it, a read-only one drops it and counts it unless it is the
owner's (03 R62). -/
def writeAdmin (s : State) (w : Who) (o : Nat) (v : Word) : State :=
  if o % 8 ≠ 0 then s
  else if o = 0x100 then writeOwner s w v
  else if o = 0x108 then writeDevnum s w v
  else if o = 0x208 then writeTimecfg s w v
  else if 0x400 ≤ o && o < 0x480 then writeLinkstat s w (BitVec.ofNat 4 ((o - 0x400) / 8)) v
  else if 0x800 ≤ o && o < 0xA00 then writeRoute s w ((o - 0x800) / 8) v
  else if 0xC00 ≤ o && o < 0xE00 then writeGrant s w (BitVec.ofNat 6 ((o - 0xC00) / 8)) (v.setWidth 32)
  else if 0x1000 ≤ o && o < 0x1100 && o % 0x40 = 0 then writeTraceBase s w (BitVec.ofNat 2 ((o - 0x1000) / 0x40)) v
  else if 0x1000 ≤ o && o < 0x1100 && o % 0x40 = 8 then writeTraceCfg s w (BitVec.ofNat 2 ((o - 0x1000) / 0x40)) v
  else if 0x2000 ≤ o && o < 0x2200 then writeDomcfg s w (BitVec.ofNat 6 ((o - 0x2000) / 8)) v
  else if readOnlyAdmin o then ownerWrite s w id
  else s

/-! ### Writes of context registers (04 R80, R81; 07 R165, R170; 09 R232) -/

/-- A command of XINVAL (07 Table Fabric.9). -/
def writeXinval (s : State) (x : BitVec 6) (v : Word) : State :=
  if fieldOf v 57 7 ≠ 0 then s
  else match fieldOf v 0 4 with
    | 1 => beginInval s x 1 (fieldOf v 16 41 * 65536)
    | 2 => beginInval s x 2 (fieldOf v 16 41 * 65536)
    | 3 => beginInval s x 3 0
    | 4 => answerFault s x (fieldOf v 4 12) true
    | 5 => answerFault s x (fieldOf v 4 12) false
    | _ => s

/-- A command of TRAPCTL (09 Table Primary.11). -/
def writeTrapctl (s : State) (x : BitVec 6) (v : Word) : State :=
  if fieldOf v 26 38 ≠ 0 then s
  else match fieldOf v 0 4 with
    | 1 => s.pushEvents [(.trapctlResume, { ctx := x, core := v.extractLsb' 16 10 })]
    | 2 => s.pushEvents [(.trapctlKill, { ctx := x, core := v.extractLsb' 16 10 })]
    | _ => s

/-- A command of CTXCTL. -/
def writeCtxctl (s : State) (x : BitVec 6) (w : Who) (v : Word) : State :=
  if !mayCommand x w then s
  else match fieldOf v 0 3 with
    | 1 => createCtx s x
    | 2 => stopCtx s x
    | _ => s

/-- A write of a register that only the context's function may write; a limit that is broken drops it. Bits that a register's meaning does
not name are reserved (00 R8): a virtual address has 57 bits, the index of a record 20, and of PTROOT bits [51:16] name the 64 KiB frame
of the table, whose first byte the walk starts from (DEDUCED, log entry 88). -/
def writeOwnCtx (s : State) (x : BitVec 6) (o : Nat) (v : Word) : State :=
  let put (ok : Bool) (f : Ctx → Ctx) : State := if ok then s.mapCtx x f else s
  let n := v.toNat
  match o with
  | 0x008 => put true fun c => { c with ptroot := v &&& 0xFFFFFFFFF0000 }
  | 0x010 => put (n % 65536 = 0) fun c => { c with aperbase := v &&& 0x1FFFFFFFFFFFFFF }
  | 0x018 => put (n % 4096 = 0) fun c => { c with evbase := v &&& 0x1FFFFFFFFFFFFFF }
  | 0x020 =>
    put (6 ≤ n % 32 && n % 32 ≤ 20 && fieldOf v 16 11 < msixVectors (fnOf x)) fun c => { c with evcfg := v &&& 0x7FF001F }
  | 0x030 => put true fun c => { c with evtail := v &&& 0xFFFFF }
  | 0x058 => writeDomsel s x v
  | 0x060 => writeXinval s x v
  | 0x070 => writeTrapctl s x v
  | _ => s

/-- A write of a register that only the PF may write. -/
def writePfCtx (s : State) (x : BitVec 6) (o : Nat) (v : Word) : State :=
  let put (ok : Bool) (f : Ctx → Ctx) : State := if ok then s.mapCtx x f else s
  let n := v.toNat
  match o with
  | 0x038 => put (n % 256 = 0 && n ≤ 3840) fun c => { c with stbase := v }
  | 0x040 => put true fun c => { c with clusters := v }
  | 0x048 => put (1 ≤ n && n ≤ 65535) fun c => { c with weight := v }
  | _ => s

/-- A write of 8 bytes at an offset of a context's registers by function n. -/
def writeCtx (s : State) (n : BitVec 4) (x : BitVec 6) (o : Nat) (v : Word) : State :=
  if o = 0 then writeCtxctl s x (.fn n) v
  else if o = 0x038 || o = 0x040 || o = 0x048 then (if n = 0 then writePfCtx s x o v else s)
  else if fnOf x = n then writeOwnCtx s x o v else s

/-- A 32-bit write leaves the other half of the register as it reads; the halves of LINKSTAT are cleared one by one. -/
def widen (s : State) (w : Who) (o : Nat) (v : Word) : Word :=
  let b := o / 8 * 8
  let old : Word := match regPlace w b with
    | .admin a => if 0x400 ≤ a && a < 0x480 then 0 else adminReg s a
    | .ctx x a => ctxReg s x a
    | .outside => 0
  if o % 8 = 4 then v.setWidth 32 ++ old.extractLsb' 0 32 else old.extractLsb' 32 32 ++ v.setWidth 32

/-- A function's write of its MSI-X table (03 R58): 16 bytes a vector, the address at 0, the data at 8, the mask bit at 12. A message that a
mask bit held back is sent when it is cleared. -/
def writeMsix (s : State) (fn : BitVec 4) (o : Nat) (v : Word) : State :=
  let n := o / 16
  if n ≥ msixVectors fn then s
  else
    let k := 512 * fn.toNat + n
    let e : BitVec 4 × BitVec 16 := (fn, BitVec.ofNat 16 n)
    let s := s.mapMgmt fun m =>
      let old := tabGet MsixVec.reset m.msixTab k
      let new : MsixVec := match o % 16 with
        | 0 => { old with addr := v }
        | 8 => { old with data := v.setWidth 32 }
        | 12 => { old with masked := v.getLsbD 0 }
        | _ => old
      { m with msixOn := putField m.msixOn fn.toNat 1 1, msixTab := tabPut MsixVec.reset m.msixTab k new }
    if (tabGet MsixVec.reset s.mgmt.msixTab k).masked || !s.mgmt.msixPend.contains e then s
    else sendMsix (s.mapMgmt fun m => { m with msixPend := m.msixPend.filter fun x => x ≠ e }) fn n

/-- What a read of n bytes at an offset of a function's BAR 2 gives, in the schedule table or from 0x10_0000 on in the frame window; none is
Unsupported Request, where it crosses the end of a region (03 R59). -/
def readBar2 (s : State) (fn : BitVec 4) (o n : Nat) : Option (List Byte) :=
  let frame : Bool := o ≥ 0x100000
  let b := if frame then o - 0x100000 else o
  if b < windowSize fn frame && b + n > windowSize fn frame then none
  else some ((List.range n).map fun i =>
    if b ≥ windowSize fn frame then 0 else if frame then tabGet 0 s.sched.frames (frameByteKey fn (b + i)) else readEntryByte s fn (b + i))

/-- A function's configuration through flag: its MSI-X table, or with aux 1 the size of the PF's BAR 4, 256 MiB to 256 GiB
(03 R58; Table Host.2). -/
def writeConfig (s : State) (fn : BitVec 4) : State :=
  if s.ev.aux ≠ 1 then writeMsix s fn s.ev.ix s.ev.value
  else if fn = 0 && 28 ≤ s.ev.value.toNat && s.ev.value.toNat ≤ 38 then s.mapMgmt fun m => { m with barLog := s.ev.value.toNat }
  else s

/-- REGISTER_WRITE (03 R59, R62, R78; 04 R80): path who, offset ix, value; thread 4 for a write of 32 bits, otherwise of 64. With flag the
function writes its configuration instead (03 R58). A write that crosses the end of the region is answered Unsupported Request. -/
def execRegisterWrite (s : State) : Host.Outcome State Fault Refusal :=
  let w := s.ev.who
  let o := s.ev.ix
  let half : Bool := s.ev.thread = 4
  let n : Nat := if half then 4 else 8
  .next (if !reachable s w then s
    else if s.ev.flag then (match w with
      | .fn n => writeConfig s n
      | _ => s)
    else if o + n > bar0Size w then answer s .unsupported
    else if o % n ≠ 0 then s
    else
      let v := if half then widen s w o s.ev.value else s.ev.value
      match regPlace w (o / 8 * 8), w with
      | .admin a, _ => writeAdmin s w a v
      | .ctx x a, .fn n => writeCtx s n x a v
      | _, _ => s)

/-! ### Accesses through BAR 4 (03 R60) -/

/-- Bytes of a function's BAR 4 (Table Host.2). -/
def bar4Size (s : State) (fn : BitVec 4) : Nat := if fn = 0 then 2 ^ s.mgmt.barLog else 2 ^ 30

/-- What a BAR 4 access came to. -/
inductive BarRes where
  | ok (v : Nat) (poisoned : Bool) (s : State)
  | wait (s : State)
  | abort (s : State)
  deriving DecidableEq, Repr

/-- An access to a scratchpad through the aperture (03 R60). -/
def barScratch (s : State) (va n : Nat) (write : Bool) (v : Nat) : BarRes :=
  let p : Piece := { core := apertureCore va, off := BitVec.ofNat 20 (apertureOff va), len := n, pos := 0 }
  if p.off.toNat + n > 2 ^ 20 || inPool s p.core p.off.toNat n || !windowOk s .host p.core (if write then .write else .read) p.off.toNat n then .abort s
  else if write then .ok 0 false (plainWrite s .host v [p])
  else .ok (gatherPieces s [p]) (p.poisoned s) (if p.poisoned s then countUncorr s (quadOf p.core) else s)

/-- Perform one line's part of context x's access at its home slice, at system scope; poison that is read is counted (07 R172, R180). -/
def barPart (s : State) (x : BitVec 6) (leaf : Word) (va pa n : Nat) (write : Bool) (v : Nat) : BarRes :=
  if write then .ok 0 false (homeWrite s .host x leaf true va pa n v)
  else
    let s := evictLine s pa
    let bad := physPoisoned s pa n
    .ok (leNat (physBytes s pa n)) bad (if bad then countUncorr s (BitVec.ofNat 2 ((homeSlice s x va).toNat / 64)) else s)

/-- The parts of an access, in order, once each is translated: the first that is not waits, and then none is performed. -/
def barParts (s : State) (fn : BitVec 4) (id va : Nat) (write : Bool) (v : Nat) : List (Nat × Nat) → BarRes → BarRes
  | [], r => r
  | (a, n) :: rest, r =>
    let kind : AccessKind := if write then .write else .read
    match r with
    | .ok old bad t =>
      match engineLook s (fn.setWidth 6) a kind with
      | .wait _ perm => .wait (requestMiss s (homeSlice s (fn.setWidth 6) a) (fn.setWidth 6) a kind (.host fn id) perm).2
      | .ok pa leaf =>
        match barPart t (fn.setWidth 6) leaf a pa n write (v / 2 ^ (8 * (a - va)) % 2 ^ (8 * n)) with
        | .ok new bad' t' => barParts s fn id va write v rest (.ok (old + new * 2 ^ (8 * (a - va))) (bad || bad') t')
        | r => r
    | r => r

/-- Access n bytes at a virtual address for function fn, at any offset; who waits under id. An access that only partly lies in the
scratchpad aperture is refused (DESIGN CHOICE, log entry 87). -/
def barAccess (s : State) (fn : BitVec 4) (id va n : Nat) (write failed : Bool) (v : Nat) : BarRes :=
  if va + n > 2 ^ 57 || failed || inAperture va ≠ inAperture (va + n - 1) then .abort s
  else if inAperture va then barScratch s va n write v
  else if domainBusy s (fn.setWidth 6) va || domainBusy s (fn.setWidth 6) (va + n - 1) then .wait s
  else barParts s fn id va write v (lineParts va n) (.ok 0 false s)

/-- Bytes of a host access: 1 to 8; a longer transfer of the host is a row of them (log entry 87). -/
def hostSize (s : State) : Nat := if 1 ≤ s.ev.thread.toNat && s.ev.thread.toNat ≤ 8 then s.ev.thread.toNat else 8

/-- A number that no waiting access has. -/
def freshWait (s : State) : Nat := s.mgmt.hostWaits.foldl (fun m h => max m (h.id + 1)) 0

/-- A BAR 4 access of function who: at offset value, or going on under number ix - 1 after its wait. A refused read completes with
Completer Abort, a refused write is dropped. -/
def barOp (s : State) (write : Bool) : State :=
  match s.ev.who with
  | .fn fn =>
    if !reachable s s.ev.who then (if write then s else answer s .unsupported)
    else
      let again : Bool := s.ev.ix ≠ 0
      let old := s.mgmt.hostWaits.find? fun h => h.id + 1 = s.ev.ix && h.fn = fn
      let id := if again then s.ev.ix - 1 else freshWait s
      let n := match old with
        | some h => h.size
        | none => hostSize s
      let va : Word := if again then s.ev.value else (s.ctx (fn.setWidth 6)).aperbase + s.ev.value
      if again && old.isNone then s
      else if !again && s.ev.value.toNat + n > bar4Size s fn then answer s .unsupported
      else
        let gone (s : State) : State := s.mapMgmt fun m => { m with hostWaits := m.hostWaits.filter fun h => !(h.id = id && h.fn = fn) }
        match barAccess s fn id va.toNat n write s.ev.flag (s.ev.aux.toNat % 2 ^ (8 * n)) with
        | .ok v bad s =>
          let w : Word := BitVec.ofNat 64 v
          if write then gone s else answer (gone s) (if bad then .poisoned w else .data w)
        | .abort s => if write then gone s else answer (gone s) .completerAbort
        | .wait s => (gone s).mapMgmt fun m =>
            { m with hostWaits := m.hostWaits ++ [{ id := id, fn := fn, va := va, size := n, write := write, data := s.ev.aux }] }
  | _ => s

/-- BAR4_READ (R60). -/
def execBar4Read (s : State) : Host.Outcome State Fault Refusal := .next (barOp s false)
/-- BAR4_WRITE (R60). -/
def execBar4Write (s : State) : Host.Outcome State Fault Refusal := .next (barOp s true)

/-- Host accesses whose translation has not been asked for go on trying. -/
def hostRetries (s : State) : List (Instr × EvArg) :=
  (s.mgmt.hostWaits.filter fun h => !(s.mem.slices.any fun e => e.2.misses.any fun m => match m.2 with
      | some m => m.of (.host h.fn h.id)
      | none => false)).map fun h =>
    (if h.write then Instr.bar4Write else Instr.bar4Read, { who := .fn h.fn, ix := h.id + 1, value := h.va, aux := h.data })

/-! ### PLDM (03 R66, R67) -/

/-- Offsets of the registers that Table Host.5 makes sensors: temperatures, power, overdraw, ECC counts and drops, grants, costs,
LINKSTAT, TIMESTAT, trace records lost. -/
def isSensor (o : Nat) : Bool :=
  o % 8 = 0 && ((0x3008 ≤ o && o ≤ 0x3058) || (0x3100 ≤ o && o < 0x3300) || (0x3300 ≤ o && o < 0x3350) || (0x3400 ≤ o && o < 0x3478) ||
    (0xC00 ≤ o && o < 0xE00) || (0x400 ≤ o && o < 0x480) || o = 0x200 || (0x1000 ≤ o && o < 0x1100 && o % 0x40 = 0x18))

/-- PLDM_SENSOR_READ (R67): sensor ix, numbered by its register's offset (log entry 7), from the last sample and with its NOW. -/
def execPldmSensorRead (s : State) : Host.Outcome State Fault Refusal :=
  .next (if isSensor s.ev.ix then answer s (.sensor (tabGet 0 s.mgmt.tel s.ev.ix) (tabGet 0 s.mgmt.tel 0x3000)) else answer s .pldmError)

end Sys2Proof.Machine
end

