-- ==== Sys2Proof/Machine/Reset.lean ====
section
/-! DEFINITION. Resets (spec 00 R7; 01 R35; 03 R61, R65, R72, R73, R76; 06 R151, R153; 09 R239). -/

namespace Sys2Proof.Machine

/-- Verified inactive banks become active, and run; what a warm boot does not verify again runs on (03 R73, R76). -/
def takeBanks (m : Mgmt) : Mgmt :=
  let take (t : Tab Bool) : Tab Bool := m.nextBank.foldl (fun t e => match e.2 with
    | some b => setBank t e.1 b
    | none => t) t
  { m with bank := take m.bank, running := take (if m.warm then m.running else m.bank), nextBank := [] }

/-- Memory that lies in the host keeps its contents. -/
def hostCells (l : List Host.Cell) : List Host.Cell := l.filter fun e => 0x8000000000000 ≤ e.1

/-- What every reset begins with: the token period of CYCLE 0 (01 R17, R24). -/
def firstTasks : List Task := [.event .tokenPeriodStart {}]

/-- A cold reset: everything but the flash, the firmware banks and the host's own memory is as State.reset has it, and boot runs every
step (01 R35; 03 R73). -/
def coldReset (s : State) : State :=
  let t := powerOff s
  beginStep { t with
    power := { t.power with on := true }
    mgmt := takeBanks t.mgmt
    agenda := firstTasks
    mem := { t.mem with phys := hostCells s.mem.phys } } 1

/-- COLD_RESET (01 R35). -/
def execColdReset (s : State) : Host.Outcome State Fault Refusal := .next (coldReset s)

/-- BOOT_FAIL_RESET (03 R72): a mandatory step has failed; the reset is as a cold one, and the boot record is kept. -/
def execBootFailReset (s : State) : Host.Outcome State Fault Refusal :=
  .next (match s.mgmt.failReset with
    | some _ => coldReset s
    | none => s)

/-- Write back and close a live halyard: its record goes where a walk finds its page, and nowhere if none does (06 R153). -/
def closeLive (s : State) (dir : Nat) : State := if (s.halAt dir).st ≠ .live then s else closeHal s dir

/-- A warm reset (01 R35; 03 R65, R73; 06 R153; 09 R239): every core stops and takes its cold-reset values, the scratchpads keep their
contents, every occurrence, job and waiter goes; NOW, the registers of contexts, table, grants, domains, trace rings, telemetry and
ownership stay; boot skips the kept steps. Whatever the caches of slices held is in memory (DEDUCED, log entry 71). A cap that could not
be met stays to be met at the ends of later launches, and no launch has run since this reset (DESIGN CHOICE, log entry 83). -/
def warmReset (s : State) : State :=
  let s := (s.sched.hals.map fun e => e.1).foldl closeLive s
  let cl (k : Cluster) : Cluster :=
    { Cluster.reset with grant := k.grant, pool := k.grant.toNat, overdraw := k.overdraw, nextBurgee := 0 }
  let m := s.mem
  let t : State :=
    { s with
      time := { s.time with cycle := 0, launched := false }
      links := { s.links with
        links := tabMap .reset (fun _ l => { Link.reset with crcerr := l.crcerr, retry := l.retry, fecunc := l.fecunc }) s.links.links
        reqs := [], peerWaits := [] }
      owner := { s.owner with next := 0, handover := none }
      mgmt := takeBanks { s.mgmt with warm := true, stopped := false, failReset := none, hostWaits := [] }
      sched := { s.sched with
        ctxs := s.sched.ctxs.map fun e => (e.1, { e.2 with lq := [], busy := false, inval := none })
        occs := [], freed := false, credits := [], fenced := [], frameq := [], lastRun := [], moor := [], moorFail := [], moorBusy := [], packets := [], domChanges := []
        doms := tabMap .reset (fun _ d => { d with pending := false }) s.sched.doms, hoists := [], beats := [] }
      mem := { m with
        dirty := [], dramPoison := [], stags := [], lines := [], slices := [], replicas := [], mail := [], walks := [], resq := [], lrwHeld := []
        relInfo := [], lastRel := [], seen := [], fenceRel := [] }
      clusters := tabMap .reset (fun _ k => cl k) s.clusters
      cores := [], agenda := firstTasks, cur := .reset }
  beginStep t 1

/-- WARM_RESET (01 R35; 03 R61). -/
def execWarmReset (s : State) : Host.Outcome State Fault Refusal := .next (if s.power.on then warmReset s else s)

end Sys2Proof.Machine
end

