-- ==== Sys2Proof/Machine/Agenda.lean ====
section
/-! DEFINITION. The agenda: what the current cycle still has to do, and the next cycle's beginning (01 R30, R31; 95). -/

namespace Sys2Proof.Machine

/-! ### What a cycle brings by itself -/

/-- Cores that are kept in the state. -/
def allCores : List (BitVec 10) := (List.range 1024).map (BitVec.ofNat 10)

/-- Events of periods: tokens, rounds, telemetry (01 R17; 05 R115; 03 R67), and the ends of handovers and boots. -/
def periodEvents (s : State) : List (Instr × EvArg) :=
  (if s.cycle % 1000 = 0 then [(Instr.tokenPeriodStart, { ix := 0 })] else []) ++
    (if s.now / 1000000 ≠ s.time.prev.toNat / 1000000 then [(Instr.telemetryRefresh, { ix := 0 })] else []) ++
    (match s.mgmt.failReset with
     | some t => if t ≤ s.time.now then [(Instr.bootFailReset, { ix := 0 })] else []
     | none => []) ++
    (match s.owner.handover with
     | some t => if t ≤ s.time.now then [(Instr.handoverLapse, { ix := 0 })] else []
     | none => [])

/-- Events of a core's freezes, holds, timer and power (07 R179; 05 R113; 15 R377; 09 R227; 01 R28). -/
def coreEventsOf (s : State) (c : BitVec 10) (k : Core) : List (Instr × EvArg) :=
  let ev (b : Bool) (i : Instr) : List (Instr × EvArg) := if b then [(i, { core := c })] else []
  let phase : Bool := k.run = .running && (match k.hold with
    | some (.phase 0 _ _ _) => true
    | _ => false)
  ev (k.eccLeft = 1) .eccFreezeEnd ++ ev phase .phaseHoldEnd ++ ev (k.run = .running && holdOver s k) .holdRelease ++ ev (timerDue s k) .uiTimerFire ++
    (match k.gate with
     | .ungating n => ev (n ≤ s.cycle) .ungatingComplete
     | _ => [])

/-- Events of a core's barrel threads (10 R257-R263; 19 R468; 07 R163). -/
def threadEventsOf (s : State) (c : BitVec 10) (k : Core) : List (Instr × EvArg) :=
  let live : Bool := k.run ≠ .preempted
  (k.threads.flatMap fun t =>
    let ev (i : Instr) : List (Instr × EvArg) := if live || t.1 = 7 then [(i, { core := c, thread := BitVec.ofNat 4 t.1 })] else []
    match t.2.st with
    | .sleep w => if w ≤ s.time.now then ev .sleepExpiry else []
    | .response _ => ev .sliceResponse
    | .depart _ _ _ => ev .migrationDeparture
    | _ => []) ++
    resumesOf s c ++ (if tabGet false s.sched.moorBusy (moorHere s c) then [(Instr.mooringMove, { core := c })] else [])

/-- Whether a core's idle time has run out (01 R28). -/
def gatingDue (s : State) (c : BitVec 10) : Bool := (s.core c).gate = .on && (s.core c).idle + 64000 ≤ s.cycle && isIdle s c

/-- Events of occurrences before their starts: watchdogs, stops, snapshots and restores (05 R121-R129). -/
def occEventsOf (s : State) (id : Nat) (o : Occ) : List (Instr × EvArg) :=
  let ev (b : Bool) (i : Instr) : List (Instr × EvArg) := if b then [(i, { ix := id })] else []
  let past (lim : BitVec 32) (bit : Nat) : Bool := lim ≠ 0 && lim.toNat ≤ o.wdCount && o.wdDone / bit % 2 = 0
  let done (u : UnitStop) : Bool := match u.stage with
    | .snapshot n => decide (n ≤ s.cycle)
    | _ => false
  let back (u : UnitStop) : Bool := match u.stage with
    | .restoring n => decide (n ≤ s.cycle)
    | _ => false
  ev (past o.wdPre 1) .watchdogPreempt ++ ev (past o.wdKill 2) .watchdogKill ++ ev (past o.wdFence 4) .watchdogFence ++ ev (stopDue s o) .stopCycle ++
    ev (o.units.any done) .snapshotComplete ++ ev (o.units.any back) .restoreComplete

/-- The ends of occurrences (04 R97). -/
def endEventsOf (s : State) : List (Instr × EvArg) :=
  ((occList s).filter fun e => ended s e.1 e.2).map fun e => (Instr.occurrenceEnd, { ix := e.1 })

/-- Starts of occurrences, their preparation and loads (04 R86-R97; 05 R104). -/
def lifeEventsOf (s : State) (id : Nat) (o : Occ) : List (Instr × EvArg) :=
  let ev (b : Bool) (i : Instr) : List (Instr × EvArg) := if b then [(i, { ix := id })] else []
  let due : Bool := !o.shared && o.instant ≤ s.time.now
  let start : Bool := o.phase = .ready && startable s id o
  let more : Bool := o.prepWait.isNone && ((o.phase = .preparing && o.prep < 5) || (o.phase = .queued && o.prep < 2) || o.phase = .skipped)
  ev (due && start) .occurrenceStart ++ ev (due && !start && !o.atInstant && o.phase ≠ .running) .occurrenceInstant ++
    ev (o.shared && start) .sharedStart ++
    (if more then [(Instr.preparationBegin, { aux := BitVec.ofNat 64 (id + 1) })] else []) ++
    (o.toLoad.filter fun c => loadable s id c && ((loaderOf s c).map fun e => e.1) = some id).map fun c => (Instr.imageLoad, { core := c })

/-- New preparations, by ascending entry (04 R86, R90). -/
def newPreparations (s : State) : List (Instr × EvArg) :=
  ((validEntries s).filter (prepDue s)).map fun e => (Instr.preparationBegin, { ix := e.toNat })

/-- Contexts that become FREE (04 R82). -/
def commandEvents (s : State) : List (Instr × EvArg) :=
    (s.sched.ctxs.filter fun e => e.2.st = .stopping && !(occList s).any fun o => o.2.ctx.toNat = e.1).map fun e =>
      (Instr.contextFree, { ctx := BitVec.ofNat 6 e.1 })

/-- Events of the mesh, of translation, of domains and of reservation queues (07 R159, R166-R170; 08 R208). -/
def fabricEvents (s : State) : List (Instr × EvArg) :=
  List.replicate (s.sched.beats.filter fun b => b.at_ ≤ s.cycle).length (Instr.meshBeat, { ix := 0 }) ++
    (s.mem.slices.filter fun e => e.2.misses.any (fun m => (m.2.map fun m => m.stage) = some .held) && (mailOf s (BitVec.ofNat 8 e.1)).length < 32).map
      (fun e => (Instr.mailboxPost, { ix := e.1 })) ++
    (s.mem.slices.flatMap fun e => e.2.misses.filterMap fun m => match m.2 with
      | some m' => if m'.stage = .fault && m'.deadline = 0 then some (Instr.pagefault, { ix := e.1, value := BitVec.ofNat 64 m.1, flag := m'.permission }) else none
      | none => none) ++
    ((faultWaits s fun m => m.deadline ≤ s.time.now).filterMap fun e => (tabGet none (s.slice e.1).misses e.2).map fun m =>
      (Instr.translationTimeout, { value := m.faultId.setWidth 64 })) ++
    (s.mem.resq.filter fun e => e.2.any (revocable s)).map (fun e => (Instr.reservationRevoke, { ix := e.1 })) ++
    (match s.sched.domChanges with
     | d :: _ => if drained s d then [(Instr.domainChangeComplete, { ix := 0 })] else []
     | [] => []) ++
    (s.sched.ctxs.filter fun e => e.2.inval.isSome).map fun e => (Instr.invalidationComplete, { ctx := BitVec.ofNat 6 e.1 })

/-- The claims and resumes of time-triggered work, in every cycle; selection when cores have become free (05 R117, R119, R124; DEDUCED, log
entry 60). -/
def selection (s : State) : State :=
  let timed : Bool := (occList s).any fun e => !e.2.shared && !e.2.ending && (e.2.phase = .restart || e.2.units.any fun u => u.stage = .stored)
  let s := if timed then resumeTimed (claimForTimed s) else s
  if s.sched.freed then afterFree s else s

/-- The events that the cycle brings by itself, in their order; those of periods have begun it. A preparation that begins comes before every
start of a shared occurrence (05 R119). -/
def dueEvents (s : State) : List (Instr × EvArg) :=
  let cs := s.cores.map fun e => (BitVec.ofNat 10 e.1, e.2)
  let os := occList s
  (cs.flatMap fun e => coreEventsOf s e.1 e.2) ++ hoistEvents s ++ (os.flatMap fun e => occEventsOf s e.1 e.2) ++
    endEventsOf s ++ newPreparations s ++ (os.flatMap fun e => lifeEventsOf s e.1 e.2) ++ commandEvents s ++
    (if s.cycle % 100000 = 0 then [(Instr.roundStart, { ix := 0 })] else []) ++
    (if s.cycle < 64000 then [] else (allCores.filter (gatingDue s)).map fun c => (Instr.gatingPrepare, { core := c })) ++
    (cs.flatMap fun e => threadEventsOf s e.1 e.2) ++
    (s.sched.packets.map fun e => (Instr.migrationArrival, { ix := e.1 })) ++
    fabricEvents s ++ linkEvents s ++ hostRetries s ++ jobEvents s ++ frameEvents s ++ cutEvents s

/-- Put the cycle's own events before what is left of it. -/
def bringDue (s : State) : State :=
  let s := selection s
  s.pushEvents (dueEvents s)

/-- Cores that are not idle in this cycle wake, and their idle time starts again (01 R27, R28). -/
def noteIdle (s : State) : State :=
  let named := s.cores.map (fun e => e.1) ++
    (occList s).flatMap (fun e => if e.2.phase = .preparing || e.2.phase = .ready then e.2.coreList.map (·.toNat) else []) ++ s.mem.mail.map (fun e => e.1) ++
    s.clusters.flatMap fun e => (e.2.jobs.filter fun j => j.2.unfinished).map fun j => j.2.core.toNat
  (named.filter fun n => !isIdle s (BitVec.ofNat 10 n)).foldl (fun s n =>
    (wakeCore s (BitVec.ofNat 10 n)).mapCore (BitVec.ofNat 10 n) fun k => { k with idle := s.cycle + 1 }) s

/-- The cycle ends: every core that is not idle has woken, and a gating whose 16 cycles have passed commits (01 R28). -/
def closeCycle (s : State) : State :=
  let s := noteIdle s
  let due (k : Core) : Bool := match k.gate with
    | .prepare n => n = s.cycle
    | _ => false
  s.pushEvents ((s.cores.filter fun e => due e.2).map fun e => (Instr.gatingCommit, { core := BitVec.ofNat 10 e.1 }))

/-- Rank of an input as a claimant's ownership command: 0 the management controller's, 1 the PF's, 2 the designated peer's (03 R64). -/
def ownerRank (peer : BitVec 6) (e : Instr × EvArg) : Option Nat :=
  let rank : Option Nat := match e.2.who with
    | .mgmt => some 0
    | .fn n => if n = 0 then some 1 else none
    | .peer d => if d = peer then some 2 else none
  if e.1 = .claim || e.1 = .release || e.1 = .handover || e.1 = .accept ||
    (e.1 = .registerWrite && e.2.ix = 0x100 && !e.2.flag) then rank else none

/-- The input with the lowest rank, the first of equals, with its rank. -/
def firstCommand (peer : BitVec 6) : List (Instr × EvArg) → Option (Nat × Instr × EvArg)
  | [] => none
  | e :: r =>
    match ownerRank peer e, firstCommand peer r with
    | some n, some (m, x) => if n ≤ m then some (n, e) else some (m, x)
    | some n, none => some (n, e)
    | none, x => x

/-- Of a list of inputs those that a cycle takes, if x is the ownership command that it may take, and those that wait: the other commands, and
what comes after one of them on its path (03 R64, R66). -/
def splitInputs (peer : BitVec 6) (x : Instr × EvArg) : List (Instr × EvArg) → Bool → List Who → List (Instr × EvArg) × List (Instr × EvArg)
  | [], _, _ => ([], [])
  | e :: r, taken, held =>
    let command : Bool := (ownerRank peer e).isSome
    if (if command then taken || e ≠ x else held.contains e.2.who) then
      let t := splitInputs peer x r taken (e.2.who :: held)
      (t.1, e :: t.2)
    else
      let t := splitInputs peer x r (taken || command) held
      (e :: t.1, t.2)

/-- The inputs that a cycle takes, and those that wait: of the ownership commands one, and each path's inputs in their order (03 R64, R66). -/
def takeInputs (peer : BitVec 6) (l : List (Instr × EvArg)) : List (Instr × EvArg) × List (Instr × EvArg) :=
  match firstCommand peer l with
  | none => (l, [])
  | some (_, x) => splitInputs peer x l false []

/-- The next cycle begins: CYCLE and NOW, the counts of waits, injections; then its work: the events of periods, the playback cursors, the inputs, the waits
whose bound has passed, the engine operations that wait, the cycle's own events, and the cores. With the power off only a cold reset is taken. -/
def nextCycle (s : State) : State :=
  if !s.power.on then { s with inbox := [], agenda := (s.inbox.filter fun e => e.1 = .coldReset).map fun e => .event e.1 e.2 }
  else
    let s := { s with time := tickTime s.time, freeCount := s.freeCount + 1 }
    let out := s.cores.flatMap fun e => timeoutsOf (BitVec.ofNat 10 e.1) e.2
    let s := { s with cores := tabMap .reset (fun _ k => tickWaits k) s.cores }
    let s := (coresIn s).foldl (fun s c => lateReady (grantLrw s c) c) s
    let s := watchTick (injectBeats s)
    let ev (l : List (Instr × EvArg)) : List Task := l.map fun e => .event e.1 e.2
    let ret := ((coresIn s).filter fun c =>
      ((s.core c).ewait.isSome && (s.core c).run ≠ .preempted) || !(s.core c).hacts.isEmpty).map Task.retry
    let inp := takeInputs s.owner.peerdev s.inbox
    { s with inbox := inp.2, agenda := ev (periodEvents s) ++ ev (playEvents s) ++ ev inp.1 ++ ev out ++ ret ++ [.due, .settle, .close] }

/-- What a step does: an instruction to run, or a state reached without one. -/
inductive Plan where
  | done (s : State)
  | run (i : Instr) (s : State)
  deriving DecidableEq, Repr

/-- The next operation of the bundle that core c is issuing, with the slots of its trap; none when all have run. -/
def planBundle (s : State) (c : BitVec 10) (m : BitVec 8) : Plan :=
  match (s.core c).bund with
  | none => .done s
  | some b =>
    match b.ops with
    | [] => .done (endBundle s c b)
    | e :: r =>
      let s := s.mapCore c fun k => { k with bund := some { b with ops := r } }
      .run e.2 { s with cur := { curOf c b e.1 with mask := m }, agenda := .issue c :: s.agenda }

/-- A core's primary in this cycle: its bundle goes on, or it issues one, or it is frozen, or its results go on. -/
def planIssue (s : State) (c : BitVec 10) : Plan :=
  let k := s.core c
  if k.bund.isSome then planBundle s c 0
  else if k.usedAt = s.cycle + 1 then .done s
  else
    let s := keepCtl s c
    if k.frz.isSome then
      .done ((moveMarks (s.mapCore c fun k => { k with usedAt := s.cycle + 1 }) c).mapCore c (frozenCycle (holdsAlone s c) (awaitsUnit s c)))
    else
    let s := s.mapCore c fun k => { k with usedAt := s.cycle + 1, used := 0 }
    if k.run = .preempted then .done s
    else if k.run = .running && waitsFeed s c then .done (s.mapCore c moveFeed)
    else
      let s := activeAccesses s c
      if k.run ≠ .running then .done (idleCycle s c)
      else
        let r := if isGuidon s c then issueGuidon s c else issueFollower s c
        planBundle r.2 c r.1

/-- The step's surroundings for an E operation that goes on after its issue. -/
def curWait (c : BitVec 10) (w : EWait) : Cur :=
  { Cur.reset with agent := .prim c, slot := .e, pc := w.pc, scope := w.scope, retry := true, opA := w.a, opB := w.b,
                   born := w.born, issued := w.at_ }

/-- A halyard action that has reached its engine cycle, or the operation that a core waits in. -/
def planRetry (s : State) (c : BitVec 10) : Plan :=
  let k := s.core c
  match (k.hacts.take 1).find? fun w => w.at_ + 2 ≤ s.cycle with
  | some w =>
    let s := s.mapCore c fun k => { k with hacts := k.hacts.filter (· ≠ w) }
    .run w.i { s with cur := curWait c w, agenda := .retry c :: s.agenda }
  | none =>
    match (if k.run = .preempted then none else k.ewait) with
    | none => .done s
    | some w => .run w.i { (s.mapCore c fun k => { k with ewait := none }) with cur := curWait c w }

/-- The threads of a core whose thread traps wait for their saves make them, once their waits are over (10 R266, R484). -/
def saveTrapped (s : State) (c : BitVec 10) : State :=
  (List.range 7).foldl (fun s t =>
    let th := s.thread c (BitVec.ofNat 3 t)
    match th.trapped with
    | some (w, v) =>
      if th.st = .running && th.retry ≤ s.cycle && (s.core c).run ≠ .preempted then takeThreadTrap s c (BitVec.ofNat 3 t) w v else s
    | none => s) s

/-- The crossbar's denials and the saves of thread traps; then a thread that goes on inside its operation; when none does, the lines that the
threads need are fetched. -/
def planThreads (s : State) (c : BitVec 10) : Plan :=
  let s := saveTrapped (decideNet s c) c
  match goOn s c with
  | some (t, i) =>
    let cls := (s.thread c (BitVec.ofNat 3 t)).cls
    let s := s.mapThread c (BitVec.ofNat 3 t) fun th => { th with retry := s.cycle + 1, last := s.cycle, post := none }
    .run i { s with cur := curThread c t cls, agenda := .threads c :: s.agenda }
  | none => .done ((List.range 8).foldl (fun s t => fetchLine s c (BitVec.ofNat 3 t)) s)

/-- A slot class is offered. -/
def planOffer (s : State) (c : BitVec 10) (i : Nat) : Plan :=
  match offer s c i with
  | (some op, s) => .run op s
  | (none, s) => .done s

/-- What the next step does. -/
def plan (s : State) : Plan :=
  match s.agenda with
  | [] => .done (nextCycle s)
  | t :: r =>
    let s := { s with agenda := r }
    match t with
    | .event i a => .run i { s with ev := a, cur := .reset }
    | .due => .done (bringDue s)
    | .settle => .done (settle s)
    | .go l => .done (goCycle s l)
    | .issue c => planIssue s c
    | .retry c => planRetry s c
    | .threads c => planThreads s c
    | .offer c i => planOffer s c i
    | .rest c => .done (restService s c)
    | .close => .done (closeCycle s)

end Sys2Proof.Machine
end

