-- ==== Sys2Proof/Machine/Dispatch.lean ====
section
/-! DEFINITION. Which meaning each instruction has. -/

namespace Sys2Proof.Machine

/-- Perform one instruction. -/
def exec (i : Instr) (s : State) : Host.Outcome State Fault Refusal :=
  match i with
  | .coldReset => Sys2Proof.Machine.execColdReset s
  | .warmReset => Sys2Proof.Machine.execWarmReset s
  | .functionLevelReset => Sys2Proof.Machine.execFunctionLevelReset s
  | .tokenPeriodStart => Sys2Proof.Machine.execTokenPeriodStart s
  | .grantWrite => Sys2Proof.Machine.execGrantWrite s
  | .powerCap => Sys2Proof.Machine.execPowerCap s
  | .gatingPrepare => Sys2Proof.Machine.execGatingPrepare s
  | .gatingCommit => Sys2Proof.Machine.execGatingCommit s
  | .ungatingComplete => Sys2Proof.Machine.execUngatingComplete s
  | .timeSourceLock => Sys2Proof.Machine.execTimeSourceLock s
  | .timeSourceLoss => Sys2Proof.Machine.execTimeSourceLoss s
  | .timecfgWrite => Sys2Proof.Machine.execTimecfgWrite s
  | .linkTrainingDone => Sys2Proof.Machine.execLinkTrainingDone s
  | .linkRetrain => Sys2Proof.Machine.execLinkRetrain s
  | .idle => Sys2Proof.Machine.execIdle s
  | .read => Sys2Proof.Machine.execRead s
  | .readrsp => Sys2Proof.Machine.execReadrsp s
  | .write => Sys2Proof.Machine.execWrite s
  | .writeack => Sys2Proof.Machine.execWriteack s
  | .atomic => Sys2Proof.Machine.execAtomic s
  | .atomicrsp => Sys2Proof.Machine.execAtomicrsp s
  | .message => Sys2Proof.Machine.execMessage s
  | .time => Sys2Proof.Machine.execTime s
  | .linkctl => Sys2Proof.Machine.execLinkctl s
  | .routeWrite => Sys2Proof.Machine.execRouteWrite s
  | .routeStallDiscard => Sys2Proof.Machine.execRouteStallDiscard s
  | .linkRequestTimeout => Sys2Proof.Machine.execLinkRequestTimeout s
  | .messageRetry => Sys2Proof.Machine.execMessageRetry s
  | .timeFlitSend => Sys2Proof.Machine.execTimeFlitSend s
  | .neighbourSourceLost => Sys2Proof.Machine.execNeighbourSourceLost s
  | .bar4Read => Sys2Proof.Machine.execBar4Read s
  | .bar4Write => Sys2Proof.Machine.execBar4Write s
  | .claim => Sys2Proof.Machine.execClaim s
  | .release => Sys2Proof.Machine.execRelease s
  | .handover => Sys2Proof.Machine.execHandover s
  | .accept => Sys2Proof.Machine.execAccept s
  | .handoverLapse => Sys2Proof.Machine.execHandoverLapse s
  | .registerWrite => Sys2Proof.Machine.execRegisterWrite s
  | .pldmSensorRead => Sys2Proof.Machine.execPldmSensorRead s
  | .telemetryRefresh => Sys2Proof.Machine.execTelemetryRefresh s
  | .firmwareUpdate => Sys2Proof.Machine.execFirmwareUpdate s
  | .clearBootMark => Sys2Proof.Machine.execClearBootMark s
  | .spdmRequest => Sys2Proof.Machine.execSpdmRequest s
  | .tracebaseWrite => Sys2Proof.Machine.execTracebaseWrite s
  | .tracecfgWrite => Sys2Proof.Machine.execTracecfgWrite s
  | .bootStep => Sys2Proof.Machine.execBootStep s
  | .bootFailReset => Sys2Proof.Machine.execBootFailReset s
  | .functionEnable => Sys2Proof.Machine.execFunctionEnable s
  | .create => Sys2Proof.Machine.execCreate s
  | .destroy => Sys2Proof.Machine.execDestroy s
  | .contextFree => Sys2Proof.Machine.execContextFree s
  | .scheduleEntryWrite => Sys2Proof.Machine.execScheduleEntryWrite s
  | .validSet => Sys2Proof.Machine.execValidSet s
  | .validClear => Sys2Proof.Machine.execValidClear s
  | .preparationBegin => Sys2Proof.Machine.execPreparationBegin s
  | .imageLoad => Sys2Proof.Machine.execImageLoad s
  | .occurrenceStart => Sys2Proof.Machine.execOccurrenceStart s
  | .occurrenceEnd => Sys2Proof.Machine.execOccurrenceEnd s
  | .frameSubmit => Sys2Proof.Machine.execFrameSubmit s
  | .roundStart => Sys2Proof.Machine.execRoundStart s
  | .sharedStart => Sys2Proof.Machine.execSharedStart s
  | .stopCycle => Sys2Proof.Machine.execStopCycle s
  | .snapshotComplete => Sys2Proof.Machine.execSnapshotComplete s
  | .unitResume => Sys2Proof.Machine.execUnitResume s
  | .restoreComplete => Sys2Proof.Machine.execRestoreComplete s
  | .watchdogPreempt => Sys2Proof.Machine.execWatchdogPreempt s
  | .watchdogKill => Sys2Proof.Machine.execWatchdogKill s
  | .watchdogFence => Sys2Proof.Machine.execWatchdogFence s
  | .phaseHoldEnd => Sys2Proof.Machine.execPhaseHoldEnd s
  | .playbackAdvance => Sys2Proof.Machine.execPlaybackAdvance s
  | .mergeFrame => Sys2Proof.Machine.execMergeFrame s
  | .cutFrame => Sys2Proof.Machine.execCutFrame s
  | .endFrame => Sys2Proof.Machine.execEndFrame s
  | .cutComplete => Sys2Proof.Machine.execCutComplete s
  | .meshBeat => Sys2Proof.Machine.execMeshBeat s
  | .mailboxPost => Sys2Proof.Machine.execMailboxPost s
  | .pagefault => Sys2Proof.Machine.execPagefault s
  | .translationTimeout => Sys2Proof.Machine.execTranslationTimeout s
  | .invpage => Sys2Proof.Machine.execInvpage s
  | .invhuge => Sys2Proof.Machine.execInvhuge s
  | .invall => Sys2Proof.Machine.execInvall s
  | .xinvalResume => Sys2Proof.Machine.execXinvalResume s
  | .xinvalFail => Sys2Proof.Machine.execXinvalFail s
  | .invalidationComplete => Sys2Proof.Machine.execInvalidationComplete s
  | .domcfgWrite => Sys2Proof.Machine.execDomcfgWrite s
  | .domselWrite => Sys2Proof.Machine.execDomselWrite s
  | .domainChangeComplete => Sys2Proof.Machine.execDomainChangeComplete s
  | .correctedError => Sys2Proof.Machine.execCorrectedError s
  | .eccFreezeEnd => Sys2Proof.Machine.execEccFreezeEnd s
  | .uncorrectableError => Sys2Proof.Machine.execUncorrectableError s
  | .reservationRevoke => Sys2Proof.Machine.execReservationRevoke s
  | .raceTagSweep => Sys2Proof.Machine.execRaceTagSweep s
  | .accessTrap => Sys2Proof.Machine.execAccessTrap s
  | .uiTimerFire => Sys2Proof.Machine.execUiTimerFire s
  | .userInterruptTake => Sys2Proof.Machine.execUserInterruptTake s
  | .trapctlResume => Sys2Proof.Machine.execTrapctlResume s
  | .trapctlKill => Sys2Proof.Machine.execTrapctlKill s
  | .hoistArrival => Sys2Proof.Machine.execHoistArrival s
  | .hoistRelease => Sys2Proof.Machine.execHoistRelease s
  | .holdRelease => Sys2Proof.Machine.execHoldRelease s
  | .pwaitWake => Sys2Proof.Machine.execPwaitWake s
  | .pwaitTimeout => Sys2Proof.Machine.execPwaitTimeout s
  | .frameResume => Sys2Proof.Machine.execFrameResume s
  | .sleepExpiry => Sys2Proof.Machine.execSleepExpiry s
  | .migrationDeparture => Sys2Proof.Machine.execMigrationDeparture s
  | .migrationArrival => Sys2Proof.Machine.execMigrationArrival s
  | .mooringMove => Sys2Proof.Machine.execMooringMove s
  | .copyJobStart => Sys2Proof.Machine.execCopyJobStart s
  | .copyElement => Sys2Proof.Machine.execCopyElement s
  | .copyJobFinish => Sys2Proof.Machine.execCopyJobFinish s
  | .add f => Sys2Proof.Machine.execAdd f s
  | .sub f => Sys2Proof.Machine.execSub f s
  | .addw f => Sys2Proof.Machine.execAddw f s
  | .subw f => Sys2Proof.Machine.execSubw f s
  | .mul f => Sys2Proof.Machine.execMul f s
  | .mulh f => Sys2Proof.Machine.execMulh f s
  | .mulhn f => Sys2Proof.Machine.execMulhn f s
  | .div f => Sys2Proof.Machine.execDiv f s
  | .divn f => Sys2Proof.Machine.execDivn f s
  | .rem f => Sys2Proof.Machine.execRem f s
  | .remn f => Sys2Proof.Machine.execRemn f s
  | .and f => Sys2Proof.Machine.execAnd f s
  | .or f => Sys2Proof.Machine.execOr f s
  | .xor f => Sys2Proof.Machine.execXor f s
  | .andn f => Sys2Proof.Machine.execAndn f s
  | .orn f => Sys2Proof.Machine.execOrn f s
  | .shl f => Sys2Proof.Machine.execShl f s
  | .shr f => Sys2Proof.Machine.execShr f s
  | .sra f => Sys2Proof.Machine.execSra f s
  | .rotr f => Sys2Proof.Machine.execRotr f s
  | .clz f => Sys2Proof.Machine.execClz f s
  | .ctz f => Sys2Proof.Machine.execCtz f s
  | .popc f => Sys2Proof.Machine.execPopc f s
  | .brev f => Sys2Proof.Machine.execBrev f s
  | .min f => Sys2Proof.Machine.execMin f s
  | .max f => Sys2Proof.Machine.execMax f s
  | .minn f => Sys2Proof.Machine.execMinn f s
  | .maxn f => Sys2Proof.Machine.execMaxn f s
  | .cmp f => Sys2Proof.Machine.execCmp f s
  | .cmpn f => Sys2Proof.Machine.execCmpn f s
  | .mov f => Sys2Proof.Machine.execMov f s
  | .li f => Sys2Proof.Machine.execLi f s
  | .movx f => Sys2Proof.Machine.execMovx f s
  | .extr f => Sys2Proof.Machine.execExtr f s
  | .insr f => Sys2Proof.Machine.execInsr f s
  | .sxt f => Sys2Proof.Machine.execSxt f s
  | .zxt f => Sys2Proof.Machine.execZxt f s
  | .lea f => Sys2Proof.Machine.execLea f s
  | .pand f => Sys2Proof.Machine.execPand f s
  | .por f => Sys2Proof.Machine.execPor f s
  | .pxor f => Sys2Proof.Machine.execPxor f s
  | .pnot f => Sys2Proof.Machine.execPnot f s
  | .pmov f => Sys2Proof.Machine.execPmov f s
  | .pset f => Sys2Proof.Machine.execPset f s
  | .fadd f => Sys2Proof.Machine.execFadd f s
  | .fsub f => Sys2Proof.Machine.execFsub f s
  | .fmul f => Sys2Proof.Machine.execFmul f s
  | .ffma f => Sys2Proof.Machine.execFfma f s
  | .fmin f => Sys2Proof.Machine.execFmin f s
  | .fmax f => Sys2Proof.Machine.execFmax f s
  | .fcmp f => Sys2Proof.Machine.execFcmp f s
  | .fcvtI2f f => Sys2Proof.Machine.execFcvtI2f f s
  | .fcvtN2f f => Sys2Proof.Machine.execFcvtN2f f s
  | .fcvtF2i f => Sys2Proof.Machine.execFcvtF2i f s
  | .fcvtF2n f => Sys2Proof.Machine.execFcvtF2n f s
  | .mfc f => Sys2Proof.Machine.execMfc f s
  | .mtc f => Sys2Proof.Machine.execMtc f s
  | .now f => Sys2Proof.Machine.execNow f s
  | .cyc f => Sys2Proof.Machine.execCyc f s
  | .mix f => Sys2Proof.Machine.execMix f s
  | .hset f => Sys2Proof.Machine.execHset f s
  | .hget f => Sys2Proof.Machine.execHget f s
  | .ldb f => Sys2Proof.Machine.execLdb f s
  | .ldbn f => Sys2Proof.Machine.execLdbn f s
  | .ldh f => Sys2Proof.Machine.execLdh f s
  | .ldhn f => Sys2Proof.Machine.execLdhn f s
  | .ldw f => Sys2Proof.Machine.execLdw f s
  | .ldwn f => Sys2Proof.Machine.execLdwn f s
  | .ldd f => Sys2Proof.Machine.execLdd f s
  | .stb f => Sys2Proof.Machine.execStb f s
  | .sth f => Sys2Proof.Machine.execSth f s
  | .stw f => Sys2Proof.Machine.execStw f s
  | .std f => Sys2Proof.Machine.execStd f s
  | .ldv f => Sys2Proof.Machine.execLdv f s
  | .stv f => Sys2Proof.Machine.execStv f s
  | .vgath f => Sys2Proof.Machine.execVgath f s
  | .vscat f => Sys2Proof.Machine.execVscat f s
  | .lda f => Sys2Proof.Machine.execLda f s
  | .strl f => Sys2Proof.Machine.execStrl f s
  | .praise f => Sys2Proof.Machine.execPraise f s
  | .ptest f => Sys2Proof.Machine.execPtest f s
  | .pwait f => Sys2Proof.Machine.execPwait f s
  | .lrw f => Sys2Proof.Machine.execLrw f s
  | .sch f => Sys2Proof.Machine.execSch f s
  | .aadd f => Sys2Proof.Machine.execAadd f s
  | .aand f => Sys2Proof.Machine.execAand f s
  | .aor f => Sys2Proof.Machine.execAor f s
  | .axor f => Sys2Proof.Machine.execAxor f s
  | .amin f => Sys2Proof.Machine.execAmin f s
  | .amax f => Sys2Proof.Machine.execAmax f s
  | .aminn f => Sys2Proof.Machine.execAminn f s
  | .amaxn f => Sys2Proof.Machine.execAmaxn f s
  | .axch f => Sys2Proof.Machine.execAxch f s
  | .acas f => Sys2Proof.Machine.execAcas f s
  | .fence f => Sys2Proof.Machine.execFence f s
  | .cflush f => Sys2Proof.Machine.execCflush f s
  | .cinv f => Sys2Proof.Machine.execCinv f s
  | .cpre f => Sys2Proof.Machine.execCpre f s
  | .pld f => Sys2Proof.Machine.execPld f s
  | .stt f => Sys2Proof.Machine.execStt f s
  | .vadd f => Sys2Proof.Machine.execVadd f s
  | .vsub f => Sys2Proof.Machine.execVsub f s
  | .vmul f => Sys2Proof.Machine.execVmul f s
  | .vmulh f => Sys2Proof.Machine.execVmulh f s
  | .vfma f => Sys2Proof.Machine.execVfma f s
  | .vfms f => Sys2Proof.Machine.execVfms f s
  | .vmin f => Sys2Proof.Machine.execVmin f s
  | .vmax f => Sys2Proof.Machine.execVmax f s
  | .vabs f => Sys2Proof.Machine.execVabs f s
  | .vneg f => Sys2Proof.Machine.execVneg f s
  | .vand f => Sys2Proof.Machine.execVand f s
  | .vor f => Sys2Proof.Machine.execVor f s
  | .vxor f => Sys2Proof.Machine.execVxor f s
  | .vnot f => Sys2Proof.Machine.execVnot f s
  | .vshl f => Sys2Proof.Machine.execVshl f s
  | .vshr f => Sys2Proof.Machine.execVshr f s
  | .vsra f => Sys2Proof.Machine.execVsra f s
  | .vcmp f => Sys2Proof.Machine.execVcmp f s
  | .vcmpx f => Sys2Proof.Machine.execVcmpx f s
  | .vsel f => Sys2Proof.Machine.execVsel f s
  | .vcvt f => Sys2Proof.Machine.execVcvt f s
  | .vpack f => Sys2Proof.Machine.execVpack f s
  | .vunpk f => Sys2Proof.Machine.execVunpk f s
  | .vqdec f => Sys2Proof.Machine.execVqdec f s
  | .vexp2 f => Sys2Proof.Machine.execVexp2 f s
  | .vlog2 f => Sys2Proof.Machine.execVlog2 f s
  | .vrcp f => Sys2Proof.Machine.execVrcp f s
  | .vrsq f => Sys2Proof.Machine.execVrsq f s
  | .vsqrt f => Sys2Proof.Machine.execVsqrt f s
  | .vred f => Sys2Proof.Machine.execVred f s
  | .vscan f => Sys2Proof.Machine.execVscan f s
  | .vperm f => Sys2Proof.Machine.execVperm f s
  | .vshuf f => Sys2Proof.Machine.execVshuf f s
  | .vbc f => Sys2Proof.Machine.execVbc f s
  | .vext f => Sys2Proof.Machine.execVext f s
  | .vins f => Sys2Proof.Machine.execVins f s
  | .vcx f => Sys2Proof.Machine.execVcx f s
  | .vargmx f => Sys2Proof.Machine.execVargmx f s
  | .vrand f => Sys2Proof.Machine.execVrand f s
  | .viota f => Sys2Proof.Machine.execViota f s
  | .mand f => Sys2Proof.Machine.execMand f s
  | .mor f => Sys2Proof.Machine.execMor f s
  | .mxor f => Sys2Proof.Machine.execMxor f s
  | .mnot f => Sys2Proof.Machine.execMnot f s
  | .mpop f => Sys2Proof.Machine.execMpop f s
  | .mfirst f => Sys2Proof.Machine.execMfirst f s
  | .mfrom f => Sys2Proof.Machine.execMfrom f s
  | .mtos f => Sys2Proof.Machine.execMtos f s
  | .mbeat f => Sys2Proof.Machine.execMbeat f s
  | .mscl f => Sys2Proof.Machine.execMscl f s
  | .mclr f => Sys2Proof.Machine.execMclr f s
  | .mswap f => Sys2Proof.Machine.execMswap f s
  | .msave f => Sys2Proof.Machine.execMsave f s
  | .mload f => Sys2Proof.Machine.execMload f s
  | .br f => Sys2Proof.Machine.execBr f s
  | .bri f => Sys2Proof.Machine.execBri f s
  | .call f => Sys2Proof.Machine.execCall f s
  | .calli f => Sys2Proof.Machine.execCalli f s
  | .ret f => Sys2Proof.Machine.execRet f s
  | .loop f => Sys2Proof.Machine.execLoop f s
  | .loopx f => Sys2Proof.Machine.execLoopx f s
  | .holdcImm f => Sys2Proof.Machine.execHoldcImm f s
  | .holdcReg f => Sys2Proof.Machine.execHoldcReg f s
  | .holdu f => Sys2Proof.Machine.execHoldu f s
  | .halt f => Sys2Proof.Machine.execHalt f s
  | .trap f => Sys2Proof.Machine.execTrap f s
  | .brk f => Sys2Proof.Machine.execBrk f s
  | .iret f => Sys2Proof.Machine.execIret f s
  | .uien f => Sys2Proof.Machine.execUien f s
  | .uidis f => Sys2Proof.Machine.execUidis f s
  | .ifence f => Sys2Proof.Machine.execIfence f s
  | .phase f => Sys2Proof.Machine.execPhase f s
  | .mseek f => Sys2Proof.Machine.execMseek f s
  | .setfReg f => Sys2Proof.Machine.execSetfReg f s
  | .setfLit f => Sys2Proof.Machine.execSetfLit f s
  | .fmtReg f => Sys2Proof.Machine.execFmtReg f s
  | .fmtLit f => Sys2Proof.Machine.execFmtLit f s
  | .cpy f => Sys2Proof.Machine.execCpy f s
  | .cpyV f => Sys2Proof.Machine.execCpyV f s
  | .cpyq f => Sys2Proof.Machine.execCpyq f s
  | .cpyw f => Sys2Proof.Machine.execCpyw f s
  | .cpyk f => Sys2Proof.Machine.execCpyk f s
  | .hbindOpen f => Sys2Proof.Machine.execHbindOpen f s
  | .hbindBind f => Sys2Proof.Machine.execHbindBind f s
  | .hbindPark f => Sys2Proof.Machine.execHbindPark f s
  | .hbindClose f => Sys2Proof.Machine.execHbindClose f s
  | .hread f => Sys2Proof.Machine.execHread f s
  | .hframe f => Sys2Proof.Machine.execHframe f s
  | .htent f => Sys2Proof.Machine.execHtent f s
  | .hcommit f => Sys2Proof.Machine.execHcommit f s
  | .hcut f => Sys2Proof.Machine.execHcut f s
  | .hcutT f => Sys2Proof.Machine.execHcutT f s
  | .hckpt f => Sys2Proof.Machine.execHckpt f s
  | .hplayHold f => Sys2Proof.Machine.execHplayHold f s
  | .hplaySource f => Sys2Proof.Machine.execHplaySource f s
  | .hplayHorizon f => Sys2Proof.Machine.execHplayHorizon f s
  | .sqput f => Sys2Proof.Machine.execSqput f s
  | .sqget f => Sys2Proof.Machine.execSqget f s
  | .sqlen f => Sys2Proof.Machine.execSqlen f s
  | .sqlenArmHigh f => Sys2Proof.Machine.execSqlenArmHigh f s
  | .sqlenArmLow f => Sys2Proof.Machine.execSqlenArmLow f s
  | .tspawn f => Sys2Proof.Machine.execTspawn f s
  | .twake f => Sys2Proof.Machine.execTwake f s
  | .trace f => Sys2Proof.Machine.execTrace f s
  | .vsend f => Sys2Proof.Machine.execVsend f s
  | .vrecv f => Sys2Proof.Machine.execVrecv f s
  | .live f => Sys2Proof.Machine.execLive f s
  | .migr f => Sys2Proof.Machine.execMigr f s
  | .jmp f => Sys2Proof.Machine.execJmp f s
  | .jr f => Sys2Proof.Machine.execJr f s
  | .jal f => Sys2Proof.Machine.execJal f s
  | .jalr f => Sys2Proof.Machine.execJalr f s
  | .sleepu f => Sys2Proof.Machine.execSleepu f s
  | .tyield => Sys2Proof.Machine.execTyield s
  | .tyieldPark => Sys2Proof.Machine.execTyieldPark s
  | .texit => Sys2Proof.Machine.execTexit s
  | .sysc f => Sys2Proof.Machine.execSysc f s
  | .trapg f => Sys2Proof.Machine.execTrapg f s
  | .occurrenceInstant => Sys2Proof.Machine.execOccurrenceInstant s
  | .powerLoss => Sys2Proof.Machine.execPowerLoss s
  | .functionDisable => Sys2Proof.Machine.execFunctionDisable s
  | .timeSourceSample => Sys2Proof.Machine.execTimeSourceSample s
  | .pldmBaseRequest => Sys2Proof.Machine.execPldmBaseRequest s
  | .sliceResponse => Sys2Proof.Machine.execSliceResponse s

end Sys2Proof.Machine
end

