-- ==== Sys2Proof/Machine/Step.lean ====
section
/-! DEFINITION. One step: the agenda names an instruction, which exec performs, or a state reached without one; and the placing of
one instruction as the next to run (log entry 9). -/

namespace Sys2Proof.Machine

/-- One step of the machine. -/
def step (s : State) : Host.Outcome State Fault Refusal :=
  match plan s with
  | .done t => .next t
  | .run i t => exec i t

/-- The slot of a word that decodeAny reads: its bit in a bundle header. -/
def wordSlot (w : BitVec 32) : Nat :=
  match decodeS w with
  | .ok _ => 23
  | .illegal _ =>
  match decodeM w with
  | .ok _ => 25
  | .illegal _ =>
  match decodeV w with
  | .ok _ => 27
  | .illegal _ =>
  match decodeC w with
  | .ok _ => 22
  | .illegal _ => 29

/-- A core whose primary fetches in this cycle. -/
def Core.fetching (k : Core) : Core := { k with run := .running, frz := none, bund := none, usedAt := 0, feed := [], rank := 0 }

/-- Put tagged words into core 0's instruction scratchpad from its c.pc on. -/
def putWords (t : Tab (BitVec 34)) (pc : BitVec 16) : List (BitVec 34) → Tab (BitVec 34)
  | [] => t
  | w :: r => putWords (tabPut 0 t pc.toNat w) (pc + 1) r

/-- A bundle of one slot with a pool of seven zero literals, as the next that core 0's primary issues. -/
def State.withSlot (s : State) (bit : Nat) (ws : List (BitVec 32)) : State :=
  let hdr : BitVec 32 := BitVec.ofNat 32 (2 ^ 31 + 2 ^ bit + 7 * 2 ^ 19)
  let l := (1#2 ++ hdr) :: (ws ++ List.replicate 7 0).map fun w => 0#2 ++ w
  let s := s.mapCore 0 Core.fetching
  let s := s.mapMem fun m => { m with imem := putWords m.imem (s.core 0).pc l }
  { s with agenda := [.issue 0] }

/-- A barrel operation as the next that core 0's barrel is offered, in thread 0, or in thread 7 for a privileged one. One that reaches
a scratchpad bank stands there as served. -/
def State.withBarrel (s : State) (w : BitVec 64) : State :=
  let t : BitVec 3 := if barPrivileged w then 7 else 0
  let pc := (s.thread 0 t).pc.toNat
  let line : ILine := { line := pc / 64, data := BitVec.ofNat 512 (w.toNat * 2 ^ (8 * (pc % 64))), poison := 0 }
  let s := s.mapCore 0 fun k => { k with frz := none, usedAt := 0, icache := [line] }
  let s := s.mapThread 0 t fun th => { th with st := .running, issued := none, post := none, retry := 0, last := 0 }
  let i : Nat := match (w.extractLsb' 62 2).toNat with
    | 1 => 2
    | 2 => 4
    | _ => 0
  match (barrelOp w).bind fun op => sends { s with cur := curThread 0 t.toNat i } 0 op with
  | none => { s with agenda := [.offer 0 i] }
  | some _ => { s.mapThread 0 t fun th => { th with issued := barrelOp w } with agenda := [.threads 0] }

/-- The instruction of a table word, placed where the next step fetches. -/
def State.withFetchWord (s : State) (nbits w : Nat) : State :=
  if nbits = 0 then s
  else if nbits ≤ 32 then s.withSlot (wordSlot (BitVec.ofNat 32 w)) [BitVec.ofNat 32 w]
  else match decodeBarrel (BitVec.ofNat 64 w) with
    | .ok _ => s.withBarrel (BitVec.ofNat 64 w)
    | .illegal _ => s.withSlot 28 [BitVec.ofNat 32 w, BitVec.ofNat 32 (w / 2 ^ 32)]

end Sys2Proof.Machine
end

