-- ==== Sys2Proof/Safety.lean ====
section
/-! DEFINITION. What a safe run is: every step answers a next state. No rule of the spec stops the device, so a run that meets no
refusal is safe. -/

namespace Sys2Proof.Machine

/-- The outcome is a next state. -/
def completes (o : Host.Outcome State Fault Refusal) : Bool :=
  match o with
  | .next _ => true
  | _ => false

/-- The outcome is a next state of which P holds. -/
def reaches (o : Host.Outcome State Fault Refusal) (P : State → Prop) : Prop := ∃ t, o = .next t ∧ P t

/-- The state after k steps, if every one of them answers a next state. -/
def runSteps : Nat → State → Option State
  | 0, s => some s
  | k + 1, s =>
    match step s with
    | .next t => runSteps k t
    | _ => none

/-- A run of k steps from s is safe. -/
def safeFor (k : Nat) (s : State) : Bool := (runSteps k s).isSome

/-- From s to t core c alone has changed, and of core c only the results on their way: new ones go to the flags or to a destination
that ok accepts. -/
def onlyResults (s t : State) (c : BitVec 10) (ok : Dest → Prop) : Prop :=
  (∀ d, d ≠ c → t.core d = s.core d) ∧ t.core c = { s.core c with pend := (t.core c).pend } ∧
    ∃ l, (t.core c).pend = (s.core c).pend ++ l ∧ ∀ e ∈ l, e.dest = .flags ∨ ok e.dest

/-- From s to t thread n of core c alone has changed: its PC stands at the next operation, and of its registers and flags only those
that ok and okF accept. -/
def onlyThread (s t : State) (c : BitVec 10) (n : BitVec 3) (ok okF : Nat → Prop) : Prop :=
  (∀ d, d ≠ c → t.core d = s.core d) ∧ t.core c = { s.core c with threads := (t.core c).threads } ∧
    (∀ m, m ≠ n → t.thread c m = s.thread c m) ∧
    t.thread c n = { s.thread c n with x := (t.thread c n).x, f := (t.thread c n).f, pc := (s.thread c n).pc + 8, st := .running,
                                       retry := 0, xfail := none, issued := none } ∧
    (∀ m, ¬ ok m → tabGet 0 (t.thread c n).x m = tabGet 0 (s.thread c n).x m) ∧
    (∀ m, ¬ okF m → (t.thread c n).f.getLsbD m = (s.thread c n).f.getLsbD m)

/-- The frame of an operation on registers alone, by either agent: it may change scalar register r and predicate or flag p, neither of
them a constant one, and a primary's sticky flags; all else, every byte of memory among it, is as before. -/
def scalarFrame (s t : State) (r : Option (BitVec 6)) (p : Option (BitVec 4)) : Prop :=
  t = { s with cores := t.cores } ∧
  match s.cur.agent with
  | .prim c => onlyResults s t c fun d =>
      (∃ n, r = some n ∧ n ≠ 0 ∧ d = .s (physS (s.core c) n.toNat)) ∨
      (∃ n, p = some n ∧ n ≠ 0 ∧ n ≠ 8 ∧ d = .q (physQ (s.core c) n.toNat))
  | .thread c n => onlyThread s t c n (fun m => m ≠ 0 ∧ r = some (BitVec.ofNat 6 m)) (fun m => m ≠ 0 ∧ p = some (BitVec.ofNat 4 m))

end Sys2Proof.Machine
end

