-- ==== Sys2Proof/Certificates/Slice0/Obligations.lean ====
section
/-! DEFINITION. The statements for the provers. Each says where its instructions complete with the effect the spec gives them, what
they leave alone, or what the machine as a whole keeps. -/

open Sys2Proof Sys2Proof.Machine

/-! ### Ownership, power, time and management (spec 01, 03) -/

/-- 03 R64, R65. The commands of OWNER.CMD by a claimant who may give them and whose path reaches the device, and the lapse of a handover. -/
def Obligations.OwnershipCommandsTakeEffect : Prop :=
  ∀ s : State, reachable s s.ev.who = true →
    (claimant s s.ev.who ≠ 0 → s.owner.holder = 0 → reaches (exec .claim s) fun t =>
      t = { s with owner := { s.owner with holder := claimant s s.ev.who, next := 0, handover := none, changes := s.owner.changes + 1 },
                   mgmt := t.mgmt }) ∧
    (claimant s s.ev.who ≠ 0 → s.owner.holder = claimant s s.ev.who → reaches (exec .release s) fun t =>
      t = { s with owner := { s.owner with holder := 0, next := 0, handover := none, changes := s.owner.changes + 1 }, mgmt := t.mgmt }) ∧
    (claimant s s.ev.who ≠ 0 → s.owner.holder = claimant s s.ev.who → s.owner.next ≠ 0 →
      exec .handover s = .next { s with owner := { s.owner with handover := some (s.time.now + 1000000000) } }) ∧
    (claimant s s.ev.who ≠ 0 → s.owner.next = claimant s s.ev.who → s.owner.handover.isSome = true → reaches (exec .accept s) fun t =>
      t = { s with owner := { s.owner with holder := claimant s s.ev.who, next := 0, handover := none, changes := s.owner.changes + 1 },
                   mgmt := t.mgmt }) ∧
    (∀ n, s.owner.handover = some n → n ≤ s.time.now →
      exec .handoverLapse s = .next { s with owner := { s.owner with next := 0, handover := none } })

/-- 01 R17, R18, R28; 03 R68, R74. Token pools, grants, the power cap, power gating and the loss of module power. The budget of a grant
write under a lower cap is a reading (log entry 76), and so is what a loss of power keeps (72). -/
def Obligations.PowerEventsTakeEffect : Prop :=
  ∀ s : State,
    ((∀ q < 4, hottest s q < 1840) → reaches (exec .tokenPeriodStart s) fun t =>
      ∀ n, t.cluster n = { s.cluster n with pool := (s.cluster n).grant.toNat, debit := [] }) ∧
    (∀ (n : BitVec 6) (v : BitVec 32), reachable s s.ev.who = true → isOwner s s.ev.who = true → s.ev.ix = n.toNat → s.ev.value = v.setWidth 64 →
      otherGrants s n + v.toNat ≤ 1300000000 → (s.cluster n).reserved ≤ v →
      exec .grantWrite s = .next (s.mapCluster n fun k => { k with grant := v })) ∧
    (600 ≤ s.ev.value.toNat → s.ev.value.toNat ≤ 1600 → reaches (exec .powerCap s) fun t => t.power.cap = s.ev.value.toNat ∧
      let top (n : BitVec 6) : Nat := max (capShare s.ev.value.toNat n.toNat) (s.cluster n).reserved.toNat
      let sum : Nat := (List.range 64).foldl (fun a i => a + top (BitVec.ofNat 6 i)) 0
      ∀ n, ((sum ≤ 1300000000 ∨ top n < (s.cluster n).grant.toNat) → (t.cluster n).grant = BitVec.ofNat 32 (top n)) ∧
        (top n ≤ (s.cluster n).grant.toNat ∨ (s.cluster n).grant ≤ (t.cluster n).grant) ∧ (t.cluster n).grant.toNat ≤ top n) ∧
    (isIdle s s.ev.core = true → (s.core s.ev.core).gate = .on → (s.core s.ev.core).idle + 64000 ≤ s.cycle →
      exec .gatingPrepare s = .next (s.mapCore s.ev.core fun k => { k with gate := .prepare (s.cycle + 16) })) ∧
    (isIdle s s.ev.core = true → (s.core s.ev.core).gate = .prepare s.cycle →
      exec .gatingCommit s = .next (s.mapCore s.ev.core fun k => { k with gate := .off })) ∧
    (∀ n, (s.core s.ev.core).gate = .ungating n → n ≤ s.cycle →
      exec .ungatingComplete s = .next (s.mapCore s.ev.core fun k => { k with gate := .on, idle := s.cycle + 1 })) ∧
    (reaches (exec .powerLoss s) fun t => t.power.on = false ∧
      (s.ev.flag = false → t.mgmt.copyA = s.mgmt.copyA ∧ t.mgmt.copyB = s.mgmt.copyB) ∧ t.mgmt.bank = s.mgmt.bank ∧ t.mem = Mem.reset ∧ t.cores = [])

/-- 01 R31-R33; 03 R79. Locks, losses and samples of time sources, and TIMECFG. What OFFSET holds after the first lock is the model's
reading (log entry 12). -/
def Obligations.TimeSourcesDisciplineNow : Prop :=
  ∀ s : State,
    (∀ n : BitVec 4, 1 ≤ n.toNat → n.toNat ≤ 3 → s.ev.ix = n.toNat → everLocked s.time = false →
      bestSource { s.time with avail := putField s.time.avail n.toNat 1 1 } = n → reaches (exec .timeSourceLock s) fun t =>
        t.time.locked = true ∧ t.time.source = n ∧
        (s.time.launched = false → t.time.now = s.ev.value ∧ t.time.stepped = true) ∧
        (s.time.launched = true → t.time.now = s.time.now ∧ t.time.offset = satOffset (s.ev.value - s.time.now).toInt)) ∧
    (∀ n : BitVec 4, 1 ≤ n.toNat → n.toNat ≤ 3 → s.ev.ix = n.toNat → everLocked s.time = true → s.time.source = n →
      reaches (exec .timeSourceLoss s) fun t => t.time.now = s.time.now ∧ t.time.slew = s.time.slew ∧
        t.time.source = bestSource { s.time with avail := putField s.time.avail n.toNat 1 0 } ∧
        t.time.holdover = decide (bestSource { s.time with avail := putField s.time.avail n.toNat 1 0 } = 0)) ∧
    (s.time.locked = true → s.time.source = BitVec.ofNat 4 s.ev.ix → reaches (exec .timeSourceSample s) fun t =>
      t.time.now = s.time.now ∧ t.time.offset = satOffset (s.ev.value - s.time.now).toInt) ∧
    (reachable s s.ev.who = true → isOwner s s.ev.who = true → ∀ a b c : BitVec 4, s.ev.value.extractLsb' 0 12 = c ++ b ++ a → a ≤ 3 → b ≤ 3 → c ≤ 3 →
      (a = 0 ∨ (a ≠ b ∧ a ≠ c)) → (b = 0 ∨ b ≠ c) → reaches (exec .timecfgWrite s) fun t =>
        t.time.first = a ∧ t.time.second = b ∧ t.time.third = c ∧ t.time.cfgLink = s.ev.value.extractLsb' 12 4 ∧
        (everLocked s.time = true → t.time.now = s.time.now))

/-- 03 R66, R67, R69, R71, R73, R76, R77, R79. Telemetry, firmware, boot marks, measurements, PLDM, trace rings and boot steps. The
numbers and contents of PLDM and SPDM requests are the model's choice (log entry 7), and SIZE has five bits (78). -/
def Obligations.ManagementEventsTakeEffect : Prop :=
  ∀ s : State,
    (s.ev.flag = false → reaches (exec .telemetryRefresh s) fun t => tabGet 0 t.mgmt.tel 0x3000 = s.time.now) ∧
    (s.ev.flag = true → reaches (exec .firmwareUpdate s) fun t =>
      tabGet none t.mgmt.nextBank s.ev.ix = some (!tabGet false s.mgmt.running s.ev.ix) ∧ t.mgmt.bank = s.mgmt.bank) ∧
    (reachable s s.ev.who = true → isOwner s s.ev.who = true → 1 ≤ s.ev.ix → s.ev.ix ≤ 9 → reaches (exec .clearBootMark s) fun t =>
      (bootEntry t s.ev.ix).mask = putField (bootEntry s s.ev.ix).mask s.ev.value.toNat 1 0) ∧
    (s.ev.who = .fn 0 → reachable s (.fn 0) = true → s.ev.flag = true → s.mgmt.aliasMade = true → s.mgmt.aliasUsed < 1048576 → exec .spdmRequest s = .next (answer (s.mapMgmt fun m =>
      { m with aliasUsed := m.aliasUsed + 1 }) (.measurement s.mgmt.aliasUsed))) ∧
    (s.ev.who = .fn 0 → reachable s (.fn 0) = true → s.ev.flag = true → (s.mgmt.aliasMade = false ∨ 1048576 ≤ s.mgmt.aliasUsed) → exec .spdmRequest s = .next (answer s .spdmError)) ∧
    (s.ev.flag = true → (s.ev.ix = 0 ∨ s.ev.ix = 2 ∨ s.ev.ix = 5) → exec .pldmBaseRequest s = .next (answer s .pldmBase)) ∧
    (¬(s.ev.ix = 0 ∨ s.ev.ix = 2 ∨ s.ev.ix = 5) → exec .pldmBaseRequest s = .next (answer s .pldmError)) ∧
    (reachable s s.ev.who = true → isOwner s s.ev.who = true → reaches (exec .tracebaseWrite s) fun t =>
      (t.traceQ (BitVec.ofNat 2 s.ev.ix)).base = BitVec.ofNat 52 (fieldOf s.ev.value 16 36 * 65536) ∧
      ((t.traceQ (BitVec.ofNat 2 s.ev.ix)).base ≠ (s.traceQ (BitVec.ofNat 2 s.ev.ix)).base →
        (t.traceQ (BitVec.ofNat 2 s.ev.ix)).head = 0)) ∧
    (reachable s s.ev.who = true → isOwner s s.ev.who = true → 16 ≤ fieldOf s.ev.value 0 5 → reaches (exec .tracecfgWrite s) fun t =>
      (t.traceQ (BitVec.ofNat 2 s.ev.ix)).size = s.ev.value.setWidth 5 ∧
      (t.traceQ (BitVec.ofNat 2 s.ev.ix)).en = s.ev.value.getLsbD 63 ∧ (t.traceQ (BitVec.ofNat 2 s.ev.ix)).stop = s.ev.value.getLsbD 8 ∧
      ((s.traceQ (BitVec.ofNat 2 s.ev.ix)).size ≠ s.ev.value.setWidth 5 → (t.traceQ (BitVec.ofNat 2 s.ev.ix)).head = 0)) ∧
    (1 ≤ s.mgmt.bootStep → s.mgmt.bootStep ≤ 9 → s.mgmt.bootStep ≠ 5 → s.mgmt.bootStep ≠ 7 → s.mgmt.stopped = false →
      s.mgmt.failReset = none → s.mgmt.alt = false → s.ev.outcome = .pass →
      (s.mgmt.bootStep = 1 → (bootEntry s 2).outcome ≠ .failed ∧ (bootEntry s 2).outcome ≠ .passedAlt) → reaches (exec .bootStep s) fun t =>
        (bootEntry t s.mgmt.bootStep).outcome = .passed)

/-! ### Contexts, the schedule and pre-emption (spec 04, 05) -/

/-- 03 R61; 04 R80, R82. CREATE, DESTROY, the end of a context, and functions. What CREATE keeps is a reading (log entry 61). -/
def Obligations.ContextEventsTakeEffect : Prop :=
  ∀ s : State,
    (reachable s s.ev.who = true → mayCommand s.ev.ctx s.ev.who = true → (s.ctx s.ev.ctx).st = .free →
      (s.ev.ctx.toNat ≤ 15 → s.sched.fnOn.getLsbD s.ev.ctx.toNat = true) → reaches (exec .create s) fun t =>
        (t.ctx s.ev.ctx).st = .active ∧ (t.ctx s.ev.ctx).aperbase = 0 ∧ (t.ctx s.ev.ctx).entryerr = 0 ∧
        (t.ctx s.ev.ctx).framedrop = 0 ∧ (t.ctx s.ev.ctx).evlost = 0) ∧
    (reachable s s.ev.who = true → mayCommand s.ev.ctx s.ev.who = true → (s.ctx s.ev.ctx).st ≠ .free → reaches (exec .destroy s) fun t =>
      (t.ctx s.ev.ctx).st = .stopping) ∧
    ((s.ctx s.ev.ctx).st = .stopping → (∀ e ∈ occList s, e.2.ctx ≠ s.ev.ctx) → openHals s s.ev.ctx = [] →
      reaches (exec .contextFree s) fun t => (t.ctx s.ev.ctx).st = .free) ∧
    (∀ n : BitVec 4, s.ev.ix = n.toNat → s.sched.fnOn.getLsbD n.toNat = false → (s.ctx (n.setWidth 6)).st = .free →
      reaches (exec .functionEnable s) fun t => t.sched.fnOn.getLsbD n.toNat = true ∧
        t.ctx (n.setWidth 6) = { Ctx.resetOf (n.setWidth 6) with st := .active }) ∧
    (∀ n : BitVec 4, n ≠ 0 → s.ev.ix = n.toNat → s.sched.fnOn.getLsbD n.toNat = true → reaches (exec .functionDisable s) fun t =>
      t.sched.fnOn.getLsbD n.toNat = false ∧ (t.ctx (n.setWidth 6)).st ≠ .active) ∧
    (∀ n : BitVec 4, s.ev.ix = n.toNat → reaches (exec .functionLevelReset s) fun t => t.mgmt.msixOn.getLsbD n.toNat = false ∧
      ∀ x : BitVec 6, (x = n.setWidth 6 ∨ (n = 0 ∧ 16 ≤ x.toNat)) → (t.ctx x).aperbase = 0 ∧ (t.ctx x).st ≠ .active)

/-- 04 R85-R89, R95, R97; 05 R104. Arming, preparation, loading, start and end of occurrences. -/
def Obligations.OccurrencesRunTheirCourse : Prop :=
  ∀ s : State,
    (∀ e : BitVec 12, s.ev.ix = e.toNat → entryValid s e = false →
      ((entryOf (armEntry s e) e).instant ≠ 0 → exec .validSet s = .next (armEntry s e)) ∧
      ((entryOf (armEntry s e) e).instant = 0 → exec .validSet s = .next (enqueueShared (armEntry s e) e))) ∧
    (∀ e : BitVec 12, s.ev.ix = e.toNat → entryValid s e = true → reaches (exec .validClear s) fun t => entryValid t e = false) ∧
    (∀ (e : BitVec 12) (n : Nat), s.ev.aux = 0 → s.ev.ix = e.toNat → prepDue s e = true →
      occInstant s e (tabGet 0 s.sched.nextOcc e.toNat) = some n → exec .preparationBegin s = .next
        (let t := beginTimed (addOcc s e (tabGet 0 s.sched.nextOcc e.toNat) false (BitVec.ofNat 64 n)).2 s.sched.nextOccId (postedLate s e n)
         if prepDue t e then t.pushEvents [(.preparationBegin, { ix := e.toNat })] else t)) ∧
    (s.ev.aux ≠ 0 → exec .preparationBegin s = .next (prepare s (s.ev.aux.toNat - 1))) ∧
    (∀ id o t, loaderOf s s.ev.core = some (id, o) → loadable s id s.ev.core = true →
      readImage s id o (fun l u => .ok (loadCore u id o s.ev.core l)) = .ok t → exec .imageLoad s = .next (t.mapOcc id (Occ.loaded s.ev.core))) ∧
    (∀ o, s.occ? s.ev.ix = some o → o.shared = false → startable s s.ev.ix o = true → o.instant ≤ s.time.now →
      exec .occurrenceStart s = .next (if s.owner.holder = 0 then refuseOcc s s.ev.ix 9 else startOcc s s.ev.ix o)) ∧
    (∀ o, s.occ? s.ev.ix = some o → o.shared = true → startable s s.ev.ix o = true →
      exec .sharedStart s = .next (if s.owner.holder = 0 then refuseOcc s s.ev.ix 9 else startOcc s s.ev.ix o)) ∧
    (∀ o, s.occ? s.ev.ix = some o → o.atInstant = false → o.instant ≤ s.time.now → o.phase ≠ .running →
      exec .occurrenceInstant s =
        .next (lateOcc (s.mapOcc s.ev.ix fun o => { o with atInstant := true }) s.ev.ix (lateReason s s.ev.ix o))) ∧
    (∀ o t u, s.occ? s.ev.ix = some o → ended s s.ev.ix o = true →
      parkOwned s ((s.sched.hals.filter fun e => e.2.owner = some s.ev.ix && e.2.st = .live).map fun e => e.1) = (some t, u) →
      exec .occurrenceEnd s = .next (closeOcc t s.ev.ix o o.status o.cause))

/-- 05 R115, R118, R121-R129. Rounds, stops, snapshots, restores and watchdogs. The cycles that a restore takes are the model's choice
(log entry 4), and so is the end of an occurrence whose image cannot be read (5). -/
def Obligations.PreemptionEventsTakeEffect : Prop :=
  ∀ s : State,
    (exec .roundStart s = .next (afterFree ((candidates { s with sched := { s.sched with credits := roundCredits s } }).foldl sharingPreempt
      { s with sched := { s.sched with credits := roundCredits s } }))) ∧
    (∀ o n, s.occ? s.ev.ix = some o → o.stopAt = some n → n ≤ s.cycle → exec .stopCycle s = .next (stopWhole s s.ev.ix o)) ∧
    (∀ o u n, s.occ? s.ev.ix = some o → o.stopAt = none → o.units = [u] → u.stage = .stopping n → n ≤ s.cycle →
      exec .stopCycle s = .next (stopUnit s s.ev.ix u)) ∧
    (∀ o, s.occ? s.ev.ix = some o →
      exec .snapshotComplete s = .next (afterFree ((o.units.filter (UnitStop.written s.cycle)).foldl (storeUnit s.ev.ix o) s))) ∧
    (s.ev.flag = true → exec .unitResume s = .next (prepare s s.ev.ix)) ∧
    (∀ o u c, s.ev.flag = false → s.occ? s.ev.ix = some o → s.ev.value = c.setWidth 64 → o.units = [u] → u.cores.contains c = true →
      u.stage = .chosen → reaches (exec .unitResume s) fun t => (t.occ? s.ev.ix).map (·.units) =
        some [{ u with stage := .restoring (s.cycle + snapshotTime u.cores) }]) ∧
    (∀ o u us t, s.occ? s.ev.ix = some o → o.units.filter (UnitStop.restored s.cycle) = u :: us →
      readImage s s.ev.ix o (fun l v => .ok (restoreUnits s.ev.ix o (u :: us) l v)) = .ok t → exec .restoreComplete s = .next t) ∧
    (∀ o, s.occ? s.ev.ix = some o → o.wdPre ≠ 0 → o.wdPre.toNat ≤ o.wdCount → o.wdDone % 2 = 0 → o.pclass ≠ 0 → o.wdPre ≠ o.wdKill →
      o.ending = false → reaches (exec .watchdogPreempt s) fun t =>
        t = (let s' := s.mapOcc s.ev.ix fun o => { o with wdDone := o.wdDone + 1 }
             if canPreempt s' o (unitsToStop s' s.ev.ix o o.coreList) then
               preemptUnits (wdRecord s' s.ev.ix o 0x20 o.queue) s.ev.ix (holdingUnits s' s.ev.ix o o.coreList) else s')) ∧
    (∀ o, s.occ? s.ev.ix = some o → o.wdKill ≠ 0 → o.wdKill.toNat ≤ o.wdCount → o.wdDone / 2 % 2 = 0 → exec .watchdogKill s =
      .next (killOccurrence (wdRecord (s.mapOcc s.ev.ix fun o => { o with wdDone := o.wdDone + 2 }) s.ev.ix o 0x21 o.queue) s.ev.ix .killed 0)) ∧
    (∀ o, s.occ? s.ev.ix = some o → o.wdFence ≠ 0 → o.wdFence.toNat ≤ o.wdCount → o.wdDone / 4 % 2 = 0 →
      exec .watchdogFence s = .next (fenceOcc s s.ev.ix o))

/-! ### The fabric (spec 07, 08) -/

/-- 07 R159. A beat that stands at a port moves by every entry that names it, or is discarded; one for a core reaches its buffer, where
its launch still holds the core, and is discarded elsewhere, as the model chooses (log entry 110). -/
def Obligations.MeshBeatMoves : Prop :=
  ∀ (s : State) (b : Beat) (rest : List Beat), takeFirst (fun b => b.at_ ≤ s.cycle) s.sched.beats = some (b, rest) →
    (b.port = 5 → (s.core (coreAt b.router b.core)).occ = some b.occ →
      exec .meshBeat s = .next (receiveBeat (s.mapSched fun m => { m with beats := rest }) (coreAt b.router b.core) b.ch b.val)) ∧
    (b.port = 5 → (s.core (coreAt b.router b.core)).occ ≠ some b.occ →
      exec .meshBeat s = .next (dropBeat (s.mapSched fun m => { m with beats := rest }) b.router.toNat)) ∧
    (b.port ≠ 5 → takers (s.mapSched fun m => { m with beats := rest }) b = [] →
      exec .meshBeat s = .next (dropBeat (s.mapSched fun m => { m with beats := rest }) b.router.toNat)) ∧
    (b.port ≠ 5 → takers (s.mapSched fun m => { m with beats := rest }) b ≠ [] →
      exec .meshBeat s = .next ((takers (s.mapSched fun m => { m with beats := rest }) b).foldl (fun s e => moveBeat s b e)
        (s.mapSched fun m => { m with beats := rest }))) ∧
    (∀ (id : Nat) (o : Occ) (r : Router) (e : RouterEntry), (id, o) ∈ occList s → o.router = some r → o.ownsPorts = true → e ∈ r.entries →
      takesBeat b (r.phaseAt s.cycle) e = true → e ∈ takers (s.mapSched fun m => { m with beats := rest }) b)

/-- 07 R163, R168-R170. Misses, page faults, their answers, invalidations and the responses of the dynamic network. -/
def Obligations.TranslationEventsTakeEffect : Prop :=
  ∀ s : State,
    (∀ (h : BitVec 8) k m, s.ev.ix = h.toNat → (s.slice h).misses = [(k, some m)] → m.stage = .held → (mailOf s h).length < 32 →
      reaches (exec .mailboxPost s) fun t => (tabGet none (t.slice h).misses k).map (·.stage) = some .posted ∧
        mailOf t h = mailOf s h ++ [{ slice := h, entry := BitVec.ofNat 6 k }]) ∧
    (∀ (h : BitVec 8) m, s.ev.ix = h.toNat → tabGet none (s.slice h).misses s.ev.value.toNat = some m → exec .pagefault s =
      .next (eventRecord (reportFault s h s.ev.value.toNat s.ev.flag) m.ctx 4 0x40 ((m.who :: m.also).findSome? (requesterOcc s))
        (payload2 (missPage m) (s.mem.nextFault.toNat + 2 ^ 16 * (if s.ev.flag then 2 else 1))))) ∧
    (∀ h e, (faultWaits s fun m => m.faultId.toNat = s.ev.value.toNat && m.deadline ≤ s.time.now) = [(h, e)] →
      exec .translationTimeout s = .next (failMiss s h e)) ∧
    (∀ h e, (faultWaits s fun m => m.ctx = s.ev.ctx && m.faultId.toNat = s.ev.value.toNat) = [(h, e)] →
      exec .xinvalResume s = .next (mapMiss s h e fun m => { m with stage := .held, deadline := 0 }) ∧
      exec .xinvalFail s = .next (failMiss s h e)) ∧
    (reaches (exec .invpage s) fun t => (t.ctx s.ev.ctx).busy = true ∧ (t.ctx s.ev.ctx).inval = some (1, s.ev.value.toNat)) ∧
    (reaches (exec .invhuge s) fun t => (t.ctx s.ev.ctx).busy = true ∧ (t.ctx s.ev.ctx).inval = some (2, s.ev.value.toNat)) ∧
    (reaches (exec .invall s) fun t => (t.ctx s.ev.ctx).busy = true ∧ (t.ctx s.ev.ctx).inval = some (3, 0)) ∧
    (∀ r, (s.ctx s.ev.ctx).inval = some r → reaches (exec .invalidationComplete s) fun t => (t.ctx s.ev.ctx).busy = false ∧
      (t.ctx s.ev.ctx).inval = none ∧ ∀ h, ∀ x ∈ (t.slice h).tlb, transIn r s.ev.ctx x = false) ∧
    (∀ (c : BitVec 10) (n : BitVec 3) line, s.ev.core = c → s.ev.thread = n.setWidth 4 → (s.thread c n).st = .response line →
      reaches (exec .sliceResponse s) fun t => (t.thread c n).st = .running)

/-- 07 R165, R166. Writes of domain registers and the completion of a domain change. When old homes have drained is a reading (log entry
74). -/
def Obligations.DomainEventsTakeEffect : Prop :=
  ∀ s : State,
    (∀ d : BitVec 6, reachable s s.ev.who = true → isOwner s s.ev.who = true → s.ev.ix = d.toNat →
      s.ev.value.extractLsb' 8 8 &&& (s.ev.value.extractLsb' 8 8 + 1) = 0 → s.ev.value.extractLsb' 0 8 &&& s.ev.value.extractLsb' 8 8 = 0 →
      reaches (exec .domcfgWrite s) fun t => (t.dom d.toNat).pending = true ∧ (t.dom d.toNat).base = (s.dom d.toNat).base ∧
        t.sched.domChanges = s.sched.domChanges ++ [.cfg d (s.ev.value.extractLsb' 0 8) (s.ev.value.extractLsb' 8 8)]) ∧
    (reachable s s.ev.who = true → s.ev.who = .fn (fnOf s.ev.ctx) → domselUsed s s.ev.ctx = false → reaches (exec .domselWrite s) fun t =>
      (t.ctx s.ev.ctx).domsel = putField s.ev.value 48 16 0) ∧
    (reachable s s.ev.who = true → s.ev.who = .fn (fnOf s.ev.ctx) → domselUsed s s.ev.ctx = true → reaches (exec .domselWrite s) fun t =>
      (t.ctx s.ev.ctx).domsel = (s.ctx s.ev.ctx).domsel ∧
      t.sched.domChanges = s.sched.domChanges ++ [.sel s.ev.ctx (putField s.ev.value 48 16 0)] ∧
      ∀ j < 8, fieldOf (s.ctx s.ev.ctx).domsel (6 * j) 6 ≠ fieldOf (putField s.ev.value 48 16 0) (6 * j) 6 →
        (t.dom (fieldOf (s.ctx s.ev.ctx).domsel (6 * j) 6)).pending = true) ∧
    (∀ (d : BitVec 6) b m r, s.sched.domChanges = .cfg d b m :: r → drained s (.cfg d b m) = true → reaches (exec .domainChangeComplete s)
      fun t => t.sched.domChanges = r ∧ (t.dom d.toNat).base = b ∧ (t.dom d.toNat).mask = m ∧ (r = [] → (t.dom d.toNat).pending = false)) ∧
    (∀ x v r, s.sched.domChanges = .sel x v :: r → drained s (.sel x v) = true → reaches (exec .domainChangeComplete s) fun t =>
      t.sched.domChanges = r ∧ (t.ctx x).domsel = v)

/-- 07 R179, R180; 08 R201, R208. Memory errors, revoked reservations and the sweep of race tags. -/
def Obligations.ErrorEventsTakeEffect : Prop :=
  ∀ s : State,
    (∀ c, coreOfSite s.ev.site = some c → reaches (exec .correctedError s) fun t => (t.core c).eccLeft = 25 ∧
      tabGet 0 t.mgmt.eccC (quadOfSite s.ev.site).toNat = tabGet 0 s.mgmt.eccC (quadOfSite s.ev.site).toNat + 1) ∧
    (coreOfSite s.ev.site = none → reaches (exec .correctedError s) fun t => t.cores = s.cores ∧
      tabGet 0 t.mgmt.eccC (quadOfSite s.ev.site).toNat = tabGet 0 s.mgmt.eccC (quadOfSite s.ev.site).toNat + 1) ∧
    ((s.core s.ev.core).eccLeft ≤ 1 → reaches (exec .eccFreezeEnd s) fun t => (t.core s.ev.core).eccLeft = 0) ∧
    (∀ c o, s.ev.site = .scratchpad c o → reaches (exec .uncorrectableError s) fun t =>
      tabGet false t.mem.spoison (spadWordKey c o.toNat) = true ∧
      tabGet 0 t.mgmt.eccU (quadOf c).toNat = tabGet 0 s.mgmt.eccU (quadOf c).toNat + 1) ∧
    (∀ p, s.ev.site = .memory p → reaches (exec .uncorrectableError s) fun t => tabGet false t.mem.poison (p.toNat / 8) = true) ∧
    (∀ c, s.ev.site = .core c → s.ev.flag = false → reaches (exec .uncorrectableError s) fun t =>
      tabGet false (t.core c).rpoison s.ev.ix = true) ∧
    (exec .reservationRevoke s = .next (mapQueue s s.ev.ix fun l => l.filter fun w => !revocable s w)) ∧
    (∀ n : BitVec 6, s.ev.ix = n.toNat → reaches (exec .raceTagSweep s) fun t => ∀ k, tabGet .none t.mem.stags k =
      if k / 262144 = n.toNat ∧ (tabGet .none s.mem.stags k).writer = s.ev.value.setWidth 8 ∧
        (tabGet 0 (s.cluster n).rel (s.ev.value.setWidth 8 : Byte).toNat - (tabGet .none s.mem.stags k).count).toNat > 16384 then .none
      else tabGet .none s.mem.stags k)

/-! ### Resets (spec 00, 01, 03) -/

/-- 01 R35; 03 R72-R74. What resets leave: cold, after a failed mandatory step, and warm. What resets keep beyond R35 is a reading (log
entries 71 and 72). -/
def Obligations.ResetsLeaveTheStatedState : Prop :=
  ∀ s : State,
    (reaches (exec .coldReset s) fun t => t.time = TimeBase.reset ∧ t.cores = [] ∧ t.power.cost = costReset ∧
      (∀ n, (t.cluster n).grant = 20312500 ∧ (t.cluster n).reserved = 0) ∧ (∀ c, (t.core c).gate = .on) ∧ t.sched = Sched.reset ∧
      t.mgmt.copyA = s.mgmt.copyA ∧ t.mgmt.copyB = s.mgmt.copyB) ∧
    (∀ n, s.mgmt.failReset = some n → exec .bootFailReset s = exec .coldReset s) ∧
    (s.power.on = true → reaches (exec .warmReset s) fun t => t.time.cycle = 0 ∧ t.cores = [] ∧ (∀ n, (t.cluster n).reserved = 0) ∧
      ((∀ dir, (s.halAt dir).st ≠ .live) → t.time.now = s.time.now ∧ t.power.cost = s.power.cost ∧ t.mem.spad = s.mem.spad ∧
        ∀ n, (t.cluster n).grant = (s.cluster n).grant))

/-! ### Frames and halyards (spec 04, 06) -/

/-- 04 R99; 06 R138, R140, R144. Submission of frames, the engine's handling of them, the playback cursor, the end of a cut. -/
def Obligations.HalyardEventsTakeEffect : Prop :=
  ∀ s : State,
    (∀ fn, s.ev.who = .fn fn → reachable s (.fn fn) = true → s.ev.ix < (if fn = 0 then 4096 else 256) →
      frameRefusal s (frameCtx fn (slotFrame s fn s.ev.ix)) (slotFrame s fn s.ev.ix) = 0 → reaches (exec .frameSubmit s) fun t =>
        let dir := 4096 * (frameCtx fn (slotFrame s fn s.ev.ix)).toNat + (frameHdr (slotFrame s fn s.ev.ix)).hal
        t = { s with sched := { s.sched with frameq := s.sched.frameq ++ [{
          dir := dir, bytes := BitVec.ofNat 2048 (slotFrame s fn s.ev.ix), at_ := s.time.now
          p := if (s.halAt dir).st = .live then some (s.halAt dir).p else none }] } }) ∧
    (∀ k e, frameAt s s.ev.ix = some e → (frameHdr e.bytes.toNat).kind = k → (s.halAt s.ev.ix).st = .live →
      halReady s s.ev.ix (frameAll s s.ev.ix e) = .ok →
      let t := takeFrame (halHold (s.mapSched fun m => { m with frameq := dropHead s.ev.ix m.frameq }) s.ev.ix (frameAll s s.ev.ix e)) s.ev.ix
        e.bytes.toNat e.at_.toNat e.p true
      (k = 1 → exec .mergeFrame s = .next t) ∧ (k = 2 → exec .cutFrame s = .next t) ∧ (k = 3 → exec .endFrame s = .next t)) ∧
    (∀ h, s.halAt s.ev.ix = h → mayPlay h = true → h.p + 1 = h.g →
      halReady s s.ev.ix (playNeeds s s.ev.ix) = .ok → playable s s.ev.ix s.now h.p.toNat = true →
      exec .playbackAdvance s =
        .next (raiseHal ((halHold s s.ev.ix (playNeeds s s.ev.ix)).mapHalKey s.ev.ix fun h => { h with p := h.p + 1 }) s.ev.ix 6)) ∧
    (∀ w, (s.halAt s.ev.ix).cut = some w → w.done ≤ s.cycle → reaches (exec .cutComplete s) fun t =>
      (t.halAt s.ev.ix).cut = some { w with ended := true })

/-! ### Cores between their operations (spec 05, 09, 10, 15, 16, 19) -/

/-- 09 R227-R232. Access traps, the timer, the taking of a user interrupt, and TRAPCTL. -/
def Obligations.TrapsAndInterruptsAreTaken : Prop :=
  ∀ (s : State) (c : BitVec 10), s.ev.core = c →
    (∀ t r, (s.core c).traps = t :: r → exec .accessTrap s = .next (takePrimTrap s c t)) ∧
    (timerDue s (s.core c) = true → c ∈ gangOf s c → reaches (exec .uiTimerFire s) fun t => (t.core c).uitime = 0 ∧
      ((s.core c).uiq.length < 16 → (t.core c).uiq = (s.core c).uiq ++ [uiCause 4 0 0 0])) ∧
    (∀ w, takable s [] c = some w → reaches (exec .userInterruptTake s) fun t => (t.core c).inui = true ∧ (t.core c).uicause = w ∧
      (t.core c).pc = (s.core c).uivec.setWidth 16 ∧ tabGet 0 (t.core c).sreg 71 = (s.core c).pc.setWidth 64 ∧
      (t.core c).uiq = dropCause (s.core c) (s.core c).uiq) ∧
    (s.ev.who = .fn (fnOf s.ev.ctx) → (heldAt s s.ev.ctx c).isSome = true → exec .trapctlResume s = .next (resumeHeld s c)) ∧
    (∀ id, s.ev.who = .fn (fnOf s.ev.ctx) → heldAt s s.ev.ctx c = some id →
      exec .trapctlKill s = .next (killOccurrence s id .killed 0))

/-- 05 R113; 09 R237; 15 R377; 16 R393, R403; 19 R468. Hoists, holds and the ends of waits. Which waits meet at a hoist is a reading (log
entry 33), and so is the decision of a PHASE (49). -/
def Obligations.HoldsAndWaitsEnd : Prop :=
  ∀ (s : State) (c : BitVec 10), s.ev.core = c →
    (∀ n, reachesHoist s [] c = true → (hdrHoist (wordOf (imemWord s c (s.core c).pc))).toNat = n → hoistBad s (hoistWait s c n) = false →
      (∀ a ∈ s.sched.hoists, hoistClash a (hoistWait s c n) = false ∧ hoistClash (hoistWait s c n) a = false) →
      reaches (exec .hoistArrival s) fun t => t.sched.hoists = s.sched.hoists ++ [hoistWait s c n] ∧ (t.core c).hoistHeld = some (n, 0)) ∧
    (∀ n, reachesHoist s [] c = true → (hdrHoist (wordOf (imemWord s c (s.core c).pc))).toNat = n → hoistBad s (hoistWait s c n) = true →
      exec .hoistArrival s = .next (((if splitsGang s (clusterOf c) (hoistWait s c n).cmask then s.sched.hoists.filter (hoistShares (hoistWait s c n))
        else []) ++ [hoistWait s c n]).foldl hoistTrap s)) ∧
    (∀ w n, (s.sched.hoists.find? fun h => h.core = c) = some w → hoistRelease s w = some n → n ≤ s.cycle →
      exec .hoistRelease s = .next (releaseGroup s w)) ∧
    (holdOver s (s.core c) = true → reaches (exec .holdRelease s) fun t => (t.core c).hold = none) ∧
    (∀ n m o st v tgt, (s.core c).hold = some (.phase 0 n m o) → isGuidon s c = true → phaseDecision s c = some (st, v, tgt) →
      reaches (exec .phaseHoldEnd s) fun t => (t.core c).hold = none ∧ (t.core c).stage = st ∧ (t.core c).variant = v ∧ (t.core c).pc = tgt) ∧
    (∀ (n : BitVec 3) g k l, s.ev.thread = n.setWidth 4 → (s.thread c n).st = .pwait g k l →
      (reaches (exec .pwaitWake s) fun t => (t.thread c n).st = .running ∧ (t.thread c n).lastRead = true) ∧
      (l = some 0 → reaches (exec .pwaitTimeout s) fun t => (t.thread c n).st = .running ∧ (t.thread c n).lastRead = true)) ∧
    (∀ p, s.ev.thread = 8 → (s.core c).pwait = some p →
      (s.ev.flag = true → exec .pwaitWake s = .next (s.setCore c (endPwait (s.core c) p))) ∧
      (p.left = some 0 → exec .pwaitTimeout s = .next (s.setCore c (endPwait (s.core c) p)))) ∧
    (∀ (n : BitVec 3) w, s.ev.thread = n.setWidth 4 → (s.thread c n).st = .sleep w → w ≤ s.time.now →
      reaches (exec .sleepExpiry s) fun t => (t.thread c n).st = .running)

/-- 10 R257, R261-R263. Frames are resumed, leave, arrive and are moored. -/
def Obligations.ThreadsResumeAndMigrate : Prop :=
  ∀ (s : State) (c : BitVec 10), s.ev.core = c →
    (∀ (n : BitVec 3) w, runsThreads s c = true → s.ev.thread = n.setWidth 4 → (s.thread c n).st = .resume w →
      exec .frameResume s = .next (loadFrame s c n.toNat w)) ∧
    (∀ k p r, runsThreads s c = true → s.ev.thread = 7 → (∀ w, (s.thread c 7).st ≠ .resume w) → freeSlot s c = some k → (s.core c).dock = p :: r →
      p.moored = false → exec .frameResume s = .next (resumePacket (s.mapCore c fun k => { k with dock := r }) c k p)) ∧
    (∀ k p r, runsThreads s c = true → s.ev.thread = 7 → (∀ w, (s.thread c 7).st ≠ .resume w) → freeSlot s c = some k → (s.core c).dock = [] →
      takeFirst Ready.visible (s.core c).readyq = some (p, r) →
      exec .frameResume s = .next (takePointer (s.mapCore c fun k => { k with readyq := r }) c k p.fp p.wake)) ∧
    (∀ (n : BitVec 3) o b x, s.ev.thread = n.setWidth 4 → (s.thread c n).st = .depart o b x →
      exec .migrationDeparture s = .next (departThread s c n o b x)) ∧
    (∀ p, tabGet none s.sched.packets s.ev.ix = some p → s.occ? p.occ = none → exec .migrationArrival s =
      .next (eventRecord (dropPacket s s.ev.ix) p.ctx 4 0x50 (some p.occ) (payload2 p.frame.toNat p.pc.toNat))) ∧
    (∀ p o k, tabGet none s.sched.packets s.ev.ix = some p → s.occ? p.occ = some o → o.ending = false →
      (s.core p.dest).occ = some p.occ → (s.core p.dest).run ≠ .preempted →
      (freeSlot s p.dest = some k → exec .migrationArrival s = .next (resumePacket (dropPacket s s.ev.ix) p.dest k p)) ∧
      (freeSlot s p.dest = none → (s.core p.dest).dock.length < 4 → exec .migrationArrival s =
        .next ((dropPacket s s.ev.ix).mapCore p.dest fun k => { k with dock := k.dock ++ [p] })) ∧
      (freeSlot s p.dest = none → 4 ≤ (s.core p.dest).dock.length → exec .migrationArrival s = .next (moorPacket s s.ev.ix p))) ∧
    (∀ l, moorDue s c = true → (frameLook s (.thread c 7) (ctxOfCore s c) (tabGet (0, 0) s.sched.moor (moorHere s c)).1.toNat
        .write (.moor (moorHere s c)) (tabGet false s.sched.moorFail (moorHere s c))) = l →
      ((∃ p, l = .spad p) ∨ ∃ x v e a, l = .glob x v e a) → exec .mooringMove s = .next (moveMoored (moorAwaits s (moorHere s c) false) c l))

/-! ### Links (spec 02) -/

/-- 02 R38, R39, R45, R46, R49-R53. Training, retraining, routes, stalled channels, timeouts and the NOW exchange of links. Which links a
stalled channel may stall is a reading (log entry 70). -/
def Obligations.LinkEventsTakeEffect : Prop :=
  ∀ (s : State) (n : BitVec 4), s.ev.ix = n.toNat →
    (∀ lanes peer, (s.link n).state = 1 → s.ev.train = .up lanes peer → (lanes = 8 ∨ lanes = 4 ∨ lanes = 2) →
      reaches (exec .linkTrainingDone s) fun t => (t.link n).lanes = lanes ∧ (t.link n).peer = peer ∧
        (t.link n).state = if lanes = 8 then 2 else 3) ∧
    ((s.link n).state = 1 → s.ev.train = .failed → reaches (exec .linkTrainingDone s) fun t => (t.link n).state = 0) ∧
    ((s.link n).isUp = true → reaches (exec .linkRetrain s) fun t => (t.link n).state = 1 ∧ (t.link n).trains = (s.link n).trains + 1) ∧
    (reachable s s.ev.who = true → isOwner s s.ev.who = true → reaches (exec .routeWrite s) fun t =>
      tabGet 0 t.links.routes n.toNat = s.ev.value.setWidth 8 &&& 0x8F) ∧
    (stalled s (s.link n) s.ev.aux.toNat = true → reaches (exec .routeStallDiscard s) fun t =>
      let kept := (s.link n).waiting.filter fun f => fVc f ≠ s.ev.aux.toNat
      kept <+: (t.link n).waiting ∧ ((∀ f ∈ (s.link n).waiting, fVc f = s.ev.aux.toNat → fKind f ≠ 7 ∨ isReport f = true ∨ fSrc f = s.links.devnum) →
        (t.link n).waiting = kept)) ∧
    (∀ r, (s.links.reqs.find? fun r => r.tag.toNat = s.ev.ix && overdue s r) = some r →
      exec .linkRequestTimeout s = .next (endRequest s r 0x67 [])) ∧
    (∀ f w, s.links.msgRetry = [(f, w)] → w ≤ s.time.now →
      exec .messageRetry s = .next (sendFlit { s with links := { s.links with msgRetry := [] } } f)) ∧
    ((s.link n).isUp = true → s.now % 65536 = 0 → reaches (exec .timeFlitSend s) fun t => (t.link n).uncorr = 0 ∧
      (t.link n).missed = min ((s.link n).missed + 1) 5 ∧ ((s.link n).hasCredit 0 = true → t.links.out.length = s.links.out.length + 1)) ∧
    (neighbourSilent s = true → exec .neighbourSourceLost s = .next (loseSource s 3))

/-- 02 R40-R43, R48-R50. A sound flit that arrives on a link is taken in: an unsequenced one for its header, and a sequenced one, next in
order and for this device, is acknowledged and performed. The layout of a MESSAGE is the model's choice (log entry 7). -/
def Obligations.FlitsAreTakenIn : Prop :=
  ∀ (s : State) (n : BitVec 4), s.ev.ix = n.toNat → (s.link n).isUp = true → s.ev.flag = false →
    (soundFlit s.ev.flit 0 = true → exec .idle s = .next (takeHeader s n s.ev.flit)) ∧
    (soundFlit s.ev.flit 9 = true → exec .linkctl s = .next (flushLink ((List.range 4).foldl (fun s v =>
      s.mapLink n fun l => l.addCredits v (fByte s.ev.flit (2 * v) 2)) (takeHeader s n s.ev.flit)) n)) ∧
    (soundFlit s.ev.flit 8 = true → reaches (exec .time s) fun t =>
      (t.link n).lastTime = some (BitVec.ofNat 64 (fByte s.ev.flit 0 8), s.time.now) ∧
      (fByte s.ev.flit 8 8 ≠ 2 ^ 64 - 1 ∨ fByte s.ev.flit 16 8 ≠ 2 ^ 64 - 1 → (t.link n).missed = 0)) ∧
    (fSeq s.ev.flit = ((takeHeader s n s.ev.flit).link n).lastSeq + 1 → fDst s.ev.flit = s.links.devnum →
      let t := acceptFlit (takeHeader s n s.ev.flit) n s.ev.flit
      (soundFlit s.ev.flit 1 = true → exec .read s = .next (serveRequest s.ev.flit t)) ∧
      (soundFlit s.ev.flit 3 = true → exec .write s = .next (serveRequest s.ev.flit t)) ∧
      (soundFlit s.ev.flit 5 = true → exec .atomic s = .next (serveRequest s.ev.flit t)) ∧
      (soundFlit s.ev.flit 2 = true → exec .readrsp s = .next (takeResponse s.ev.flit t)) ∧
      (soundFlit s.ev.flit 4 = true → exec .writeack s = .next (takeResponse s.ev.flit t)) ∧
      (soundFlit s.ev.flit 6 = true → exec .atomicrsp s = .next (takeResponse s.ev.flit t)) ∧
      (soundFlit s.ev.flit 7 = true → exec .message s = .next (takeMessage s.ev.flit t)))

/-! ### The host side (spec 03, 04) -/

/-- 03 R60, R62, R67; 04 R84. Accesses through BAR 4, register writes, schedule-table writes and sensor reads. The size of BAR 4 and the
accesses it takes are the model's choice, and so is the numbering of sensors (log entry 7). -/
def Obligations.HostAccessesArePerformed : Prop :=
  ∀ s : State,
    (∀ fn v bad t, s.ev.who = .fn fn → reachable s (.fn fn) = true → s.ev.ix = 0 → s.ev.value.toNat + hostSize s ≤ bar4Size s fn →
      barAccess s fn (freshWait s) ((s.ctx (fn.setWidth 6)).aperbase + s.ev.value).toNat (hostSize s) false s.ev.flag
        (s.ev.aux.toNat % 2 ^ (8 * hostSize s)) = .ok v bad t →
      reaches (exec .bar4Read s) fun u => u.mem = t.mem ∧ u.mgmt.answers = t.mgmt.answers ++
        [(t.mgmt.nextAnswer, if bad then .poisoned (BitVec.ofNat 64 v) else .data (BitVec.ofNat 64 v))]) ∧
    (∀ fn v bad t, s.ev.who = .fn fn → reachable s (.fn fn) = true → s.ev.ix = 0 → s.ev.value.toNat + hostSize s ≤ bar4Size s fn →
      barAccess s fn (freshWait s) ((s.ctx (fn.setWidth 6)).aperbase + s.ev.value).toNat (hostSize s) true s.ev.flag
        (s.ev.aux.toNat % 2 ^ (8 * hostSize s)) = .ok v bad t →
      reaches (exec .bar4Write s) fun u => u.mem = t.mem ∧ u.mgmt.answers = t.mgmt.answers) ∧
    (reachable s s.ev.who = true → s.ev.flag = false → s.ev.ix % 8 = 0 → s.ev.thread ≠ 4 →
      (∀ a, regPlace s.ev.who s.ev.ix = .admin a → exec .registerWrite s = .next (writeAdmin s s.ev.who a s.ev.value)) ∧
      (∀ x a n, regPlace s.ev.who s.ev.ix = .ctx x a → s.ev.who = .fn n → exec .registerWrite s = .next (writeCtx s n x a s.ev.value))) ∧
    (∀ (e : BitVec 12) k, s.ev.who = .fn 0 → reachable s (.fn 0) = true → s.ev.ix = 32 * e.toNat + k → 1 ≤ s.ev.aux.toNat →
      k + s.ev.aux.toNat ≤ 32 → entryValid s e = false → reaches (exec .scheduleEntryWrite s) fun t =>
        ∀ i < s.ev.aux.toNat, k + i ≠ 26 → tabGet 0 t.sched.table (s.ev.ix + i) = s.ev.data.extractLsb' (8 * i) 8) ∧
    (isSensor s.ev.ix = true → exec .pldmSensorRead s = .next (answer s (.sensor (tabGet 0 s.mgmt.tel s.ev.ix) (tabGet 0 s.mgmt.tel 0x3000))))

/-! ### Copy jobs (spec 19, 21) -/

/-- 19 R449-R451, R454; 21 R475. A job starts from its descriptor, moves its elements and finishes. Windows are not checked on the issuer
(log entry 10), and the cause of an address out of range is a reading (68). -/
def Obligations.CopyJobsAdvance : Prop :=
  ∀ (s : State) (cl : BitVec 6) (j : Nat), s.ev.ix = cl.toNat → s.ev.value.toNat = j →
    (∀ v t, jobStartable s ((s.cluster cl).job j) = true →
      descRead (takeIssue s cl j) cl j ((s.cluster cl).job j) = .ok v [] t →
      let y := { jobOfDesc ((t.cluster cl).job j) v with st := .running }
      (descBad (setJob t cl j y) cl y v = true → exec .copyJobStart s = .next (faultJob (setJob t cl j y) cl j 0x60 ((s.cluster cl).job j).desc)) ∧
      (descBad (setJob t cl j y) cl y v = false → y.total ≠ 0 → exec .copyJobStart s = .next (descAcquire (setJob t cl j y) cl j y)) ∧
      (descBad (setJob t cl j y) cl y v = false → y.total = 0 →
        exec .copyJobStart s = .next (finishJob (descAcquire (setJob t cl j y) cl j y) cl j .done))) ∧
    (∀ x v bad t, (s.cluster cl).job j = x → jobGoes x = true → x.peerBad = 0 → x.answer = none → x.skind = 0 →
      jobRead s cl j x (virtPlace s (elementAddr x.src Dim.sstr x) x.esize) x.esize = .ok v bad t →
      exec .copyElement s = .next (writeElement t cl j ((t.cluster cl).job j) v bad (elementAddr x.src Dim.sstr x))) ∧
    (∀ x v bad t, (s.cluster cl).job j = x → jobGoes x = true → x.peerBad = 0 → x.answer = none → x.skind = 1 →
      jobRead s cl j x (spadPlace s x (fieldOf x.control 4 2) (elementAddr x.src Dim.sstr x) x.esize) x.esize = .ok v bad t →
      exec .copyElement s = .next (writeElement t cl j ((t.cluster cl).job j) v bad (elementAddr x.src Dim.sstr x))) ∧
    (∀ x l, (s.cluster cl).job j = x → jobGoes x = true → x.peerBad = 0 → x.answer = some l → l ≠ [] →
      exec .copyElement s = .next (writeElement s cl j x (leNat l) [] (elementAddr x.src Dim.sstr x))) ∧
    (((s.cluster cl).job j).st = .running → ((s.cluster cl).job j).total ≤ ((s.cluster cl).job j).next →
      reaches (exec .copyJobFinish s) fun t => ((t.cluster cl).job j).st = .done)

/-! ### The S class (spec 15, 16) -/

/-- 15 R359, R361, R363. Sums, logic, shifts, minima and moves: the destination receives the value at its bound, whatever the second
operand's form. -/
def Obligations.IntegerOpsComplete : Prop :=
  ∀ (s t : State),
    (∀ f : AluForm, executes s f.g = true → cwReady s f.b = .ok t →
      let a := readR t f.a
      let b := readB t f.b
      let n := (b.setWidth 6).toNat
      exec (.add f) s = .next (finish (writeR t f.d (a + b) 1)) ∧
      exec (.sub f) s = .next (finish (writeR t f.d (a - b) 1)) ∧
      exec (.addw f) s = .next (finish (writeR t f.d (((a + b).setWidth 32).signExtend 64) 1)) ∧
      exec (.subw f) s = .next (finish (writeR t f.d (((a - b).setWidth 32).signExtend 64) 1)) ∧
      exec (.and f) s = .next (finish (writeR t f.d (a &&& b) 1)) ∧
      exec (.or f) s = .next (finish (writeR t f.d (a ||| b) 1)) ∧
      exec (.xor f) s = .next (finish (writeR t f.d (a ^^^ b) 1)) ∧
      exec (.andn f) s = .next (finish (writeR t f.d (a &&& ~~~b) 1)) ∧
      exec (.orn f) s = .next (finish (writeR t f.d (a ||| ~~~b) 1)) ∧
      exec (.shl f) s = .next (finish (writeR t f.d (a <<< n) 1)) ∧
      exec (.shr f) s = .next (finish (writeR t f.d (a >>> n) 1)) ∧
      exec (.sra f) s = .next (finish (writeR t f.d (a.sshiftRight n) 1)) ∧
      exec (.min f) s = .next (finish (writeR t f.d (if a.sle b then a else b) 1)) ∧
      exec (.max f) s = .next (finish (writeR t f.d (if a.sle b then b else a) 1)) ∧
      exec (.minn f) s = .next (finish (writeR t f.d (if a.ule b then a else b) 1)) ∧
      exec (.maxn f) s = .next (finish (writeR t f.d (if a.ule b then b else a) 1)) ∧
      exec (.lea f) s = .next (finish (writeR t f.d (a + b <<< 3) 1)) ∧
      exec (.mix f) s = .next (finish (writeR t f.d ((zeluaMix a b 0).setWidth 64) 3))) ∧
    (∀ f : LiForm, executes s f.g = true → cwReady s f.b = .ok t → exec (.li f) s = .next (finish (writeR t f.d (readB t f.b) 1))) ∧
    (∀ f : UnForm, executes s f.g = true →
      exec (.mov f) s = .next (finish (writeR s f.d (readR s f.a) 1)) ∧ exec (.movx f) s = .next (finish (writeR s f.d (readR s f.a) 2))) ∧
    (∀ f : TimeForm, executes s f.g = true →
      exec (.now f) s = .next (finish (writeR s f.d s.time.now 2)) ∧ exec (.cyc f) s = .next (finish (writeR s f.d s.time.cycle 2)))

/-- 15 R359, R360. Products and quotients in terms of Lean's own bit vectors: a product is the low or high half of the exact one; a
quotient truncates toward zero and never traps. -/
def Obligations.MultiplyAndDivideAreExact : Prop :=
  ∀ (s t : State) (f : AluForm), executes s f.g = true → cwReady s f.b = .ok t →
    let a := readR t f.a
    let b := readB t f.b
    exec (.mul f) s = .next (finish (writeR t f.d (a * b) 3)) ∧
    exec (.mulh f) s = .next (finish (writeR t f.d ((a.signExtend 128 * b.signExtend 128).extractLsb' 64 64) 3)) ∧
    exec (.mulhn f) s = .next (finish (writeR t f.d ((a.setWidth 128 * b.setWidth 128).extractLsb' 64 64) 3)) ∧
    exec (.div f) s = .next (finish (writeR t f.d (if b = 0 then BitVec.allOnes 64 else a.sdiv b) 16)) ∧
    exec (.divn f) s = .next (finish (writeR t f.d (if b = 0 then BitVec.allOnes 64 else a / b) 16)) ∧
    exec (.rem f) s = .next (finish (writeR t f.d (a.srem b) 16)) ∧
    exec (.remn f) s = .next (finish (writeR t f.d (a % b) 16))

/-- 15 R359, R361, R362. Rotations, counts, reversal, bit fields and extensions, bit by bit. -/
def Obligations.BitOpsComplete : Prop :=
  ∀ (s t : State),
    (∀ f : AluForm, executes s f.g = true → cwReady s f.b = .ok t →
      let a := readR t f.a
      let b := readB t f.b
      let p := (b.setWidth 6).toNat
      let n := min ((b >>> 6).setWidth 7).toNat (64 - p)
      let m := (b.setWidth 7).toNat
      exec (.rotr f) s = .next (finish (writeR t f.d (a.rotateRight p) 1)) ∧
      (∃ v : Word, exec (.extr f) s = .next (finish (writeR t f.d v 1)) ∧ ∀ i, v.getLsbD i = (decide (i < n) && a.getLsbD (p + i))) ∧
      (∃ v : Word, exec (.insr f) s = .next (finish (writeR t f.d v 1)) ∧ ∀ i < 64, v.getLsbD i =
        if p ≤ i ∧ i < p + n then a.getLsbD (i - p) else (readR t f.d).getLsbD i) ∧
      (∃ v : Word, exec (.sxt f) s = .next (finish (writeR t f.d v 1)) ∧ ∀ i < 64, v.getLsbD i =
        if m = 0 ∨ 64 ≤ m ∨ i < m then a.getLsbD i else a.getLsbD (m - 1)) ∧
      (∃ v : Word, exec (.zxt f) s = .next (finish (writeR t f.d v 1)) ∧ ∀ i < 64, v.getLsbD i =
        (decide (m = 0 ∨ 64 ≤ m ∨ i < m) && a.getLsbD i))) ∧
    (∀ f : UnForm, executes s f.g = true →
      let a := readR s f.a
      (∃ n : Nat, exec (.clz f) s = .next (finish (writeR s f.d (BitVec.ofNat 64 n) 1)) ∧ n ≤ 64 ∧
        (∀ i < n, a.getLsbD (63 - i) = false) ∧ (n < 64 → a.getLsbD (63 - n) = true)) ∧
      (∃ n : Nat, exec (.ctz f) s = .next (finish (writeR s f.d (BitVec.ofNat 64 n) 1)) ∧ n ≤ 64 ∧
        (∀ i < n, a.getLsbD i = false) ∧ (n < 64 → a.getLsbD n = true)) ∧
      exec (.popc f) s = .next (finish (writeR s f.d (BitVec.ofNat 64 (((List.range 64).filter fun i => a.getLsbD i).length)) 1)) ∧
      (∃ v : Word, exec (.brev f) s = .next (finish (writeR s f.d v 1)) ∧ ∀ i < 64, v.getLsbD i = a.getLsbD (63 - i)))

/-- 15 R364, R365, R367. Compares and operations on predicates. -/
def Obligations.PredicateOpsComplete : Prop :=
  ∀ (s t : State),
    (∀ f : CmpForm, executes s f.g = true → cwReady s f.b = .ok t →
      exec (.cmp f) s = .next (finish (writeP t f.d (cmpSigned f.cc (readR t f.a) (readB t f.b)) 1)) ∧
      exec (.cmpn f) s = .next (finish (writeP t f.d (cmpUnsigned f.cc (readR t f.a) (readB t f.b)) 1)) ∧
      exec (.fcmp f) s = .next (finish
        (raiseFlags (writeP t f.d (fCmp fmtF32 f.cc ((readR t f.a).toNat % 2 ^ 32) ((readB t f.b).toNat % 2 ^ 32)).1 4)
          (fCmp fmtF32 f.cc ((readR t f.a).toNat % 2 ^ 32) ((readB t f.b).toNat % 2 ^ 32)).2 4))) ∧
    (∀ f : PredForm, executes s f.g = true →
      exec (.pand f) s = .next (finish (writeP s f.d (readP s f.a && readP s f.b) 1)) ∧
      exec (.por f) s = .next (finish (writeP s f.d (readP s f.a || readP s f.b) 1)) ∧
      exec (.pxor f) s = .next (finish (writeP s f.d (readP s f.a != readP s f.b) 1))) ∧
    (∀ f : PredUnForm, executes s f.g = true →
      exec (.pnot f) s = .next (finish (writeP s f.d (!readP s f.a) 1)) ∧ exec (.pmov f) s = .next (finish (writeP s f.d (readP s f.a) 1))) ∧
    (∀ f : PSetForm, executes s f.g = true → exec (.pset f) s = .next (finish (writeP s f.d f.v 1)))

/-- 15 R366, R368. binary32 arithmetic and conversions on the low 32 bits of the operands, with one rounding to nearest even. -/
def Obligations.FloatOpsComplete : Prop :=
  ∀ (s t : State),
    (∀ f : AluForm, executes s f.g = true → cwReady s f.b = .ok t →
      let a := (readR t f.a).toNat % 2 ^ 32
      let b := (readB t f.b).toNat % 2 ^ 32
      exec (.fadd f) s = .next (finish (writeFloat t f.d (fAdd fmtF32 .rne a b) 4)) ∧
      exec (.fsub f) s = .next (finish (writeFloat t f.d (fSub fmtF32 .rne a b) 4)) ∧
      exec (.fmul f) s = .next (finish (writeFloat t f.d (fMul fmtF32 .rne a b) 4)) ∧
      exec (.ffma f) s = .next (finish (writeFloat t f.d (fFma fmtF32 .rne false a b ((readR t f.d).toNat % 2 ^ 32)) 4)) ∧
      exec (.fmin f) s = .next (finish (writeFloat t f.d (fMinMax fmtF32 false a b) 4)) ∧
      exec (.fmax f) s = .next (finish (writeFloat t f.d (fMinMax fmtF32 true a b) 4))) ∧
    (∀ f : UnForm, executes s f.g = true →
      let a := readR s f.a
      exec (.fcvtI2f f) s = .next (finish (writeFloat s f.d (fOfInt fmtF32 .rne a.toInt) 4)) ∧
      exec (.fcvtN2f f) s = .next (finish (writeFloat s f.d (fOfInt fmtF32 .rne a.toNat) 4)) ∧
      let i := fToInt fmtF32 .rne (-2 ^ 63) (2 ^ 63 - 1) (a.toNat % 2 ^ 32)
      let n := fToInt fmtF32 .rne 0 (2 ^ 64 - 1) (a.toNat % 2 ^ 32)
      exec (.fcvtF2i f) s = .next (finish (raiseFlags (writeR s f.d (BitVec.ofInt 64 i.1) 4) i.2 4)) ∧
      exec (.fcvtF2n f) s = .next (finish (raiseFlags (writeR s f.d (BitVec.ofInt 64 n.1) 4) n.2 4)) ∧
      -2 ^ 63 ≤ i.1 ∧ i.1 < 2 ^ 63 ∧ 0 ≤ n.1 ∧ n.1 < 2 ^ 64 ∧
      ((decodeF fmtF32 (a.toNat % 2 ^ 32)).isNan = true → i = (0, flNV) ∧ n = (0, flNV)))

/-- 15 R369; 16 R402; 09 R214. Control and hoist registers are read and written, with the traps of numbers that may not be. -/
def Obligations.ControlRegistersAreReadAndWritten : Prop :=
  ∀ s : State,
    (∀ f : CRegForm, cregKnown f.c.toNat = true → executes s f.g = true →
      exec (.mfc f) s = .next (finish (writeR s f.r (readCtl s f.c.toNat) 2))) ∧
    (∀ f : CRegForm, cregKnown f.c.toNat = false → exec (.mfc f) s = .next (takeTrap s { bundleTrap s .illop 0 with mask := trapMask s })) ∧
    (∀ (f : CRegForm) c, s.cur.agent = .prim c → cregRW f.c.toNat = true → executes s f.g = true →
      exec (.mtc f) s = .next (addPend s c (.creg f.c) ((readR s f.r).setWidth 2048) 2)) ∧
    (∀ (f : CRegForm) c, s.cur.agent = .prim c → 0x30 ≤ f.c.toNat → f.c.toNat ≤ 0x37 →
      exec (.mtc f) s = .next (takePrimTrap s c { bundleTrap s .priv (f.c.setWidth 64) with mask := trapMask s })) ∧
    (∀ (f : CRegForm) c n, s.cur.agent = .thread c n →
      exec (.mtc f) s = .next (takeTrap s { bundleTrap s .illop 0 with mask := trapMask s })) ∧
    (∀ (f : HoistForm) c, s.cur.agent = .prim c → executes s f.g = true →
      exec (.hset f) s = .next (addPend s c (.creg (0x800 + f.h.setWidth 12)) ((readR s f.r).setWidth 2048) 1) ∧
      exec (.hget f) s = .next (writeR s f.r (tabGet 0 (s.core c).hreg f.h.toNat) 2))

/-! ### The C class (spec 15, 18; 09) -/

/-- 15 R372, R373, R375, R376, R380. A transfer that executes outside a delay bundle sets its target, two delay bundles away; a loop is
armed or passed over. -/
def Obligations.TransfersComplete : Prop :=
  ∀ (s : State) (c : BitVec 10), s.cur.agent = .prim c → (s.core c).xfer = none →
    let go (t : State) (target : BitVec 16) (iret : Bool) : State :=
      t.mapCore c fun k => { k with xfer := some { target := target, left := 3, iret := iret } }
    (∀ f : OffForm, executes s f.g = true →
      exec (.br f) s = .next (go s (s.cur.pc + f.off.setWidth 16) false) ∧
      exec (.call f) s = .next (writeLink (go s (s.cur.pc + f.off.setWidth 16) false))) ∧
    (∀ f : RegForm, executes s f.g = true →
      exec (.bri f) s = .next (go s ((cOperand s f.r).setWidth 16) false) ∧
      exec (.calli f) s = .next (writeLink (go s ((cOperand s f.r).setWidth 16) false))) ∧
    (∀ f : NoneForm, executes s f.g = true → exec (.ret f) s = .next (go s ((lnOperand s).setWidth 16) false)) ∧
    (∀ f : NoneForm, executes s f.g = true → (s.core c).inui = true → exec (.iret f) s = .next (go s ((cOperand s 31).setWidth 16) true)) ∧
    (∀ f : NoneForm, executes s f.g = true → (s.core c).inui = false →
      exec (.iret f) s = .next (takePrimTrap s c { bundleTrap s .illop 0 with mask := trapMask s })) ∧
    (∀ f : LoopForm, executes s f.g = true → targetTrap s (s.cur.pc + f.e.setWidth 16) 1 = none → (s.cur.next - s.cur.pc).toNat ≤ f.e.toNat →
      exec (.loop f) s = .next (startLoop s f.l (f.n.setWidth 32) f.e)) ∧
    (∀ f : LoopxForm, executes s f.g = true → targetTrap s (s.cur.pc + f.e.setWidth 16) 1 = none → (s.cur.next - s.cur.pc).toNat ≤ f.e.toNat →
      exec (.loopx f) s = .next (startLoop s f.l ((cOperand s f.r).setWidth 32) f.e))

/-- 15 R377, R378, R380-R382; 18 R433, R436. Holds, HALT, interrupt enables, IFENCE, PHASE, metadata and format words. -/
def Obligations.ControlOpsComplete : Prop :=
  ∀ (s : State) (c : BitVec 10), s.cur.agent = .prim c →
    (∀ f : HoldForm, executes s f.g = true → isGuidon s c = true →
      exec (.holdcImm f) s = .next (s.mapCore c fun k => { k with hold := some (.runCount (f.n.setWidth 64)) })) ∧
    (∀ f : RegForm, executes s f.g = true → isGuidon s c = true →
      exec (.holdcReg f) s = .next (s.mapCore c fun k => { k with hold := some (.runCount (cOperand s f.r)) }) ∧
      exec (.holdu f) s = .next (s.mapCore c fun k => { k with hold := some (.instant (cOperand s f.r)) })) ∧
    (∀ f : NoneForm, executes s f.g = true →
      exec (.halt f) s = .next (s.mapCore c fun k => { k with bund := k.bund.map (fun b => { b with halt := true }), uiq := [], hold := none }) ∧
      exec (.uien f) s = .next (s.mapCore c fun k => { k with uie := true }) ∧
      exec (.uidis f) s = .next (s.mapCore c fun k => { k with uie := false }) ∧
      reaches (exec (.ifence f) s) fun t => (t.core c).imemOld = [] ∧ (isGuidon s c = true → (t.core c).hold = some (.fence 2))) ∧
    (∀ f : RegForm, executes s f.g = true → (s.core c).xfer = none → (s.core c).inui = false → exec (.phase f) s = .next (s.mapCore c fun k =>
      { k with hold := some (.phase 8 s.cur.next ((readR s f.r).setWidth 32) (watchedOccupancy s c)) })) ∧
    (∀ f : OffForm, executes s f.g = true → targetTrap s (s.cur.pc + f.off.setWidth 16) 2 = none →
      exec (.mseek f) s = .next (addPend s c .mpc ((s.cur.pc + f.off.setWidth 16).setWidth 2048) 1)) ∧
    (∀ f : SetfForm, executes s f.g = true →
      exec (.setfReg f) s = .next (addPend s c (.ft f.f) (((readR s f.r).setWidth 32).setWidth 2048) 1)) ∧
    (∀ f : SetfLitForm, executes s f.g = true → exec (.setfLit f) s = .next (addPend s c (.ft f.f) ((litWord s f.l.toNat).setWidth 2048) 1)) ∧
    (∀ f : RegForm, executes s f.g = true → (s.core c).inui = false →
      exec (.fmtReg f) s = .next (addPend s c (.creg 0x7FF) (((readR s f.r).setWidth 32).setWidth 2048) 1)) ∧
    (∀ f : FmtLitForm, executes s f.g = true → (s.core c).inui = false →
      exec (.fmtLit f) s = .next (addPend s c (.creg 0x7FF) ((litWord s f.l.toNat).setWidth 2048) 1))

/-- 15 R379; 09 R231. TRAP and BRK take their trap at their bundle: the trap registers hold the cause, the slot, the code and the word, and
no result of the operation follows. -/
def Obligations.TrapAndBrkTakeTheirTrap : Prop :=
  ∀ (s : State) (c : BitVec 10), s.cur.agent = .prim c →
    (∀ f : CodeForm, executes s f.g = true → exec (.trap f) s = .next (takePrimTrap s c
      { cause := .trap, mask := trapMask s, info := f.c.setWidth 64, addr := s.cur.pc.setWidth 64 })) ∧
    (∀ f : NoneForm, executes s f.g = true → exec (.brk f) s = .next (takePrimTrap s c
      { cause := .brk, mask := trapMask s, info := 0, addr := s.cur.pc.setWidth 64 })) ∧
    (∀ f : CodeForm, executes s f.g = false → exec (.trap f) s = .next s) ∧
    (∀ f : NoneForm, executes s f.g = false → exec (.brk f) s = .next s)

/-! ### The M class (spec 16) -/

/-- 16 R386, R388, R389; Table Mem.2. A primary's loads and stores that raise no issue trap go on their way to their banks, with the
operands read at issue and the destination's bound. -/
def Obligations.PrimaryLoadsAndStoresIssue : Prop :=
  ∀ (s : State) (c : BitVec 10), s.cur.agent = .prim c →
    (∀ (f : MemForm) (n : Nat), executes s f.g = true → memTrap s f n = none →
      let load (signed : Bool) : State := s.mapCore c fun k => { k with accs := k.accs ++
        [{ memAccess s f.mode (.load n signed) (bankDist f.mode) (loadBound f.mode) (effAddr s f) (piecesOf s f.mode (effAddr s f) n) with
           dest := destS s f.d }] }
      let store : State := s.mapCore c fun k => { k with accs := k.accs ++
        [{ memAccess s f.mode (.store n) (bankDist f.mode) 0 (effAddr s f) (piecesOf s f.mode (effAddr s f) n) with
           data := BitVec.ofNat 2048 ((readR s f.d).toNat % 2 ^ (8 * n)) }] }
      (n = 1 → exec (.ldb f) s = .next (load true) ∧ exec (.ldbn f) s = .next (load false) ∧ exec (.stb f) s = .next store) ∧
      (n = 2 → exec (.ldh f) s = .next (load true) ∧ exec (.ldhn f) s = .next (load false) ∧ exec (.sth f) s = .next store) ∧
      (n = 4 → exec (.ldw f) s = .next (load true) ∧ exec (.ldwn f) s = .next (load false) ∧ exec (.stw f) s = .next store) ∧
      (n = 8 → exec (.ldd f) s = .next (load false) ∧ exec (.std f) s = .next store)) ∧
    (∀ f : VMemForm, executes s f.g = true → vmemTrap s f = none →
      let ps := (vectorPieces s c f.mode (readR s f.a + readB s f.i)).getD []
      let puts (l : List Access) : State := s.mapCore c fun k => { k with accs := k.accs ++ l }
      let new (op : AccOp) (dist bound : Nat) (ps : List Piece) : Access := memAccess s f.mode op dist bound (readR s f.a + readB s f.i) ps
      (f.mode ≠ .weave →
        exec (.ldv f) s = .next (puts [{ new .ldv (bankDist f.mode) (ldvBound f.mode) ps with dest := some (.v f.v) }]) ∧
        exec (.stv f) s = .next (puts [{ new .stv (bankDist f.mode) 0 ps with data := readV s c f.v }])) ∧
      (f.mode = .weave →
        exec (.ldv f) s = .next (puts [new .ldv 4 9 (ps.take 16), { new .ldv 5 9 (ps.drop 16) with dest := some (.v f.v) }]) ∧
        exec (.stv f) s = .next (puts [{ new .stv 4 0 (ps.take 16) with data := readV s c f.v },
          { new .stv 5 0 (ps.drop 16) with data := readV s c f.v }]))) ∧
    (∀ f : GathForm, executes s f.g = true → gathTrap s f = none →
      let ps := (gatherLanes s c f.mode (readR s f.a) (readV s c f.vi)).getD []
      exec (.vgath f) s = .next (s.mapCore c fun k => { k with accs := k.accs ++
        [{ memAccess s f.mode (.gath (readV s c f.vi)) 4 9 (readR s f.a) ps with dest := some (.v f.v) }] }) ∧
      exec (.vscat f) s = .next (s.mapCore c fun k => { k with accs := k.accs ++
        [{ memAccess s f.mode (.scat (readV s c f.vi)) 4 0 (readR s f.a) ps with data := readV s c f.v }] }))

/-- 16 R392-R398; Table Mem.2, Table Mem.3. A primary's synchronising accesses and atomics that raise no issue trap go on their way to
their banks, release stores six active cycles away and the reads of SCH and of releasing atomics four, and FENCE joins them. -/
def Obligations.PrimarySyncAccessesIssue : Prop :=
  ∀ (s : State) (c : BitVec 10), s.cur.agent = .prim c →
    (∀ (f : MemForm), executes s f.g = true → memTrap s f 8 = none →
      let new (op : AccOp) (dist bound : Nat) : Access := memAccess s f.mode op dist bound (effAddr s f) (piecesOf s f.mode (effAddr s f) 8)
      let put (a : Access) : State := s.mapCore c fun k => { k with accs := k.accs ++ [a] }
      let data : Lanes := (readR s f.d).setWidth 2048
      let atom (op : AtomOp) : State := put { new (.atomic op f.ord) (if ordRel f.ord then 4 else bankDist f.mode) (atomBound f.mode) with
        dest := destS s f.d, data := data, data2 := readR s (f.d + 1) }
      exec (.lda f) s = .next (put { new .lda (bankDist f.mode) (loadBound f.mode) with dest := destS s f.d }) ∧
      exec (.strl f) s = .next (put { new .strl 6 0 with data := data }) ∧
      exec (.praise f) s = .next (put { new .praise 6 0 with data := data }) ∧
      exec (.ptest f) s = .next (put { new .ptest (bankDist f.mode) (loadBound f.mode) with dest := destS s f.d, pdest := destP s f.p }) ∧
      exec (.pwait f) s = .next (put { new (.pwait ((readR s f.d).setWidth 32)) (bankDist f.mode) (loadBound f.mode) with
        dest := destS s f.d, pdest := destP s f.p }) ∧
      exec (.lrw f) s = .next (put { new .lrw (bankDist f.mode) (atomBound f.mode) with dest := destS s f.d, pdest := destP s f.p }) ∧
      exec (.sch f) s = .next (put { new .sch 4 (atomBound f.mode) with pdest := destP s f.p, data := data }) ∧
      exec (.aadd f) s = .next (atom .add) ∧ exec (.aand f) s = .next (atom .and) ∧ exec (.aor f) s = .next (atom .or) ∧
      exec (.axor f) s = .next (atom .xor) ∧ exec (.amin f) s = .next (atom .min) ∧ exec (.amax f) s = .next (atom .max) ∧
      exec (.aminn f) s = .next (atom .minn) ∧ exec (.amaxn f) s = .next (atom .maxn) ∧ exec (.axch f) s = .next (atom .xch) ∧
      exec (.acas f) s = .next (atom .cas)) ∧
    (∀ f : FenceForm, executes s f.g = true → reaches (exec (.fence f) s) fun t => (t.core c).accs = (s.core c).accs ++
      (if ordAcq f.ord then [newAccess s (.fence true) (if ordRel f.ord then 6 else 4) 0 0 []] else []) ++
      (if ordRel f.ord then [newAccess s (.fence false) 6 0 0 []] else []))

/-- 16 R386, R390, R396; 09 R222. What a primary's access does at its bank once its checks pass: a store, a release store and the write of an atomic
or of an SCH write their bytes, little-endian, and no other byte of any scratchpad; a load and the read of an atomic change no byte; physical
memory is never touched. -/
def Obligations.AccessesChangeOnlyTheirBytes : Prop :=
  ∀ (s : State) (c : BitVec 10) (a : Access) (p : Piece), a.pieces = [p] → p.pos = 0 → p.off.toNat + p.len ≤ 1048576 →
    (∀ n, a.op = .store n → piecesFail s (.prim c) .write true false [p] = none → ∀ (o : BitVec 10) (i : Nat), i < 1048576 →
      spadByte (performMem s c a) o i =
        if o = p.core ∧ p.off.toNat ≤ i ∧ i < p.off.toNat + p.len then
          BitVec.ofNat 8 (a.data.toNat / 2 ^ (8 * (i - p.off.toNat))) else spadByte s o i) ∧
    (∀ n g, a.op = .load n g → (performMem s c a).mem.spad = s.mem.spad) ∧
    (a.op = .lda → (performMem s c a).mem.spad = s.mem.spad) ∧
    (∀ op ord, a.op = .atomic op ord → (performMem s c a).mem.spad = s.mem.spad) ∧
    (((a.op = .schWrite ∧ holds s (bankQueue p.core p.off.toNat) (spadWordKey p.core p.off.toNat) (.prim c) = true) ∨ (∃ rel, a.op = .atomWrite rel) ∨
        ((a.op = .strl ∨ a.op = .praise) ∧ piecesFail s (.prim c) .write false false [p] = none)) → p.len = 8 →
      ∀ (o : BitVec 10) (i : Nat), i < 1048576 → spadByte (performMem s c a) o i =
        if o = p.core ∧ p.off.toNat ≤ i ∧ i < p.off.toNat + 8 then BitVec.ofNat 8 (a.data.toNat / 2 ^ (8 * (i - p.off.toNat))) else spadByte s o i) ∧
    (∀ q, physByte (performMem s c a) q = physByte s q)

/-- 16 R386, R387; 10 R241, R260, R261. A barrel thread's load or store that passes its checks is performed at once: the register, the
bytes and the PC; an access to another cluster makes the thread depart to it. -/
def Obligations.ThreadLoadsAndStoresComplete : Prop :=
  ∀ (s : State) (c : BitVec 10) (n : BitVec 3) (f : MemForm) (w : Nat), s.cur.agent = .thread c n → executes s f.g = true →
    memTrap s f w = none →
    let loads (signed : Bool) (P : State → Prop) : Prop :=
      (w = 1 → signed = true → reaches (exec (.ldb f) s) P) ∧ (w = 1 → signed = false → reaches (exec (.ldbn f) s) P) ∧
      (w = 2 → signed = true → reaches (exec (.ldh f) s) P) ∧ (w = 2 → signed = false → reaches (exec (.ldhn f) s) P) ∧
      (w = 4 → signed = true → reaches (exec (.ldw f) s) P) ∧ (w = 4 → signed = false → reaches (exec (.ldwn f) s) P) ∧
      (w = 8 → signed = false → reaches (exec (.ldd f) s) P)
    let stores (P : State → Prop) : Prop :=
      (w = 1 → reaches (exec (.stb f) s) P) ∧ (w = 2 → reaches (exec (.sth f) s) P) ∧ (w = 4 → reaches (exec (.stw f) s) P) ∧
      (w = 8 → reaches (exec (.std f) s) P)
    (∀ p, placeOf s c f.mode (effAddr s f) w = .spad p →
      (∀ signed, pieceFail s (.thread c (n.setWidth 4)) .read true true p = none → loads signed fun t =>
        (f.d ≠ 0 → readX t c n f.d = extendLoad w signed (gatherPieces s [p])) ∧ (t.thread c n).pc = (s.thread c n).pc + 8 ∧
        t.mem.spad = s.mem.spad ∧ t.mem.phys = s.mem.phys) ∧
      (p.off.toNat + p.len ≤ 1048576 → p.pos = 0 → pieceFail s (.thread c (n.setWidth 4)) .write true false p = none → stores fun t =>
        (t.thread c n).pc = (s.thread c n).pc + 8 ∧ t.mem.phys = s.mem.phys ∧ ∀ (o : BitVec 10) (i : Nat), i < 1048576 →
          spadByte t o i = if o = p.core ∧ p.off.toNat ≤ i ∧ i < p.off.toNat + p.len then
            BitVec.ofNat 8 ((readX s c n f.d).toNat % 2 ^ (8 * w) / 2 ^ (8 * (i - p.off.toNat))) else spadByte s o i)) ∧
    (∀ o, placeOf s c f.mode (effAddr s f) w = .away o →
      (∀ signed, loads signed fun t => t = departTo s c n o false (readMask (f.a :: srcRegs f.i))) ∧
      stores fun t => t = departTo s c n o false (readMask (f.d :: f.a :: srcRegs f.i))) ∧
    ((∃ e, placeOf s c f.mode (effAddr s f) w = e ∧ e = .global) →
      (∀ signed v u, globLoad s c n (ctxOfThread s c n) (effAddr s f).toNat w = .ok v u →
        loads signed fun t => t = finish (writeX u c n f.d (extendLoad w signed v))) ∧
      (∀ v u, globStore s c n (ctxOfThread s c n) (effAddr s f).toNat w ((readX s c n f.d).toNat % 2 ^ (8 * w)) = .ok v u →
        stores fun t => t = finish u))

/-- 16 R392-R397; 08 R191, R206. A barrel thread's synchronising accesses and atomics on a scratchpad word, once their checks pass. -/
def Obligations.ThreadSyncAccessesComplete : Prop :=
  ∀ (s : State) (c : BitVec 10) (n : BitVec 3) (f : MemForm) (p : Piece), s.cur.agent = .thread c n → executes s f.g = true →
    memTrap s f 8 = none → placeOf s c f.mode (effAddr s f) 8 = .spad p →
    let a : Ag := .thread c (n.setWidth 4)
    let v := gatherPieces s [p]
    let acq (s : State) : State := threadAcquire s c (n.setWidth 4) f.scope.toNat p.words
    (pieceFail s a .read false true p = none →
      exec (.lda f) s = .next (finish (writeX (acq s) c n f.d (BitVec.ofNat 64 v))) ∧
      exec (.ptest f) s = .next (finish (writePCode (writeX (acq s) c n f.d (BitVec.ofNat 64 v)) f.p (v ≠ 0) 0)) ∧
      (v ≠ 0 ∨ (readX s c n f.d).setWidth 32 = (0 : Half) ∨ (s.thread c n).lastRead = true →
        exec (.pwait f) s = .next (finish (writePCode (writeX (acq s) c n f.d (BitVec.ofNat 64 v)) f.p (v ≠ 0) 0))) ∧
      (v = 0 → (readX s c n f.d).setWidth 32 ≠ (0 : Half) → (s.thread c n).lastRead = false → reaches (exec (.pwait f) s) fun t =>
        (t.thread c n).st = .pwait false (spadWordKey p.core p.off.toNat) (if (readX s c n f.d).setWidth 32 = BitVec.allOnes 32 then none
          else some ((readX s c n f.d).setWidth 32 : Half).toNat))) ∧
    (pieceFail s a .write false false p = none →
      exec (.strl f) s = .next (finish (syncWrite (threadRelease s c f.scope.toNat) a true f.scope.toNat (readX s c n f.d).toNat p)) ∧
      exec (.praise f) s = .next (finish (syncWrite (threadRelease s c f.scope.toNat) a true f.scope.toNat (readX s c n f.d).toNat p))) ∧
    (pieceFail s a .atomic false false p = none →
      (∀ t, (s.thread c n).st ≠ .lrw → p.poisoned t = false →
        joinQueue s (bankQueue p.core p.off.toNat) (spadWordKey p.core p.off.toNat) (.thread c n) = .held t → exec (.lrw f) s =
          .next (finish (writePCode (writeX (lrwAcquire t c n f.scope.toNat p.words) c n f.d (BitVec.ofNat 64 (gatherPieces t [p]))) f.p true 0))) ∧
      (holds s (bankQueue p.core p.off.toNat) (spadWordKey p.core p.off.toNat) (.thread c n) = false →
        exec (.sch f) s = .next (finish (writePCode s f.p false 0)))) ∧
    (pieceFail s a .atomic false true p = none → f.ord = .rlx →
      let atom (op : AtomOp) : State := finish (writeX (match atomResult op (BitVec.ofNat 64 v) (readX s c n f.d) (readX s c n (f.d + 1)) with
        | some w => syncWrite (noteRead s a p.words) a false f.scope.toNat w.toNat p
        | none => noteRead s a p.words) c n f.d (BitVec.ofNat 64 v))
      exec (.aadd f) s = .next (atom .add) ∧ exec (.aand f) s = .next (atom .and) ∧ exec (.aor f) s = .next (atom .or) ∧
      exec (.axor f) s = .next (atom .xor) ∧ exec (.amin f) s = .next (atom .min) ∧ exec (.amax f) s = .next (atom .max) ∧
      exec (.aminn f) s = .next (atom .minn) ∧ exec (.amaxn f) s = .next (atom .maxn) ∧ exec (.axch f) s = .next (atom .xch) ∧
      exec (.acas f) s = .next (atom .cas))

/-- 16 R398-R401; 10 R264. A thread's FENCE, cache maintenance, and the service thread's PLD and STT; outside thread 7 these two take PRIV. -/
def Obligations.CacheAndServiceOpsComplete : Prop :=
  ∀ (s : State) (c : BitVec 10) (n : BitVec 3), s.cur.agent = .thread c n →
    (∀ f : FenceForm, executes s f.g = true → f.ord = .rlx → exec (.fence f) s = .next (finish s)) ∧
    (∀ f : FenceForm, executes s f.g = true → f.ord = .rel → exec (.fence f) s =
      .next (finish (fenceRelease (threadRelease s c f.scope.toNat) (.thread c (n.setWidth 4)) f.scope.toNat))) ∧
    (∀ f : MemForm, executes s f.g = true → (effAddr s f).toNat < 2 ^ 57 → inAperture (effAddr s f).toNat = false →
      (∀ d, dcFind (s.core c) (effAddr s f).toNat = some d → exec (.cflush f) s = .next (finish (setDcache (writeBackLine s c d) c
        (mapIf (fun e => e.vline = d.vline) DLine.cleaned (s.core c).dcache)))) ∧
      exec (.cinv f) s = .next (finish (dcDrop s c (effAddr s f).toNat)) ∧
      (∀ leaf r pa, dcFind (s.core c) (effAddr s f).toNat = none → look s (ctxOfThread s c n) (effAddr s f).toNat .read = .hit leaf r pa →
        pteUncached leaf = false → fillHeld s (ctxOfThread s c n) leaf (effAddr s f).toNat pa 1 = false → exec (.cpre f) s = .next (finish (dcFill s c (ctxOfThread s c n) (effAddr s f).toNat leaf pa)))) ∧
    (∀ f : MemForm, n = 7 → executes s f.g = true → (effAddr s f).toNat < 2 ^ 52 → (effAddr s f).toNat % 8 = 0 →
      exec (.pld f) s = .next (finish (writeX (threadAcquire
        (if dramPoisoned s (effAddr s f).toNat then countUncorr s (quadOf c) else s) c 7 4 (physKeys (effAddr s f).toNat 8)) c n f.d (pldWord s (effAddr s f).toNat)))) ∧
    (∀ f : MemForm, n = 7 → executes s f.g = true → sttOk s (readR s f.d) (readR s f.a) (readB s f.i) = true → exec (.stt f) s =
      .next (finish (installLeaf s ((readB s f.i).setWidth 8) ((readR s f.a).setWidth 6) (fieldOf (readR s f.a) 16 41) ((readR s f.a).getLsbD 10)
        (readR s f.d) (fieldOf (readB s f.i) 16 16)))) ∧
    (∀ f : MemForm, n ≠ 7 → exec (.pld f) s = .next (takeThreadTrap s c n .priv 0) ∧ exec (.stt f) s = .next (takeThreadTrap s c n .priv 0))

/-! ### The V class (spec 17) -/

/-- 17 R405, R410, R411, R413. Element arithmetic of two and three sources, as each type has it: wrapped integers, or one rounding under
the V extension's rounding. -/
def Obligations.VectorArithmeticCompletes : Prop :=
  ∀ (s : State) (c : BitVec 10) (f : VForm), s.cur.agent = .prim c → executes s f.g = true →
    let a (i h : Nat) : Nat := elemOf f.t (laneOf (readV s c f.a) i) h
    let b (i h : Nat) : Nat := elemOf f.t (laneOf (readV s c f.b) i) h
    let d (i h : Nat) : Nat := elemOf f.t (laneOf (readV s c f.d) i) h
    let x (i h : Nat) : Int := elemInt f.t (a i h)
    let y (i h : Nat) : Int := elemInt f.t (b i h)
    let ints (bound : Nat) (v : Nat → Nat → Int) : State := writeElems s f.d f.m f.t (fun i h => (elemWrap f.t (v i h), 0)) bound
    let floats (bound : Nat) (v : Nat → Nat → FRes2) : State := writeElems s f.d f.m f.t v bound
    let w := elemWidth f.t
    (intType f.t = true →
      exec (.vadd f) s = .next (ints 2 fun i h => x i h + y i h) ∧ exec (.vsub f) s = .next (ints 2 fun i h => x i h - y i h) ∧
      exec (.vmul f) s = .next (ints 3 fun i h => x i h * y i h) ∧ exec (.vmulh f) s = .next (ints 3 fun i h => x i h * y i h / 2 ^ w) ∧
      exec (.vmin f) s = .next (ints 2 fun i h => min (x i h) (y i h)) ∧ exec (.vmax f) s = .next (ints 2 fun i h => max (x i h) (y i h)) ∧
      exec (.vshl f) s = .next (ints 2 fun i h => a i h * 2 ^ (b i h % w)) ∧
      exec (.vshr f) s = .next (ints 2 fun i h => (a i h / 2 ^ (b i h % w) : Nat)) ∧
      exec (.vsra f) s = .next (ints 2 fun i h => signedOf w (a i h) / 2 ^ (b i h % w))) ∧
    (intType f.t = false → vext s >>> 2 = 0 →
      exec (.vadd f) s = .next (floats 4 fun i h => fAdd (vfmt f.t) (extRnd s) (a i h) (b i h)) ∧
      exec (.vsub f) s = .next (floats 4 fun i h => fSub (vfmt f.t) (extRnd s) (a i h) (b i h)) ∧
      exec (.vmul f) s = .next (floats 4 fun i h => fMul (vfmt f.t) (extRnd s) (a i h) (b i h)) ∧
      exec (.vfma f) s = .next (floats 4 fun i h => fFma (vfmt f.t) (extRnd s) false (a i h) (b i h) (d i h)) ∧
      exec (.vfms f) s = .next (floats 4 fun i h => fFma (vfmt f.t) (extRnd s) true (a i h) (b i h) (d i h)) ∧
      exec (.vmin f) s = .next (floats 2 fun i h => fMinMax (vfmt f.t) false (a i h) (b i h)) ∧
      exec (.vmax f) s = .next (floats 2 fun i h => fMinMax (vfmt f.t) true (a i h) (b i h)))

/-- 17 R405, R406, R410, R412, R413, R417. Operations on the lanes of type i32, in terms of Lean's own bit vectors, lane by lane; an
inactive lane keeps what vd held at issue. -/
def Obligations.WordLanesAreExact : Prop :=
  ∀ (s : State) (c : BitVec 10) (f : VForm) (g : V1Form), s.cur.agent = .prim c → executes s f.g = true → executes s g.g = true →
    f.t = .i32 → g.t = .i32 →
    let lanes (i : Instr) (d : BitVec 5) (m : BitVec 3) (bound : Nat) (v : Nat → Half) : Prop :=
      ∃ r : Lanes, exec i s = .next (writeV s c d r bound) ∧
        ∀ k < 64, laneOf r k = if (readM s c m).getLsbD k then v k else laneOf (readV s c d) k
    let a (k : Nat) : Half := laneOf (readV s c f.a) k
    let b (k : Nat) : Half := laneOf (readV s c f.b) k
    let n (k : Nat) : Nat := (b k).toNat % 32
    let x (k : Nat) : Half := laneOf (readV s c g.a) k
    lanes (.vadd f) f.d f.m 2 (fun k => a k + b k) ∧ lanes (.vsub f) f.d f.m 2 (fun k => a k - b k) ∧
    lanes (.vmul f) f.d f.m 3 (fun k => a k * b k) ∧
    lanes (.vmulh f) f.d f.m 3 (fun k => ((a k).signExtend 64 * (b k).signExtend 64).extractLsb' 32 32) ∧
    lanes (.vmin f) f.d f.m 2 (fun k => if (a k).sle (b k) then a k else b k) ∧
    lanes (.vmax f) f.d f.m 2 (fun k => if (a k).sle (b k) then b k else a k) ∧
    lanes (.vand f) f.d f.m 2 (fun k => a k &&& b k) ∧ lanes (.vor f) f.d f.m 2 (fun k => a k ||| b k) ∧
    lanes (.vxor f) f.d f.m 2 (fun k => a k ^^^ b k) ∧ lanes (.vshl f) f.d f.m 2 (fun k => a k <<< n k) ∧
    lanes (.vshr f) f.d f.m 2 (fun k => a k >>> n k) ∧ lanes (.vsra f) f.d f.m 2 (fun k => (a k).sshiftRight (n k)) ∧
    lanes (.vnot g) g.d g.m 2 (fun k => ~~~ x k) ∧ lanes (.vneg g) g.d g.m 2 (fun k => - x k) ∧
    lanes (.vabs g) g.d g.m 2 (fun k => if (x k).slt 0 then - x k else x k)

/-- 17 R412, R414-R421. One-source operations, lane logic, compares, select, conversions and the correctly rounded functions. -/
def Obligations.VectorConversionsAndComparesComplete : Prop :=
  ∀ (s : State) (c : BitVec 10), s.cur.agent = .prim c →
    (∀ f : V1Form, executes s f.g = true →
      let put (v : Nat → Nat) : State := writeElems s f.d f.m f.t (fun i h => (v (elemOf f.t (laneOf (readV s c f.a) i) h), 0)) 2
      let fmt := vfmt f.t
      exec (.vnot f) s = .next (put fun x => 2 ^ elemWidth f.t - 1 - x) ∧
      (intType f.t = true → exec (.vabs f) s = .next (put fun x => elemWrap f.t (elemInt f.t x).natAbs) ∧
        exec (.vneg f) s = .next (put fun x => elemWrap f.t (-elemInt f.t x))) ∧
      (intType f.t = false →
        exec (.vabs f) s = .next (put fun x => if (decodeF fmt x).isNan then fmt.nanBits else x % fmt.signBit) ∧
        exec (.vneg f) s = .next (put fun x => if (decodeF fmt x).isNan then fmt.nanBits else x ^^^ fmt.signBit))) ∧
    (∀ f : VForm, executes s f.g = true →
      let lanes (v : Nat → Half) : State := writeLanes s f.d (fun i => (readM s c f.m).getLsbD i) v 2
      exec (.vand f) s = .next (lanes fun i => laneOf (readV s c f.a) i &&& laneOf (readV s c f.b) i) ∧
      exec (.vor f) s = .next (lanes fun i => laneOf (readV s c f.a) i ||| laneOf (readV s c f.b) i) ∧
      exec (.vxor f) s = .next (lanes fun i => laneOf (readV s c f.a) i ^^^ laneOf (readV s c f.b) i) ∧
      (∃ r : Lanes, exec (.vsel f) s = .next (writeV s c f.d r 2) ∧ ∀ i < 64, laneOf r i =
        if (readM s c f.m).getLsbD i then laneOf (readV s c f.a) i else laneOf (readV s c f.b) i)) ∧
    (∀ f : VCmpForm, executes s f.g = true →
      let a (i h : Nat) : Nat := elemOf f.t (laneOf (readV s c f.a) i) h
      let b (i h : Nat) : Nat := elemOf f.t (laneOf (readV s c f.b) i) h
      let all (ok : Nat → Nat → Bool) (k : Nat) : Bool := (readM s c f.m).getLsbD k && (List.range (elems f.t)).all fun h => ok (a k h) (b k h)
      (∃ r : Word, exec (.vcmpx f) s = .next (writeM s c f.n r 2) ∧
        ∀ k < 64, r.getLsbD k = all (fun x y => condInt f.cc (orderKey f.t x) (orderKey f.t y)) k) ∧
      (intType f.t = true → ∃ r : Word, exec (.vcmp f) s = .next (writeM s c f.n r 2) ∧
        ∀ k < 64, r.getLsbD k = all (fun x y => condInt f.cc (elemInt f.t x) (elemInt f.t y)) k) ∧
      (intType f.t = false → ∃ (r : Word) (v : BitVec 5), exec (.vcmp f) s = .next (raiseFlags (writeM s c f.n r 2) v 2) ∧
        ∀ k < 64, r.getLsbD k = all (fun x y => (fCmp (vfmt f.t) f.cc x y).1) k)) ∧
    (∀ f : VCvtForm, executes s f.g = true → exec (.vcvt f) s =
      .next (writeElems s f.d f.m f.t (fun i h => convert f.s f.t f.r (elemOf f.s (laneOf (readV s c f.a) i) h)) 3)) ∧
    (∀ f : VForm, executes s f.g = true → packTrap s f = none → exec (.vpack f) s = .next (writeElems s f.d f.m (extType s) (fun i h =>
      packElem f.t (extType s) ((vext s).getLsbD 2) (extRnd s)
        (if h < elems f.t then elemOf f.t (laneOf (readV s c f.a) i) h else elemOf f.t (laneOf (readV s c f.b) i) (h - elems f.t))) 3)) ∧
    (∀ f : VUnpkForm, executes s f.g = true →
      let half (p i h : Nat) : FRes2 := unpackElem f.t f.u (elemOf f.t (laneOf (readV s c f.a) i) (elems f.u * p + h))
      elems f.t = 2 * elems f.u → exec (.vunpk f) s = .next (writeElems (writeElems s f.d f.m f.u (half 0) 3) (f.d + 1) f.m f.u (half 1) 3)) ∧
    (∀ f : VQdecForm, executes s f.g = true → ∃ r : Lanes, exec (.vqdec f) s = .next (writeV s c f.d r 2) ∧
      ∀ i < 64, (readM s c f.m).getLsbD i = true →
        (laneOf r i).toInt = (if f.book then levelsL else levelsN).getD (fieldOf (laneOf (readV s c f.a) (i / 8)) (4 * (i % 8)) 4) 0) ∧
    (∀ f : VRndForm, executes s f.g = true →
      let put (op : Rnd → Nat → FRes2) : State := writeElems s f.d f.m .f32 (fun i _ => op f.r (laneOf (readV s c f.a) i).toNat) 8
      exec (.vexp2 f) s = .next (put fExp2) ∧ exec (.vlog2 f) s = .next (put fLog2) ∧ exec (.vrcp f) s = .next (put fRcp) ∧
      exec (.vrsq f) s = .next (put fRsq) ∧ exec (.vsqrt f) s = .next (put fSqrt))

/-- 17 R422-R431. Reductions, scans, lane moves, random numbers, indices and lane masks. -/
def Obligations.VectorMovesAndReductionsComplete : Prop :=
  ∀ (s : State) (c : BitVec 10), s.cur.agent = .prim c →
    let lanes (d : BitVec 5) (m : BitVec 3) (v : Nat → Half) (bound : Nat) : State :=
      writeLanes s d (fun i => (readM s c m).getLsbD i) v bound
    (∀ f : VRedForm, executes s f.g = true →
      exec (.vred f) s = .next (raiseFlags
        (writeLanes s f.d (fun i => i = 0) (fun _ => joinElems f.t fun h => (redTree s f h).1.getD (redIdent f.t f.x)) 6)
        (orFlags ((List.range (elems f.t)).map fun h => (redTree s f h).2)) 6) ∧
      (intType f.t = true → exec (.vscan f) s = .next (lanes f.d f.m (fun i => joinElems f.t fun h =>
        ((((List.range (i + 1)).filter fun k => (readM s c f.m).getLsbD k).map fun k => elemOf f.t (laneOf (readV s c f.a) k) h).foldl
          (fun (o : Option Nat) y => match o with
            | none => some y
            | some x => some (redInt f.t f.x x y)) none).getD 0) 6)) ∧
      let prefixes (h i : Nat) : Option Nat × BitVec 5 := ((redInput s f h).take (i + 1)).foldl (comb f.t f.x f.r) (none, 0)
      exec (.vscan f) s = .next (raiseFlags (lanes f.d f.m (fun i => joinElems f.t fun h => (prefixes h i).1.getD 0) 6)
        (orFlags ((List.range (elems f.t)).map fun h => (prefixes h 63).2)) 6)) ∧
    (∀ f : V1Form, executes s f.g = true →
      let x (i h : Nat) : Nat := elemOf f.t (laneOf (readV s c f.a) i) h
      let key (i h : Nat) : Int := orderKey f.t (x i h)
      let best (k h : Nat) : Prop := (readM s c f.m).getLsbD k = true ∧ ∀ i < 64, (readM s c f.m).getLsbD i = true → ∀ j < elems f.t,
        key i j ≤ key k h ∧ (key i j = key k h → elems f.t * k + h ≤ elems f.t * i + j)
      let wins (i v : Half) : State := writeLanes s f.d (fun k => k < 2) (fun k => if k = 0 then i else v) 6
      (readM s c f.m = 0 → exec (.vargmx f) s = .next (wins (BitVec.allOnes 32) 0)) ∧
      (∀ k < 64, ∀ h < elems f.t, best k h →
        exec (.vargmx f) s = .next (wins (BitVec.ofNat 32 (elems f.t * k + h)) (BitVec.ofNat 32 (x k h)))) ∧
      (readM s c f.m ≠ 0 → ∃ k < 64, ∃ h < elems f.t, best k h)) ∧
    (∀ f : VForm, executes s f.g = true →
      exec (.vperm f) s = .next (lanes f.d f.m (fun i => laneOf (readV s c f.a) ((laneOf (readV s c f.b) i).toNat % 64)) 3) ∧
      exec (.vrand f) s = .next (lanes f.d f.m (fun i => zeluaMix (lowPair (readV s c f.a)) (lowPair (readV s c f.b)) i) 4)) ∧
    (∀ f : VPatForm, executes s f.g = true →
      exec (.vshuf f) s = .next (lanes f.d f.m (shufflePat (readV s c f.a) f.c.toNat) 3) ∧
      exec (.vcx f) s = .next (writeLanes s f.d (fun _ => true) (fun l => joinElems f.t fun h =>
        cxElem f.t (readV s c f.a) (fun i => (readM s c f.m).getLsbD i) (fieldOf f.c 0 3) (f.c.getLsbD 3) l h) 2)) ∧
    (∀ f : VScalForm, executes s f.g = true →
      exec (.vbc f) s = .next (lanes f.d f.m (fun _ => splat f.t (readPrimS s c f.s)) 2) ∧
      (readM s c f.m = 0 → exec (.vins f) s = .next s) ∧
      (∀ k < 64, (readM s c f.m).getLsbD k = true → (∀ i < k, (readM s c f.m).getLsbD i = false) →
        exec (.vins f) s = .next (writeLanes s f.d (fun i => i = k) (fun _ => splat f.t (readPrimS s c f.s)) 2))) ∧
    (∀ f : VExtForm, executes s f.g = true →
      (readM s c f.m = 0 → exec (.vext f) s = .next (writePrimS s c f.s 0 2)) ∧
      (∀ k < 64, (readM s c f.m).getLsbD k = true → (∀ i < k, (readM s c f.m).getLsbD i = false) → exec (.vext f) s = .next (writePrimS s c f.s
        (if f.t = .i32 then (laneOf (readV s c f.a) k).signExtend 64 else (laneOf (readV s c f.a) k).setWidth 64) 2))) ∧
    (∀ f : VIotaForm, executes s f.g = true → exec (.viota f) s = .next (lanes f.d f.m
      (fun i => BitVec.ofNat 32 ((List.range i).filter fun k => (readM s c f.m).getLsbD k).length) 2)) ∧
    (∀ f : MaskForm, executes s f.g = true →
      exec (.mand f) s = .next (writeM s c f.d (readM s c f.a &&& readM s c f.b) 2) ∧
      exec (.mor f) s = .next (writeM s c f.d (readM s c f.a ||| readM s c f.b) 2) ∧
      exec (.mxor f) s = .next (writeM s c f.d (readM s c f.a ^^^ readM s c f.b) 2)) ∧
    (∀ f : MaskUnForm, executes s f.g = true → exec (.mnot f) s = .next (writeM s c f.d (~~~ readM s c f.a) 2)) ∧
    (∀ f : MaskOutForm, executes s f.g = true →
      exec (.mpop f) s = .next (writePrimS s c f.s (BitVec.ofNat 64 ((List.range 64).filter fun i => (readM s c f.a).getLsbD i).length) 2) ∧
      (∃ n, exec (.mfirst f) s = .next (writePrimS s c f.s (BitVec.ofNat 64 n) 2) ∧ n ≤ 64 ∧
        (∀ i < n, (readM s c f.a).getLsbD i = false) ∧ (n < 64 → (readM s c f.a).getLsbD n = true)) ∧
      exec (.mtos f) s = .next (writePrimS s c f.s (readM s c f.a) 2)) ∧
    (∀ f : MaskInForm, executes s f.g = true → exec (.mfrom f) s = .next (writeM s c f.d (readPrimS s c f.s) 2))

/-! ### The X class (spec 18) -/

/-- 18 R439-R445; 11 R287. A beat, an MSCL and an array image go to their banks; MCLR clears a bank and MSWAP exchanges the two. -/
def Obligations.MatrixOpsComplete : Prop :=
  ∀ (s : State) (c : BitVec 10), s.cur.agent = .prim c →
    (∀ f : BeatForm, executes s f.g = true → mbeatTrap s f = none →
      let x := if f.pushA && isDesc f.a then f.a else if f.pushB then f.b else .none
      reaches (exec (.mbeat f) s) fun t => ∃ (a : Access) (l : List Access), (t.core c).accs = (s.core c).accs ++ a :: l ∧ t.mem = s.mem ∧
      (srcRemote s x = false → l = [] ∧ a.pieces = srcPieces s x) ∧
      (srcRemote s x = true → ∃ p n, l = [p] ∧ p.op = (if f.pushA && isDesc f.a then .pushA n else .pushB n) ∧ p.left = 4 ∧ p.pieces = srcPieces s x) ∧
      (f.oneshot = true → (t.core c).pendFmt = none) ∧ (f.oneshot = false → (t.core c).pendFmt = (s.core c).pendFmt) ∧
      ∃ w m mpc, a.op = .beat f w m (srcEdge s f.a) (srcEdge s f.b) mpc ∧ (resolves f = true → resolveFmt s f = .ok w) ∧
        (f.sparse = true → m = beatMeta s)) ∧
    (∀ f : SclForm, executes s f.g = true → msclTrap s f = none → reaches (exec (.mscl f) s) fun t => ∃ a : Access,
      (t.core c).accs = (s.core c).accs ++ [a] ∧ a.op = .scl f (srcEdge s f.a) (srcEdge s f.b) ∧ t.mem = s.mem) ∧
    (∀ f : ClrForm, executes s f.g = true → reaches (exec (.mclr f) s) fun t => t.mem = s.mem ∧ ∀ i, tabGet 0 (t.core c).acc i =
      if i / 4096 = (if f.bank then 1 else 0) then 0 else tabGet 0 (s.core c).acc i) ∧
    (∀ f : SwapForm, executes s f.g = true → (∀ e ∈ (s.core c).acc, e.1 < 8192) → reaches (exec (.mswap f) s) fun t =>
      t.mem = s.mem ∧ ∀ i < 4096, tabGet 0 (t.core c).acc i = tabGet 0 (s.core c).acc (4096 + i) ∧
        tabGet 0 (t.core c).acc (4096 + i) = tabGet 0 (s.core c).acc i) ∧
    (∀ f : ImgForm, executes s f.g = true → imageTrap s f = none →
      let new (op : AccOp) : Access := newAccess s op 1 1 (readPrimS s c f.dest) (imagePieces s f)
      let cycles : Nat := 64 * ((if f.parts.getLsbD 4 then 1 else 0) + if f.parts.getLsbD 5 then 1 else 0) +
        ((List.range 4).filter fun i => f.parts.getLsbD i).length
      exec (.msave f) s = .next (s.mapCore c fun k => { k with accs := k.accs ++ [new (.save f)], serviceLeft := cycles }) ∧
      exec (.mload f) s = .next (s.mapCore c fun k => { k with accs := k.accs ++ [new (.image f)], serviceLeft := cycles }))

/-! ### The E class (spec 19) -/

/-- 19 R451, R452. A copy job takes a slot and a burgee when it is issued; its status is polled, waited for and cancelled by its burgee.
Which slot is taken when none is free is a reading (log entry 39). -/
def Obligations.CopyJobOpsComplete : Prop :=
  ∀ (s : State) (f : E2Form), executes s f.g = true → s.cur.retry = false →
    let cl := clusterOf s.me
    let b : BitVec 16 := (readR s f.a).setWidth 16
    let k := s.cluster cl
    let issued (t : State) (j : Nat) (virt : Bool) : Prop :=
      (t.cluster cl).nextBurgee = k.nextBurgee + 1 ∧ ((t.cluster cl).job j).st = .queued ∧ ((t.cluster cl).job j).burgee = k.nextBurgee ∧
      ((t.cluster cl).job j).desc = readR s f.a ∧ ((t.cluster cl).job j).virt = virt ∧ ((t.cluster cl).job j).ctx = s.myCtx ∧
      ∀ i < 64, i ≠ j → (t.cluster cl).job i = k.job i
    (∀ j, jobSlot k (s.myThread ≠ 8) = some j →
      (cpyTrap s f false = none → reaches (exec (.cpy f) s) fun t => issued t j false) ∧
      (cpyTrap s f true = none → reaches (exec (.cpyV f) s) fun t => issued t j true)) ∧
    (findJob k s.myCtx b = none → exec (.cpyq f) s = .next (finish (writeE s f.d 5)) ∧ exec (.cpyw f) s = .next (finish (writeE s f.d 5)) ∧
      exec (.cpyk f) s = .next (finish (writeE s f.d 5))) ∧
    (∀ j, findJob k s.myCtx b = some j → (k.job j).unfinished = true →
      exec (.cpyq f) s = .next (finish (writeE s f.d (jobStatus (k.job j)))) ∧
      exec (.cpyk f) s = .next (finish (writeE (cancelJob s cl j) f.d (jobStatus (k.job j))))) ∧
    (∀ j, findJob k s.myCtx b = some j → (k.job j).unfinished = false → (k.job j).control.getLsbD 15 = false →
      exec (.cpyq f) s = .next (finish (writeE (setJob s cl j .reset) f.d (jobStatus (k.job j)))) ∧
      exec (.cpyw f) s = .next (finish (writeE (setJob s cl j .reset) f.d (jobStatus (k.job j)))) ∧
      exec (.cpyk f) s = .next (finish (writeE (cancelJob s cl j) f.d (jobStatus (k.job j)))))

/-- 19 R447, R455-R459; 06 R139, R148, R150. At its engine cycle a halyard instruction of a guidon is performed: what it does to the
halyard and what its result registers take; a follower takes the guidon's results. A refused action's value is free (log entry 1), and one
that waits keeps its place (13). -/
def Obligations.HalyardOpsComplete : Prop :=
  ∀ (s : State) (c : BitVec 10), s.cur.agent = .prim c →
    (∀ (f : E3Form) (e : Instr), s.cur.retry = false → executes s f.g = true → isGuidon s c = true →
      let placed : State := let t := placeE (earlyRelease s c 1 (halIssueKey c)) c f.d
        t.mapCore c fun k => { k with hacts := k.hacts ++ [eRecord t e (readPrimS s c f.a) (readPrimS s c f.b)] }
      (e = .htent f → exec e s = .next placed) ∧ (e = .hckpt f → exec e s = .next placed) ∧
      (e = .hcommit f → hcommitTrap s f = none → exec e s = .next placed) ∧
      (e = .hplayHold f → exec e s = .next placed) ∧ (e = .hplaySource f → exec e s = .next placed) ∧
      (e = .hplayHorizon f → exec e s = .next placed)) ∧
    (s.cur.retry = true → isGuidon s c = true →
      let dir := 4096 * s.myCtx.toNat + fieldOf s.cur.opA 0 12
      let acts (u : State) (e : Instr) (d : BitVec 6) (two : Bool) (act : State → Nat → Word → HRes) : Prop :=
        ∀ r0 r1 t, (withEngine u (halDir u s.cur.opA) fun v => act v (halDir u s.cur.opA) s.cur.opB) = .done r0 r1 t →
          exec e s = .next (deliverHal t c s.cur.born d two r0 r1)
      let does := acts s
      let late (e : Instr) (d : BitVec 6) (two : Bool) (act : State → Nat → Word → HRes) : Prop :=
        s.cur.issued + 2 ≤ s.cycle → (s.core c).hacts = [] → (s.core c).pwait = none → (s.core c).lrwWait = none →
          acts { settleFirst s c (fun a => a.born ≤ s.cur.born) 4 with cur := s.cur } e d two act
      (∀ f : E3Form,
        does (.htent f) f.d false actHtent ∧ does (.hcommit f) f.d false actHcommit ∧ late (.hframe f) f.d false actHframe ∧
        does (.hckpt f) f.d false actHckpt ∧ does (.hplayHold f) f.d false (actHplay fun h b => { h with mode := putField h.mode 2 1 (b.toNat % 2) }) ∧
        does (.hplaySource f) f.d false (actHplay fun h b => { h with mode := putField h.mode 1 1 (b.toNat % 2) }) ∧
        does (.hplayHorizon f) f.d false (actHplay fun h b => { h with horizon := if h.horizon.toNat < b.toNat then b else h.horizon }) ∧
        late (.hbindOpen f) f.d false actOpen) ∧
      (∀ f : E2Form, late (.hbindBind f) f.d false actBind ∧ late (.hbindPark f) f.d false actPark ∧ late (.hbindClose f) f.d false actClose ∧
        late (.hcut f) f.d true (actHcut false) ∧ late (.hcutT f) f.d true (actHcut true)) ∧
      (∀ f : HreadForm, s.cur.issued + 2 ≤ s.cycle → (s.halAt dir).st = .live → exec (.hread f) s = .next (landE (acquireKeys s 1 [halRelKey dir]) c s.cur.born f.d
        (hreadField (leNat (recordBytes (s.halAt dir) (halNum dir))) f.c.toNat)))) ∧
    (∀ (f : E3Form) r, s.cur.retry = false → executes s f.g = true → isGuidon s c = false →
      tabGet none (s.core (guidonOf s c)).hres s.cur.gborn = some r →
      let t := landE s c (s.core c).tick f.d r.1
      exec (.htent f) s = .next t ∧ exec (.hframe f) s = .next t ∧ exec (.hckpt f) s = .next t ∧ exec (.hplayHold f) s = .next t ∧
      exec (.hplaySource f) s = .next t ∧ exec (.hplayHorizon f) s = .next t ∧ exec (.hbindOpen f) s = .next t ∧ exec (.hcommit f) s = .next t)

/-- 06 R131, R133, R138, R139, R148; 19 R456, R458. What the cursor instructions do to a halyard that is live and bound to the issuer,
and when they refuse. -/
def Obligations.CursorActionsAreStated : Prop :=
  ∀ (s : State) (dir : Nat) (b : Word) (h : Hal), s.halAt dir = h →
    (h.st = .live → h.bound = some s.me →
      (b.toNat ≤ 1024 → h.t.toNat ≤ h.g.toNat + b.toNat → h.g.toNat + b.toNat ≤ h.p.toNat + h.kvcap.toNat → h.g.toNat + b.toNat < 2 ^ 48 →
        ∃ t, actHtent s dir b = .done (halResult .ok (h.g.toNat + b.toNat)) 0 t ∧
          t.halAt dir = { h with t := BitVec.ofNat 64 (h.g.toNat + b.toNat), tmax := BitVec.ofNat 64 (max h.tmax.toNat (h.g.toNat + b.toNat)) }) ∧
      (1024 < b.toNat ∨ h.g.toNat + b.toNat < h.t.toNat ∨ h.p.toNat + h.kvcap.toNat < h.g.toNat + b.toNat →
        actHtent s dir b = refuse s .cursor) ∧
      (∀ j, b.toNat % 2 ^ h.cklg.toNat = 0 → b.toNat ≤ h.g.toNat → (h.lastck = allOnes64 ∨ h.lastck.toNat < b.toNat) →
        b.toNat / 2 ^ h.cklg.toNat % h.ckcount.toNat = j → ∃ t, actHckpt s dir b = .done (halResult .ok b.toNat) 0 t ∧
          (t.halAt dir).lastck = b ∧ (t.halAt dir).ckvalid = h.ckvalid ||| BitVec.ofNat 64 (2 ^ j) ∧ (t.halAt dir).g = h.g) ∧
      (b.toNat > 56 → h.cut = none → actHframe s dir b = refuse s .cursor) ∧
      (b.toNat ≤ 56 → h.cut = none → h.a.toNat ≤ h.i.toNat → actHframe s dir b = refuse s .noInput)) ∧
    (h.st ≠ .live → h.st ≠ .faulted → actHtent s dir b = refuse s .notLive ∧ actHcommit s dir b = refuse s .notLive ∧
      actHframe s dir b = refuse s .notLive ∧ actHckpt s dir b = refuse s .notLive ∧ actHcut false s dir b = refuse s .notLive) ∧
    (h.st = .live → recordReady s dir = .ok →
      actPark s dir b = .done (halResult .ok 0) 0 (parkHal s dir) ∧ actClose s dir b = .done (halResult .ok 0) 0 (closeHal s dir)) ∧
    (h.st = .closed → actBind s dir b = .done (halResult .state 0) 0 s ∧ actPark s dir b = .done (halResult .state 0) 0 s ∧
      (b.toNat % 256 ≠ 0 → actOpen s dir b = .done (halResult .invalid 0) 0 s))

/-- 05 R106-R108; 19 R460, R461. Stage queues: a primary's SQPUT and SQGET go to their buffer's bank; a thread's act at once; SQLEN
reads the occupancy and arms its core's threshold. -/
def Obligations.StageQueueOpsComplete : Prop :=
  ∀ (s : State) (f : E3Form), executes s f.g = true → s.cur.retry = false →
    let j := fieldOf (readR s f.a) 0 5
    let q := stageQ s j
    (∀ c, s.cur.agent = .prim c → sqTrap s f = none →
      let send (put : Bool) : State := s.mapCore c fun k => { k with accs := k.accs ++
        [{ newAccess s (.sq put (BitVec.ofNat 5 j)) 4 4 (readR s f.b) [sqBuffer s (readR s f.b).toNat] with dest := destS s f.d }] }
      exec (.sqput f) s = .next (send true) ∧ exec (.sqget f) s = .next (send false)) ∧
    (∀ c n, s.cur.agent = .thread c n → sqTrap s f = none →
      let clear (put : Bool) : Prop := portsBusy s [sqBuffer s (readR s f.b).toNat] (!put) = false ∧
        (q.cap = 0 ∨ portsBusy s [poolPiece s (q.base + (if put then q.tail else q.head) % q.cap)] put = false)
      (∀ d t, clear true → sqPerform s true j (readR s f.b).toNat = .ok d t → exec (.sqput f) s = .next (finish (writeE t f.d (BitVec.ofNat 64 d)))) ∧
      (∀ d t, clear false → sqPerform s false j (readR s f.b).toNat = .ok d t → exec (.sqget f) s = .next (finish (writeE t f.d (BitVec.ofNat 64 d)))) ∧
      (clear true → q.cap = 0 → exec (.sqput f) s = .next (takeThreadTrap s c n .qreserve 0))) ∧
    (q.cap ≠ 0 → q.tail = q.head → sqPerform s false j (readR s f.b).toNat = .ok 0 s) ∧
    (q.cap ≠ 0 → exec (.sqlen f) s = .next (finish (writeE s f.d (BitVec.ofNat 64 (q.tail - q.head)))) ∧
      (let armed (high : Bool) : State := let t := writeE s f.d (BitVec.ofNat 64 (q.tail - q.head))
         finish (fireArms (mapStageQ t j fun q => { q with arms := (q.arms.filter fun u => u.core ≠ t.me) ++
           [{ core := t.me, high := high, at_ := (readR s f.b).setWidth 16 }] }) j)
       exec (.sqlenArmHigh f) s = .next (armed true) ∧ exec (.sqlenArmLow f) s = .next (armed false)))

/-- 07 R159, R162; 10 R257; 19 R462-R465, R467. Thread placement, tracing, vectors on the static mesh, live masks and migration. When
TSPAWN writes the frame is a reading (log entry 43). -/
def Obligations.PlacementMeshAndTraceComplete : Prop :=
  ∀ s : State, s.cur.retry = false →
    (∀ f : ESpawnForm, executes s f.g = true → spawnTrap s f = none →
      let o : BitVec 10 := if f.other then coreAt (clusterOf s.me) ((readR s f.b).setWidth 4) else s.me
      (s.myOcc.isSome = true → (s.core o).occ = s.myOcc → (s.core o).readyq.length < 256 →
        exec (.twake f) s = .next (finish (writeE (s.mapCore o fun k => { k with readyq := k.readyq ++ [.of (readR s f.a) true] }) f.d 1)) ∧
        (∀ c, s.cur.agent = .prim c → exec (.tspawn f) s = .next (finish (writeE (appendReady
          (s.mapCore c fun k => { k with accs := k.accs ++ [newAccess s (.spawn o) 6 6 (readR s f.a) []] }) o (.made (readR s f.a) c)) f.d 1))) ∧
        (∀ c n t, s.cur.agent = .thread c n → spawnWrite (releaseReady s 1) c n s.myCtx (readR s f.a) = .ok t →
          exec (.tspawn f) s = .next (finish (writeE (appendReady t o (.of (readR s f.a) false)) f.d 1)))) ∧
      (s.myOcc.isSome = true → (s.core o).occ = s.myOcc → 256 ≤ (s.core o).readyq.length →
        exec (.tspawn f) s = .next (finish (writeE s f.d 0)) ∧ exec (.twake f) s = .next (finish (writeE s f.d 0))) ∧
      ((s.core o).occ ≠ s.myOcc → exec (.tspawn f) s = .next (finish (writeE s f.d 2)) ∧ exec (.twake f) s = .next (finish (writeE s f.d 2)))) ∧
    (∀ f : E3Form, executes s f.g = true → reaches (exec (.trace f) s) fun t => ∃ src,
      t = finish (traceRecord s (quadOf s.me) src (fieldOf (readR s f.a) 0 8) s.myCtx (payload2 (readR s f.d).toNat (readR s f.b).toNat)) ∧
      (∀ c, s.cur.agent = .prim c → src = c.toNat % 256) ∧
      (∀ c n, s.cur.agent = .thread c n → src = 0x1000 + 8 * (c.toNat % 256) + n.toNat)) ∧
    (∀ (f : MeshForm) c r, s.cur.agent = .prim c → executes s f.g = true → routerOf s c = some r → vsendTrap s f = none →
      exec (.vsend f) s = .next (s.mapCore c fun k => { k with inject := k.inject ++
        [{ ch := f.ch, val := readV s c f.v, sent := 0, phase := (r.phaseAt s.cycle + 1) % r.period }] })) ∧
    (∀ (f : MeshForm) c (b0 b1 b2 b3 : BitVec 512), s.cur.agent = .prim c → executes s f.g = true →
      recvBuf (s.core c) f.ch = [b0, b1, b2, b3] → (s.core c).ovf.getLsbD f.ch.toNat = false →
      exec (.vrecv f) s = .next (clearRecv (writeV s c f.v ((b3 ++ b2 ++ b1 ++ b0).setWidth 2048) 4) c f.ch)) ∧
    (∀ (f : LiveForm) c n, s.cur.agent = .thread c n → executes s f.g = true → liveTrap s f = none → exec (.live f) s =
      .next (finish (s.mapThread c n fun th => { th with live := (readB s f.b).setWidth 32 &&& 0xFFFFFFFE }))) ∧
    (∀ (f : MigrForm) c n, s.cur.agent = .thread c n → executes s f.g = true → (readR s f.a).toNat < 1024 →
      (readR s f.a = c.setWidth 64 → exec (.migr f) s = .next (finish s)) ∧
      (readR s f.a ≠ c.setWidth 64 → exec (.migr f) s = .next (departTo s c n ((readR s f.a).setWidth 10) true (readMask [f.a]))))

/-! ### The G class (spec 10, 15, 19) -/

/-- 15 R383. A jump whose target can be fetched goes there, with its link; one out of range or misaligned traps first. -/
def Obligations.JumpsComplete : Prop :=
  ∀ (s : State) (c : BitVec 10) (n : BitVec 3), s.cur.agent = .thread c n →
    let rel (off : BitVec 32) : Word := (s.thread c n).pc.setWidth 64 + 8 * off.signExtend 64
    let goes (t : State) (d : Option (BitVec 6)) (tgt : Word) : State :=
      (match d with
        | some d => writeX t c n d (((t.thread c n).pc + 8).setWidth 64)
        | none => t).mapThread c n fun th => { th with pc := tgt.setWidth 57, st := .running, retry := 0, xfail := none, issued := none, lastRead := false }
    (∀ f : JmpForm, executes s f.g = true →
      (∀ t, jumpReady s c n (rel f.off) = .go t → exec (.jmp f) s = .next (goes t none (rel f.off))) ∧
      (2 ^ 57 ≤ (rel f.off).toNat → exec (.jmp f) s = .next (takeThreadTrap s c n .sprange (rel f.off)))) ∧
    (∀ f : JrForm, (∀ t, jumpReady s c n (readX s c n f.a) = .go t → exec (.jr f) s = .next (goes t none (readX s c n f.a))) ∧
      ((readX s c n f.a).toNat < 2 ^ 57 → (readX s c n f.a).toNat % 8 ≠ 0 → exec (.jr f) s = .next (takeThreadTrap s c n .misalign (readX s c n f.a)))) ∧
    (∀ (f : JalForm) t, jumpReady s c n (rel f.off) = .go t → exec (.jal f) s = .next (goes t (some f.d) (rel f.off))) ∧
    (∀ (f : JalrForm) t, jumpReady s c n (readX s c n f.a) = .go t → exec (.jalr f) s = .next (goes t (some f.d) (readX s c n f.a)))

/-- 10 R257, R258, R484; 19 R468; 08 R187. Sleeps, yields, exits, system calls and software traps of a thread. The STATE that each writes
and the PC in the record of SYSC are readings (log entries 41, 42 and 44). -/
def Obligations.ThreadControlOpsComplete : Prop :=
  ∀ (s : State) (c : BitVec 10) (n : BitVec 3) (th : Thread), s.cur.agent = .thread c n → s.thread c n = th →
    let saved (st : Nat) : FRes := frameWrite s c n (ctxOfThread s c n) th.frame.toNat (frameParts th (th.pc + 8) st)
    let freed (t : State) : State := freeThread (releaseAt t t.ag 0 (frameKey (ctxOfThread s c n) th.frame)) c n
    (∀ f : SleepForm,
      (∀ v, f.t = .imm v → 0 < v.toInt →
        exec (.sleepu f) s = .next ((finish s).mapThread c n fun th => { th with st := .sleep (s.time.now + v.signExtend 64) })) ∧
      (∀ v, f.t = .imm v → v.toInt ≤ 0 → exec (.sleepu f) s = .next (finish s)) ∧
      (∀ r, f.t = .reg r → s.now < (readX s c n r).toNat →
        exec (.sleepu f) s = .next ((finish s).mapThread c n fun th => { th with st := .sleep (readX s c n r) })) ∧
      (∀ r, f.t = .reg r → (readX s c n r).toNat ≤ s.now → exec (.sleepu f) s = .next (finish s))) ∧
    (∀ t, (s.core c).readyq.length < 256 → saved 0 = .ok t →
      exec .tyield s = .next ((freed t).mapCore c fun k => { k with readyq := k.readyq ++ [.of th.frame false] })) ∧
    (256 ≤ (s.core c).readyq.length → exec .tyield s = .next (finish s)) ∧
    (∀ t, saved 1 = .ok t → exec .tyieldPark s = .next (freed t)) ∧
    (∀ t, frameWrite s c n (ctxOfThread s c n) th.frame.toNat [(21, [5])] = .ok t → exec .texit s = .next (freeThread t c n)) ∧
    (∀ (f : SyscForm) t, saved 1 = .ok t → exec (.sysc f) s = .next (eventRecord (freed t) (ctxOfThread s c n) 4 0x51 (some th.occ)
      (payload2 th.frame.toNat (f.c.toNat + 2 ^ 16 * c.toNat + 2 ^ 32 * (th.pc.toNat % 2 ^ 32))))) ∧
    (∀ f : TrapgForm, exec (.trapg f) s = .next (takeThreadTrap s c n .trap (f.c.setWidth 64)))

/-! ### Frames, traps and the ends of bundles -/

/-- 09 R217, R218; 15 R358-R367. THE FRAME of the operations on registers: integer, floating, predicate and move operations of either agent
change their destination alone (and a primary's sticky flags); s0, q0, q8, m0, x0 and f0 discard what is written and read as constants. A
constant-window operand is made ready first: u is the state in which it can be read. -/
def Obligations.ScalarOpsChangeOnlyTheirDestination : Prop :=
  (∀ (s t u : State) (f : AluForm) (e : Instr),
    e ∈ [.add f, .sub f, .addw f, .subw f, .mul f, .mulh f, .mulhn f, .div f, .divn f, .rem f, .remn f, .and f, .or f, .xor f, .andn f, .orn f,
      .shl f, .shr f, .sra f, .rotr f, .min f, .max f, .minn f, .maxn f, .extr f, .insr f, .sxt f, .zxt f, .lea f, .fadd f, .fsub f, .fmul f,
      .ffma f, .fmin f, .fmax f, .mix f] → executes s f.g = true → cwReady s f.b = .ok u → u.cur = s.cur → exec e s = .next t →
    scalarFrame u t (some f.d) none) ∧
  (∀ (s t u : State) (f : CmpForm) (e : Instr), e ∈ [.cmp f, .cmpn f, .fcmp f] → executes s f.g = true → cwReady s f.b = .ok u →
    u.cur = s.cur → exec e s = .next t → scalarFrame u t none (some f.d)) ∧
  (∀ (s t u : State) (f : LiForm), executes s f.g = true → cwReady s f.b = .ok u → u.cur = s.cur → exec (.li f) s = .next t →
    scalarFrame u t (some f.d) none) ∧
  (∀ (s t : State) (f : UnForm) (e : Instr), e ∈ [.clz f, .ctz f, .popc f, .brev f, .mov f, .movx f, .fcvtI2f f, .fcvtN2f f, .fcvtF2i f, .fcvtF2n f] →
    exec e s = .next t → scalarFrame s t (some f.d) none) ∧
  (∀ (s t : State) (f : PredForm) (e : Instr), e ∈ [.pand f, .por f, .pxor f] → exec e s = .next t → scalarFrame s t none (some f.d)) ∧
  (∀ (s t : State) (f : PredUnForm) (e : Instr), e ∈ [.pnot f, .pmov f] → exec e s = .next t → scalarFrame s t none (some f.d)) ∧
  (∀ (s t : State) (f : PSetForm), exec (.pset f) s = .next t → scalarFrame s t none (some f.d)) ∧
  (∀ (s t : State) (f : TimeForm) (e : Instr), e ∈ [.now f, .cyc f] → exec e s = .next t → scalarFrame s t (some f.d) none) ∧
  (∀ (s : State) (c : BitVec 10) (n : BitVec 3) (v : Word) (b : Bool) (k : Nat),
    writePrimS s c 0 v k = s ∧ readPrimS s c 0 = 0 ∧ writePrimQ s c 0 b k = s ∧ writePrimQ s c 8 b k = s ∧ readPrimQ s c 0 = true ∧
    readPrimQ s c 8 = true ∧ writeM s c 0 v k = s ∧ readM s c 0 = BitVec.allOnes 64 ∧ writeX s c n 0 v = s ∧ readX s c n 0 = 0 ∧
    writeF s c n 0 b = s ∧ readF s c n 0 = true)

/-- 09 R231, R232, Table Primary.10; 10 R266; 16 R385. A trap of a primary fills the four trap registers of its core alone and stops it,
held for TRAPCTL after BRK or TRAP of a guidon; a thread trap saves the frame as TRAPPED and frees the slot; an address outside the
scratchpad or misaligned is trapped at issue, and the access is not made. Byte 9 of a TRAP record is free (log entry 1). -/
def Obligations.TrapsAreTakenAsStated : Prop :=
  (∀ (s : State) (c : BitVec 10) (x : TrapInfo), (s.core c).occ = none → c ∈ gangOf s (guidonOf s c) →
    let t := takePrimTrap s c x
    (t.core c).trapcause = x.cause.code.setWidth 64 ∧ (t.core c).trapmask = x.mask.setWidth 64 ∧ (t.core c).trapinfo = x.info ∧
    (t.core c).trapaddr = x.addr ∧ t.mem = s.mem ∧
    (t.core c).run = (if isGuidon s c = true ∧ (x.cause = .brk ∨ x.cause = .trap) then .held else .trapped) ∧
    ∀ d, d ≠ c → (t.core d).trapcause = (s.core d).trapcause ∧ (t.core d).trapmask = (s.core d).trapmask ∧
      (t.core d).trapinfo = (s.core d).trapinfo ∧ (t.core d).trapaddr = (s.core d).trapaddr) ∧
  (∀ (s u : State) (c : BitVec 10) (n : BitVec 3) (w : Cause) (info : Word) (th : Thread), s.thread c n = th → n ≠ 7 →
    frameWrite (if th.trapped.isSome then s else s.mapThread c n fun th => { th with xfail := none }) c n (ctxOfThread s c n) th.frame.toNat
      (frameParts th th.pc 4) = .ok u →
    takeThreadTrap s c n w info = eventRecord (freeThread (if w = .uncorr then countUncorr u (quadOf c) else u) c n) (ctxOfThread s c n) 3 (trapReason u).toNat (some th.occ)
      (payload2 (c.toNat + 2 ^ 16 * w.code.toNat + 2 ^ 24 * (0x80 + n.toNat) + 2 ^ 32 * (th.pc.toNat % 2 ^ 32)) info.toNat)) ∧
  (∀ (s : State) (c : BitVec 10) (f : MemForm), s.cur.agent = .prim c → executes s f.g = true → f.mode = .loc →
    let a := effAddr s f
    let range : State := takePrimTrap s c { addrTrap s .sprange a with mask := trapMask s }
    let align : State := takePrimTrap s c { addrTrap s .misalign a with mask := trapMask s }
    (2 ^ 20 ≤ a.toNat → exec (.ldb f) s = .next range ∧ exec (.ldw f) s = .next range ∧ exec (.ldd f) s = .next range ∧
      exec (.stb f) s = .next range ∧ exec (.stw f) s = .next range ∧ exec (.std f) s = .next range ∧ exec (.lda f) s = .next range ∧
      exec (.strl f) s = .next range ∧ exec (.praise f) s = .next range ∧ exec (.aadd f) s = .next range ∧ exec (.acas f) s = .next range) ∧
    (a.toNat < 2 ^ 20 → inPool s c a.toNat 8 = false → a.toNat % 8 ≠ 0 → exec (.ldd f) s = .next align ∧ exec (.std f) s = .next align ∧
      exec (.lda f) s = .next align ∧ exec (.strl f) s = .next align ∧ exec (.praise f) s = .next align ∧ exec (.ptest f) s = .next align ∧
      exec (.aadd f) s = .next align ∧ exec (.axch f) s = .next align ∧ exec (.acas f) s = .next align ∧ exec (.lrw f) s = .next align ∧
      exec (.sch f) s = .next align) ∧
    (a.toNat < 2 ^ 20 → inPool s c a.toNat 4 = false → a.toNat % 4 ≠ 0 → exec (.ldw f) s = .next align ∧ exec (.ldwn f) s = .next align ∧
      exec (.stw f) s = .next align) ∧
    (a.toNat < 2 ^ 20 → inPool s c a.toNat 2 = false → a.toNat % 2 ≠ 0 → exec (.ldh f) s = .next align ∧ exec (.ldhn f) s = .next align ∧
      exec (.sth f) s = .next align))

/-- 09 R219, R225, R230; 15 R375. A bundle whose operations have run ends: the core goes to the target of a transfer after its last delay
bundle, else along the back-edge of the newest armed loop that ends there and has iterations left, else to the next word; the active
cycle is counted. -/
def Obligations.BundlesEndWhereTheyMust : Prop :=
  ∀ (s : State) (c : BitVec 10) (r : List Task) (b : Bundle), s.agenda = .issue c :: r → (s.core c).bund = some b → b.ops = [] →
    reaches (step s) fun t =>
      t.mem = s.mem ∧ (∀ d, d ≠ c → t.core d = s.core d) ∧ (t.core c).active = (s.core c).active + 1 ∧ (t.core c).tick = (s.core c).tick + 1 ∧
      (t.core c).bund = none ∧ (b.halt = true → (t.core c).run = .halted) ∧
      (∀ x, (s.core c).xfer = some x → 1 < x.left →
        (t.core c).pc = b.next ∧ (t.core c).xfer = some { x with left := x.left - 1 }) ∧
      (∀ x, (s.core c).xfer = some x → x.left ≤ 1 → x.iret = false → (t.core c).pc = x.target ∧ (t.core c).xfer = none) ∧
      ((s.core c).xfer = none → loopAt (s.core c) b.pc = none → (t.core c).pc = b.next) ∧
      (∀ i e, (s.core c).xfer = none → loopAt (s.core c) b.pc = some (i, e) → 1 < e.count.toNat →
        (t.core c).pc = e.start ∧ tabGet .reset (t.core c).loops i = { e with count := e.count - 1 })

/-! ### Rules stated whole -/

/-- 16 R397. The fields of an atomic that must be zero, for a primary word and for a barrel word; what a word that breaks the rule raises;
and an atomic whose guard is false. -/
def Obligations.AtomicFieldsAreChecked : Prop :=
  (∀ w : BitVec 32, 0x17 ≤ (w.extractLsb' 26 6).toNat → (w.extractLsb' 26 6).toNat ≤ 0x20 →
    (w.extractLsb' 6 3 ≠ 0 ∨ w.extractLsb' 2 2 ≠ 0) → ∃ e, decodeM w = .illegal e) ∧
  (∀ w : BitVec 64, w.extractLsb' 62 2 = 1 → 0x17 ≤ (w.extractLsb' 56 6).toNat → (w.extractLsb' 56 6).toNat ≤ 0x20 →
    w.extractLsb' 30 2 ≠ 0 → ∃ e, decodeBarrel w = .illegal e) ∧
  (∀ (s : State) (c : BitVec 10) (f : Fetched) (sl : Slot) (n : Nat) (e : Illegal), (sl, n, Decoded.illegal e) ∈ f.slots →
    ∃ x ∈ fetchFound s c f, x.trap.cause = .illop ∧ x.mask.getLsbD sl.bit = true) ∧
  (∀ (s : State) (c : BitVec 10) (i t : Nat) (w : BitVec 64) (e : Illegal) (u : State), isOffered s c i = true →
    u = { ((s.mapCore c fun k => countResidue k i (·.offered) fun r v => { r with offered := v }).mapCore c fun k => notePick k s.cycle t) with
      cur := curThread c t i } →
    pickThread (s.mapCore c fun k => countResidue k i (·.offered) fun r v => { r with offered := v }) c i = some (t, w) →
    tokenDenied u c (barrelTokens u w) = false → (t = 7 → serviceWork u c = false) → decodeBarrel w = .illegal e → (barPrivileged w = true → t = 7) →
    (offer s c i).1 = none ∧ ∃ v, (offer s c i).2 = takeThreadTrap v c (BitVec.ofNat 3 t) .illop 0) ∧
  (∀ (s : State) (f : MemForm) (e : Instr),
    e ∈ [.aadd f, .aand f, .aor f, .axor f, .amin f, .amax f, .aminn f, .amaxn f, .axch f, .acas f] → executes s f.g = false →
    exec e s = .next (match s.cur.agent with
      | .prim _ => s
      | .thread c n => s.mapThread c n fun th => { th with pc := th.pc + 8, st := .running, retry := 0, xfail := none, issued := none, lastRead := false }))

/-- 17 R416, R425, R430. Lane moves: the word of every operand and type decodes to the operation, and each lane takes what the rule says,
whatever the type. -/
def Obligations.LaneMovesAreExact : Prop :=
  (∀ f : VForm, decodeV (0x14#6 ++ (encGuard f.g ++ (f.d ++ (f.a ++ (f.b ++ (f.m ++ encVType f.t)))))) = .ok (.vsel f) ∧
    decodeV (0x20#6 ++ (encGuard f.g ++ (f.d ++ (f.a ++ (f.b ++ (f.m ++ encVType f.t)))))) = .ok (.vperm f)) ∧
  (∀ f : VIotaForm, decodeV (0x28#6 ++ (encGuard f.g ++ (f.d ++ (0#10 ++ (f.m ++ (0#2 ++ BitVec.ofBool f.n)))))) = .ok (.viota f)) ∧
  ∀ (s : State) (c : BitVec 10), s.cur.agent = .prim c →
    (∀ f : VForm, executes s f.g = true →
      (∃ r : Lanes, exec (.vsel f) s = .next (writeV s c f.d r 2) ∧ ∀ i < 64,
        laneOf r i = if (readM s c f.m).getLsbD i then laneOf (readV s c f.a) i else laneOf (readV s c f.b) i) ∧
      (∃ r : Lanes, exec (.vperm f) s = .next (writeV s c f.d r 3) ∧ ∀ i < 64,
        laneOf r i = if (readM s c f.m).getLsbD i then laneOf (readV s c f.a) ((laneOf (readV s c f.b) i).toNat % 64)
          else laneOf (readV s c f.d) i)) ∧
    (∀ f : VIotaForm, executes s f.g = true → ∃ r : Lanes, exec (.viota f) s = .next (writeV s c f.d r 2) ∧ ∀ i < 64,
      laneOf r i = (if (readM s c f.m).getLsbD i then BitVec.ofNat 32 ((List.range i).filter fun k => (readM s c f.m).getLsbD k).length
        else laneOf (readV s c f.d) i) ∧
      (f.m = 0 → laneOf r i = BitVec.ofNat 32 i))

/-- 01 R35. What a cold reset sets and what a warm reset sets and keeps. -/
def Obligations.ResetsOfTimeAndPower : Prop :=
  ∀ s : State,
    (reaches (exec .coldReset s) fun t => t.time.cycle = 0 ∧ t.time.now = 0 ∧
      (t.time.offset = 0 ∧ t.time.slew = 0 ∧ t.time.source = 0 ∧ t.time.link = 0 ∧ t.time.holdover = false ∧ t.time.stepped = false ∧
        t.time.locked = false) ∧
      t.power.cost = [4, 12, 30, 60, 20, 150, 340, 200, 120, 4, 4, 20, 200, 60, 40] ∧
      (∀ n, (t.cluster n).grant = 20312500 ∧ (t.cluster n).reserved = 0) ∧ ∀ c, (t.core c).gate = .on ∧ (t.core c).idle = 0) ∧
    (s.power.on = true → reaches (exec .warmReset s) fun t => t.time.cycle = 0 ∧ (∀ n, (t.cluster n).reserved = 0) ∧
      t.time = { s.time with cycle := 0, launched := false } ∧ (∀ n, (t.cluster n).grant = (s.cluster n).grant) ∧ t.power.cost = s.power.cost)

/-! ### Decoding -/

/-- 14 R341-R351, Tables Enc.14 to Enc.17. Every well-formed primary operation decodes from the words that encode it, in its own slot
class, with every operand. -/
def Obligations.SlotWordsRoundTrip : Prop :=
  ∀ i : Instr, i.wfSlot = true →
    (∀ w, encodeS i = some w → decodeS w = .ok i) ∧ (∀ w, encodeM i = some w → decodeM w = .ok i) ∧
    (∀ w, encodeV i = some w → decodeV w = .ok i) ∧ (∀ w, encodeC i = some w → decodeC w = .ok i) ∧
    (∀ w, encodeE i = some w → decodeE w = .ok i) ∧ (∀ w u, encodeX i = some (w, u) → decodeX w u = .ok i) ∧ encode i ≠ []

/-- 14 R352, R353, Tables Enc.18 to Enc.20. Every well-formed barrel operation decodes from the 64 bits that encode it, with every
operand. -/
def Obligations.BarrelWordsRoundTrip : Prop := ∀ i : Instr, i.wfBarrel = true → ∃ w, encodeBarrel i = some w ∧ decodeBarrel w = .ok i

/-- 14 Tables Enc.6 to Enc.20. Words written out from the layouts decode to the operations they stand for. -/
def Obligations.SpecWordsDecode : Prop :=
  decodeS 0b000001_00000_000011_000001_000010_0_00 = .ok (.add ⟨⟨false, 0⟩, 3, 1, .reg 2⟩) ∧
  decodeM 0b000111_10101_000100_000101_000110_0_01 = .ok (.ldd ⟨⟨true, 5⟩, 4, 5, .reg 6, .core, 0, .rlx, 0⟩) ∧
  decodeV 0b000001_00000_00001_00010_00011_000_010 = .ok (.vadd ⟨⟨false, 0⟩, 1, 2, 3, 0, .f32⟩) ∧
  decodeC 0b001010_00000_000000000000000000000 = .ok (.halt ⟨⟨false, 0⟩⟩) ∧
  decodeE 0b000001_00000_010000_010001_000000_000 = .ok (.cpy ⟨⟨false, 0⟩, 16, 17⟩) ∧
  decodeX 0b000100_00000_000000000000000000000 0 = .ok (.mswap ⟨⟨false, 0⟩⟩) ∧
  decodeBarrel 0b11_000010_000_00000_00101_00000_00_0000_00000000000000000000000000000000 = .ok (.jr ⟨5⟩)

/-! ### The machine as a whole -/

/-- 09 R219, R231; 14 R338, R355; 10 R244, R246. A STEP RUNS THE DECODED INSTRUCTION: a device event of the agenda; the first operation of the
bundle that the words at a guidon's c.pc decode to; the next operation of a bundle that is being issued; and the operation that the bits
at the picked thread's PC decode to, at its issue or, where it reaches a scratchpad bank, once it goes on. That one step is one row is the
reading of log entry 80. -/
def Obligations.StepRunsTheDecodedInstruction : Prop :=
  ∀ (s : State) (r : List Task),
    (∀ i a, s.agenda = .event i a :: r → step s = exec i { s with agenda := r, ev := a, cur := .reset }) ∧
    (∀ (c : BitVec 10) (sl : Slot) (i : Instr) (rest : List (Slot × Instr)), s.agenda = .issue c :: r → (s.core c).bund = none →
      (s.core c).usedAt ≠ s.cycle + 1 → (s.core c).frz = none → (s.core c).run = .running → isGuidon s c = true →
      let k := keepCtl { s with agenda := r } c
      let u := activeAccesses (k.mapCore c fun q => { q with usedAt := k.cycle + 1, used := 0 }) c
      let f := fetchBundle u c (u.core c).pc
      let b := bundleOf u c f
      let v := sendFeed (beginBundle u c b f.ops none) c (forwardOf u c f b)
        (if (u.core c).inui && (u.core c).handlerCount = 0 then some ((u.core c).uicause, (tabGet 0 (u.core c).sreg 71).setWidth 16) else none)
      let issued : Bundle := { b with status := BitVec.ofNat 64 (statusOf (u.core c)) }
      isGuidon u c = true → chooseFound (fetchFound u c f ++ slotFound u c b) = none → b.ops = (sl, i) :: rest →
      step s = exec i { (v.mapCore c fun k => { k with bund := some { issued with ops := rest } }) with
        cur := curOf c issued sl, agenda := .issue c :: v.agenda } ∧
      ∃ n, decodeSlot sl (wordOf (imemWord u c ((u.core c).pc + BitVec.ofNat 16 n)))
        (wordOf (if n + 1 < f.words.length then imemWord u c ((u.core c).pc + BitVec.ofNat 16 (n + 1)) else 0)) = .ok i) ∧
    (∀ (c : BitVec 10) (b : Bundle) (sl : Slot) (i : Instr) (rest : List (Slot × Instr)), s.agenda = .issue c :: r → (s.core c).bund = some b →
      b.ops = (sl, i) :: rest → step s = exec i { (s.mapCore c fun k => { k with bund := some { b with ops := rest } }) with
        cur := curOf c b sl, agenda := .issue c :: r }) ∧
    (∀ (c : BitVec 10) (k t : Nat) (w : BitVec 64) (i : Instr), s.agenda = .offer c k :: r →
      let u := { s with agenda := r }.mapCore c fun q => countResidue q k (·.offered) fun r v => { r with offered := v }
      let v : State := { (u.mapCore c fun q => notePick q u.cycle t) with cur := curThread c t k }
      isOffered { s with agenda := r } c k = true → pickThread u c k = some (t, w) → tokenDenied v c (barrelTokens v w) = false →
      (t = 7 → serviceWork v c = false) → (barPrivileged w = true → t = 7) → decodeBarrel w = .ok i →
      (sends v c i = none → step s = exec i (take v c k t w)) ∧
      (∀ x, sends v c i = some x → step s = .next (postAccess v c k t w x) ∧ ((postAccess v c k t w x).thread c (BitVec.ofNat 3 t)).issued = some i)) ∧
    (∀ (c : BitVec 10) (t : Nat) (i : Instr), s.agenda = .threads c :: r →
      let u := saveTrapped (decideNet { s with agenda := r } c) c
      goOn u c = some (t, i) →
      (u.thread c (BitVec.ofNat 3 t)).issued = some i ∧
      step s = exec i { (u.mapThread c (BitVec.ofNat 3 t) fun th => { th with retry := u.cycle + 1, last := u.cycle, post := none }) with
        cur := curThread c t (u.thread c (BitVec.ofNat 3 t)).cls, agenda := .threads c :: u.agenda })

/-- MEMORY STAYS CANONICAL: no step lists a byte or a code word twice, out of order, or with the value that an unlisted one has, so that
equal memories are equal data. -/
def Obligations.MemoryStaysCanonical : Prop := ∀ s t : State, s.mem.wf = true → step s = .next t → t.mem.wf = true

/-- After reset: memory is canonical and lists nothing, time stands at 0, every core is ungated and idle with pc 0, no launch holds a
core, and every cluster has its share of the tokens (01 R35; 09 R239). That memory lists nothing is the model's choice (log entry 2). -/
def Obligations.ResetStateHolds : Prop :=
  State.reset.mem.wf = true ∧ State.reset.mem.phys = [] ∧ State.reset.mem.spad = [] ∧ State.reset.time.now = 0 ∧ State.reset.time.cycle = 0 ∧
  (∀ c, (State.reset.core c).run = .idle ∧ (State.reset.core c).gate = .on ∧ (State.reset.core c).occ = none ∧ (State.reset.core c).pc = 0) ∧
  (∀ n, (State.reset.cluster n).grant = 20312500 ∧ (State.reset.cluster n).reserved = 0) ∧ State.reset.sched.occs = []

/-- THE MACHINE NEVER STOPS: the spec gives every instruction and event an effect, so every step of every state answers a next state. -/
def Obligations.EveryStepAnswersANextState : Prop := ∀ s : State, ∃ t, step s = .next t
end

