-- ==== Sys2Proof/Laws/Links.lean ====
section
/-! SUPPORT. The laws of flits: sealing a flit with its CRC leaves bytes 0-119 alone and makes the flit sound. -/

namespace Sys2Proof.Machine

/-- A word of k bits above m bits has m + k bits. -/
theorem mod_add_mul_lt (x : Nat) {c m k : Nat} (h : c < 2 ^ k) : x % 2 ^ m + c * 2 ^ m < 2 ^ (m + k) := by
  have h3 := Nat.mod_lt x (Nat.two_pow_pos m)
  have h4 : (c + 1) * 2 ^ m ≤ 2 ^ k * 2 ^ m := Nat.mul_le_mul_right _ h
  rw [Nat.add_mul, Nat.one_mul] at h4
  rw [Nat.pow_add, Nat.mul_comm (2 ^ m) (2 ^ k)]
  omega

/-- A flit's bits are its bytes 0-119 and, above them, a word. -/
theorem sealFlit_toNat (f : Flit) : (sealFlit f).toNat = f.toNat % 2 ^ 960 + (flitCrc f).toNat * 2 ^ 960 := by
  have h1 : f.toNat / 2 ^ (960 + 64) = 0 := Nat.div_eq_of_lt f.isLt
  have h2 := (flitCrc f).isLt
  unfold sealFlit putField
  rw [h1, Nat.zero_mul, Nat.add_zero, Nat.mod_eq_of_lt h2, BitVec.toNat_ofNat]
  refine Nat.mod_eq_of_lt ?_
  exact mod_add_mul_lt (m := 960) (k := 64) f.toNat h2

/-- A sealed flit keeps its bytes 0-119. -/
theorem sealFlit_low (f : Flit) : (sealFlit f).toNat % 2 ^ 960 = f.toNat % 2 ^ 960 := by
  rw [sealFlit_toNat, Nat.add_mul_mod_self_right, Nat.mod_mod]

/-- A field within bytes 0-119 is the same in two flits with the same bytes 0-119. -/
theorem extract_low {f g : Flit} (h : f.toNat % 2 ^ 960 = g.toNat % 2 ^ 960) (lo n : Nat) (hn : lo + n ≤ 960) :
    f.extractLsb' lo n = g.extractLsb' lo n := by
  apply BitVec.eq_of_getLsbD_eq
  intro i hi
  have bit (f : Flit) : f.getLsbD (lo + i) = (f.toNat % 2 ^ 960).testBit (lo + i) := by
    rw [Nat.testBit_mod_two_pow, BitVec.testBit_toNat]
    simp only [show lo + i < 960 by omega, decide_true, Bool.true_and]
  rw [BitVec.getLsbD_extractLsb', BitVec.getLsbD_extractLsb', bit f, bit g, h]

theorem fieldOf_low {f g : Flit} (h : f.toNat % 2 ^ 960 = g.toNat % 2 ^ 960) (lo n : Nat) (hn : lo + n ≤ 960) : fieldOf f lo n = fieldOf g lo n := by
  have := congrArg BitVec.toNat (extract_low h lo n hn)
  simpa only [fieldOf, BitVec.extractLsb'_toNat, Nat.shiftRight_eq_div_pow] using this

/-- Bytes depend on the bits below their end alone. -/
theorem leBytes_low (n : Nat) : ∀ {a b : Nat}, a % 2 ^ (8 * n) = b % 2 ^ (8 * n) → leBytes n a = leBytes n b := by
  induction n with
  | zero => intro a b _; rfl
  | succ n ih =>
    intro a b h
    have e : 2 ^ (8 * (n + 1)) = 2 ^ 8 * 2 ^ (8 * n) := by rw [← Nat.pow_add]; congr 1; omega
    rw [e] at h
    have h1 : a % 2 ^ 8 = b % 2 ^ 8 := by rw [← Nat.mod_mul_right_mod a, h, Nat.mod_mul_right_mod]
    have h2 : a / 2 ^ 8 % 2 ^ (8 * n) = b / 2 ^ 8 % 2 ^ (8 * n) := by
      rw [← Nat.mod_mul_right_div_self, h, Nat.mod_mul_right_div_self]
    unfold leBytes
    rw [show BitVec.ofNat 8 a = BitVec.ofNat 8 b from BitVec.eq_of_toNat_eq h1]
    exact congrArg _ (ih h2)

theorem flitCrc_low {f g : Flit} (h : f.toNat % 2 ^ 960 = g.toNat % 2 ^ 960) : flitCrc f = flitCrc g := by
  rw [flitCrc, flitCrc, leBytes_low 120 h]

/-- The CRC of a sealed flit stands in its last eight bytes. -/
theorem sealFlit_crc (f : Flit) : (sealFlit f).extractLsb' 960 64 = flitCrc f := by
  apply BitVec.eq_of_toNat_eq
  rw [BitVec.extractLsb'_toNat, sealFlit_toNat, Nat.shiftRight_eq_div_pow, Nat.add_mul_div_right _ _ (Nat.two_pow_pos 960),
    Nat.div_eq_of_lt (Nat.mod_lt _ (Nat.two_pow_pos 960)), Nat.zero_add]
  exact Nat.mod_eq_of_lt (flitCrc f).isLt

/-- A sealed flit is sound if its kind and its virtual channel agree. -/
theorem soundFlit_seal (f : Flit) (k : Nat) : soundFlit (sealFlit f) k = (decide (fKind f = k) && decide (kindVc k = some (fVc f))) := by
  unfold soundFlit fKind fVc
  rw [flitCrc_low (sealFlit_low f), sealFlit_crc, fieldOf_low (sealFlit_low f) _ _ (by decide), fieldOf_low (sealFlit_low f) _ _ (by decide)]
  simp

@[simp] theorem fSeq_seal (f : Flit) : fSeq (sealFlit f) = fSeq f := extract_low (sealFlit_low f) _ _ (by decide)
@[simp] theorem fAck_seal (f : Flit) : fAck (sealFlit f) = fAck f := extract_low (sealFlit_low f) _ _ (by decide)
@[simp] theorem fDst_seal (f : Flit) : fDst (sealFlit f) = fDst f := extract_low (sealFlit_low f) _ _ (by decide)
@[simp] theorem fNak_seal (f : Flit) : fNak (sealFlit f) = fNak f := by
  have h := congrArg (fun x => BitVec.getLsbD x 0) (extract_low (sealFlit_low f) 21 1 (by decide))
  simpa [fNak] using h

/-- Only ACK and NAK of a flit matter to its header's effect. -/
theorem takeHeader_seal (s : State) (n : BitVec 4) (f : Flit) : takeHeader s n (sealFlit f) = takeHeader s n f := by
  unfold takeHeader
  rw [fAck_seal, fNak_seal]

end Sys2Proof.Machine
end

