-- ==== Sys2Proof/Laws/Tab.lean ====
section
/-! SUPPORT. The laws of sparse tables: a write is read back, it leaves every other key alone, and every operation keeps the canonical
form. -/

namespace Sys2Proof

variable {α : Type} {d : α}

/-! ### Reads after writes -/

@[simp] theorem tabGet_nil (k : Nat) : tabGet d [] k = d := rfl

theorem tabGet_tabSet (t : Tab α) (k : Nat) (v : α) (n : Nat) : tabGet d (tabSet t k v) n = if k = n then v else tabGet d t n := by
  induction t with
  | nil => simp [tabSet, tabGet]
  | cons e r ih =>
    obtain ⟨j, w⟩ := e
    by_cases h1 : k < j
    · simp [tabSet, h1, tabGet]
    · by_cases h2 : j = k
      · subst h2
        simp only [tabSet, Nat.lt_irrefl, if_false, if_true, tabGet]
        split <;> rfl
      · simp only [tabSet, h1, h2, if_false, tabGet, ih]
        by_cases h3 : j = n
        · subst h3
          simp [Ne.symm h2]
        · simp [h3]

@[simp] theorem tabGet_tabDrop (p : Nat → Bool) (t : Tab α) (n : Nat) : tabGet d (tabDrop p t) n = if p n then d else tabGet d t n := by
  induction t with
  | nil => simp [tabDrop]
  | cons e r ih =>
    obtain ⟨j, w⟩ := e
    unfold tabDrop at ih ⊢
    by_cases h : p j = true
    · rw [List.filter_cons_of_neg (by simp [h]), ih]
      by_cases hn : j = n
      · subst hn; simp [h]
      · simp [tabGet, hn]
    · rw [List.filter_cons_of_pos (by simp [h])]
      by_cases hn : j = n
      · subst hn; simp [tabGet, h]
      · simp [tabGet, hn, ih]

/-! ### Writes after writes -/

@[simp] theorem tabSet_tabSet (t : Tab α) (k : Nat) (v w : α) : tabSet (tabSet t k v) k w = tabSet t k w := by
  induction t with
  | nil => simp [tabSet]
  | cons e r ih =>
    obtain ⟨j, x⟩ := e
    simp only [tabSet]
    by_cases h1 : k < j
    · simp [h1, tabSet]
    · by_cases h2 : j = k
      · simp [h2, tabSet]
      · simp [h1, h2, tabSet, ih]

theorem tabDrop_tabSet (t : Tab α) (k : Nat) (v : α) : tabDrop (· = k) (tabSet t k v) = tabDrop (· = k) t := by
  induction t with
  | nil => simp [tabSet, tabDrop]
  | cons e r ih =>
    obtain ⟨j, x⟩ := e
    unfold tabDrop at ih ⊢
    simp only [tabSet]
    by_cases h1 : k < j
    · simp [h1]
    · by_cases h2 : j = k
      · simp [h2]
      · simp [h1, h2, ih]

variable [DecidableEq α]

/-- The second of two writes at one key counts, if the first lists the key. -/
theorem tabPut_tabPut (t : Tab α) (k : Nat) {v : α} (w : α) (h : v ≠ d) : tabPut d (tabPut d t k v) k w = tabPut d t k w := by
  simp only [tabPut, if_neg h, tabSet_tabSet, tabDrop_tabSet]

theorem tabGet_tabPut (t : Tab α) (k : Nat) (v : α) (n : Nat) : tabGet d (tabPut d t k v) n = if k = n then v else tabGet d t n := by
  unfold tabPut
  split
  · next h => subst h; rw [tabGet_tabDrop]; simp [eq_comm]
  · exact tabGet_tabSet t k v n

@[simp] theorem tabGet_tabPut_same (t : Tab α) (k : Nat) (v : α) : tabGet d (tabPut d t k v) k = v := by simp [tabGet_tabPut]

theorem tabGet_tabPut_ne (t : Tab α) {k n : Nat} (v : α) (h : k ≠ n) : tabGet d (tabPut d t k v) n = tabGet d t n := by
  simp [tabGet_tabPut, h]

theorem tabGet_tabMap (f : Nat → α → α) (t : Tab α) (n : Nat) (h : f n d = d) : tabGet d (tabMap d f t) n = f n (tabGet d t n) := by
  induction t with
  | nil => simp [tabMap, h]
  | cons e r ih =>
    obtain ⟨j, w⟩ := e
    by_cases h1 : f j w = d
    · simp only [tabMap, h1, if_true, tabGet_tabDrop, ih, tabGet, decide_eq_true_eq]
      by_cases hn : j = n
      · subst hn; simp [h1]
      · simp [hn, Ne.symm hn]
    · simp only [tabMap, h1, if_false, tabGet]
      by_cases hn : j = n
      · subst hn; simp
      · simp [hn, ih]

theorem tabGet_tabOfList (l : List α) (k n : Nat) : tabGet d (tabOfList d k l) n = if k ≤ n then l.getD (n - k) d else d := by
  induction l generalizing k with
  | nil => simp [tabOfList]
  | cons v r ih =>
    unfold tabOfList tabCons
    rcases Nat.lt_trichotomy n k with h | h | h
    · split
      · rw [ih]; simp [show ¬ k + 1 ≤ n by omega, show ¬ k ≤ n by omega]
      · simp [tabGet, show k ≠ n by omega, ih, show ¬ k + 1 ≤ n by omega, show ¬ k ≤ n by omega]
    · subst h
      split
      · next hv =>
        subst hv
        rw [ih, if_neg (show ¬ n + 1 ≤ n by omega), if_pos (Nat.le_refl n), Nat.sub_self]
        rfl
      · simp [tabGet]
    · obtain ⟨m, rfl⟩ : ∃ m, n = k + 1 + m := ⟨n - k - 1, by omega⟩
      have h2 : k + 1 + m - k = m + 1 := by omega
      split
      · rw [ih]; simp [h2, show k ≤ k + 1 + m by omega]
      · simp [tabGet, show k ≠ k + 1 + m by omega, ih, h2, show k ≤ k + 1 + m by omega]

/-! ### The canonical form -/

theorem tabWfFrom_mono {lo hi : Nat} (h : lo ≤ hi) : {t : Tab α} → tabWfFrom d hi t = true → tabWfFrom d lo t = true
  | [], _ => rfl
  | (j, v) :: r, ht => by
    simp only [tabWfFrom, Bool.and_eq_true, decide_eq_true_eq] at ht ⊢
    exact ⟨⟨by omega, ht.1.2⟩, ht.2⟩

theorem tabWfFrom_filter (p : Nat × α → Bool) : {lo : Nat} → {t : Tab α} → tabWfFrom d lo t = true → tabWfFrom d lo (t.filter p) = true
  | _, [], _ => rfl
  | lo, (j, v) :: r, ht => by
    simp only [tabWfFrom, Bool.and_eq_true, decide_eq_true_eq] at ht
    have ih := tabWfFrom_filter p (lo := j + 1) ht.2
    rw [List.filter_cons]
    split
    · simp only [tabWfFrom, Bool.and_eq_true, decide_eq_true_eq]; exact ⟨ht.1, ih⟩
    · exact tabWfFrom_mono (by omega) ih

theorem tabDrop_wf (p : Nat → Bool) {t : Tab α} (h : tabWf d t = true) : tabWf d (tabDrop p t) = true := tabWfFrom_filter _ h

theorem tabSet_wfFrom {k : Nat} {v : α} (hv : v ≠ d) : {lo : Nat} → {t : Tab α} → lo ≤ k → tabWfFrom d lo t = true →
    tabWfFrom d lo (tabSet t k v) = true
  | lo, [], hk, _ => by simp [tabSet, tabWfFrom, hk, hv]
  | lo, (j, w) :: r, hk, ht => by
    simp only [tabWfFrom, Bool.and_eq_true, decide_eq_true_eq] at ht
    by_cases h1 : k < j
    · simp only [tabSet, h1, if_true, tabWfFrom, Bool.and_eq_true, decide_eq_true_eq]
      exact ⟨⟨hk, hv⟩, ⟨by omega, ht.1.2⟩, ht.2⟩
    · by_cases h2 : j = k
      · subst h2
        simp only [tabSet, Nat.lt_irrefl, if_false, if_true, tabWfFrom, Bool.and_eq_true, decide_eq_true_eq]
        exact ⟨⟨hk, hv⟩, ht.2⟩
      · simp only [tabSet, h1, h2, if_false, tabWfFrom, Bool.and_eq_true, decide_eq_true_eq]
        exact ⟨ht.1, tabSet_wfFrom hv (by omega) ht.2⟩

theorem tabPut_wf (k : Nat) (v : α) {t : Tab α} (h : tabWf d t = true) : tabWf d (tabPut d t k v) = true := by
  unfold tabPut
  split
  · exact tabDrop_wf _ h
  · next hv => exact tabSet_wfFrom hv (Nat.zero_le k) h

theorem tabMap_wfFrom (f : Nat → α → α) : {lo : Nat} → {t : Tab α} → tabWfFrom d lo t = true → tabWfFrom d lo (tabMap d f t) = true
  | _, [], _ => rfl
  | lo, (j, v) :: r, ht => by
    simp only [tabWfFrom, Bool.and_eq_true, decide_eq_true_eq] at ht
    have ih := tabMap_wfFrom f (lo := j + 1) ht.2
    unfold tabMap
    split
    · exact tabWfFrom_filter _ (tabWfFrom_mono (by omega) ih)
    · next hv => simp only [tabWfFrom, Bool.and_eq_true, decide_eq_true_eq]; exact ⟨⟨ht.1.1, hv⟩, ih⟩

theorem tabMap_wf (f : Nat → α → α) {t : Tab α} (h : tabWf d t = true) : tabWf d (tabMap d f t) = true := tabMap_wfFrom f h

theorem tabOfList_wfFrom : (k : Nat) → (l : List α) → tabWfFrom d k (tabOfList d k l) = true
  | _, [] => rfl
  | k, v :: r => by
    have ih := tabOfList_wfFrom (k + 1) r
    unfold tabOfList tabCons
    split
    · exact tabWfFrom_mono (by omega) ih
    · next hv => simp [tabWfFrom, hv, ih]

/-- Every key of the table lies below a bound. -/
def tabBelow (hi : Nat) (t : Tab α) : Prop := ∀ e ∈ t, e.1 < hi

theorem tabOfList_below : (k : Nat) → (l : List α) → tabBelow (k + l.length) (tabOfList d k l)
  | _, [] => by simp [tabOfList, tabBelow]
  | k, v :: r => by
    have ih := tabOfList_below (k + 1) r
    intro e he
    unfold tabOfList tabCons at he
    simp only [List.length_cons]
    split at he
    · have := ih e he; omega
    · rcases List.mem_cons.1 he with rfl | he
      · simp only; omega
      · have := ih e he; omega

theorem tabWfFrom_append {hi : Nat} : {lo : Nat} → {t u : Tab α} → lo ≤ hi → tabWfFrom d lo t = true → tabBelow hi t →
    tabWfFrom d hi u = true → tabWfFrom d lo (t ++ u) = true
  | _, [], _, h, _, _, hu => tabWfFrom_mono h hu
  | lo, (j, v) :: r, u, h, ht, hb, hu => by
    simp only [tabWfFrom, Bool.and_eq_true, decide_eq_true_eq, List.cons_append] at ht ⊢
    have hj : j < hi := hb (j, v) (by simp)
    exact ⟨ht.1, tabWfFrom_append (by omega) ht.2 (fun e he => hb e (by simp [he])) hu⟩

theorem tabWfFrom_above (hi : Nat) : {lo : Nat} → {t : Tab α} → tabWfFrom d lo t = true → tabWfFrom d hi (t.filter fun e => hi ≤ e.1) = true
  | _, [], _ => rfl
  | lo, (j, v) :: r, ht => by
    simp only [tabWfFrom, Bool.and_eq_true, decide_eq_true_eq] at ht
    rw [List.filter_cons]
    split
    · next h =>
      simp only [decide_eq_true_eq] at h
      simp only [tabWfFrom, Bool.and_eq_true, decide_eq_true_eq]
      exact ⟨⟨h, ht.1.2⟩, tabWfFrom_filter _ ht.2⟩
    · exact tabWfFrom_above hi ht.2

theorem tabReplace_wf (lo n : Nat) (l : List α) {t : Tab α} (h : tabWf d t = true) : tabWf d (tabReplace d lo n l t) = true := by
  unfold tabReplace tabWf
  have h1 : tabBelow lo (t.filter fun e => e.1 < lo) := by
    intro e he; simpa using (List.mem_filter.1 he).2
  have h2 : tabWfFrom d lo (tabOfList d lo (l.take n) ++ t.filter fun e => lo + n ≤ e.1) = true :=
    tabWfFrom_append (hi := lo + n) (by omega) (tabOfList_wfFrom lo _)
      (fun e he => by have := tabOfList_below lo (l.take n) e he; have := List.length_take_le n l; omega) (tabWfFrom_above _ h)
  rw [List.append_assoc]
  exact tabWfFrom_append (Nat.zero_le lo) (tabWfFrom_filter _ h) h1 h2

end Sys2Proof
end

