-- ==== Sys2Proof/Laws/State.lean ====
section
/-! SUPPORT. What each update of the state does to each of its fields, so that no proof unfolds a record update; and reading back what
has been put. -/

namespace Sys2Proof.Machine

/-! ### setCore -/

@[simp] theorem State.setCore_time (s : State) (c : BitVec 10) (k : Core) : (s.setCore c k).time = s.time := rfl
@[simp] theorem State.setCore_power (s : State) (c : BitVec 10) (k : Core) : (s.setCore c k).power = s.power := rfl
@[simp] theorem State.setCore_links (s : State) (c : BitVec 10) (k : Core) : (s.setCore c k).links = s.links := rfl
@[simp] theorem State.setCore_owner (s : State) (c : BitVec 10) (k : Core) : (s.setCore c k).owner = s.owner := rfl
@[simp] theorem State.setCore_mgmt (s : State) (c : BitVec 10) (k : Core) : (s.setCore c k).mgmt = s.mgmt := rfl
@[simp] theorem State.setCore_trace (s : State) (c : BitVec 10) (k : Core) : (s.setCore c k).trace = s.trace := rfl
@[simp] theorem State.setCore_sched (s : State) (c : BitVec 10) (k : Core) : (s.setCore c k).sched = s.sched := rfl
@[simp] theorem State.setCore_mem (s : State) (c : BitVec 10) (k : Core) : (s.setCore c k).mem = s.mem := rfl
@[simp] theorem State.setCore_clusters (s : State) (c : BitVec 10) (k : Core) : (s.setCore c k).clusters = s.clusters := rfl
@[simp] theorem State.setCore_freeCount (s : State) (c : BitVec 10) (k : Core) : (s.setCore c k).freeCount = s.freeCount := rfl
@[simp] theorem State.setCore_inbox (s : State) (c : BitVec 10) (k : Core) : (s.setCore c k).inbox = s.inbox := rfl
@[simp] theorem State.setCore_agenda (s : State) (c : BitVec 10) (k : Core) : (s.setCore c k).agenda = s.agenda := rfl
@[simp] theorem State.setCore_cur (s : State) (c : BitVec 10) (k : Core) : (s.setCore c k).cur = s.cur := rfl
@[simp] theorem State.setCore_ev (s : State) (c : BitVec 10) (k : Core) : (s.setCore c k).ev = s.ev := rfl

/-! ### mapCore -/

@[simp] theorem State.mapCore_time (s : State) (c : BitVec 10) (f : Core → Core) : (s.mapCore c f).time = s.time := rfl
@[simp] theorem State.mapCore_power (s : State) (c : BitVec 10) (f : Core → Core) : (s.mapCore c f).power = s.power := rfl
@[simp] theorem State.mapCore_links (s : State) (c : BitVec 10) (f : Core → Core) : (s.mapCore c f).links = s.links := rfl
@[simp] theorem State.mapCore_owner (s : State) (c : BitVec 10) (f : Core → Core) : (s.mapCore c f).owner = s.owner := rfl
@[simp] theorem State.mapCore_mgmt (s : State) (c : BitVec 10) (f : Core → Core) : (s.mapCore c f).mgmt = s.mgmt := rfl
@[simp] theorem State.mapCore_trace (s : State) (c : BitVec 10) (f : Core → Core) : (s.mapCore c f).trace = s.trace := rfl
@[simp] theorem State.mapCore_sched (s : State) (c : BitVec 10) (f : Core → Core) : (s.mapCore c f).sched = s.sched := rfl
@[simp] theorem State.mapCore_mem (s : State) (c : BitVec 10) (f : Core → Core) : (s.mapCore c f).mem = s.mem := rfl
@[simp] theorem State.mapCore_clusters (s : State) (c : BitVec 10) (f : Core → Core) : (s.mapCore c f).clusters = s.clusters := rfl
@[simp] theorem State.mapCore_freeCount (s : State) (c : BitVec 10) (f : Core → Core) : (s.mapCore c f).freeCount = s.freeCount := rfl
@[simp] theorem State.mapCore_inbox (s : State) (c : BitVec 10) (f : Core → Core) : (s.mapCore c f).inbox = s.inbox := rfl
@[simp] theorem State.mapCore_agenda (s : State) (c : BitVec 10) (f : Core → Core) : (s.mapCore c f).agenda = s.agenda := rfl
@[simp] theorem State.mapCore_cur (s : State) (c : BitVec 10) (f : Core → Core) : (s.mapCore c f).cur = s.cur := rfl
@[simp] theorem State.mapCore_ev (s : State) (c : BitVec 10) (f : Core → Core) : (s.mapCore c f).ev = s.ev := rfl

/-! ### mapThread -/

@[simp] theorem State.mapThread_time (s : State) (c : BitVec 10) (n : BitVec 3) (f : Thread → Thread) : (s.mapThread c n f).time = s.time := rfl
@[simp] theorem State.mapThread_power (s : State) (c : BitVec 10) (n : BitVec 3) (f : Thread → Thread) : (s.mapThread c n f).power = s.power := rfl
@[simp] theorem State.mapThread_links (s : State) (c : BitVec 10) (n : BitVec 3) (f : Thread → Thread) : (s.mapThread c n f).links = s.links := rfl
@[simp] theorem State.mapThread_owner (s : State) (c : BitVec 10) (n : BitVec 3) (f : Thread → Thread) : (s.mapThread c n f).owner = s.owner := rfl
@[simp] theorem State.mapThread_mgmt (s : State) (c : BitVec 10) (n : BitVec 3) (f : Thread → Thread) : (s.mapThread c n f).mgmt = s.mgmt := rfl
@[simp] theorem State.mapThread_trace (s : State) (c : BitVec 10) (n : BitVec 3) (f : Thread → Thread) : (s.mapThread c n f).trace = s.trace := rfl
@[simp] theorem State.mapThread_sched (s : State) (c : BitVec 10) (n : BitVec 3) (f : Thread → Thread) : (s.mapThread c n f).sched = s.sched := rfl
@[simp] theorem State.mapThread_mem (s : State) (c : BitVec 10) (n : BitVec 3) (f : Thread → Thread) : (s.mapThread c n f).mem = s.mem := rfl
@[simp] theorem State.mapThread_clusters (s : State) (c : BitVec 10) (n : BitVec 3) (f : Thread → Thread) : (s.mapThread c n f).clusters = s.clusters := rfl
@[simp] theorem State.mapThread_freeCount (s : State) (c : BitVec 10) (n : BitVec 3) (f : Thread → Thread) : (s.mapThread c n f).freeCount = s.freeCount := rfl
@[simp] theorem State.mapThread_inbox (s : State) (c : BitVec 10) (n : BitVec 3) (f : Thread → Thread) : (s.mapThread c n f).inbox = s.inbox := rfl
@[simp] theorem State.mapThread_agenda (s : State) (c : BitVec 10) (n : BitVec 3) (f : Thread → Thread) : (s.mapThread c n f).agenda = s.agenda := rfl
@[simp] theorem State.mapThread_cur (s : State) (c : BitVec 10) (n : BitVec 3) (f : Thread → Thread) : (s.mapThread c n f).cur = s.cur := rfl
@[simp] theorem State.mapThread_ev (s : State) (c : BitVec 10) (n : BitVec 3) (f : Thread → Thread) : (s.mapThread c n f).ev = s.ev := rfl

/-! ### mapCluster -/

@[simp] theorem State.mapCluster_time (s : State) (n : BitVec 6) (f : Cluster → Cluster) : (s.mapCluster n f).time = s.time := rfl
@[simp] theorem State.mapCluster_power (s : State) (n : BitVec 6) (f : Cluster → Cluster) : (s.mapCluster n f).power = s.power := rfl
@[simp] theorem State.mapCluster_links (s : State) (n : BitVec 6) (f : Cluster → Cluster) : (s.mapCluster n f).links = s.links := rfl
@[simp] theorem State.mapCluster_owner (s : State) (n : BitVec 6) (f : Cluster → Cluster) : (s.mapCluster n f).owner = s.owner := rfl
@[simp] theorem State.mapCluster_mgmt (s : State) (n : BitVec 6) (f : Cluster → Cluster) : (s.mapCluster n f).mgmt = s.mgmt := rfl
@[simp] theorem State.mapCluster_trace (s : State) (n : BitVec 6) (f : Cluster → Cluster) : (s.mapCluster n f).trace = s.trace := rfl
@[simp] theorem State.mapCluster_sched (s : State) (n : BitVec 6) (f : Cluster → Cluster) : (s.mapCluster n f).sched = s.sched := rfl
@[simp] theorem State.mapCluster_mem (s : State) (n : BitVec 6) (f : Cluster → Cluster) : (s.mapCluster n f).mem = s.mem := rfl
@[simp] theorem State.mapCluster_cores (s : State) (n : BitVec 6) (f : Cluster → Cluster) : (s.mapCluster n f).cores = s.cores := rfl
@[simp] theorem State.mapCluster_freeCount (s : State) (n : BitVec 6) (f : Cluster → Cluster) : (s.mapCluster n f).freeCount = s.freeCount := rfl
@[simp] theorem State.mapCluster_inbox (s : State) (n : BitVec 6) (f : Cluster → Cluster) : (s.mapCluster n f).inbox = s.inbox := rfl
@[simp] theorem State.mapCluster_agenda (s : State) (n : BitVec 6) (f : Cluster → Cluster) : (s.mapCluster n f).agenda = s.agenda := rfl
@[simp] theorem State.mapCluster_cur (s : State) (n : BitVec 6) (f : Cluster → Cluster) : (s.mapCluster n f).cur = s.cur := rfl
@[simp] theorem State.mapCluster_ev (s : State) (n : BitVec 6) (f : Cluster → Cluster) : (s.mapCluster n f).ev = s.ev := rfl

/-! ### mapMem -/

@[simp] theorem State.mapMem_time (s : State) (f : Mem → Mem) : (s.mapMem f).time = s.time := rfl
@[simp] theorem State.mapMem_power (s : State) (f : Mem → Mem) : (s.mapMem f).power = s.power := rfl
@[simp] theorem State.mapMem_links (s : State) (f : Mem → Mem) : (s.mapMem f).links = s.links := rfl
@[simp] theorem State.mapMem_owner (s : State) (f : Mem → Mem) : (s.mapMem f).owner = s.owner := rfl
@[simp] theorem State.mapMem_mgmt (s : State) (f : Mem → Mem) : (s.mapMem f).mgmt = s.mgmt := rfl
@[simp] theorem State.mapMem_trace (s : State) (f : Mem → Mem) : (s.mapMem f).trace = s.trace := rfl
@[simp] theorem State.mapMem_sched (s : State) (f : Mem → Mem) : (s.mapMem f).sched = s.sched := rfl
@[simp] theorem State.mapMem_mem (s : State) (f : Mem → Mem) : (s.mapMem f).mem = f s.mem := rfl
@[simp] theorem State.mapMem_clusters (s : State) (f : Mem → Mem) : (s.mapMem f).clusters = s.clusters := rfl
@[simp] theorem State.mapMem_cores (s : State) (f : Mem → Mem) : (s.mapMem f).cores = s.cores := rfl
@[simp] theorem State.mapMem_freeCount (s : State) (f : Mem → Mem) : (s.mapMem f).freeCount = s.freeCount := rfl
@[simp] theorem State.mapMem_inbox (s : State) (f : Mem → Mem) : (s.mapMem f).inbox = s.inbox := rfl
@[simp] theorem State.mapMem_agenda (s : State) (f : Mem → Mem) : (s.mapMem f).agenda = s.agenda := rfl
@[simp] theorem State.mapMem_cur (s : State) (f : Mem → Mem) : (s.mapMem f).cur = s.cur := rfl
@[simp] theorem State.mapMem_ev (s : State) (f : Mem → Mem) : (s.mapMem f).ev = s.ev := rfl

/-! ### mapSlice -/

@[simp] theorem State.mapSlice_time (s : State) (n : BitVec 8) (f : Slice → Slice) : (s.mapSlice n f).time = s.time := rfl
@[simp] theorem State.mapSlice_power (s : State) (n : BitVec 8) (f : Slice → Slice) : (s.mapSlice n f).power = s.power := rfl
@[simp] theorem State.mapSlice_links (s : State) (n : BitVec 8) (f : Slice → Slice) : (s.mapSlice n f).links = s.links := rfl
@[simp] theorem State.mapSlice_owner (s : State) (n : BitVec 8) (f : Slice → Slice) : (s.mapSlice n f).owner = s.owner := rfl
@[simp] theorem State.mapSlice_mgmt (s : State) (n : BitVec 8) (f : Slice → Slice) : (s.mapSlice n f).mgmt = s.mgmt := rfl
@[simp] theorem State.mapSlice_trace (s : State) (n : BitVec 8) (f : Slice → Slice) : (s.mapSlice n f).trace = s.trace := rfl
@[simp] theorem State.mapSlice_sched (s : State) (n : BitVec 8) (f : Slice → Slice) : (s.mapSlice n f).sched = s.sched := rfl
@[simp] theorem State.mapSlice_clusters (s : State) (n : BitVec 8) (f : Slice → Slice) : (s.mapSlice n f).clusters = s.clusters := rfl
@[simp] theorem State.mapSlice_cores (s : State) (n : BitVec 8) (f : Slice → Slice) : (s.mapSlice n f).cores = s.cores := rfl
@[simp] theorem State.mapSlice_freeCount (s : State) (n : BitVec 8) (f : Slice → Slice) : (s.mapSlice n f).freeCount = s.freeCount := rfl
@[simp] theorem State.mapSlice_inbox (s : State) (n : BitVec 8) (f : Slice → Slice) : (s.mapSlice n f).inbox = s.inbox := rfl
@[simp] theorem State.mapSlice_agenda (s : State) (n : BitVec 8) (f : Slice → Slice) : (s.mapSlice n f).agenda = s.agenda := rfl
@[simp] theorem State.mapSlice_cur (s : State) (n : BitVec 8) (f : Slice → Slice) : (s.mapSlice n f).cur = s.cur := rfl
@[simp] theorem State.mapSlice_ev (s : State) (n : BitVec 8) (f : Slice → Slice) : (s.mapSlice n f).ev = s.ev := rfl

/-! ### mapSched -/

@[simp] theorem State.mapSched_time (s : State) (f : Sched → Sched) : (s.mapSched f).time = s.time := rfl
@[simp] theorem State.mapSched_power (s : State) (f : Sched → Sched) : (s.mapSched f).power = s.power := rfl
@[simp] theorem State.mapSched_links (s : State) (f : Sched → Sched) : (s.mapSched f).links = s.links := rfl
@[simp] theorem State.mapSched_owner (s : State) (f : Sched → Sched) : (s.mapSched f).owner = s.owner := rfl
@[simp] theorem State.mapSched_mgmt (s : State) (f : Sched → Sched) : (s.mapSched f).mgmt = s.mgmt := rfl
@[simp] theorem State.mapSched_trace (s : State) (f : Sched → Sched) : (s.mapSched f).trace = s.trace := rfl
@[simp] theorem State.mapSched_sched (s : State) (f : Sched → Sched) : (s.mapSched f).sched = f s.sched := rfl
@[simp] theorem State.mapSched_mem (s : State) (f : Sched → Sched) : (s.mapSched f).mem = s.mem := rfl
@[simp] theorem State.mapSched_clusters (s : State) (f : Sched → Sched) : (s.mapSched f).clusters = s.clusters := rfl
@[simp] theorem State.mapSched_cores (s : State) (f : Sched → Sched) : (s.mapSched f).cores = s.cores := rfl
@[simp] theorem State.mapSched_freeCount (s : State) (f : Sched → Sched) : (s.mapSched f).freeCount = s.freeCount := rfl
@[simp] theorem State.mapSched_inbox (s : State) (f : Sched → Sched) : (s.mapSched f).inbox = s.inbox := rfl
@[simp] theorem State.mapSched_agenda (s : State) (f : Sched → Sched) : (s.mapSched f).agenda = s.agenda := rfl
@[simp] theorem State.mapSched_cur (s : State) (f : Sched → Sched) : (s.mapSched f).cur = s.cur := rfl
@[simp] theorem State.mapSched_ev (s : State) (f : Sched → Sched) : (s.mapSched f).ev = s.ev := rfl

/-! ### mapCtx -/

@[simp] theorem State.mapCtx_time (s : State) (n : BitVec 6) (f : Ctx → Ctx) : (s.mapCtx n f).time = s.time := rfl
@[simp] theorem State.mapCtx_power (s : State) (n : BitVec 6) (f : Ctx → Ctx) : (s.mapCtx n f).power = s.power := rfl
@[simp] theorem State.mapCtx_links (s : State) (n : BitVec 6) (f : Ctx → Ctx) : (s.mapCtx n f).links = s.links := rfl
@[simp] theorem State.mapCtx_owner (s : State) (n : BitVec 6) (f : Ctx → Ctx) : (s.mapCtx n f).owner = s.owner := rfl
@[simp] theorem State.mapCtx_mgmt (s : State) (n : BitVec 6) (f : Ctx → Ctx) : (s.mapCtx n f).mgmt = s.mgmt := rfl
@[simp] theorem State.mapCtx_trace (s : State) (n : BitVec 6) (f : Ctx → Ctx) : (s.mapCtx n f).trace = s.trace := rfl
@[simp] theorem State.mapCtx_mem (s : State) (n : BitVec 6) (f : Ctx → Ctx) : (s.mapCtx n f).mem = s.mem := rfl
@[simp] theorem State.mapCtx_clusters (s : State) (n : BitVec 6) (f : Ctx → Ctx) : (s.mapCtx n f).clusters = s.clusters := rfl
@[simp] theorem State.mapCtx_cores (s : State) (n : BitVec 6) (f : Ctx → Ctx) : (s.mapCtx n f).cores = s.cores := rfl
@[simp] theorem State.mapCtx_freeCount (s : State) (n : BitVec 6) (f : Ctx → Ctx) : (s.mapCtx n f).freeCount = s.freeCount := rfl
@[simp] theorem State.mapCtx_inbox (s : State) (n : BitVec 6) (f : Ctx → Ctx) : (s.mapCtx n f).inbox = s.inbox := rfl
@[simp] theorem State.mapCtx_agenda (s : State) (n : BitVec 6) (f : Ctx → Ctx) : (s.mapCtx n f).agenda = s.agenda := rfl
@[simp] theorem State.mapCtx_cur (s : State) (n : BitVec 6) (f : Ctx → Ctx) : (s.mapCtx n f).cur = s.cur := rfl
@[simp] theorem State.mapCtx_ev (s : State) (n : BitVec 6) (f : Ctx → Ctx) : (s.mapCtx n f).ev = s.ev := rfl

/-! ### setOcc -/

@[simp] theorem State.setOcc_time (s : State) (n : Nat) (o : Option Occ) : (s.setOcc n o).time = s.time := rfl
@[simp] theorem State.setOcc_power (s : State) (n : Nat) (o : Option Occ) : (s.setOcc n o).power = s.power := rfl
@[simp] theorem State.setOcc_links (s : State) (n : Nat) (o : Option Occ) : (s.setOcc n o).links = s.links := rfl
@[simp] theorem State.setOcc_owner (s : State) (n : Nat) (o : Option Occ) : (s.setOcc n o).owner = s.owner := rfl
@[simp] theorem State.setOcc_mgmt (s : State) (n : Nat) (o : Option Occ) : (s.setOcc n o).mgmt = s.mgmt := rfl
@[simp] theorem State.setOcc_trace (s : State) (n : Nat) (o : Option Occ) : (s.setOcc n o).trace = s.trace := rfl
@[simp] theorem State.setOcc_mem (s : State) (n : Nat) (o : Option Occ) : (s.setOcc n o).mem = s.mem := rfl
@[simp] theorem State.setOcc_clusters (s : State) (n : Nat) (o : Option Occ) : (s.setOcc n o).clusters = s.clusters := rfl
@[simp] theorem State.setOcc_cores (s : State) (n : Nat) (o : Option Occ) : (s.setOcc n o).cores = s.cores := rfl
@[simp] theorem State.setOcc_freeCount (s : State) (n : Nat) (o : Option Occ) : (s.setOcc n o).freeCount = s.freeCount := rfl
@[simp] theorem State.setOcc_inbox (s : State) (n : Nat) (o : Option Occ) : (s.setOcc n o).inbox = s.inbox := rfl
@[simp] theorem State.setOcc_agenda (s : State) (n : Nat) (o : Option Occ) : (s.setOcc n o).agenda = s.agenda := rfl
@[simp] theorem State.setOcc_cur (s : State) (n : Nat) (o : Option Occ) : (s.setOcc n o).cur = s.cur := rfl
@[simp] theorem State.setOcc_ev (s : State) (n : Nat) (o : Option Occ) : (s.setOcc n o).ev = s.ev := rfl

/-! ### mapOcc -/

@[simp] theorem State.mapOcc_time (s : State) (n : Nat) (f : Occ → Occ) : (s.mapOcc n f).time = s.time := rfl
@[simp] theorem State.mapOcc_power (s : State) (n : Nat) (f : Occ → Occ) : (s.mapOcc n f).power = s.power := rfl
@[simp] theorem State.mapOcc_links (s : State) (n : Nat) (f : Occ → Occ) : (s.mapOcc n f).links = s.links := rfl
@[simp] theorem State.mapOcc_owner (s : State) (n : Nat) (f : Occ → Occ) : (s.mapOcc n f).owner = s.owner := rfl
@[simp] theorem State.mapOcc_mgmt (s : State) (n : Nat) (f : Occ → Occ) : (s.mapOcc n f).mgmt = s.mgmt := rfl
@[simp] theorem State.mapOcc_trace (s : State) (n : Nat) (f : Occ → Occ) : (s.mapOcc n f).trace = s.trace := rfl
@[simp] theorem State.mapOcc_mem (s : State) (n : Nat) (f : Occ → Occ) : (s.mapOcc n f).mem = s.mem := rfl
@[simp] theorem State.mapOcc_clusters (s : State) (n : Nat) (f : Occ → Occ) : (s.mapOcc n f).clusters = s.clusters := rfl
@[simp] theorem State.mapOcc_cores (s : State) (n : Nat) (f : Occ → Occ) : (s.mapOcc n f).cores = s.cores := rfl
@[simp] theorem State.mapOcc_freeCount (s : State) (n : Nat) (f : Occ → Occ) : (s.mapOcc n f).freeCount = s.freeCount := rfl
@[simp] theorem State.mapOcc_inbox (s : State) (n : Nat) (f : Occ → Occ) : (s.mapOcc n f).inbox = s.inbox := rfl
@[simp] theorem State.mapOcc_agenda (s : State) (n : Nat) (f : Occ → Occ) : (s.mapOcc n f).agenda = s.agenda := rfl
@[simp] theorem State.mapOcc_cur (s : State) (n : Nat) (f : Occ → Occ) : (s.mapOcc n f).cur = s.cur := rfl
@[simp] theorem State.mapOcc_ev (s : State) (n : Nat) (f : Occ → Occ) : (s.mapOcc n f).ev = s.ev := rfl

/-! ### mapHalKey -/

@[simp] theorem State.mapHalKey_time (s : State) (n : Nat) (f : Hal → Hal) : (s.mapHalKey n f).time = s.time := rfl
@[simp] theorem State.mapHalKey_power (s : State) (n : Nat) (f : Hal → Hal) : (s.mapHalKey n f).power = s.power := rfl
@[simp] theorem State.mapHalKey_links (s : State) (n : Nat) (f : Hal → Hal) : (s.mapHalKey n f).links = s.links := rfl
@[simp] theorem State.mapHalKey_owner (s : State) (n : Nat) (f : Hal → Hal) : (s.mapHalKey n f).owner = s.owner := rfl
@[simp] theorem State.mapHalKey_mgmt (s : State) (n : Nat) (f : Hal → Hal) : (s.mapHalKey n f).mgmt = s.mgmt := rfl
@[simp] theorem State.mapHalKey_trace (s : State) (n : Nat) (f : Hal → Hal) : (s.mapHalKey n f).trace = s.trace := rfl
@[simp] theorem State.mapHalKey_mem (s : State) (n : Nat) (f : Hal → Hal) : (s.mapHalKey n f).mem = s.mem := rfl
@[simp] theorem State.mapHalKey_clusters (s : State) (n : Nat) (f : Hal → Hal) : (s.mapHalKey n f).clusters = s.clusters := rfl
@[simp] theorem State.mapHalKey_cores (s : State) (n : Nat) (f : Hal → Hal) : (s.mapHalKey n f).cores = s.cores := rfl
@[simp] theorem State.mapHalKey_freeCount (s : State) (n : Nat) (f : Hal → Hal) : (s.mapHalKey n f).freeCount = s.freeCount := rfl
@[simp] theorem State.mapHalKey_inbox (s : State) (n : Nat) (f : Hal → Hal) : (s.mapHalKey n f).inbox = s.inbox := rfl
@[simp] theorem State.mapHalKey_agenda (s : State) (n : Nat) (f : Hal → Hal) : (s.mapHalKey n f).agenda = s.agenda := rfl
@[simp] theorem State.mapHalKey_cur (s : State) (n : Nat) (f : Hal → Hal) : (s.mapHalKey n f).cur = s.cur := rfl
@[simp] theorem State.mapHalKey_ev (s : State) (n : Nat) (f : Hal → Hal) : (s.mapHalKey n f).ev = s.ev := rfl

/-! ### mapHal -/

@[simp] theorem State.mapHal_time (s : State) (x : BitVec 6) (n : BitVec 12) (f : Hal → Hal) : (s.mapHal x n f).time = s.time := rfl
@[simp] theorem State.mapHal_power (s : State) (x : BitVec 6) (n : BitVec 12) (f : Hal → Hal) : (s.mapHal x n f).power = s.power := rfl
@[simp] theorem State.mapHal_links (s : State) (x : BitVec 6) (n : BitVec 12) (f : Hal → Hal) : (s.mapHal x n f).links = s.links := rfl
@[simp] theorem State.mapHal_owner (s : State) (x : BitVec 6) (n : BitVec 12) (f : Hal → Hal) : (s.mapHal x n f).owner = s.owner := rfl
@[simp] theorem State.mapHal_mgmt (s : State) (x : BitVec 6) (n : BitVec 12) (f : Hal → Hal) : (s.mapHal x n f).mgmt = s.mgmt := rfl
@[simp] theorem State.mapHal_trace (s : State) (x : BitVec 6) (n : BitVec 12) (f : Hal → Hal) : (s.mapHal x n f).trace = s.trace := rfl
@[simp] theorem State.mapHal_mem (s : State) (x : BitVec 6) (n : BitVec 12) (f : Hal → Hal) : (s.mapHal x n f).mem = s.mem := rfl
@[simp] theorem State.mapHal_clusters (s : State) (x : BitVec 6) (n : BitVec 12) (f : Hal → Hal) : (s.mapHal x n f).clusters = s.clusters := rfl
@[simp] theorem State.mapHal_cores (s : State) (x : BitVec 6) (n : BitVec 12) (f : Hal → Hal) : (s.mapHal x n f).cores = s.cores := rfl
@[simp] theorem State.mapHal_freeCount (s : State) (x : BitVec 6) (n : BitVec 12) (f : Hal → Hal) : (s.mapHal x n f).freeCount = s.freeCount := rfl
@[simp] theorem State.mapHal_inbox (s : State) (x : BitVec 6) (n : BitVec 12) (f : Hal → Hal) : (s.mapHal x n f).inbox = s.inbox := rfl
@[simp] theorem State.mapHal_agenda (s : State) (x : BitVec 6) (n : BitVec 12) (f : Hal → Hal) : (s.mapHal x n f).agenda = s.agenda := rfl
@[simp] theorem State.mapHal_cur (s : State) (x : BitVec 6) (n : BitVec 12) (f : Hal → Hal) : (s.mapHal x n f).cur = s.cur := rfl
@[simp] theorem State.mapHal_ev (s : State) (x : BitVec 6) (n : BitVec 12) (f : Hal → Hal) : (s.mapHal x n f).ev = s.ev := rfl

/-! ### mapLink -/

@[simp] theorem State.mapLink_time (s : State) (n : BitVec 4) (f : Link → Link) : (s.mapLink n f).time = s.time := rfl
@[simp] theorem State.mapLink_power (s : State) (n : BitVec 4) (f : Link → Link) : (s.mapLink n f).power = s.power := rfl
@[simp] theorem State.mapLink_owner (s : State) (n : BitVec 4) (f : Link → Link) : (s.mapLink n f).owner = s.owner := rfl
@[simp] theorem State.mapLink_mgmt (s : State) (n : BitVec 4) (f : Link → Link) : (s.mapLink n f).mgmt = s.mgmt := rfl
@[simp] theorem State.mapLink_trace (s : State) (n : BitVec 4) (f : Link → Link) : (s.mapLink n f).trace = s.trace := rfl
@[simp] theorem State.mapLink_sched (s : State) (n : BitVec 4) (f : Link → Link) : (s.mapLink n f).sched = s.sched := rfl
@[simp] theorem State.mapLink_mem (s : State) (n : BitVec 4) (f : Link → Link) : (s.mapLink n f).mem = s.mem := rfl
@[simp] theorem State.mapLink_clusters (s : State) (n : BitVec 4) (f : Link → Link) : (s.mapLink n f).clusters = s.clusters := rfl
@[simp] theorem State.mapLink_cores (s : State) (n : BitVec 4) (f : Link → Link) : (s.mapLink n f).cores = s.cores := rfl
@[simp] theorem State.mapLink_freeCount (s : State) (n : BitVec 4) (f : Link → Link) : (s.mapLink n f).freeCount = s.freeCount := rfl
@[simp] theorem State.mapLink_inbox (s : State) (n : BitVec 4) (f : Link → Link) : (s.mapLink n f).inbox = s.inbox := rfl
@[simp] theorem State.mapLink_agenda (s : State) (n : BitVec 4) (f : Link → Link) : (s.mapLink n f).agenda = s.agenda := rfl
@[simp] theorem State.mapLink_cur (s : State) (n : BitVec 4) (f : Link → Link) : (s.mapLink n f).cur = s.cur := rfl
@[simp] theorem State.mapLink_ev (s : State) (n : BitVec 4) (f : Link → Link) : (s.mapLink n f).ev = s.ev := rfl

/-! ### mapTrace -/

@[simp] theorem State.mapTrace_time (s : State) (n : BitVec 2) (f : TraceQ → TraceQ) : (s.mapTrace n f).time = s.time := rfl
@[simp] theorem State.mapTrace_power (s : State) (n : BitVec 2) (f : TraceQ → TraceQ) : (s.mapTrace n f).power = s.power := rfl
@[simp] theorem State.mapTrace_links (s : State) (n : BitVec 2) (f : TraceQ → TraceQ) : (s.mapTrace n f).links = s.links := rfl
@[simp] theorem State.mapTrace_owner (s : State) (n : BitVec 2) (f : TraceQ → TraceQ) : (s.mapTrace n f).owner = s.owner := rfl
@[simp] theorem State.mapTrace_mgmt (s : State) (n : BitVec 2) (f : TraceQ → TraceQ) : (s.mapTrace n f).mgmt = s.mgmt := rfl
@[simp] theorem State.mapTrace_sched (s : State) (n : BitVec 2) (f : TraceQ → TraceQ) : (s.mapTrace n f).sched = s.sched := rfl
@[simp] theorem State.mapTrace_mem (s : State) (n : BitVec 2) (f : TraceQ → TraceQ) : (s.mapTrace n f).mem = s.mem := rfl
@[simp] theorem State.mapTrace_clusters (s : State) (n : BitVec 2) (f : TraceQ → TraceQ) : (s.mapTrace n f).clusters = s.clusters := rfl
@[simp] theorem State.mapTrace_cores (s : State) (n : BitVec 2) (f : TraceQ → TraceQ) : (s.mapTrace n f).cores = s.cores := rfl
@[simp] theorem State.mapTrace_freeCount (s : State) (n : BitVec 2) (f : TraceQ → TraceQ) : (s.mapTrace n f).freeCount = s.freeCount := rfl
@[simp] theorem State.mapTrace_inbox (s : State) (n : BitVec 2) (f : TraceQ → TraceQ) : (s.mapTrace n f).inbox = s.inbox := rfl
@[simp] theorem State.mapTrace_agenda (s : State) (n : BitVec 2) (f : TraceQ → TraceQ) : (s.mapTrace n f).agenda = s.agenda := rfl
@[simp] theorem State.mapTrace_cur (s : State) (n : BitVec 2) (f : TraceQ → TraceQ) : (s.mapTrace n f).cur = s.cur := rfl
@[simp] theorem State.mapTrace_ev (s : State) (n : BitVec 2) (f : TraceQ → TraceQ) : (s.mapTrace n f).ev = s.ev := rfl

/-! ### mapMgmt -/

@[simp] theorem State.mapMgmt_time (s : State) (f : Mgmt → Mgmt) : (s.mapMgmt f).time = s.time := rfl
@[simp] theorem State.mapMgmt_power (s : State) (f : Mgmt → Mgmt) : (s.mapMgmt f).power = s.power := rfl
@[simp] theorem State.mapMgmt_links (s : State) (f : Mgmt → Mgmt) : (s.mapMgmt f).links = s.links := rfl
@[simp] theorem State.mapMgmt_owner (s : State) (f : Mgmt → Mgmt) : (s.mapMgmt f).owner = s.owner := rfl
@[simp] theorem State.mapMgmt_mgmt (s : State) (f : Mgmt → Mgmt) : (s.mapMgmt f).mgmt = f s.mgmt := rfl
@[simp] theorem State.mapMgmt_trace (s : State) (f : Mgmt → Mgmt) : (s.mapMgmt f).trace = s.trace := rfl
@[simp] theorem State.mapMgmt_sched (s : State) (f : Mgmt → Mgmt) : (s.mapMgmt f).sched = s.sched := rfl
@[simp] theorem State.mapMgmt_mem (s : State) (f : Mgmt → Mgmt) : (s.mapMgmt f).mem = s.mem := rfl
@[simp] theorem State.mapMgmt_clusters (s : State) (f : Mgmt → Mgmt) : (s.mapMgmt f).clusters = s.clusters := rfl
@[simp] theorem State.mapMgmt_cores (s : State) (f : Mgmt → Mgmt) : (s.mapMgmt f).cores = s.cores := rfl
@[simp] theorem State.mapMgmt_freeCount (s : State) (f : Mgmt → Mgmt) : (s.mapMgmt f).freeCount = s.freeCount := rfl
@[simp] theorem State.mapMgmt_inbox (s : State) (f : Mgmt → Mgmt) : (s.mapMgmt f).inbox = s.inbox := rfl
@[simp] theorem State.mapMgmt_agenda (s : State) (f : Mgmt → Mgmt) : (s.mapMgmt f).agenda = s.agenda := rfl
@[simp] theorem State.mapMgmt_cur (s : State) (f : Mgmt → Mgmt) : (s.mapMgmt f).cur = s.cur := rfl
@[simp] theorem State.mapMgmt_ev (s : State) (f : Mgmt → Mgmt) : (s.mapMgmt f).ev = s.ev := rfl

/-! ### mapTime -/

@[simp] theorem State.mapTime_time (s : State) (f : TimeBase → TimeBase) : (s.mapTime f).time = f s.time := rfl
@[simp] theorem State.mapTime_power (s : State) (f : TimeBase → TimeBase) : (s.mapTime f).power = s.power := rfl
@[simp] theorem State.mapTime_links (s : State) (f : TimeBase → TimeBase) : (s.mapTime f).links = s.links := rfl
@[simp] theorem State.mapTime_owner (s : State) (f : TimeBase → TimeBase) : (s.mapTime f).owner = s.owner := rfl
@[simp] theorem State.mapTime_mgmt (s : State) (f : TimeBase → TimeBase) : (s.mapTime f).mgmt = s.mgmt := rfl
@[simp] theorem State.mapTime_trace (s : State) (f : TimeBase → TimeBase) : (s.mapTime f).trace = s.trace := rfl
@[simp] theorem State.mapTime_sched (s : State) (f : TimeBase → TimeBase) : (s.mapTime f).sched = s.sched := rfl
@[simp] theorem State.mapTime_mem (s : State) (f : TimeBase → TimeBase) : (s.mapTime f).mem = s.mem := rfl
@[simp] theorem State.mapTime_clusters (s : State) (f : TimeBase → TimeBase) : (s.mapTime f).clusters = s.clusters := rfl
@[simp] theorem State.mapTime_cores (s : State) (f : TimeBase → TimeBase) : (s.mapTime f).cores = s.cores := rfl
@[simp] theorem State.mapTime_freeCount (s : State) (f : TimeBase → TimeBase) : (s.mapTime f).freeCount = s.freeCount := rfl
@[simp] theorem State.mapTime_inbox (s : State) (f : TimeBase → TimeBase) : (s.mapTime f).inbox = s.inbox := rfl
@[simp] theorem State.mapTime_agenda (s : State) (f : TimeBase → TimeBase) : (s.mapTime f).agenda = s.agenda := rfl
@[simp] theorem State.mapTime_cur (s : State) (f : TimeBase → TimeBase) : (s.mapTime f).cur = s.cur := rfl
@[simp] theorem State.mapTime_ev (s : State) (f : TimeBase → TimeBase) : (s.mapTime f).ev = s.ev := rfl

/-! ### mapOwner -/

@[simp] theorem State.mapOwner_time (s : State) (f : Owner → Owner) : (s.mapOwner f).time = s.time := rfl
@[simp] theorem State.mapOwner_power (s : State) (f : Owner → Owner) : (s.mapOwner f).power = s.power := rfl
@[simp] theorem State.mapOwner_links (s : State) (f : Owner → Owner) : (s.mapOwner f).links = s.links := rfl
@[simp] theorem State.mapOwner_owner (s : State) (f : Owner → Owner) : (s.mapOwner f).owner = f s.owner := rfl
@[simp] theorem State.mapOwner_mgmt (s : State) (f : Owner → Owner) : (s.mapOwner f).mgmt = s.mgmt := rfl
@[simp] theorem State.mapOwner_trace (s : State) (f : Owner → Owner) : (s.mapOwner f).trace = s.trace := rfl
@[simp] theorem State.mapOwner_sched (s : State) (f : Owner → Owner) : (s.mapOwner f).sched = s.sched := rfl
@[simp] theorem State.mapOwner_mem (s : State) (f : Owner → Owner) : (s.mapOwner f).mem = s.mem := rfl
@[simp] theorem State.mapOwner_clusters (s : State) (f : Owner → Owner) : (s.mapOwner f).clusters = s.clusters := rfl
@[simp] theorem State.mapOwner_cores (s : State) (f : Owner → Owner) : (s.mapOwner f).cores = s.cores := rfl
@[simp] theorem State.mapOwner_freeCount (s : State) (f : Owner → Owner) : (s.mapOwner f).freeCount = s.freeCount := rfl
@[simp] theorem State.mapOwner_inbox (s : State) (f : Owner → Owner) : (s.mapOwner f).inbox = s.inbox := rfl
@[simp] theorem State.mapOwner_agenda (s : State) (f : Owner → Owner) : (s.mapOwner f).agenda = s.agenda := rfl
@[simp] theorem State.mapOwner_cur (s : State) (f : Owner → Owner) : (s.mapOwner f).cur = s.cur := rfl
@[simp] theorem State.mapOwner_ev (s : State) (f : Owner → Owner) : (s.mapOwner f).ev = s.ev := rfl

/-! ### pushEvents -/

@[simp] theorem State.pushEvents_time (s : State) (l : List (Instr × EvArg)) : (s.pushEvents l).time = s.time := rfl
@[simp] theorem State.pushEvents_power (s : State) (l : List (Instr × EvArg)) : (s.pushEvents l).power = s.power := rfl
@[simp] theorem State.pushEvents_links (s : State) (l : List (Instr × EvArg)) : (s.pushEvents l).links = s.links := rfl
@[simp] theorem State.pushEvents_owner (s : State) (l : List (Instr × EvArg)) : (s.pushEvents l).owner = s.owner := rfl
@[simp] theorem State.pushEvents_mgmt (s : State) (l : List (Instr × EvArg)) : (s.pushEvents l).mgmt = s.mgmt := rfl
@[simp] theorem State.pushEvents_trace (s : State) (l : List (Instr × EvArg)) : (s.pushEvents l).trace = s.trace := rfl
@[simp] theorem State.pushEvents_sched (s : State) (l : List (Instr × EvArg)) : (s.pushEvents l).sched = s.sched := rfl
@[simp] theorem State.pushEvents_mem (s : State) (l : List (Instr × EvArg)) : (s.pushEvents l).mem = s.mem := rfl
@[simp] theorem State.pushEvents_clusters (s : State) (l : List (Instr × EvArg)) : (s.pushEvents l).clusters = s.clusters := rfl
@[simp] theorem State.pushEvents_cores (s : State) (l : List (Instr × EvArg)) : (s.pushEvents l).cores = s.cores := rfl
@[simp] theorem State.pushEvents_freeCount (s : State) (l : List (Instr × EvArg)) : (s.pushEvents l).freeCount = s.freeCount := rfl
@[simp] theorem State.pushEvents_inbox (s : State) (l : List (Instr × EvArg)) : (s.pushEvents l).inbox = s.inbox := rfl
@[simp] theorem State.pushEvents_cur (s : State) (l : List (Instr × EvArg)) : (s.pushEvents l).cur = s.cur := rfl
@[simp] theorem State.pushEvents_ev (s : State) (l : List (Instr × EvArg)) : (s.pushEvents l).ev = s.ev := rfl

/-! ### Reading back -/

theorem core_setCore (s : State) (c d : BitVec 10) (k : Core) : (s.setCore c k).core d = if c = d then k else s.core d := by
  simp only [State.core, State.setCore, tabGet_tabPut, BitVec.toNat_inj]

@[simp] theorem core_setCore_same (s : State) (c : BitVec 10) (k : Core) : (s.setCore c k).core c = k := by
  rw [core_setCore, if_pos rfl]

theorem core_mapCore (s : State) (c d : BitVec 10) (f : Core → Core) : (s.mapCore c f).core d = if c = d then f (s.core c) else s.core d :=
  core_setCore s c d _

@[simp] theorem core_mapCore_same (s : State) (c : BitVec 10) (f : Core → Core) : (s.mapCore c f).core c = f (s.core c) :=
  core_setCore_same s c _

theorem core_mapCore_ne (s : State) {c d : BitVec 10} (h : c ≠ d) (f : Core → Core) : (s.mapCore c f).core d = s.core d := by
  rw [core_mapCore, if_neg h]

/-- Two updates of one core are one update, where the first leaves a core that is not as after reset. -/
theorem mapCore_mapCore (s : State) (c : BitVec 10) (f g : Core → Core) (h : f (s.core c) ≠ Core.reset) :
    (s.mapCore c f).mapCore c g = s.mapCore c fun k => g (f k) := by
  simp only [State.core] at h
  simp only [State.mapCore, State.setCore, State.core, tabGet_tabPut_same, tabPut_tabPut _ _ _ h]

@[simp] theorem thread_mapThread_same (s : State) (c : BitVec 10) (n : BitVec 3) (f : Thread → Thread) :
    (s.mapThread c n f).thread c n = f (s.thread c n) := by
  simp only [State.thread, State.mapThread, core_mapCore_same, tabGet_tabPut, if_true]

theorem thread_mapThread_ne (s : State) (c : BitVec 10) {n m : BitVec 3} (h : n ≠ m) (f : Thread → Thread) :
    (s.mapThread c n f).thread c m = s.thread c m := by
  simp only [State.thread, State.mapThread, core_mapCore_same, tabGet_tabPut, BitVec.toNat_inj, if_neg h]

theorem core_mapThread_ne (s : State) {c d : BitVec 10} (h : c ≠ d) (n : BitVec 3) (f : Thread → Thread) :
    (s.mapThread c n f).core d = s.core d := core_mapCore_ne s h _

theorem cluster_mapCluster (s : State) (n m : BitVec 6) (f : Cluster → Cluster) :
    (s.mapCluster n f).cluster m = if n = m then f (s.cluster n) else s.cluster m := by
  simp only [State.cluster, State.mapCluster, tabGet_tabPut, BitVec.toNat_inj]

@[simp] theorem cluster_mapCluster_same (s : State) (n : BitVec 6) (f : Cluster → Cluster) :
    (s.mapCluster n f).cluster n = f (s.cluster n) := by rw [cluster_mapCluster, if_pos rfl]

theorem slice_mapSlice (s : State) (n m : BitVec 8) (f : Slice → Slice) :
    (s.mapSlice n f).slice m = if n = m then f (s.slice n) else s.slice m := by
  simp only [State.slice, State.mapSlice, State.mapMem_mem, tabGet_tabPut, BitVec.toNat_inj]

theorem ctx_mapCtx_same (s : State) (n : BitVec 6) (f : Ctx → Ctx) : (s.mapCtx n f).ctx n = f (s.ctx n) := by
  simp only [State.ctx, State.mapCtx, State.mapSched_sched, tabGet_tabPut, if_true]

theorem occ_setOcc (s : State) (n m : Nat) (o : Option Occ) : (s.setOcc n o).occ? m = if n = m then o else s.occ? m := by
  simp only [State.occ?, State.setOcc, State.mapSched_sched, tabGet_tabPut]

theorem occ_mapOcc (s : State) (n m : Nat) (f : Occ → Occ) : (s.mapOcc n f).occ? m = if n = m then (s.occ? n).map f else s.occ? m :=
  occ_setOcc s n m _

end Sys2Proof.Machine
end

