-- ==== Sys2Proof/Laws/Mem.lean ====
section
/-! SUPPORT. The laws of memory: a byte that is stored is read back, every other byte is left alone, and every operation on memory keeps
its canonical form (Mem.wf). -/

namespace Sys2Proof.Machine

/-! ### The canonical form -/

theorem Mem.wf_iff (m : Mem) : m.wf = true ↔ tabWf 0 m.phys = true ∧ tabWf 0 m.spad = true ∧ tabWf 0 m.imem = true := by
  simp [Mem.wf, and_assoc]

theorem putBytes_wf (l : List Byte) : ∀ (t : List Host.Cell) (k : Nat), tabWf 0 t = true → tabWf 0 (putBytes t k l) = true := by
  induction l with
  | nil => intro t k h; exact h
  | cons b r ih => intro t k h; exact ih _ _ (tabPut_wf k b h)

theorem putWords_wf (l : List (BitVec 34)) : ∀ (t : Tab (BitVec 34)) (pc : BitVec 16), tabWf 0 t = true → tabWf 0 (putWords t pc l) = true := by
  induction l with
  | nil => intro t pc h; exact h
  | cons w r ih => intro t pc h; exact ih _ _ (tabPut_wf pc.toNat w h)

/-- A change that leaves the three stores alone keeps the form. -/
theorem mapMem_wf {s : State} {f : Mem → Mem} (h : s.mem.wf = true) (hp : (f s.mem).phys = s.mem.phys) (hs : (f s.mem).spad = s.mem.spad)
    (hi : (f s.mem).imem = s.mem.imem) : (s.mapMem f).mem.wf = true := by
  rw [Mem.wf_iff] at h ⊢
  rw [State.mapMem_mem, hp, hs, hi]
  exact h

@[simp] theorem mapSlice_wf (s : State) (n : BitVec 8) (f : Slice → Slice) : (s.mapSlice n f).mem.wf = s.mem.wf := rfl

theorem spadStore_wf (s : State) (c : BitVec 10) (off : Nat) (l : List Byte) (h : s.mem.wf = true) : (spadStore s c off l).mem.wf = true := by
  rw [Mem.wf_iff] at h ⊢
  exact ⟨h.1, putBytes_wf l _ _ h.2.1, h.2.2⟩

theorem physStore_wf (s : State) (through : Bool) (pa : Nat) (l : List Byte) (h : s.mem.wf = true) :
    (physStore s through pa l).mem.wf = true := by
  rw [Mem.wf_iff] at h ⊢
  exact ⟨putBytes_wf l _ _ h.1, h.2.1, h.2.2⟩

theorem scatterPieces_wf (v : Nat) (ps : List Piece) : ∀ s : State, s.mem.wf = true → (scatterPieces s v ps).mem.wf = true := by
  induction ps with
  | nil => intro s h; exact h
  | cons p r ih => intro s h; exact ih _ (spadStore_wf s _ _ _ h)

theorem reset_mem_wf : State.reset.mem.wf = true := rfl

theorem hostCells_wf (l : List Host.Cell) (h : tabWf 0 l = true) : tabWf 0 (hostCells l) = true := tabWfFrom_filter _ h

/-! ### The accesses of agents keep the form -/

/-- A fold of steps that each keep the form keeps it. -/
theorem foldl_wf {α : Type} (f : State → α → State) (h : ∀ s a, s.mem.wf = true → (f s a).mem.wf = true) (l : List α) :
    ∀ s : State, s.mem.wf = true → (l.foldl f s).mem.wf = true := by
  induction l with
  | nil => intro s hs; exact hs
  | cons a r ih => intro s hs; exact ih _ (h s a hs)

@[simp] theorem countRelease_mem (s : State) (a : Ag) (sc : Nat) : (countRelease s a sc).mem = s.mem := by
  unfold countRelease
  split
  · rfl
  · dsimp only
    split <;> rfl

@[simp] theorem takeRelease_mem (s : State) (a : Ag) (sc : Nat) (r : RelInfo) : (takeRelease s a sc r).mem = s.mem := by
  unfold takeRelease
  split
  · split <;> rfl
  · rfl

@[simp] theorem takeReleases_mem (a : Ag) (sc : Nat) (l : List RelInfo) : ∀ s : State, (takeReleases s a sc l).mem = s.mem := by
  induction l with
  | nil => intro s; rfl
  | cons i r ih => intro s; exact (ih _).trans (takeRelease_mem s a sc i)

@[simp] theorem acquireWords_mem (a : Ag) (sc : Nat) (ks : List Nat) : ∀ s : State, (acquireWords s a sc ks).mem = s.mem := by
  induction ks with
  | nil => intro s; rfl
  | cons k r ih => intro s; rw [acquireWords, ih, takeReleases_mem]

theorem noteInfos_wf (s : State) (a : Ag) (l : List RelInfo) (h : s.mem.wf = true) : (noteInfos s a l).mem.wf = true := by
  unfold noteInfos
  dsimp only
  split
  · exact h
  · exact mapMem_wf h rfl rfl rfl

theorem noteRead_wf (a : Ag) (ks : List Nat) : ∀ s : State, s.mem.wf = true → (noteRead s a ks).mem.wf = true := by
  induction ks with
  | nil => intro s h; exact h
  | cons k r ih =>
    intro s h
    exact ih _ (noteInfos_wf s a _ h)

theorem notePlainWrite_wf (s : State) (a : Ag) (ks : List Nat) (h : s.mem.wf = true) : (notePlainWrite s a ks).mem.wf = true :=
  mapMem_wf h rfl rfl rfl

theorem noteRelease_wf (s : State) (a : Ag) (sc : Nat) (ks : List Nat) (h : s.mem.wf = true) : (noteRelease s a sc ks).mem.wf = true :=
  mapMem_wf h rfl rfl rfl

theorem setTags_wf (s : State) (p : Piece) (t : RaceTag) (h : s.mem.wf = true) : (setTags s p t).mem.wf = true := mapMem_wf h rfl rfl rfl

theorem setLineMark_wf (s : State) (pa : Nat) (f : LineMark → LineMark) (h : s.mem.wf = true) : (setLineMark s pa f).mem.wf = true :=
  mapMem_wf h rfl rfl rfl

@[simp] theorem wakeSpad_mem (s : State) (ws : List Nat) : (wakeSpad s ws).mem = s.mem := rfl

@[simp] theorem wakePhys_mem (s : State) (pa n : Nat) : (wakePhys s pa n).mem = s.mem := rfl

theorem plainRead_wf (s : State) (a : Ag) (ps : List Piece) (h : s.mem.wf = true) : (plainRead s a ps).2.mem.wf = true :=
  noteRead_wf a _ s h

theorem laggedWrite_wf (s : State) (a : Ag) (lag v : Nat) (ps : List Piece) (h : s.mem.wf = true) : (laggedWrite s a lag v ps).mem.wf = true := by
  unfold laggedWrite
  dsimp only
  rw [wakeSpad_mem]
  exact notePlainWrite_wf _ _ _ (foldl_wf _ (fun s p hs => setTags_wf s p _ hs) _ _ (scatterPieces_wf v ps s h))

theorem plainWrite_wf (s : State) (a : Ag) (v : Nat) (ps : List Piece) (h : s.mem.wf = true) : (plainWrite s a v ps).mem.wf = true :=
  laggedWrite_wf s a 0 v ps h

theorem syncWrite_wf (s : State) (a : Ag) (release : Bool) (sc v : Nat) (p : Piece) (h : s.mem.wf = true) :
    (syncWrite s a release sc v p).mem.wf = true := by
  have h1 : (if release then countRelease s a sc else s).mem.wf = true := by
    split
    · rw [countRelease_mem]; exact h
    · exact h
  unfold syncWrite
  cases release with
  | true => exact noteRelease_wf _ _ _ _ (setTags_wf _ p .none (scatterPieces_wf v [p] _ h1))
  | false => exact notePlainWrite_wf _ _ _ (setTags_wf _ p .none (scatterPieces_wf v [p] _ h1))

theorem settleLine_wf (s : State) (pa : Nat) (h : s.mem.wf = true) : (settleLine s pa).mem.wf = true := mapMem_wf h rfl rfl rfl

theorem claimLine_wf (s : State) (x : BitVec 6) (leaf : Word) (va pa : Nat) (h : s.mem.wf = true) : (claimLine s x leaf va pa).mem.wf = true := by
  unfold claimLine
  split
  · exact h
  · exact setLineMark_wf _ _ _ (settleLine_wf s pa h)

theorem storeLine_wf (s : State) (d : DLine) (h : s.mem.wf = true) : (storeLine s d).mem.wf = true := by
  unfold storeLine
  split
  · exact h
  · dsimp only
    rw [wakePhys_mem]
    exact mapMem_wf (foldl_wf _ (fun s i hs => physStore_wf s _ _ _ hs) _ _ (claimLine_wf s _ _ _ _ h)) rfl rfl rfl

theorem yieldNear_wf (s : State) (c : BitVec 10) (pa : Nat) (h : s.mem.wf = true) : (yieldNear s c pa).mem.wf = true := by
  unfold yieldNear
  split
  · exact h
  · split
    · exact h
    · dsimp only
      refine setLineMark_wf _ _ _ ?_
      unfold setDcache
      rw [State.mapCore_mem]
      exact foldl_wf _ (fun s d hs => storeLine_wf s d hs) _ _ h

theorem writeBackLine_wf (s : State) (c : BitVec 10) (d : DLine) (h : s.mem.wf = true) : (writeBackLine s c d).mem.wf = true := by
  unfold writeBackLine
  split
  · exact h
  · exact storeLine_wf _ d (yieldNear_wf s c _ h)

theorem sendHome_wf (s : State) (c : BitVec 10) (d : DLine) (h : s.mem.wf = true) : (sendHome c s d).mem.wf = true := by
  unfold sendHome
  dsimp only
  split
  · exact setLineMark_wf _ _ _ (writeBackLine_wf s c d h)
  · exact writeBackLine_wf s c d h

theorem dcOut_wf (s : State) (c : BitVec 10) (p : DLine → Bool) (h : s.mem.wf = true) : (dcOut s c p).mem.wf = true := by
  unfold dcOut setDcache
  rw [State.mapCore_mem]
  exact foldl_wf _ (fun s d hs => sendHome_wf s c d hs) _ _ h

theorem recallNear_wf (s : State) (pa : Nat) (h : s.mem.wf = true) : (recallNear s pa).mem.wf = true := by
  unfold recallNear
  split
  · exact h
  · exact setLineMark_wf _ _ _ (dcOut_wf s _ _ h)

theorem evictLine_wf (s : State) (pa : Nat) (h : s.mem.wf = true) : (evictLine s pa).mem.wf = true := settleLine_wf _ _ (recallNear_wf s pa h)

theorem makeRoom_wf (s : State) (n : BitVec 8) (pa : Nat) (h : s.mem.wf = true) : (makeRoom s n pa).mem.wf = true := by
  unfold makeRoom
  split
  · exact h
  · split
    · exact evictLine_wf _ _ h
    · exact h

theorem holdLine_wf (s : State) (x : BitVec 6) (leaf : Word) (va pa : Nat) (h : s.mem.wf = true) : (holdLine s x leaf va pa).mem.wf = true := by
  unfold holdLine
  split
  · exact h
  · exact makeRoom_wf _ _ _ (claimLine_wf _ _ _ _ _ (recallNear_wf s pa h))

theorem dropReplicas_wf (s : State) (pa : Nat) (h : s.mem.wf = true) : (dropReplicas s pa).mem.wf = true := mapMem_wf h rfl rfl rfl

theorem homeWrite_wf (s : State) (a : Ag) (x : BitVec 6) (leaf : Word) (through : Bool) (va pa n v : Nat) (h : s.mem.wf = true) :
    (homeWrite s a x leaf through va pa n v).mem.wf = true := by
  have h1 (out : Bool) : (if out then evictLine s pa else recallNear (holdLine s x leaf va pa) pa).mem.wf = true := by
    split
    · exact evictLine_wf s pa h
    · exact recallNear_wf _ _ (holdLine_wf s x leaf va pa h)
  have h2 (out : Bool) := notePlainWrite_wf _ a (physKeys pa n) (physStore_wf _ out pa (leBytes n v) (dropReplicas_wf _ pa (h1 out)))
  unfold homeWrite
  dsimp only
  generalize (through || pteUncached leaf) = out
  rw [wakePhys_mem]
  cases out with
  | true => exact h2 true
  | false => rw [if_neg Bool.false_ne_true]; refine setLineMark_wf _ _ _ ?_; exact h2 false

theorem homeWriteAll_wf (s : State) (a : Ag) (x : BitVec 6) (leaf : Word) (through : Bool) (va pa : Nat) (l : List Byte) (h : s.mem.wf = true) :
    (homeWriteAll s a x leaf through va pa l).mem.wf = true := foldl_wf _ (fun s _ hs => homeWrite_wf s _ _ _ _ _ _ _ _ hs) _ _ h

theorem discardLine_wf (s : State) (pa : Nat) (h : s.mem.wf = true) : (discardLine s pa).mem.wf = true := by
  have back (m : Mem) : ∀ (l : List Nat) (t : List Host.Cell), tabWf 0 t = true →
      tabWf 0 (l.foldl (fun t i => match tabGet none m.dirty (pa + i) with
        | some b => tabPut 0 t (pa + i) b
        | none => t) t) = true := by
    intro l
    induction l with
    | nil => intro t h; exact h
    | cons i r ih =>
      intro t h
      refine ih _ ?_
      dsimp only
      split
      · exact tabPut_wf _ _ h
      · exact h
  unfold discardLine
  dsimp only
  refine settleLine_wf _ _ ?_
  split
  · exact h
  · rw [Mem.wf_iff] at h ⊢
    exact ⟨back s.mem _ _ h.1, h.2⟩

/-! ### Loads and restores of whole cores keep the form -/

theorem loadCode_wf (s : State) (c : BitVec 10) (l : Loaded) (h : s.mem.wf = true) : (loadCode s c l).mem.wf = true := by
  rw [Mem.wf_iff] at h ⊢
  exact ⟨h.1, h.2.1, tabReplace_wf _ _ _ h.2.2⟩

theorem loadData_wf (s : State) (c : BitVec 10) (o : Occ) (l : Loaded) (h : s.mem.wf = true) : (loadData s c o l).mem.wf = true := by
  refine foldl_wf _ (fun s g hs => ?_) _ _ ?_
  · rw [Mem.wf_iff] at hs ⊢
    exact ⟨hs.1, putBytes_wf _ _ _ hs.2.1, hs.2.2⟩
  · rw [Mem.wf_iff] at h ⊢
    exact ⟨h.1, tabReplace_wf _ _ _ h.2.1, h.2.2⟩

theorem loadTags_wf (s : State) (c : BitVec 10) (h : s.mem.wf = true) : (loadTags s c).mem.wf = true := by
  rw [Mem.wf_iff] at h ⊢
  simp only [loadTags, State.mapCluster_mem, State.mapMem_mem]
  exact h

theorem putCells_wf (l : List Host.Cell) : ∀ t : List Host.Cell, tabWf 0 t = true → tabWf 0 (l.foldl (fun t e => tabPut 0 t e.1 e.2) t) = true := by
  induction l with
  | nil => intro t h; exact h
  | cons e r ih => intro t h; exact ih _ (tabPut_wf _ _ h)

theorem restoreCore_wf (s : State) (id : Nat) (o : Occ) (l : Loaded) (r : Saved) (h : s.mem.wf = true) : (restoreCore s id o l r).mem.wf = true := by
  have h1 := loadTags_wf _ r.core (loadCode_wf (noteRun s r.core (some (o.entry, o.num))) r.core l h)
  rw [Mem.wf_iff] at h1
  unfold restoreCore
  dsimp only
  split
  all_goals
    rw [Mem.wf_iff]
    simp only [State.setCore_mem, State.pushEvents_mem, State.mapCluster_mem, State.mapMem_mem]
    exact ⟨h1.1, putCells_wf _ _ (tabReplace_wf _ _ _ h1.2.1), h1.2.2⟩

theorem writeCode_wf (s : State) (o : BitVec 10) (i v tag : Nat) (bad : Bool) (h : s.mem.wf = true) : (writeCode s o i v tag bad).mem.wf = true := by
  rw [Mem.wf_iff] at h ⊢
  unfold writeCode
  rw [State.mapCore_mem, State.mapMem_mem]
  exact ⟨h.1, h.2.1, tabPut_wf _ _ h.2.2⟩

/-! ### Reads after writes -/

theorem tabGet_putBytes (l : List Byte) : ∀ (t : List Host.Cell) (k n : Nat),
    tabGet 0 (putBytes t k l) n = if k ≤ n ∧ n < k + l.length then l.getD (n - k) 0 else tabGet 0 t n := by
  induction l with
  | nil => intro t k n; rw [putBytes, if_neg]; rw [List.length_nil]; omega
  | cons b r ih =>
    intro t k n
    rw [putBytes, ih, tabGet_tabPut]
    by_cases h1 : k = n
    · subst h1
      rw [if_neg (by omega), if_pos rfl, if_pos (by rw [List.length_cons]; omega), Nat.sub_self]
      rfl
    · by_cases h2 : k + 1 ≤ n ∧ n < k + 1 + r.length
      · rw [if_pos h2, if_pos (by simp only [List.length_cons]; omega)]
        obtain ⟨m, rfl⟩ : ∃ m, n = k + 1 + m := ⟨n - (k + 1), by omega⟩
        simp [show k + 1 + m - k = m + 1 by omega]
      · rw [if_neg h2, if_neg h1, if_neg (by simp only [List.length_cons]; omega)]

/-- A byte of the scratchpad after a store: the stored one at a stored place, the old one anywhere else. -/
theorem spadByte_spadStore (s : State) (c d : BitVec 10) (off o : Nat) (l : List Byte) :
    spadByte (spadStore s c off l) d o =
      if 1048576 * c.toNat + off ≤ 1048576 * d.toNat + o ∧ 1048576 * d.toNat + o < 1048576 * c.toNat + off + l.length then
        l.getD (1048576 * d.toNat + o - (1048576 * c.toNat + off)) 0
      else spadByte s d o := tabGet_putBytes l _ _ _

/-- A byte of physical memory after a store. -/
theorem physByte_physStore (s : State) (through : Bool) (pa a : Nat) (l : List Byte) :
    physByte (physStore s through pa l) a = if pa ≤ a ∧ a < pa + l.length then l.getD (a - pa) 0 else physByte s a := tabGet_putBytes l _ _ _

@[simp] theorem spadByte_physStore (s : State) (through : Bool) (pa : Nat) (l : List Byte) (c : BitVec 10) (o : Nat) :
    spadByte (physStore s through pa l) c o = spadByte s c o := rfl

@[simp] theorem physByte_spadStore (s : State) (c : BitVec 10) (off : Nat) (l : List Byte) (a : Nat) :
    physByte (spadStore s c off l) a = physByte s a := rfl

end Sys2Proof.Machine
end

