-- ==== Sys2Proof/Laws/Ops.lean ====
section
/-! SUPPORT. The laws of the shared operations: what running an operation under its guard comes to, what reading and writing a register
of the performing agent comes to, and that records, traps and the movement of a program counter keep memory's canonical form. -/

namespace Sys2Proof.Machine

/-! ### The performing agent -/

theorem me_prim {s : State} {c : BitVec 10} (h : s.cur.agent = .prim c) : s.me = c := by simp [State.me, h, Agent.core]

theorem me_thread {s : State} {c : BitVec 10} {n : BitVec 3} (h : s.cur.agent = .thread c n) : s.me = c := by
  simp [State.me, h, Agent.core]

/-! ### Running an operation under its guard -/

/-- The guard passes and no check fails: the body runs. -/
theorem runOp_next {s : State} {g : Guard} (b : State → State) (h : executes s g = true) : runOp s none g b = .next (b s) := by
  simp [runOp, h]

/-- The guard fails: the operation changes nothing but the place of a thread's next operation. -/
theorem runOp_skip {s : State} {g : Guard} (b : State → State) (h : executes s g = false) : runOp s none g b = .next (finish s) := by
  simp [runOp, h]

/-- A check fails: the trap is taken, naming the slot. -/
theorem runOp_trap (s : State) (t : TrapInfo) (g : Guard) (b : State → State) :
    runOp s (some t) g b = .next (takeTrap s { t with mask := trapMask s }) := rfl

/-- An engine operation outside its engine cycle runs as any other. -/
theorem runE_next {s : State} {g : Guard} (b : State → State) (h : executes s g = true) (hr : s.cur.retry = false) :
    runE s none g b = .next (b s) := by
  unfold runE
  split <;> simp [hr, runOp_next b h]

/-- An engine operation that is tried again in an engine cycle runs without its checks: they were made when its bundle issued. -/
theorem runE_retry {s : State} {c : BitVec 10} (t : Option TrapInfo) (g : Guard) (b : State → State) (hc : s.cur.agent = .prim c)
    (hr : s.cur.retry = true) : runE s t g b = .next (b s) := by
  simp [runE, hc, hr]

/-- An operation of a thread is never the retry of a primary's. -/
theorem runE_thread {s : State} {c : BitVec 10} {n : BitVec 3} (t : Option TrapInfo) (g : Guard) (b : State → State)
    (hc : s.cur.agent = .thread c n) : runE s t g b = runOp s t g b := by
  simp [runE, hc]

/-! ### Registers -/

@[simp] theorem readPrimS_zero (s : State) (c : BitVec 10) : readPrimS s c 0 = 0 := rfl
@[simp] theorem readX_zero (s : State) (c : BitVec 10) (t : BitVec 3) : readX s c t 0 = 0 := rfl
@[simp] theorem readF_zero (s : State) (c : BitVec 10) (t : BitVec 3) : readF s c t 0 = true := rfl
@[simp] theorem readM_zero (s : State) (c : BitVec 10) : readM s c 0 = BitVec.allOnes 64 := rfl
@[simp] theorem readPrimQ_zero (s : State) (c : BitVec 10) : readPrimQ s c 0 = true := rfl
@[simp] theorem readPrimQ_eight (s : State) (c : BitVec 10) : readPrimQ s c 8 = true := rfl

/-- Register 0 of either agent reads 0. -/
@[simp] theorem readR_zero (s : State) : readR s 0 = 0 := by unfold readR; split <;> rfl

/-- Predicate or flag 0 of either agent reads true. -/
@[simp] theorem readP_zero (s : State) : readP s 0 = true := by unfold readP; split <;> rfl

/-- Register 0 of either agent discards what is written. -/
@[simp] theorem writeR_zero (s : State) (v : Word) (n : Nat) : writeR s 0 v n = s := by unfold writeR; split <;> rfl

/-- Predicate or flag 0 of either agent discards what is written. -/
@[simp] theorem writeP_zero (s : State) (v : Bool) (n : Nat) : writeP s 0 v n = s := by unfold writeP; split <;> rfl

/-- A written register of a thread reads what was written. -/
theorem readX_writeX (s : State) (c : BitVec 10) (t : BitVec 3) (n : BitVec 6) (v : Word) (h : n ≠ 0) :
    readX (writeX s c t n v) c t n = v := by
  unfold readX writeX
  rw [if_neg h, if_neg h, thread_mapThread_same]
  simp

/-- A result joins the results that are on their way. -/
theorem addPend_pend (s : State) (c : BitVec 10) (d : Dest) (v : Lanes) (n : Nat) :
    ((addPend s c d v n).core c).pend = (s.core c).pend ++
      [{ dest := d, val := v, born := (s.core c).tick, due := (s.core c).tick + n, vflags := 0, mstat := 0 }] := by
  simp [addPend]

/-- A result on its way changes nothing else. -/
theorem addPend_onlyResults (s : State) (c : BitVec 10) (d : Dest) (v : Lanes) (n : Nat) (ok : Dest → Prop) (h : ok d) :
    onlyResults s (addPend s c d v n) c ok := by
  refine ⟨fun e he => by unfold addPend; rw [core_mapCore, if_neg (Ne.symm he)], by simp [addPend], [_], addPend_pend s c d v n, ?_⟩
  intro e he
  rw [List.mem_singleton] at he
  subst he
  exact .inr h

/-- Changes of results add up. -/
theorem onlyResults_trans {s t u : State} {c : BitVec 10} {ok : Dest → Prop} (h1 : onlyResults s t c ok) (h2 : onlyResults t u c ok) :
    onlyResults s u c ok := by
  obtain ⟨a1, b1, l1, c1, d1⟩ := h1
  obtain ⟨a2, b2, l2, c2, d2⟩ := h2
  refine ⟨fun d hd => (a2 d hd).trans (a1 d hd), ?_, l1 ++ l2, by rw [c2, c1, List.append_assoc], ?_⟩
  · rw [b2, b1]
  · intro e he
    rcases List.mem_append.mp he with h | h
    · exact d1 e h
    · exact d2 e h

theorem onlyResults_refl (s : State) (c : BitVec 10) (ok : Dest → Prop) : onlyResults s s c ok :=
  ⟨fun _ _ => rfl, rfl, [], by simp, by simp⟩

/-! ### Operations that leave memory alone -/

@[simp] theorem addPend_mem (s : State) (c : BitVec 10) (d : Dest) (v : Lanes) (n : Nat) : (addPend s c d v n).mem = s.mem := rfl
@[simp] theorem addFlags_mem (s : State) (c : BitVec 10) (vf : BitVec 5) (ms : BitVec 4) (n : Nat) : (addFlags s c vf ms n).mem = s.mem := by
  unfold addFlags; split <;> rfl
@[simp] theorem writePrimS_mem (s : State) (c : BitVec 10) (n : BitVec 6) (v : Word) (b : Nat) : (writePrimS s c n v b).mem = s.mem := by
  unfold writePrimS; split <;> rfl
@[simp] theorem writePrimQ_mem (s : State) (c : BitVec 10) (n : BitVec 4) (v : Bool) (b : Nat) : (writePrimQ s c n v b).mem = s.mem := by
  unfold writePrimQ; split <;> rfl
@[simp] theorem writeV_mem (s : State) (c : BitVec 10) (n : BitVec 5) (v : Lanes) (b : Nat) : (writeV s c n v b).mem = s.mem := rfl
@[simp] theorem writeM_mem (s : State) (c : BitVec 10) (n : BitVec 3) (v : Word) (b : Nat) : (writeM s c n v b).mem = s.mem := by
  unfold writeM; split <;> rfl
@[simp] theorem writeX_mem (s : State) (c : BitVec 10) (t : BitVec 3) (n : BitVec 6) (v : Word) : (writeX s c t n v).mem = s.mem := by
  unfold writeX; split <;> rfl
@[simp] theorem writeF_mem (s : State) (c : BitVec 10) (t : BitVec 3) (n : Nat) (v : Bool) : (writeF s c t n v).mem = s.mem := by
  unfold writeF; split <;> rfl
@[simp] theorem writeR_mem (s : State) (n : BitVec 6) (v : Word) (b : Nat) : (writeR s n v b).mem = s.mem := by
  unfold writeR; split <;> simp
@[simp] theorem writeP_mem (s : State) (n : BitVec 4) (v : Bool) (b : Nat) : (writeP s n v b).mem = s.mem := by
  unfold writeP; split <;> simp
@[simp] theorem raiseFlags_mem (s : State) (vf : BitVec 5) (b : Nat) : (raiseFlags s vf b).mem = s.mem := by
  unfold raiseFlags; split <;> simp
@[simp] theorem finish_mem (s : State) : (finish s).mem = s.mem := by unfold finish; split <;> rfl
@[simp] theorem jumpTo_mem (s : State) (v : Word) : (jumpTo s v).mem = s.mem := by unfold jumpTo; split <;> rfl
@[simp] theorem sendMsix_mem (s : State) (fn : BitVec 4) (v : Nat) : (sendMsix s fn v).mem = s.mem := by unfold sendMsix; split <;> rfl
@[simp] theorem loseEvent_mem (s : State) (x : BitVec 6) : (loseEvent s x).mem = s.mem := rfl
@[simp] theorem queueCause_mem (s : State) (c : BitVec 10) (w : Word) : (queueCause s c w).mem = s.mem := rfl
@[simp] theorem freeThread_mem (s : State) (c : BitVec 10) (t : BitVec 3) : (freeThread s c t).mem = s.mem := rfl

/-! ### Operations that leave the performing agent alone -/

@[simp] theorem addPend_cur (s : State) (c : BitVec 10) (d : Dest) (v : Lanes) (n : Nat) : (addPend s c d v n).cur = s.cur := rfl
@[simp] theorem addFlags_cur (s : State) (c : BitVec 10) (vf : BitVec 5) (ms : BitVec 4) (n : Nat) : (addFlags s c vf ms n).cur = s.cur := by
  unfold addFlags; split <;> rfl
@[simp] theorem writePrimS_cur (s : State) (c : BitVec 10) (n : BitVec 6) (v : Word) (b : Nat) : (writePrimS s c n v b).cur = s.cur := by
  unfold writePrimS; split <;> rfl
@[simp] theorem writePrimQ_cur (s : State) (c : BitVec 10) (n : BitVec 4) (v : Bool) (b : Nat) : (writePrimQ s c n v b).cur = s.cur := by
  unfold writePrimQ; split <;> rfl
@[simp] theorem writeV_cur (s : State) (c : BitVec 10) (n : BitVec 5) (v : Lanes) (b : Nat) : (writeV s c n v b).cur = s.cur := rfl
@[simp] theorem writeM_cur (s : State) (c : BitVec 10) (n : BitVec 3) (v : Word) (b : Nat) : (writeM s c n v b).cur = s.cur := by
  unfold writeM; split <;> rfl
@[simp] theorem writeX_cur (s : State) (c : BitVec 10) (t : BitVec 3) (n : BitVec 6) (v : Word) : (writeX s c t n v).cur = s.cur := by
  unfold writeX; split <;> rfl
@[simp] theorem writeF_cur (s : State) (c : BitVec 10) (t : BitVec 3) (n : Nat) (v : Bool) : (writeF s c t n v).cur = s.cur := by
  unfold writeF; split <;> rfl
@[simp] theorem writeR_cur (s : State) (n : BitVec 6) (v : Word) (b : Nat) : (writeR s n v b).cur = s.cur := by
  unfold writeR; split <;> simp
@[simp] theorem writeP_cur (s : State) (n : BitVec 4) (v : Bool) (b : Nat) : (writeP s n v b).cur = s.cur := by
  unfold writeP; split <;> simp
@[simp] theorem raiseFlags_cur (s : State) (vf : BitVec 5) (b : Nat) : (raiseFlags s vf b).cur = s.cur := by
  unfold raiseFlags; split <;> simp
@[simp] theorem finish_cur (s : State) : (finish s).cur = s.cur := by unfold finish; split <;> rfl

/-- A primary's operation needs nothing more at its end. -/
theorem finish_prim {s : State} {c : BitVec 10} (h : s.cur.agent = .prim c) : finish s = s := by
  unfold finish
  rw [h]

/-- A thread's operation ends with its PC at the next one. -/
theorem finish_thread {s : State} {c : BitVec 10} {n : BitVec 3} (h : s.cur.agent = .thread c n) :
    finish s = s.mapThread c n fun th => { th with pc := th.pc + 8, st := .running, retry := 0, xfail := none, issued := none, lastRead := false } := by
  unfold finish
  rw [h]

/-- A fold of steps that each leave memory alone leaves it alone. -/
theorem foldl_mem {α : Type} (f : State → α → State) (h : ∀ s a, (f s a).mem = s.mem) (l : List α) : ∀ s, (l.foldl f s).mem = s.mem := by
  induction l with
  | nil => intro s; rfl
  | cons a r ih => intro s; exact (ih _).trans (h s a)

@[simp] theorem stopGang_mem (s : State) (c : BitVec 10) (r : Run) : (stopGang s c r).mem = s.mem := by
  unfold stopGang
  split
  · exact foldl_mem _ (fun _ _ => State.mapCore_mem _ _ _) _ _
  · exact foldl_mem _ (fun _ _ => State.mapCore_mem _ _ _) _ _

@[simp] theorem resumeHeld_mem (s : State) (c : BitVec 10) : (resumeHeld s c).mem = s.mem := by
  unfold resumeHeld
  exact foldl_mem _ (fun _ _ => State.mapCore_mem _ _ _) _ _

@[simp] theorem killOccurrence_mem (s : State) (id : Nat) (st : OccStatus) (cause : Byte) : (killOccurrence s id st cause).mem = s.mem := by
  unfold killOccurrence
  split
  · rfl
  · split <;> rfl

/-! ### Records, frames and traps keep the canonical form -/

theorem cpWrite_wf (s t : State) (x : BitVec 6) (va : Nat) (l : List Byte) (h : s.mem.wf = true) (ht : cpWrite s x va l = some t) :
    t.mem.wf = true := by
  unfold cpWrite at ht
  split at ht
  · cases ht
  · cases ht
    rw [wakePhys_mem]
    exact notePlainWrite_wf _ _ _ (physStore_wf _ _ _ _ (foldl_wf _ (fun s l hs => evictLine_wf s l hs) _ _ h))

theorem eventRecord_wf (s : State) (x : BitVec 6) (kind reason : Nat) (occ : Option Nat) (payload : Nat) (h : s.mem.wf = true) :
    (eventRecord s x kind reason occ payload).mem.wf = true := by
  unfold eventRecord
  dsimp only
  split
  · exact h
  · split
    · exact h
    · split
      · exact h
      · next t ht =>
        rw [sendMsix_mem, State.mapCtx_mem]
        exact cpWrite_wf s t x _ _ h ht

theorem completionAt_wf (s : State) (n id : Nat) (o : Occ) (st : OccStatus) (cause : Byte) (active frozen : Nat) (h : s.mem.wf = true) :
    (completionAt s n id o st cause active frozen).mem.wf = true := by
  have key (l : List Byte) : (if o.doneaddr = 0 then s
      else match cpWrite s o.ctx o.doneaddr.toNat l with
        | some s => s
        | none => eventRecord s o.ctx 4 0x41 (some id) (payload2 o.doneaddr.toNat st.code)).mem.wf = true := by
    split
    · exact h
    · split
      · next t ht => exact cpWrite_wf s t _ _ _ h ht
      · exact eventRecord_wf _ _ _ _ _ _ h
  unfold completionAt
  dsimp only
  split
  · rw [sendMsix_mem]; exact key _
  · exact key _

theorem completionRecord_wf (s : State) (id : Nat) (o : Occ) (st : OccStatus) (cause : Byte) (active frozen : Nat) (h : s.mem.wf = true) :
    (completionRecord s id o st cause active frozen).mem.wf = true := completionAt_wf s s.now id o st cause active frozen h

@[simp] theorem countUncorr_mem (s : State) (q : BitVec 2) : (countUncorr s q).mem = s.mem := rfl

theorem takePrimTrap_wf (s : State) (c : BitVec 10) (t : TrapInfo) (h : s.mem.wf = true) : (takePrimTrap s c t).mem.wf = true := by
  unfold takePrimTrap
  dsimp only
  generalize hv : (if t.cause = .uncorr then countUncorr s (quadOf c) else s) = v
  have hm : v.mem = s.mem := by
    rw [← hv]
    split <;> rfl
  generalize hu : stopGang (v.mapCore c _) c _ = u
  have hw : u.mem.wf = true := by
    rw [← hu, stopGang_mem, State.mapCore_mem, hm]
    exact h
  split
  · exact hw
  · split
    · exact eventRecord_wf _ _ _ _ _ _ hw
    · rw [killOccurrence_mem]
      exact eventRecord_wf _ _ _ _ _ _ hw

theorem frameFault_wf (s : State) (x : BitVec 6) (occ : Option Nat) (fp : Nat) (cause : Cause) (op : Nat) (c : BitVec 10)
    (h : s.mem.wf = true) : (frameFault s x occ fp cause op c).mem.wf = true := eventRecord_wf _ _ _ _ _ _ h

end Sys2Proof.Machine
end

