-- ==== Sys2Proof/Laws/PerInstr.lean ====
section
/-! SUPPORT. Facts about every instruction as syntax, one lemma per constructor: an instruction with a primary form has a word or a pair
of X words, and one with a barrel form has a barrel word. -/

namespace Sys2Proof.Laws

/-- Every well-formed form of i has an encoding (14 R341-R351). -/
def Encodable.Statement (i : Instr) : Prop :=
  (i.wfSlot = true → encode i ≠ []) ∧ (i.wfBarrel = true → (encodeBarrel i).isSome = true)

theorem Encodable.add (f : AluForm) : Encodable.Statement (.add f) := ⟨(fun _ h => nomatch h), fun _ => rfl⟩
theorem Encodable.sub (f : AluForm) : Encodable.Statement (.sub f) := ⟨(fun _ h => nomatch h), fun _ => rfl⟩
theorem Encodable.addw (f : AluForm) : Encodable.Statement (.addw f) := ⟨(fun _ h => nomatch h), fun _ => rfl⟩
theorem Encodable.subw (f : AluForm) : Encodable.Statement (.subw f) := ⟨(fun _ h => nomatch h), fun _ => rfl⟩
theorem Encodable.mul (f : AluForm) : Encodable.Statement (.mul f) := ⟨(fun _ h => nomatch h), fun _ => rfl⟩
theorem Encodable.mulh (f : AluForm) : Encodable.Statement (.mulh f) := ⟨(fun _ h => nomatch h), fun _ => rfl⟩
theorem Encodable.mulhn (f : AluForm) : Encodable.Statement (.mulhn f) := ⟨(fun _ h => nomatch h), fun _ => rfl⟩
theorem Encodable.div (f : AluForm) : Encodable.Statement (.div f) := ⟨(fun _ h => nomatch h), fun _ => rfl⟩
theorem Encodable.divn (f : AluForm) : Encodable.Statement (.divn f) := ⟨(fun _ h => nomatch h), fun _ => rfl⟩
theorem Encodable.rem (f : AluForm) : Encodable.Statement (.rem f) := ⟨(fun _ h => nomatch h), fun _ => rfl⟩
theorem Encodable.remn (f : AluForm) : Encodable.Statement (.remn f) := ⟨(fun _ h => nomatch h), fun _ => rfl⟩
theorem Encodable.and (f : AluForm) : Encodable.Statement (.and f) := ⟨(fun _ h => nomatch h), fun _ => rfl⟩
theorem Encodable.or (f : AluForm) : Encodable.Statement (.or f) := ⟨(fun _ h => nomatch h), fun _ => rfl⟩
theorem Encodable.xor (f : AluForm) : Encodable.Statement (.xor f) := ⟨(fun _ h => nomatch h), fun _ => rfl⟩
theorem Encodable.andn (f : AluForm) : Encodable.Statement (.andn f) := ⟨(fun _ h => nomatch h), fun _ => rfl⟩
theorem Encodable.orn (f : AluForm) : Encodable.Statement (.orn f) := ⟨(fun _ h => nomatch h), fun _ => rfl⟩
theorem Encodable.shl (f : AluForm) : Encodable.Statement (.shl f) := ⟨(fun _ h => nomatch h), fun _ => rfl⟩
theorem Encodable.shr (f : AluForm) : Encodable.Statement (.shr f) := ⟨(fun _ h => nomatch h), fun _ => rfl⟩
theorem Encodable.sra (f : AluForm) : Encodable.Statement (.sra f) := ⟨(fun _ h => nomatch h), fun _ => rfl⟩
theorem Encodable.rotr (f : AluForm) : Encodable.Statement (.rotr f) := ⟨(fun _ h => nomatch h), fun _ => rfl⟩
theorem Encodable.clz (f : UnForm) : Encodable.Statement (.clz f) := ⟨(fun _ h => nomatch h), fun _ => rfl⟩
theorem Encodable.ctz (f : UnForm) : Encodable.Statement (.ctz f) := ⟨(fun _ h => nomatch h), fun _ => rfl⟩
theorem Encodable.popc (f : UnForm) : Encodable.Statement (.popc f) := ⟨(fun _ h => nomatch h), fun _ => rfl⟩
theorem Encodable.brev (f : UnForm) : Encodable.Statement (.brev f) := ⟨(fun _ h => nomatch h), fun _ => rfl⟩
theorem Encodable.min (f : AluForm) : Encodable.Statement (.min f) := ⟨(fun _ h => nomatch h), fun _ => rfl⟩
theorem Encodable.max (f : AluForm) : Encodable.Statement (.max f) := ⟨(fun _ h => nomatch h), fun _ => rfl⟩
theorem Encodable.minn (f : AluForm) : Encodable.Statement (.minn f) := ⟨(fun _ h => nomatch h), fun _ => rfl⟩
theorem Encodable.maxn (f : AluForm) : Encodable.Statement (.maxn f) := ⟨(fun _ h => nomatch h), fun _ => rfl⟩
theorem Encodable.cmp (f : CmpForm) : Encodable.Statement (.cmp f) := ⟨(fun _ h => nomatch h), fun _ => rfl⟩
theorem Encodable.cmpn (f : CmpForm) : Encodable.Statement (.cmpn f) := ⟨(fun _ h => nomatch h), fun _ => rfl⟩
theorem Encodable.mov (f : UnForm) : Encodable.Statement (.mov f) := ⟨(fun _ h => nomatch h), fun _ => rfl⟩
theorem Encodable.li (f : LiForm) : Encodable.Statement (.li f) := ⟨(fun _ h => nomatch h), fun _ => rfl⟩
theorem Encodable.movx (f : UnForm) : Encodable.Statement (.movx f) := ⟨(fun _ h => nomatch h), fun h => nomatch h⟩
theorem Encodable.extr (f : AluForm) : Encodable.Statement (.extr f) := ⟨(fun _ h => nomatch h), fun _ => rfl⟩
theorem Encodable.insr (f : AluForm) : Encodable.Statement (.insr f) := ⟨(fun _ h => nomatch h), fun _ => rfl⟩
theorem Encodable.sxt (f : AluForm) : Encodable.Statement (.sxt f) := ⟨(fun _ h => nomatch h), fun _ => rfl⟩
theorem Encodable.zxt (f : AluForm) : Encodable.Statement (.zxt f) := ⟨(fun _ h => nomatch h), fun _ => rfl⟩
theorem Encodable.lea (f : AluForm) : Encodable.Statement (.lea f) := ⟨(fun _ h => nomatch h), fun _ => rfl⟩
theorem Encodable.pand (f : PredForm) : Encodable.Statement (.pand f) := ⟨(fun _ h => nomatch h), fun _ => rfl⟩
theorem Encodable.por (f : PredForm) : Encodable.Statement (.por f) := ⟨(fun _ h => nomatch h), fun _ => rfl⟩
theorem Encodable.pxor (f : PredForm) : Encodable.Statement (.pxor f) := ⟨(fun _ h => nomatch h), fun _ => rfl⟩
theorem Encodable.pnot (f : PredUnForm) : Encodable.Statement (.pnot f) := ⟨(fun _ h => nomatch h), fun _ => rfl⟩
theorem Encodable.pmov (f : PredUnForm) : Encodable.Statement (.pmov f) := ⟨(fun _ h => nomatch h), fun _ => rfl⟩
theorem Encodable.pset (f : PSetForm) : Encodable.Statement (.pset f) := ⟨(fun _ h => nomatch h), fun _ => rfl⟩
theorem Encodable.fadd (f : AluForm) : Encodable.Statement (.fadd f) := ⟨(fun _ h => nomatch h), fun _ => rfl⟩
theorem Encodable.fsub (f : AluForm) : Encodable.Statement (.fsub f) := ⟨(fun _ h => nomatch h), fun _ => rfl⟩
theorem Encodable.fmul (f : AluForm) : Encodable.Statement (.fmul f) := ⟨(fun _ h => nomatch h), fun _ => rfl⟩
theorem Encodable.ffma (f : AluForm) : Encodable.Statement (.ffma f) := ⟨(fun _ h => nomatch h), fun _ => rfl⟩
theorem Encodable.fmin (f : AluForm) : Encodable.Statement (.fmin f) := ⟨(fun _ h => nomatch h), fun _ => rfl⟩
theorem Encodable.fmax (f : AluForm) : Encodable.Statement (.fmax f) := ⟨(fun _ h => nomatch h), fun _ => rfl⟩
theorem Encodable.fcmp (f : CmpForm) : Encodable.Statement (.fcmp f) := ⟨(fun _ h => nomatch h), fun _ => rfl⟩
theorem Encodable.fcvtI2f (f : UnForm) : Encodable.Statement (.fcvtI2f f) := ⟨(fun _ h => nomatch h), fun _ => rfl⟩
theorem Encodable.fcvtN2f (f : UnForm) : Encodable.Statement (.fcvtN2f f) := ⟨(fun _ h => nomatch h), fun _ => rfl⟩
theorem Encodable.fcvtF2i (f : UnForm) : Encodable.Statement (.fcvtF2i f) := ⟨(fun _ h => nomatch h), fun _ => rfl⟩
theorem Encodable.fcvtF2n (f : UnForm) : Encodable.Statement (.fcvtF2n f) := ⟨(fun _ h => nomatch h), fun _ => rfl⟩
theorem Encodable.mfc (f : CRegForm) : Encodable.Statement (.mfc f) := ⟨(fun _ h => nomatch h), fun _ => rfl⟩
theorem Encodable.mtc (f : CRegForm) : Encodable.Statement (.mtc f) := ⟨(fun _ h => nomatch h), fun h => nomatch h⟩
theorem Encodable.now (f : TimeForm) : Encodable.Statement (.now f) := ⟨(fun _ h => nomatch h), fun _ => rfl⟩
theorem Encodable.cyc (f : TimeForm) : Encodable.Statement (.cyc f) := ⟨(fun _ h => nomatch h), fun _ => rfl⟩
theorem Encodable.mix (f : AluForm) : Encodable.Statement (.mix f) := ⟨(fun _ h => nomatch h), fun _ => rfl⟩
theorem Encodable.hset (f : HoistForm) : Encodable.Statement (.hset f) := ⟨(fun _ h => nomatch h), fun h => nomatch h⟩
theorem Encodable.hget (f : HoistForm) : Encodable.Statement (.hget f) := ⟨(fun _ h => nomatch h), fun _ => rfl⟩
theorem Encodable.ldb (f : MemForm) : Encodable.Statement (.ldb f) := ⟨(fun _ h => nomatch h), fun _ => rfl⟩
theorem Encodable.ldbn (f : MemForm) : Encodable.Statement (.ldbn f) := ⟨(fun _ h => nomatch h), fun _ => rfl⟩
theorem Encodable.ldh (f : MemForm) : Encodable.Statement (.ldh f) := ⟨(fun _ h => nomatch h), fun _ => rfl⟩
theorem Encodable.ldhn (f : MemForm) : Encodable.Statement (.ldhn f) := ⟨(fun _ h => nomatch h), fun _ => rfl⟩
theorem Encodable.ldw (f : MemForm) : Encodable.Statement (.ldw f) := ⟨(fun _ h => nomatch h), fun _ => rfl⟩
theorem Encodable.ldwn (f : MemForm) : Encodable.Statement (.ldwn f) := ⟨(fun _ h => nomatch h), fun _ => rfl⟩
theorem Encodable.ldd (f : MemForm) : Encodable.Statement (.ldd f) := ⟨(fun _ h => nomatch h), fun _ => rfl⟩
theorem Encodable.stb (f : MemForm) : Encodable.Statement (.stb f) := ⟨(fun _ h => nomatch h), fun _ => rfl⟩
theorem Encodable.sth (f : MemForm) : Encodable.Statement (.sth f) := ⟨(fun _ h => nomatch h), fun _ => rfl⟩
theorem Encodable.stw (f : MemForm) : Encodable.Statement (.stw f) := ⟨(fun _ h => nomatch h), fun _ => rfl⟩
theorem Encodable.std (f : MemForm) : Encodable.Statement (.std f) := ⟨(fun _ h => nomatch h), fun _ => rfl⟩
theorem Encodable.ldv (f : VMemForm) : Encodable.Statement (.ldv f) := ⟨(fun _ h => nomatch h), fun h => nomatch h⟩
theorem Encodable.stv (f : VMemForm) : Encodable.Statement (.stv f) := ⟨(fun _ h => nomatch h), fun h => nomatch h⟩
theorem Encodable.vgath (f : GathForm) : Encodable.Statement (.vgath f) := ⟨(fun _ h => nomatch h), fun h => nomatch h⟩
theorem Encodable.vscat (f : GathForm) : Encodable.Statement (.vscat f) := ⟨(fun _ h => nomatch h), fun h => nomatch h⟩
theorem Encodable.lda (f : MemForm) : Encodable.Statement (.lda f) := ⟨(fun _ h => nomatch h), fun _ => rfl⟩
theorem Encodable.strl (f : MemForm) : Encodable.Statement (.strl f) := ⟨(fun _ h => nomatch h), fun _ => rfl⟩
theorem Encodable.praise (f : MemForm) : Encodable.Statement (.praise f) := ⟨(fun _ h => nomatch h), fun _ => rfl⟩
theorem Encodable.ptest (f : MemForm) : Encodable.Statement (.ptest f) := ⟨(fun _ h => nomatch h), fun _ => rfl⟩
theorem Encodable.pwait (f : MemForm) : Encodable.Statement (.pwait f) := ⟨(fun _ h => nomatch h), fun _ => rfl⟩
theorem Encodable.lrw (f : MemForm) : Encodable.Statement (.lrw f) := ⟨(fun _ h => nomatch h), fun _ => rfl⟩
theorem Encodable.sch (f : MemForm) : Encodable.Statement (.sch f) := ⟨(fun _ h => nomatch h), fun _ => rfl⟩
theorem Encodable.aadd (f : MemForm) : Encodable.Statement (.aadd f) := ⟨(fun _ h => nomatch h), fun _ => rfl⟩
theorem Encodable.aand (f : MemForm) : Encodable.Statement (.aand f) := ⟨(fun _ h => nomatch h), fun _ => rfl⟩
theorem Encodable.aor (f : MemForm) : Encodable.Statement (.aor f) := ⟨(fun _ h => nomatch h), fun _ => rfl⟩
theorem Encodable.axor (f : MemForm) : Encodable.Statement (.axor f) := ⟨(fun _ h => nomatch h), fun _ => rfl⟩
theorem Encodable.amin (f : MemForm) : Encodable.Statement (.amin f) := ⟨(fun _ h => nomatch h), fun _ => rfl⟩
theorem Encodable.amax (f : MemForm) : Encodable.Statement (.amax f) := ⟨(fun _ h => nomatch h), fun _ => rfl⟩
theorem Encodable.aminn (f : MemForm) : Encodable.Statement (.aminn f) := ⟨(fun _ h => nomatch h), fun _ => rfl⟩
theorem Encodable.amaxn (f : MemForm) : Encodable.Statement (.amaxn f) := ⟨(fun _ h => nomatch h), fun _ => rfl⟩
theorem Encodable.axch (f : MemForm) : Encodable.Statement (.axch f) := ⟨(fun _ h => nomatch h), fun _ => rfl⟩
theorem Encodable.acas (f : MemForm) : Encodable.Statement (.acas f) := ⟨(fun _ h => nomatch h), fun _ => rfl⟩
theorem Encodable.fence (f : FenceForm) : Encodable.Statement (.fence f) := ⟨(fun _ h => nomatch h), fun _ => rfl⟩
theorem Encodable.cflush (f : MemForm) : Encodable.Statement (.cflush f) := ⟨(fun h => nomatch h), fun _ => rfl⟩
theorem Encodable.cinv (f : MemForm) : Encodable.Statement (.cinv f) := ⟨(fun h => nomatch h), fun _ => rfl⟩
theorem Encodable.cpre (f : MemForm) : Encodable.Statement (.cpre f) := ⟨(fun h => nomatch h), fun _ => rfl⟩
theorem Encodable.pld (f : MemForm) : Encodable.Statement (.pld f) := ⟨(fun h => nomatch h), fun _ => rfl⟩
theorem Encodable.stt (f : MemForm) : Encodable.Statement (.stt f) := ⟨(fun h => nomatch h), fun _ => rfl⟩
theorem Encodable.vadd (f : VForm) : Encodable.Statement (.vadd f) := ⟨(fun _ h => nomatch h), fun h => nomatch h⟩
theorem Encodable.vsub (f : VForm) : Encodable.Statement (.vsub f) := ⟨(fun _ h => nomatch h), fun h => nomatch h⟩
theorem Encodable.vmul (f : VForm) : Encodable.Statement (.vmul f) := ⟨(fun _ h => nomatch h), fun h => nomatch h⟩
theorem Encodable.vmulh (f : VForm) : Encodable.Statement (.vmulh f) := ⟨(fun _ h => nomatch h), fun h => nomatch h⟩
theorem Encodable.vfma (f : VForm) : Encodable.Statement (.vfma f) := ⟨(fun _ h => nomatch h), fun h => nomatch h⟩
theorem Encodable.vfms (f : VForm) : Encodable.Statement (.vfms f) := ⟨(fun _ h => nomatch h), fun h => nomatch h⟩
theorem Encodable.vmin (f : VForm) : Encodable.Statement (.vmin f) := ⟨(fun _ h => nomatch h), fun h => nomatch h⟩
theorem Encodable.vmax (f : VForm) : Encodable.Statement (.vmax f) := ⟨(fun _ h => nomatch h), fun h => nomatch h⟩
theorem Encodable.vabs (f : V1Form) : Encodable.Statement (.vabs f) := ⟨(fun _ h => nomatch h), fun h => nomatch h⟩
theorem Encodable.vneg (f : V1Form) : Encodable.Statement (.vneg f) := ⟨(fun _ h => nomatch h), fun h => nomatch h⟩
theorem Encodable.vand (f : VForm) : Encodable.Statement (.vand f) := ⟨(fun _ h => nomatch h), fun h => nomatch h⟩
theorem Encodable.vor (f : VForm) : Encodable.Statement (.vor f) := ⟨(fun _ h => nomatch h), fun h => nomatch h⟩
theorem Encodable.vxor (f : VForm) : Encodable.Statement (.vxor f) := ⟨(fun _ h => nomatch h), fun h => nomatch h⟩
theorem Encodable.vnot (f : V1Form) : Encodable.Statement (.vnot f) := ⟨(fun _ h => nomatch h), fun h => nomatch h⟩
theorem Encodable.vshl (f : VForm) : Encodable.Statement (.vshl f) := ⟨(fun _ h => nomatch h), fun h => nomatch h⟩
theorem Encodable.vshr (f : VForm) : Encodable.Statement (.vshr f) := ⟨(fun _ h => nomatch h), fun h => nomatch h⟩
theorem Encodable.vsra (f : VForm) : Encodable.Statement (.vsra f) := ⟨(fun _ h => nomatch h), fun h => nomatch h⟩
theorem Encodable.vcmp (f : VCmpForm) : Encodable.Statement (.vcmp f) := ⟨(fun _ h => nomatch h), fun h => nomatch h⟩
theorem Encodable.vcmpx (f : VCmpForm) : Encodable.Statement (.vcmpx f) := ⟨(fun _ h => nomatch h), fun h => nomatch h⟩
theorem Encodable.vsel (f : VForm) : Encodable.Statement (.vsel f) := ⟨(fun _ h => nomatch h), fun h => nomatch h⟩
theorem Encodable.vcvt (f : VCvtForm) : Encodable.Statement (.vcvt f) := ⟨(fun _ h => nomatch h), fun h => nomatch h⟩
theorem Encodable.vpack (f : VForm) : Encodable.Statement (.vpack f) := ⟨(fun _ h => nomatch h), fun h => nomatch h⟩
theorem Encodable.vunpk (f : VUnpkForm) : Encodable.Statement (.vunpk f) := ⟨(fun _ h => nomatch h), fun h => nomatch h⟩
theorem Encodable.vqdec (f : VQdecForm) : Encodable.Statement (.vqdec f) := ⟨(fun _ h => nomatch h), fun h => nomatch h⟩
theorem Encodable.vexp2 (f : VRndForm) : Encodable.Statement (.vexp2 f) := ⟨(fun _ h => nomatch h), fun h => nomatch h⟩
theorem Encodable.vlog2 (f : VRndForm) : Encodable.Statement (.vlog2 f) := ⟨(fun _ h => nomatch h), fun h => nomatch h⟩
theorem Encodable.vrcp (f : VRndForm) : Encodable.Statement (.vrcp f) := ⟨(fun _ h => nomatch h), fun h => nomatch h⟩
theorem Encodable.vrsq (f : VRndForm) : Encodable.Statement (.vrsq f) := ⟨(fun _ h => nomatch h), fun h => nomatch h⟩
theorem Encodable.vsqrt (f : VRndForm) : Encodable.Statement (.vsqrt f) := ⟨(fun _ h => nomatch h), fun h => nomatch h⟩
theorem Encodable.vred (f : VRedForm) : Encodable.Statement (.vred f) := ⟨(fun _ h => nomatch h), fun h => nomatch h⟩
theorem Encodable.vscan (f : VRedForm) : Encodable.Statement (.vscan f) := ⟨(fun _ h => nomatch h), fun h => nomatch h⟩
theorem Encodable.vperm (f : VForm) : Encodable.Statement (.vperm f) := ⟨(fun _ h => nomatch h), fun h => nomatch h⟩
theorem Encodable.vshuf (f : VPatForm) : Encodable.Statement (.vshuf f) := ⟨(fun _ h => nomatch h), fun h => nomatch h⟩
theorem Encodable.vbc (f : VScalForm) : Encodable.Statement (.vbc f) := ⟨(fun _ h => nomatch h), fun h => nomatch h⟩
theorem Encodable.vext (f : VExtForm) : Encodable.Statement (.vext f) := ⟨(fun _ h => nomatch h), fun h => nomatch h⟩
theorem Encodable.vins (f : VScalForm) : Encodable.Statement (.vins f) := ⟨(fun _ h => nomatch h), fun h => nomatch h⟩
theorem Encodable.vcx (f : VPatForm) : Encodable.Statement (.vcx f) := ⟨(fun _ h => nomatch h), fun h => nomatch h⟩
theorem Encodable.vargmx (f : V1Form) : Encodable.Statement (.vargmx f) := ⟨(fun _ h => nomatch h), fun h => nomatch h⟩
theorem Encodable.vrand (f : VForm) : Encodable.Statement (.vrand f) := ⟨(fun _ h => nomatch h), fun h => nomatch h⟩
theorem Encodable.viota (f : VIotaForm) : Encodable.Statement (.viota f) := ⟨(fun _ h => nomatch h), fun h => nomatch h⟩
theorem Encodable.mand (f : MaskForm) : Encodable.Statement (.mand f) := ⟨(fun _ h => nomatch h), fun h => nomatch h⟩
theorem Encodable.mor (f : MaskForm) : Encodable.Statement (.mor f) := ⟨(fun _ h => nomatch h), fun h => nomatch h⟩
theorem Encodable.mxor (f : MaskForm) : Encodable.Statement (.mxor f) := ⟨(fun _ h => nomatch h), fun h => nomatch h⟩
theorem Encodable.mnot (f : MaskUnForm) : Encodable.Statement (.mnot f) := ⟨(fun _ h => nomatch h), fun h => nomatch h⟩
theorem Encodable.mpop (f : MaskOutForm) : Encodable.Statement (.mpop f) := ⟨(fun _ h => nomatch h), fun h => nomatch h⟩
theorem Encodable.mfirst (f : MaskOutForm) : Encodable.Statement (.mfirst f) := ⟨(fun _ h => nomatch h), fun h => nomatch h⟩
theorem Encodable.mfrom (f : MaskInForm) : Encodable.Statement (.mfrom f) := ⟨(fun _ h => nomatch h), fun h => nomatch h⟩
theorem Encodable.mtos (f : MaskOutForm) : Encodable.Statement (.mtos f) := ⟨(fun _ h => nomatch h), fun h => nomatch h⟩
theorem Encodable.mbeat (f : BeatForm) : Encodable.Statement (.mbeat f) := ⟨(fun _ h => nomatch h), fun h => nomatch h⟩
theorem Encodable.mscl (f : SclForm) : Encodable.Statement (.mscl f) := ⟨(fun _ h => nomatch h), fun h => nomatch h⟩
theorem Encodable.mclr (f : ClrForm) : Encodable.Statement (.mclr f) := ⟨(fun _ h => nomatch h), fun h => nomatch h⟩
theorem Encodable.mswap (f : SwapForm) : Encodable.Statement (.mswap f) := ⟨(fun _ h => nomatch h), fun h => nomatch h⟩
theorem Encodable.msave (f : ImgForm) : Encodable.Statement (.msave f) := ⟨(fun _ h => nomatch h), fun h => nomatch h⟩
theorem Encodable.mload (f : ImgForm) : Encodable.Statement (.mload f) := ⟨(fun _ h => nomatch h), fun h => nomatch h⟩
theorem Encodable.br (f : OffForm) : Encodable.Statement (.br f) := ⟨(fun _ h => nomatch h), fun h => nomatch h⟩
theorem Encodable.bri (f : RegForm) : Encodable.Statement (.bri f) := ⟨(fun _ h => nomatch h), fun h => nomatch h⟩
theorem Encodable.call (f : OffForm) : Encodable.Statement (.call f) := ⟨(fun _ h => nomatch h), fun h => nomatch h⟩
theorem Encodable.calli (f : RegForm) : Encodable.Statement (.calli f) := ⟨(fun _ h => nomatch h), fun h => nomatch h⟩
theorem Encodable.ret (f : NoneForm) : Encodable.Statement (.ret f) := ⟨(fun _ h => nomatch h), fun h => nomatch h⟩
theorem Encodable.loop (f : LoopForm) : Encodable.Statement (.loop f) := ⟨(fun _ h => nomatch h), fun h => nomatch h⟩
theorem Encodable.loopx (f : LoopxForm) : Encodable.Statement (.loopx f) := ⟨(fun _ h => nomatch h), fun h => nomatch h⟩
theorem Encodable.holdcImm (f : HoldForm) : Encodable.Statement (.holdcImm f) := ⟨(fun _ h => nomatch h), fun h => nomatch h⟩
theorem Encodable.holdcReg (f : RegForm) : Encodable.Statement (.holdcReg f) := ⟨(fun _ h => nomatch h), fun h => nomatch h⟩
theorem Encodable.holdu (f : RegForm) : Encodable.Statement (.holdu f) := ⟨(fun _ h => nomatch h), fun h => nomatch h⟩
theorem Encodable.halt (f : NoneForm) : Encodable.Statement (.halt f) := ⟨(fun _ h => nomatch h), fun h => nomatch h⟩
theorem Encodable.trap (f : CodeForm) : Encodable.Statement (.trap f) := ⟨(fun _ h => nomatch h), fun h => nomatch h⟩
theorem Encodable.brk (f : NoneForm) : Encodable.Statement (.brk f) := ⟨(fun _ h => nomatch h), fun h => nomatch h⟩
theorem Encodable.iret (f : NoneForm) : Encodable.Statement (.iret f) := ⟨(fun _ h => nomatch h), fun h => nomatch h⟩
theorem Encodable.uien (f : NoneForm) : Encodable.Statement (.uien f) := ⟨(fun _ h => nomatch h), fun h => nomatch h⟩
theorem Encodable.uidis (f : NoneForm) : Encodable.Statement (.uidis f) := ⟨(fun _ h => nomatch h), fun h => nomatch h⟩
theorem Encodable.ifence (f : NoneForm) : Encodable.Statement (.ifence f) := ⟨(fun _ h => nomatch h), fun h => nomatch h⟩
theorem Encodable.phase (f : RegForm) : Encodable.Statement (.phase f) := ⟨(fun _ h => nomatch h), fun h => nomatch h⟩
theorem Encodable.mseek (f : OffForm) : Encodable.Statement (.mseek f) := ⟨(fun _ h => nomatch h), fun h => nomatch h⟩
theorem Encodable.setfReg (f : SetfForm) : Encodable.Statement (.setfReg f) := ⟨(fun _ h => nomatch h), fun h => nomatch h⟩
theorem Encodable.setfLit (f : SetfLitForm) : Encodable.Statement (.setfLit f) := ⟨(fun _ h => nomatch h), fun h => nomatch h⟩
theorem Encodable.fmtReg (f : RegForm) : Encodable.Statement (.fmtReg f) := ⟨(fun _ h => nomatch h), fun h => nomatch h⟩
theorem Encodable.fmtLit (f : FmtLitForm) : Encodable.Statement (.fmtLit f) := ⟨(fun _ h => nomatch h), fun h => nomatch h⟩
theorem Encodable.cpy (f : E2Form) : Encodable.Statement (.cpy f) := ⟨(fun _ h => nomatch h), fun _ => rfl⟩
theorem Encodable.cpyV (f : E2Form) : Encodable.Statement (.cpyV f) := ⟨(fun _ h => nomatch h), fun _ => rfl⟩
theorem Encodable.cpyq (f : E2Form) : Encodable.Statement (.cpyq f) := ⟨(fun _ h => nomatch h), fun _ => rfl⟩
theorem Encodable.cpyw (f : E2Form) : Encodable.Statement (.cpyw f) := ⟨(fun _ h => nomatch h), fun _ => rfl⟩
theorem Encodable.cpyk (f : E2Form) : Encodable.Statement (.cpyk f) := ⟨(fun _ h => nomatch h), fun _ => rfl⟩
theorem Encodable.hbindOpen (f : E3Form) : Encodable.Statement (.hbindOpen f) := ⟨(fun _ h => nomatch h), fun h => nomatch h⟩
theorem Encodable.hbindBind (f : E2Form) : Encodable.Statement (.hbindBind f) := ⟨(fun _ h => nomatch h), fun h => nomatch h⟩
theorem Encodable.hbindPark (f : E2Form) : Encodable.Statement (.hbindPark f) := ⟨(fun _ h => nomatch h), fun h => nomatch h⟩
theorem Encodable.hbindClose (f : E2Form) : Encodable.Statement (.hbindClose f) := ⟨(fun _ h => nomatch h), fun h => nomatch h⟩
theorem Encodable.hread (f : HreadForm) : Encodable.Statement (.hread f) := ⟨(fun _ h => nomatch h), fun _ => rfl⟩
theorem Encodable.hframe (f : E3Form) : Encodable.Statement (.hframe f) := ⟨(fun _ h => nomatch h), fun h => nomatch h⟩
theorem Encodable.htent (f : E3Form) : Encodable.Statement (.htent f) := ⟨(fun _ h => nomatch h), fun h => nomatch h⟩
theorem Encodable.hcommit (f : E3Form) : Encodable.Statement (.hcommit f) := ⟨(fun _ h => nomatch h), fun h => nomatch h⟩
theorem Encodable.hcut (f : E2Form) : Encodable.Statement (.hcut f) := ⟨(fun _ h => nomatch h), fun h => nomatch h⟩
theorem Encodable.hcutT (f : E2Form) : Encodable.Statement (.hcutT f) := ⟨(fun _ h => nomatch h), fun h => nomatch h⟩
theorem Encodable.hckpt (f : E3Form) : Encodable.Statement (.hckpt f) := ⟨(fun _ h => nomatch h), fun h => nomatch h⟩
theorem Encodable.hplayHold (f : E3Form) : Encodable.Statement (.hplayHold f) := ⟨(fun _ h => nomatch h), fun h => nomatch h⟩
theorem Encodable.hplaySource (f : E3Form) : Encodable.Statement (.hplaySource f) := ⟨(fun _ h => nomatch h), fun h => nomatch h⟩
theorem Encodable.hplayHorizon (f : E3Form) : Encodable.Statement (.hplayHorizon f) := ⟨(fun _ h => nomatch h), fun h => nomatch h⟩
theorem Encodable.sqput (f : E3Form) : Encodable.Statement (.sqput f) := ⟨(fun _ h => nomatch h), fun _ => rfl⟩
theorem Encodable.sqget (f : E3Form) : Encodable.Statement (.sqget f) := ⟨(fun _ h => nomatch h), fun _ => rfl⟩
theorem Encodable.sqlen (f : E3Form) : Encodable.Statement (.sqlen f) := ⟨(fun _ h => nomatch h), fun _ => rfl⟩
theorem Encodable.sqlenArmHigh (f : E3Form) : Encodable.Statement (.sqlenArmHigh f) := ⟨(fun _ h => nomatch h), fun h => nomatch h⟩
theorem Encodable.sqlenArmLow (f : E3Form) : Encodable.Statement (.sqlenArmLow f) := ⟨(fun _ h => nomatch h), fun h => nomatch h⟩
theorem Encodable.tspawn (f : ESpawnForm) : Encodable.Statement (.tspawn f) := ⟨(fun _ h => nomatch h), fun _ => rfl⟩
theorem Encodable.twake (f : ESpawnForm) : Encodable.Statement (.twake f) := ⟨(fun _ h => nomatch h), fun _ => rfl⟩
theorem Encodable.trace (f : E3Form) : Encodable.Statement (.trace f) := ⟨(fun _ h => nomatch h), fun _ => rfl⟩
theorem Encodable.vsend (f : MeshForm) : Encodable.Statement (.vsend f) := ⟨(fun _ h => nomatch h), fun h => nomatch h⟩
theorem Encodable.vrecv (f : MeshForm) : Encodable.Statement (.vrecv f) := ⟨(fun _ h => nomatch h), fun h => nomatch h⟩
theorem Encodable.live (f : LiveForm) : Encodable.Statement (.live f) := ⟨(fun h => nomatch h), fun _ => rfl⟩
theorem Encodable.migr (f : MigrForm) : Encodable.Statement (.migr f) := ⟨(fun h => nomatch h), fun _ => rfl⟩
theorem Encodable.jmp (f : JmpForm) : Encodable.Statement (.jmp f) := ⟨(fun h => nomatch h), fun _ => rfl⟩
theorem Encodable.jr (f : JrForm) : Encodable.Statement (.jr f) := ⟨(fun h => nomatch h), fun _ => rfl⟩
theorem Encodable.jal (f : JalForm) : Encodable.Statement (.jal f) := ⟨(fun h => nomatch h), fun _ => rfl⟩
theorem Encodable.jalr (f : JalrForm) : Encodable.Statement (.jalr f) := ⟨(fun h => nomatch h), fun _ => rfl⟩
theorem Encodable.sleepu (f : SleepForm) : Encodable.Statement (.sleepu f) := ⟨(fun h => nomatch h), fun _ => rfl⟩
theorem Encodable.tyield : Encodable.Statement .tyield := ⟨(fun h => nomatch h), fun _ => rfl⟩
theorem Encodable.tyieldPark : Encodable.Statement .tyieldPark := ⟨(fun h => nomatch h), fun _ => rfl⟩
theorem Encodable.texit : Encodable.Statement .texit := ⟨(fun h => nomatch h), fun _ => rfl⟩
theorem Encodable.sysc (f : SyscForm) : Encodable.Statement (.sysc f) := ⟨(fun h => nomatch h), fun _ => rfl⟩
theorem Encodable.trapg (f : TrapgForm) : Encodable.Statement (.trapg f) := ⟨(fun h => nomatch h), fun _ => rfl⟩
theorem Encodable.coldReset : Encodable.Statement .coldReset := ⟨(fun h => nomatch h), fun h => nomatch h⟩
theorem Encodable.warmReset : Encodable.Statement .warmReset := ⟨(fun h => nomatch h), fun h => nomatch h⟩
theorem Encodable.functionLevelReset : Encodable.Statement .functionLevelReset := ⟨(fun h => nomatch h), fun h => nomatch h⟩
theorem Encodable.tokenPeriodStart : Encodable.Statement .tokenPeriodStart := ⟨(fun h => nomatch h), fun h => nomatch h⟩
theorem Encodable.grantWrite : Encodable.Statement .grantWrite := ⟨(fun h => nomatch h), fun h => nomatch h⟩
theorem Encodable.powerCap : Encodable.Statement .powerCap := ⟨(fun h => nomatch h), fun h => nomatch h⟩
theorem Encodable.gatingPrepare : Encodable.Statement .gatingPrepare := ⟨(fun h => nomatch h), fun h => nomatch h⟩
theorem Encodable.gatingCommit : Encodable.Statement .gatingCommit := ⟨(fun h => nomatch h), fun h => nomatch h⟩
theorem Encodable.ungatingComplete : Encodable.Statement .ungatingComplete := ⟨(fun h => nomatch h), fun h => nomatch h⟩
theorem Encodable.timeSourceLock : Encodable.Statement .timeSourceLock := ⟨(fun h => nomatch h), fun h => nomatch h⟩
theorem Encodable.timeSourceLoss : Encodable.Statement .timeSourceLoss := ⟨(fun h => nomatch h), fun h => nomatch h⟩
theorem Encodable.timecfgWrite : Encodable.Statement .timecfgWrite := ⟨(fun h => nomatch h), fun h => nomatch h⟩
theorem Encodable.linkTrainingDone : Encodable.Statement .linkTrainingDone := ⟨(fun h => nomatch h), fun h => nomatch h⟩
theorem Encodable.linkRetrain : Encodable.Statement .linkRetrain := ⟨(fun h => nomatch h), fun h => nomatch h⟩
theorem Encodable.idle : Encodable.Statement .idle := ⟨(fun h => nomatch h), fun h => nomatch h⟩
theorem Encodable.read : Encodable.Statement .read := ⟨(fun h => nomatch h), fun h => nomatch h⟩
theorem Encodable.readrsp : Encodable.Statement .readrsp := ⟨(fun h => nomatch h), fun h => nomatch h⟩
theorem Encodable.write : Encodable.Statement .write := ⟨(fun h => nomatch h), fun h => nomatch h⟩
theorem Encodable.writeack : Encodable.Statement .writeack := ⟨(fun h => nomatch h), fun h => nomatch h⟩
theorem Encodable.atomic : Encodable.Statement .atomic := ⟨(fun h => nomatch h), fun h => nomatch h⟩
theorem Encodable.atomicrsp : Encodable.Statement .atomicrsp := ⟨(fun h => nomatch h), fun h => nomatch h⟩
theorem Encodable.message : Encodable.Statement .message := ⟨(fun h => nomatch h), fun h => nomatch h⟩
theorem Encodable.time : Encodable.Statement .time := ⟨(fun h => nomatch h), fun h => nomatch h⟩
theorem Encodable.linkctl : Encodable.Statement .linkctl := ⟨(fun h => nomatch h), fun h => nomatch h⟩
theorem Encodable.routeWrite : Encodable.Statement .routeWrite := ⟨(fun h => nomatch h), fun h => nomatch h⟩
theorem Encodable.routeStallDiscard : Encodable.Statement .routeStallDiscard := ⟨(fun h => nomatch h), fun h => nomatch h⟩
theorem Encodable.linkRequestTimeout : Encodable.Statement .linkRequestTimeout := ⟨(fun h => nomatch h), fun h => nomatch h⟩
theorem Encodable.messageRetry : Encodable.Statement .messageRetry := ⟨(fun h => nomatch h), fun h => nomatch h⟩
theorem Encodable.timeFlitSend : Encodable.Statement .timeFlitSend := ⟨(fun h => nomatch h), fun h => nomatch h⟩
theorem Encodable.neighbourSourceLost : Encodable.Statement .neighbourSourceLost := ⟨(fun h => nomatch h), fun h => nomatch h⟩
theorem Encodable.bar4Read : Encodable.Statement .bar4Read := ⟨(fun h => nomatch h), fun h => nomatch h⟩
theorem Encodable.bar4Write : Encodable.Statement .bar4Write := ⟨(fun h => nomatch h), fun h => nomatch h⟩
theorem Encodable.claim : Encodable.Statement .claim := ⟨(fun h => nomatch h), fun h => nomatch h⟩
theorem Encodable.release : Encodable.Statement .release := ⟨(fun h => nomatch h), fun h => nomatch h⟩
theorem Encodable.handover : Encodable.Statement .handover := ⟨(fun h => nomatch h), fun h => nomatch h⟩
theorem Encodable.accept : Encodable.Statement .accept := ⟨(fun h => nomatch h), fun h => nomatch h⟩
theorem Encodable.handoverLapse : Encodable.Statement .handoverLapse := ⟨(fun h => nomatch h), fun h => nomatch h⟩
theorem Encodable.registerWrite : Encodable.Statement .registerWrite := ⟨(fun h => nomatch h), fun h => nomatch h⟩
theorem Encodable.pldmSensorRead : Encodable.Statement .pldmSensorRead := ⟨(fun h => nomatch h), fun h => nomatch h⟩
theorem Encodable.telemetryRefresh : Encodable.Statement .telemetryRefresh := ⟨(fun h => nomatch h), fun h => nomatch h⟩
theorem Encodable.firmwareUpdate : Encodable.Statement .firmwareUpdate := ⟨(fun h => nomatch h), fun h => nomatch h⟩
theorem Encodable.clearBootMark : Encodable.Statement .clearBootMark := ⟨(fun h => nomatch h), fun h => nomatch h⟩
theorem Encodable.spdmRequest : Encodable.Statement .spdmRequest := ⟨(fun h => nomatch h), fun h => nomatch h⟩
theorem Encodable.tracebaseWrite : Encodable.Statement .tracebaseWrite := ⟨(fun h => nomatch h), fun h => nomatch h⟩
theorem Encodable.tracecfgWrite : Encodable.Statement .tracecfgWrite := ⟨(fun h => nomatch h), fun h => nomatch h⟩
theorem Encodable.bootStep : Encodable.Statement .bootStep := ⟨(fun h => nomatch h), fun h => nomatch h⟩
theorem Encodable.bootFailReset : Encodable.Statement .bootFailReset := ⟨(fun h => nomatch h), fun h => nomatch h⟩
theorem Encodable.functionEnable : Encodable.Statement .functionEnable := ⟨(fun h => nomatch h), fun h => nomatch h⟩
theorem Encodable.create : Encodable.Statement .create := ⟨(fun h => nomatch h), fun h => nomatch h⟩
theorem Encodable.destroy : Encodable.Statement .destroy := ⟨(fun h => nomatch h), fun h => nomatch h⟩
theorem Encodable.contextFree : Encodable.Statement .contextFree := ⟨(fun h => nomatch h), fun h => nomatch h⟩
theorem Encodable.scheduleEntryWrite : Encodable.Statement .scheduleEntryWrite := ⟨(fun h => nomatch h), fun h => nomatch h⟩
theorem Encodable.validSet : Encodable.Statement .validSet := ⟨(fun h => nomatch h), fun h => nomatch h⟩
theorem Encodable.validClear : Encodable.Statement .validClear := ⟨(fun h => nomatch h), fun h => nomatch h⟩
theorem Encodable.preparationBegin : Encodable.Statement .preparationBegin := ⟨(fun h => nomatch h), fun h => nomatch h⟩
theorem Encodable.imageLoad : Encodable.Statement .imageLoad := ⟨(fun h => nomatch h), fun h => nomatch h⟩
theorem Encodable.occurrenceStart : Encodable.Statement .occurrenceStart := ⟨(fun h => nomatch h), fun h => nomatch h⟩
theorem Encodable.occurrenceEnd : Encodable.Statement .occurrenceEnd := ⟨(fun h => nomatch h), fun h => nomatch h⟩
theorem Encodable.frameSubmit : Encodable.Statement .frameSubmit := ⟨(fun h => nomatch h), fun h => nomatch h⟩
theorem Encodable.roundStart : Encodable.Statement .roundStart := ⟨(fun h => nomatch h), fun h => nomatch h⟩
theorem Encodable.sharedStart : Encodable.Statement .sharedStart := ⟨(fun h => nomatch h), fun h => nomatch h⟩
theorem Encodable.stopCycle : Encodable.Statement .stopCycle := ⟨(fun h => nomatch h), fun h => nomatch h⟩
theorem Encodable.snapshotComplete : Encodable.Statement .snapshotComplete := ⟨(fun h => nomatch h), fun h => nomatch h⟩
theorem Encodable.unitResume : Encodable.Statement .unitResume := ⟨(fun h => nomatch h), fun h => nomatch h⟩
theorem Encodable.restoreComplete : Encodable.Statement .restoreComplete := ⟨(fun h => nomatch h), fun h => nomatch h⟩
theorem Encodable.watchdogPreempt : Encodable.Statement .watchdogPreempt := ⟨(fun h => nomatch h), fun h => nomatch h⟩
theorem Encodable.watchdogKill : Encodable.Statement .watchdogKill := ⟨(fun h => nomatch h), fun h => nomatch h⟩
theorem Encodable.watchdogFence : Encodable.Statement .watchdogFence := ⟨(fun h => nomatch h), fun h => nomatch h⟩
theorem Encodable.phaseHoldEnd : Encodable.Statement .phaseHoldEnd := ⟨(fun h => nomatch h), fun h => nomatch h⟩
theorem Encodable.playbackAdvance : Encodable.Statement .playbackAdvance := ⟨(fun h => nomatch h), fun h => nomatch h⟩
theorem Encodable.mergeFrame : Encodable.Statement .mergeFrame := ⟨(fun h => nomatch h), fun h => nomatch h⟩
theorem Encodable.cutFrame : Encodable.Statement .cutFrame := ⟨(fun h => nomatch h), fun h => nomatch h⟩
theorem Encodable.endFrame : Encodable.Statement .endFrame := ⟨(fun h => nomatch h), fun h => nomatch h⟩
theorem Encodable.cutComplete : Encodable.Statement .cutComplete := ⟨(fun h => nomatch h), fun h => nomatch h⟩
theorem Encodable.meshBeat : Encodable.Statement .meshBeat := ⟨(fun h => nomatch h), fun h => nomatch h⟩
theorem Encodable.mailboxPost : Encodable.Statement .mailboxPost := ⟨(fun h => nomatch h), fun h => nomatch h⟩
theorem Encodable.pagefault : Encodable.Statement .pagefault := ⟨(fun h => nomatch h), fun h => nomatch h⟩
theorem Encodable.translationTimeout : Encodable.Statement .translationTimeout := ⟨(fun h => nomatch h), fun h => nomatch h⟩
theorem Encodable.invpage : Encodable.Statement .invpage := ⟨(fun h => nomatch h), fun h => nomatch h⟩
theorem Encodable.invhuge : Encodable.Statement .invhuge := ⟨(fun h => nomatch h), fun h => nomatch h⟩
theorem Encodable.invall : Encodable.Statement .invall := ⟨(fun h => nomatch h), fun h => nomatch h⟩
theorem Encodable.xinvalResume : Encodable.Statement .xinvalResume := ⟨(fun h => nomatch h), fun h => nomatch h⟩
theorem Encodable.xinvalFail : Encodable.Statement .xinvalFail := ⟨(fun h => nomatch h), fun h => nomatch h⟩
theorem Encodable.invalidationComplete : Encodable.Statement .invalidationComplete := ⟨(fun h => nomatch h), fun h => nomatch h⟩
theorem Encodable.domcfgWrite : Encodable.Statement .domcfgWrite := ⟨(fun h => nomatch h), fun h => nomatch h⟩
theorem Encodable.domselWrite : Encodable.Statement .domselWrite := ⟨(fun h => nomatch h), fun h => nomatch h⟩
theorem Encodable.domainChangeComplete : Encodable.Statement .domainChangeComplete := ⟨(fun h => nomatch h), fun h => nomatch h⟩
theorem Encodable.correctedError : Encodable.Statement .correctedError := ⟨(fun h => nomatch h), fun h => nomatch h⟩
theorem Encodable.eccFreezeEnd : Encodable.Statement .eccFreezeEnd := ⟨(fun h => nomatch h), fun h => nomatch h⟩
theorem Encodable.uncorrectableError : Encodable.Statement .uncorrectableError := ⟨(fun h => nomatch h), fun h => nomatch h⟩
theorem Encodable.reservationRevoke : Encodable.Statement .reservationRevoke := ⟨(fun h => nomatch h), fun h => nomatch h⟩
theorem Encodable.raceTagSweep : Encodable.Statement .raceTagSweep := ⟨(fun h => nomatch h), fun h => nomatch h⟩
theorem Encodable.accessTrap : Encodable.Statement .accessTrap := ⟨(fun h => nomatch h), fun h => nomatch h⟩
theorem Encodable.uiTimerFire : Encodable.Statement .uiTimerFire := ⟨(fun h => nomatch h), fun h => nomatch h⟩
theorem Encodable.userInterruptTake : Encodable.Statement .userInterruptTake := ⟨(fun h => nomatch h), fun h => nomatch h⟩
theorem Encodable.trapctlResume : Encodable.Statement .trapctlResume := ⟨(fun h => nomatch h), fun h => nomatch h⟩
theorem Encodable.trapctlKill : Encodable.Statement .trapctlKill := ⟨(fun h => nomatch h), fun h => nomatch h⟩
theorem Encodable.hoistArrival : Encodable.Statement .hoistArrival := ⟨(fun h => nomatch h), fun h => nomatch h⟩
theorem Encodable.hoistRelease : Encodable.Statement .hoistRelease := ⟨(fun h => nomatch h), fun h => nomatch h⟩
theorem Encodable.holdRelease : Encodable.Statement .holdRelease := ⟨(fun h => nomatch h), fun h => nomatch h⟩
theorem Encodable.pwaitWake : Encodable.Statement .pwaitWake := ⟨(fun h => nomatch h), fun h => nomatch h⟩
theorem Encodable.pwaitTimeout : Encodable.Statement .pwaitTimeout := ⟨(fun h => nomatch h), fun h => nomatch h⟩
theorem Encodable.frameResume : Encodable.Statement .frameResume := ⟨(fun h => nomatch h), fun h => nomatch h⟩
theorem Encodable.sleepExpiry : Encodable.Statement .sleepExpiry := ⟨(fun h => nomatch h), fun h => nomatch h⟩
theorem Encodable.migrationDeparture : Encodable.Statement .migrationDeparture := ⟨(fun h => nomatch h), fun h => nomatch h⟩
theorem Encodable.migrationArrival : Encodable.Statement .migrationArrival := ⟨(fun h => nomatch h), fun h => nomatch h⟩
theorem Encodable.mooringMove : Encodable.Statement .mooringMove := ⟨(fun h => nomatch h), fun h => nomatch h⟩
theorem Encodable.copyJobStart : Encodable.Statement .copyJobStart := ⟨(fun h => nomatch h), fun h => nomatch h⟩
theorem Encodable.copyElement : Encodable.Statement .copyElement := ⟨(fun h => nomatch h), fun h => nomatch h⟩
theorem Encodable.copyJobFinish : Encodable.Statement .copyJobFinish := ⟨(fun h => nomatch h), fun h => nomatch h⟩
theorem Encodable.occurrenceInstant : Encodable.Statement .occurrenceInstant := ⟨(fun h => nomatch h), fun h => nomatch h⟩
theorem Encodable.powerLoss : Encodable.Statement .powerLoss := ⟨(fun h => nomatch h), fun h => nomatch h⟩
theorem Encodable.functionDisable : Encodable.Statement .functionDisable := ⟨(fun h => nomatch h), fun h => nomatch h⟩
theorem Encodable.timeSourceSample : Encodable.Statement .timeSourceSample := ⟨(fun h => nomatch h), fun h => nomatch h⟩
theorem Encodable.pldmBaseRequest : Encodable.Statement .pldmBaseRequest := ⟨(fun h => nomatch h), fun h => nomatch h⟩
theorem Encodable.sliceResponse : Encodable.Statement .sliceResponse := ⟨(fun h => nomatch h), fun h => nomatch h⟩

end Sys2Proof.Laws
end

