-- ==== Sys2Proof/Tests/Slice0.lean ====
section
/-! SUPPORT. Tests of one step each: words of the spec's layouts, checks that refuse, and for every statement of the certificates a state
and operands that meet its hypotheses. -/

namespace Sys2Proof.Machine.Tests

-- one theorem after the other: many kernel evaluations side by side would ask for a thread each
set_option Elab.async false

/-! ### Small states -/

/-- The reset state with event data. -/
def withEv (a : EvArg) : State := { State.reset with ev := a }

/-- The reset state in which the PF is the owner, with event data. -/
def owned (a : EvArg) : State := { State.reset with ev := a, owner := { Owner.reset with holder := 1 } }

/-- The reset state in which core 0's primary performs an operation. -/
def prim : State := State.reset

/-- The reset state in which thread n of core 0 performs an operation. -/
def thread (n : BitVec 3) : State := { State.reset with cur := { Cur.reset with agent := .thread 0 n } }

/-- A guard that always holds. -/
def always : Guard := ⟨false, 0⟩

/-- An occurrence of context 0 on core 0. -/
def occ0 : Occ :=
  { entry := 0, num := 0, arm := 0, limit := none, bornAt := 0, ctx := 0, phase := .ready, shared := false, instant := 0, record := 0, clusters := 1, cores := 1, flags := 0, image := 0,
    routerAddr := 0, doneaddr := 0, entryWord := 0, gang := 0, power := 0, pclass := 1, keep := false, levels := [], stages := [], variants := 0,
    vector := 0, wdPre := 0, wdKill := 0, wdFence := 0, queueCaps := [], halyards := [], args := [], router := none, prep := 5, late := none, skipNow := 0,
    atInstant := false, toLoad := [], reserved := false, prepWait := none, xfail := false, status := .ok, cause := 0, wdCount := 0, wdDone := 0,
    stopAt := none, stopKill := false, units := [], saved := [] }

/-- Occurrence 0 and event data. -/
def withOcc (o : Occ) (a : EvArg) : State := (withEv a).setOcc 0 (some o)

/-- Core 0 as given, and event data. -/
def withCore (k : Core) (a : EvArg) : State := (withEv a).setCore 0 k

/-! ### Ownership, power, time and management -/

theorem test_hyps_OwnershipCommandsTakeEffect :
    (∀ w ∈ [Who.fn 0, .mgmt], reachable (owned { who := w }) w = true) ∧
    (claimant (withEv { who := .fn 0 }) (.fn 0) ≠ 0 ∧ (withEv { who := .fn 0 }).owner.holder = 0) ∧
    (claimant (owned { who := .fn 0 }) (.fn 0) ≠ 0 ∧ (owned { who := .fn 0 }).owner.holder = claimant (owned { who := .fn 0 }) (.fn 0)) ∧
    (let s := { owned { who := .fn 0 } with owner := { Owner.reset with holder := 1, next := 2 } }
     claimant s s.ev.who ≠ 0 ∧ s.owner.holder = claimant s s.ev.who ∧ s.owner.next ≠ 0) ∧
    (let s := { owned { who := .mgmt } with owner := { Owner.reset with holder := 1, next := 2, handover := some 1000 } }
     claimant s s.ev.who ≠ 0 ∧ s.owner.next = claimant s s.ev.who ∧ s.owner.handover.isSome = true) ∧
    (let s := { owned { who := .mgmt } with owner := { Owner.reset with holder := 1, next := 2, handover := some 0 } }
     s.owner.handover = some 0 ∧ (0 : Word) ≤ s.time.now) := by decide +kernel

theorem test_hyps_PowerEventsTakeEffect :
    (∀ q < 4, hottest State.reset q < 1840) ∧
    (let s := owned { who := .fn 0, ix := 63, value := 4 }
     reachable s s.ev.who = true ∧ isOwner s s.ev.who = true ∧ s.ev.ix = (63 : BitVec 6).toNat ∧ s.ev.value = (4 : BitVec 32).setWidth 64 ∧
       otherGrants s 63 + (4 : BitVec 32).toNat ≤ 1300000000 ∧ (s.cluster 63).reserved ≤ 4) ∧
    (600 ≤ (withEv { value := 600 }).ev.value.toNat ∧ (withEv { value := 600 }).ev.value.toNat ≤ 1600) ∧
    (let s := { withEv {} with time := { TimeBase.reset with cycle := 64000 } }
     isIdle s s.ev.core = true ∧ (s.core s.ev.core).gate = .on ∧ (s.core s.ev.core).idle + 64000 ≤ s.cycle) ∧
    (let s := withCore { Core.reset with gate := .prepare 0 } {}
     isIdle s s.ev.core = true ∧ (s.core s.ev.core).gate = .prepare s.cycle) ∧
    (let s := withCore { Core.reset with gate := .ungating 0 } {}
     (s.core s.ev.core).gate = .ungating 0 ∧ 0 ≤ s.cycle) := by decide +kernel

theorem test_hyps_TimeSourcesDisciplineNow :
    (let s := withEv { ix := 1, value := 5 }
     1 ≤ (1 : BitVec 4).toNat ∧ (1 : BitVec 4).toNat ≤ 3 ∧ s.ev.ix = (1 : BitVec 4).toNat ∧ everLocked s.time = false ∧
       bestSource { s.time with avail := putField s.time.avail 1 1 1 } = 1 ∧ s.time.launched = false) ∧
    (let s := { withEv { ix := 3, value := 5 } with time := { TimeBase.reset with launched := true } }
     s.ev.ix = (3 : BitVec 4).toNat ∧ everLocked s.time = false ∧
       bestSource { s.time with avail := putField s.time.avail 3 1 1 } = 3 ∧ s.time.launched = true) ∧
    (let s := { withEv { ix := 3 } with time := { TimeBase.reset with locked := true, source := 3, avail := 8 } }
     s.ev.ix = (3 : BitVec 4).toNat ∧ everLocked s.time = true ∧ s.time.source = 3) ∧
    (let s := { withEv { ix := 1 } with time := { TimeBase.reset with locked := true, source := 1, avail := 2 } }
     s.time.locked = true ∧ s.time.source = BitVec.ofNat 4 s.ev.ix) ∧
    (let s := owned { who := .fn 0, value := 0x213 }
     reachable s s.ev.who = true ∧ isOwner s s.ev.who = true ∧ s.ev.value.extractLsb' 0 12 = (2 : BitVec 4) ++ (1 : BitVec 4) ++ (3 : BitVec 4) ∧ (3 : BitVec 4) ≤ 3) := by
  decide +kernel

theorem test_hyps_ManagementEventsTakeEffect :
    ((withEv {}).ev.flag = false ∧ (withEv { flag := true }).ev.flag = true) ∧
    (let s := owned { who := .fn 0, ix := 9, value := 31 }; reachable s s.ev.who = true ∧ isOwner s s.ev.who = true ∧ 1 ≤ s.ev.ix ∧ s.ev.ix ≤ 9) ∧
    (let s := { withEv { who := .fn 0, flag := true } with mgmt := { Mgmt.reset with aliasMade := true, aliasUsed := 1048575 } }
     s.ev.who = .fn 0 ∧ reachable s (.fn 0) = true ∧ s.ev.flag = true ∧ s.mgmt.aliasMade = true ∧ s.mgmt.aliasUsed < 1048576) ∧
    (let s := { withEv { who := .fn 0, flag := true } with mgmt := { Mgmt.reset with aliasMade := true, aliasUsed := 1048576 } }
     s.ev.who = .fn 0 ∧ reachable s (.fn 0) = true ∧ s.ev.flag = true ∧ (s.mgmt.aliasMade = false ∨ 1048576 ≤ s.mgmt.aliasUsed)) ∧
    (let s := withEv { flag := true, ix := 5 }; s.ev.flag = true ∧ (s.ev.ix = 0 ∨ s.ev.ix = 2 ∨ s.ev.ix = 5)) ∧
    (let s := withEv { ix := 1 }; ¬(s.ev.ix = 0 ∨ s.ev.ix = 2 ∨ s.ev.ix = 5)) ∧
    (let s := owned { who := .fn 0, value := 16 }; reachable s s.ev.who = true ∧ isOwner s s.ev.who = true ∧ 16 ≤ fieldOf s.ev.value 0 5) ∧
    (let s := { withEv { outcome := .pass } with mgmt := { Mgmt.reset with bootStep := 9 } }
     1 ≤ s.mgmt.bootStep ∧ s.mgmt.bootStep ≤ 9 ∧ s.mgmt.bootStep ≠ 5 ∧ s.mgmt.bootStep ≠ 7 ∧ s.mgmt.stopped = false ∧
       s.mgmt.failReset = none ∧ s.mgmt.alt = false ∧ s.ev.outcome = .pass) ∧
    (let s := { withEv { outcome := .pass } with mgmt := { Mgmt.reset with bootStep := 1 } }
     s.mgmt.bootStep = 1 ∧ (bootEntry s 2).outcome ≠ .failed ∧ (bootEntry s 2).outcome ≠ .passedAlt) := by decide +kernel

/-! ### Contexts, the schedule and pre-emption -/

theorem test_hyps_ContextEventsTakeEffect :
    (let s := withEv { who := .fn 0, ctx := 16 }
     reachable s s.ev.who = true ∧ mayCommand s.ev.ctx s.ev.who = true ∧ (s.ctx s.ev.ctx).st = .free ∧ (s.ev.ctx.toNat ≤ 15 → s.sched.fnOn.getLsbD s.ev.ctx.toNat = true)) ∧
    (let s := withEv { who := .fn 0, ctx := 0 }; mayCommand s.ev.ctx s.ev.who = true ∧ (s.ctx s.ev.ctx).st ≠ .free) ∧
    (let s := (withEv { ctx := 0 }).mapCtx 0 fun c => { c with st := .stopping }
     (s.ctx s.ev.ctx).st = .stopping ∧ (∀ e ∈ occList s, e.2.ctx ≠ s.ev.ctx) ∧ openHals s s.ev.ctx = []) ∧
    (let s := withEv { ix := 15 }
     s.ev.ix = (15 : BitVec 4).toNat ∧ s.sched.fnOn.getLsbD 15 = false ∧ (s.ctx ((15 : BitVec 4).setWidth 6)).st = .free) ∧
    (let s := { withEv { ix := 15 } with sched := { Sched.reset with fnOn := 0x8001 } }
     (15 : BitVec 4) ≠ 0 ∧ s.ev.ix = (15 : BitVec 4).toNat ∧ s.sched.fnOn.getLsbD 15 = true) ∧
    (withEv { ix := 0 }).ev.ix = (0 : BitVec 4).toNat := by decide +kernel

/-- A schedule table whose entry 0 has an instant, and VALID if v is set. -/
def table0 (t : Byte) (v : Byte) : List Host.Cell := (if t = 0 then [] else [(0, t)]) ++ if v = 0 then [] else [(26, v)]

/-- The schedule table of entry 0 and event data. -/
def withTable (t v : Byte) (a : EvArg) : State := { withEv a with sched := { Sched.reset with table := table0 t v } }

/-- A launch record or image at page 0 of context 0, which is mapped to the first page behind the reserved ones. -/
def mapped (s : State) (vas : List Nat) : State :=
  vas.foldl (fun s va => tlbTouch s (homeSlice s 0 va) { ctx := 0, huge := false, page := va / 65536, leaf := 0x1000000F }) s

/-- An image of one word, a bundle of HALT, at address 0: its header, its tags at 64 and its code at 72. -/
def image0 : List Host.Cell :=
  [(0, 0x4B), (1, 0x57), (2, 0x4E), (3, 0x31), (4, 0x01), (8, 0x48), (16, 0x40), (24, 0x50), (64, 0x01)].map fun e => (0x10000000 + e.1, e.2)

/-- Memory with image0, and occurrence 0 that is about to load core 0. -/
def loading (o : Occ) (a : EvArg) : State := mapped ({ withOcc o a with mem := { Mem.reset with phys := image0 } }) [0, 64]

/-- A preparation step is made. -/
def prepOk : Prep → Bool
  | .ok _ => true
  | _ => false

theorem prepOk_iff {p : Prep} (h : prepOk p = true) : ∃ t, p = .ok t := by
  cases p with
  | ok s => exact ⟨s, rfl⟩
  | _ => cases h

theorem test_hyps_OccurrencesRunTheirCourse :
    ((let s := withTable 1 0 { ix := 0 }
      s.ev.ix = (0 : BitVec 12).toNat ∧ entryValid s 0 = false ∧ (entryOf (armEntry s 0) 0).instant ≠ 0) ∧
     (let s := withTable 0 0 { ix := 0 }; entryValid s 0 = false ∧ (entryOf (armEntry s 0) 0).instant = 0) ∧
     (let s := withTable 0 1 { ix := 0 }; entryValid s 0 = true) ∧
     (let s := withTable 1 1 { ix := 0 }; s.ev.aux = 0 ∧ prepDue s 0 = true ∧ occInstant s 0 0 = some 1)) ∧
    (withEv { aux := 1 }).ev.aux ≠ 0 ∧
    (let o := { occ0 with phase := .preparing, toLoad := [0] }
     let s := loading o { core := 0 }
     loaderOf s s.ev.core = some (0, o) ∧ loadable s 0 s.ev.core = true ∧
       ∃ t, readImage s 0 o (fun l s => .ok (loadCore s 0 o s.ev.core l)) = .ok t) ∧
    (let s := (withOcc occ0 { ix := 0 }).setCore 0 { Core.reset with occ := some 0 }
     s.occ? s.ev.ix = some occ0 ∧ occ0.shared = false ∧ startable s s.ev.ix occ0 = true ∧ occ0.instant ≤ s.time.now) ∧
    (let o := { occ0 with shared := true }
     let s := (withOcc o { ix := 0 }).setCore 0 { Core.reset with occ := some 0 }
     s.occ? s.ev.ix = some o ∧ startable s s.ev.ix o = true) ∧
    (let s := withOcc occ0 { ix := 0 }
     s.occ? s.ev.ix = some occ0 ∧ occ0.atInstant = false ∧ occ0.instant ≤ s.time.now ∧ occ0.phase ≠ .running) ∧
    (let o := { occ0 with phase := .killing }
     let s := withOcc o { ix := 0 }
     s.occ? s.ev.ix = some o ∧ ended s s.ev.ix o = true ∧
       parkOwned s ((s.sched.hals.filter fun e => e.2.owner = some s.ev.ix && e.2.st = .live).map fun e => e.1) = (some s, s)) := by
  refine ⟨by decide +kernel, by decide, ⟨by decide +kernel, by decide +kernel, prepOk_iff (by decide +kernel)⟩, by decide +kernel,
    by decide +kernel, by decide +kernel, by decide +kernel⟩

theorem test_hyps_PreemptionEventsTakeEffect :
    (let o := { occ0 with stopAt := some 0 }
     let s := withOcc o { ix := 0 }
     s.occ? s.ev.ix = some o ∧ o.stopAt = some 0 ∧ 0 ≤ s.cycle) ∧
    (let o := { occ0 with phase := .running, units := [⟨[0], .stopping 0, 0⟩] }
     let s := withOcc o { ix := 0 }
     s.occ? s.ev.ix = some o ∧ o.stopAt = none ∧ o.units = [⟨[0], .stopping 0, 0⟩] ∧ 0 ≤ s.cycle) ∧
    (let o := { occ0 with phase := .running, units := [⟨[0], .chosen, 0⟩] }
     let s := withOcc o { ix := 0, value := 0 }
     s.ev.flag = false ∧ s.occ? s.ev.ix = some o ∧ s.ev.value = (0 : BitVec 10).setWidth 64 ∧ o.units = [⟨[0], .chosen, 0⟩]) ∧
    (let o := { occ0 with phase := .running, units := [⟨[0], .restoring 0, 0⟩] }
     let s := loading o { ix := 0 }
     s.occ? s.ev.ix = some o ∧ o.units.filter (UnitStop.restored s.cycle) = [⟨[0], .restoring 0, 0⟩] ∧
       ∃ t, readImage s s.ev.ix o (fun l s => .ok (restoreUnits s.ev.ix o [⟨[0], .restoring 0, 0⟩] l s)) = .ok t) ∧
    (let o := { occ0 with wdPre := 1, wdCount := 1 }
     (withOcc o { ix := 0 }).occ? 0 = some o ∧ o.wdPre ≠ 0 ∧ o.wdPre.toNat ≤ o.wdCount ∧ o.wdDone % 2 = 0 ∧ o.pclass ≠ 0 ∧ o.wdPre ≠ o.wdKill ∧
       o.ending = false) ∧
    (let o := { occ0 with wdKill := 1, wdCount := 1, wdDone := 1 }
     (withOcc o { ix := 0 }).occ? 0 = some o ∧ o.wdKill ≠ 0 ∧ o.wdKill.toNat ≤ o.wdCount ∧ o.wdDone / 2 % 2 = 0) ∧
    (let o := { occ0 with wdFence := 1, wdCount := 1, wdDone := 3 }
     (withOcc o { ix := 0 }).occ? 0 = some o ∧ o.wdFence ≠ 0 ∧ o.wdFence.toNat ≤ o.wdCount ∧ o.wdDone / 4 % 2 = 0) := by
  refine ⟨by decide +kernel, by decide +kernel, by decide +kernel, ⟨by decide +kernel, by decide +kernel, prepOk_iff (by decide +kernel)⟩,
    by decide +kernel, by decide +kernel, by decide +kernel⟩

/-! ### The fabric -/

/-- A beat at router 0's port p in channel 0 of core 0, of occurrence 0. -/
def beatAt (p : BitVec 3) : Beat := { router := 0, port := p, core := 0, val := 7, at_ := 0, occ := 0, ch := 0 }

/-- A router program that takes what core 0 puts into channel 0 to core 0 itself. -/
def router0 : Router := { period := 1, sync := 0xFFFF, entries := [⟨0, 0, 0, 4, 4, 0⟩], phase := 0, at_ := 0, held := [] }

/-- The beat, alone, and occurrence 0 with the router program. -/
def beating (b : Beat) : State :=
  let s := withOcc { occ0 with phase := .running, router := some router0 } {}
  { s with sched := { s.sched with beats := [b] } }

theorem test_hyps_MeshBeatMoves :
    (takeFirst (fun b => decide (b.at_ ≤ (beating (beatAt 5)).cycle)) (beating (beatAt 5)).sched.beats = some (beatAt 5, []) ∧ (beatAt 5).port = 5 ∧
      ((beating (beatAt 5)).core 0).occ ≠ some 0 ∧
      (((beating (beatAt 5)).mapCore 0 fun k => { k with occ := some 0 }).core 0).occ = some (beatAt 5).occ) ∧
    (let s := beating (beatAt 0)
     takeFirst (fun b => decide (b.at_ ≤ s.cycle)) s.sched.beats = some (beatAt 0, []) ∧ (beatAt 0).port ≠ 5 ∧
       takers (s.mapSched fun m => { m with beats := [] }) (beatAt 0) = []) ∧
    (let s := beating (beatAt 4)
     takeFirst (fun b => decide (b.at_ ≤ s.cycle)) s.sched.beats = some (beatAt 4, []) ∧ (beatAt 4).port ≠ 5 ∧
       takers (s.mapSched fun m => { m with beats := [] }) (beatAt 4) ≠ [] ∧ (0, { occ0 with phase := .running, router := some router0 }) ∈ occList s ∧
       (router0.entries.any fun e => takesBeat (beatAt 4) (router0.phaseAt s.cycle) e) = true ∧
       Occ.ownsPorts { occ0 with phase := .running, router := some router0 } = true) := by decide +kernel

/-- A miss entry of context 0 and thread 0. -/
def miss0 (st : MissStage) (deadline : Word) : Miss :=
  { ctx := 0, page := 0, kind := .read, who := .thread 0 0, also := [], stage := st, permission := false, faultId := 0, deadline := deadline }

/-- Slice 255 with one miss entry, number 45. -/
def missing (m : Miss) (a : EvArg) : State := (withEv a).mapSlice 255 fun k => { k with misses := [(45, some m)] }

theorem test_hyps_TranslationEventsTakeEffect :
    (let s := missing (miss0 .held 0) { ix := 255 }
     s.ev.ix = (255 : BitVec 8).toNat ∧ (s.slice 255).misses = [(45, some (miss0 .held 0))] ∧ (miss0 .held 0).stage = .held ∧ (mailOf s 255).length < 32) ∧
    (let s := missing (miss0 .posted 0) { ix := 255, value := 45 }
     s.ev.ix = (255 : BitVec 8).toNat ∧ tabGet none (s.slice 255).misses s.ev.value.toNat = some (miss0 .posted 0)) ∧
    (let s := { missing (miss0 .fault 1) {} with time := { TimeBase.reset with now := 1 } }
     (faultWaits s fun m => m.faultId.toNat = s.ev.value.toNat && m.deadline ≤ s.time.now) = [(255, 45)]) ∧
    (let s := missing (miss0 .fault 1) {}
     (faultWaits s fun m => m.ctx = s.ev.ctx && m.faultId.toNat = s.ev.value.toNat) = [(255, 45)]) ∧
    (let s := (withEv { ctx := 63 }).mapCtx 63 fun c => { c with busy := true, inval := some (3, 0) }
     (s.ctx s.ev.ctx).inval = some (3, 0)) ∧
    (let s := (withEv { core := 1023, thread := 7 }).mapThread 1023 7 fun t => { t with st := .response 0 }
     s.ev.core = 1023 ∧ s.ev.thread = (7 : BitVec 3).setWidth 4 ∧ (s.thread 1023 7).st = .response 0) := by decide +kernel

/-- The reset state with domain changes that wait. -/
def changing (l : List DomChange) : State := { State.reset with sched := { Sched.reset with domChanges := l } }

theorem test_hyps_DomainEventsTakeEffect :
    (let s := owned { who := .fn 0, ix := 63, value := 0x0F30 }
     reachable s s.ev.who = true ∧ isOwner s s.ev.who = true ∧ s.ev.ix = (63 : BitVec 6).toNat ∧ s.ev.value.extractLsb' 8 8 &&& (s.ev.value.extractLsb' 8 8 + 1) = 0 ∧
       s.ev.value.extractLsb' 0 8 &&& s.ev.value.extractLsb' 8 8 = 0) ∧
    (let s := withEv { who := .fn 0, ctx := 63 }; reachable s s.ev.who = true ∧ s.ev.who = .fn (fnOf s.ev.ctx) ∧ domselUsed s s.ev.ctx = false) ∧
    (let s := withOcc occ0 { who := .fn 0, ctx := 0, value := 1 }
     reachable s s.ev.who = true ∧ s.ev.who = .fn (fnOf s.ev.ctx) ∧ domselUsed s s.ev.ctx = true ∧
       fieldOf (s.ctx s.ev.ctx).domsel (6 * 0) 6 ≠ fieldOf (putField s.ev.value 48 16 0) (6 * 0) 6) ∧
    ((changing [.cfg 63 0x30 0x0F]).sched.domChanges = [.cfg 63 0x30 0x0F] ∧ drained (changing [.cfg 63 0x30 0x0F]) (.cfg 63 0x30 0x0F) = true) ∧
    ((changing [.sel 63 1]).sched.domChanges = [.sel 63 1] ∧ drained (changing [.sel 63 1]) (.sel 63 1) = true) := by decide +kernel

theorem test_hyps_ErrorEventsTakeEffect :
    (coreOfSite (withEv { site := .core 1023 }).ev.site = some 1023 ∧ coreOfSite (withEv { site := .slice 255 }).ev.site = none) ∧
    ((withCore { Core.reset with eccLeft := 1 } {}).core 0).eccLeft ≤ 1 ∧
    (withEv { site := .scratchpad 1023 0xFFFFF }).ev.site = .scratchpad 1023 0xFFFFF ∧ (withEv { site := .memory 0 }).ev.site = .memory 0 ∧
    ((withEv { site := .core 0 }).ev.site = .core 0 ∧ (withEv { site := .core 0 }).ev.flag = false) ∧
    (withEv { ix := 63 }).ev.ix = (63 : BitVec 6).toNat := by decide +kernel

theorem test_hyps_ResetsLeaveTheStatedState :
    { Mgmt.reset with failReset := some 0 }.failReset = some 0 ∧ State.reset.power.on = true ∧ (∀ dir, (State.reset.halAt dir).st ≠ .live) :=
  ⟨rfl, rfl, fun _ h => nomatch h⟩

theorem test_hyps_ResetsOfTimeAndPower : State.reset.power.on = true := rfl

/-! ### Frames and halyards -/

/-- A live halyard 0 of context 0 with its queue in the aperture of core 0, bound to core 0. -/
def hal0 : Hal :=
  { Hal.reset with st := .live, addr := 0x1FFFFFFC0000000, logbase := 0x1FFFFFFC0001000, playbase := 0x1FFFFFFC0002000, qbase := 0x1FFFFFFC0003000,
                   loglg := 4, qlg := 4, cklg := 4, ckcount := 4, kvcap := 1024, lastck := allOnes64, cutpos := allOnes64, lead := 8, bound := some 0,
                   owner := some 0 }

/-- A window that gives the whole scratchpad to the agents of the cluster. -/
def window0 : Word := BitVec.ofNat 64 (2 ^ 63 + 2 * 2 ^ 43 + 7 * 2 ^ 40 + 0xFFFFF * 2 ^ 20)

/-- Core 0 of occurrence 0, running, with the window. -/
def core0 : Core := { Core.reset with occ := some 0, run := .running, gangSize := 0, win := [(0, window0)] }

/-- Occurrence 0 runs on core 0; event data. -/
def running (a : EvArg) : State := (withOcc { occ0 with phase := .running } a).setCore 0 core0

/-- Halyard 0 of context 0 as given, and event data. -/
def withHal (h : Hal) (a : EvArg) : State := (running a).mapHalKey 0 fun _ => h

/-- A frame of kind k for halyard 0, sequence number 0. -/
def frame0 (k : Nat) : Nat := 2 ^ 112 * k

theorem test_hyps_HalyardEventsTakeEffect :
    (let s := withHal hal0 { who := .fn 0, ix := 4095 }
     let s := { s with sched := { s.sched with frames := [(frameByteKey 0 (256 * 4095 + 14), 1)] } }
     s.ev.who = .fn 0 ∧ reachable s (.fn 0) = true ∧ s.ev.ix < 4096 ∧
       frameRefusal s (frameCtx 0 (slotFrame s 0 s.ev.ix)) (slotFrame s 0 s.ev.ix) = 0) ∧
    (∀ k ∈ [1, 2, 3], (
     let s := withHal { hal0 with mode := 4 } { ix := 0 }
     let s := { s with sched := { s.sched with frameq := [⟨0, BitVec.ofNat 2048 (frame0 k), 0, some 0⟩] } }
     frameAt s s.ev.ix = some ⟨0, BitVec.ofNat 2048 (frame0 k), 0, some 0⟩ ∧ (frameHdr (frame0 k)).kind = k ∧ (s.halAt s.ev.ix).st = .live ∧
       halReady s s.ev.ix (frameAll s s.ev.ix ⟨0, BitVec.ofNat 2048 (frame0 k), 0, some 0⟩) = .ok)) ∧
    (let h := { hal0 with g := 1 }
     let s := { withHal h { ix := 0 } with time := { TimeBase.reset with now := 5 } }
     s.halAt s.ev.ix = h ∧ mayPlay h = true ∧ h.p + 1 = h.g ∧ halReady s s.ev.ix (playNeeds s s.ev.ix) = .ok ∧
       playable s s.ev.ix s.now h.p.toNat = true) ∧
    (let w : CutWait := ⟨0, false, 0, 0⟩
     let s := withHal { hal0 with cut := some w } { ix := 0 }
     (s.halAt s.ev.ix).cut = some w ∧ w.done ≤ s.cycle) := by decide +kernel

/-! ### Cores between their operations -/

theorem test_hyps_TrapsAndInterruptsAreTaken :
    ((withCore { core0 with traps := [⟨.nack, 1, 0, 0⟩] } {}).core 0).traps = [⟨.nack, 1, 0, 0⟩] ∧
    (let s := withCore { core0 with uitime := 1 } {}
     let s := { s with time := { TimeBase.reset with now := 1 } }
     s.ev.core = 0 ∧ timerDue s (s.core 0) = true ∧ (0 : BitVec 10) ∈ gangOf s 0 ∧ (s.core 0).uiq.length < 16) ∧
    (let s := withCore { core0 with uie := true, uien := 8, uiq := [4] } {}
     takable s [] 0 = some 4) ∧
    (let s := (withOcc { occ0 with phase := .running } { who := .fn 0 }).setCore 0 { core0 with run := .held }
     s.ev.who = .fn (fnOf s.ev.ctx) ∧ heldAt s s.ev.ctx 0 = some 0) := by decide +kernel

/-- Core 0 at a hoist-n bundle header, with hoist register n holding v. -/
def hoisting (n : Nat) (v : Word) : State :=
  let s := (running {}).mapCore 0 fun k => { k with hreg := [(n, v)] }
  { s with mem := { s.mem with imem := [(0, BitVec.ofNat 34 (2 ^ 32 + 2 ^ 31 + 2 ^ 15 + 64 * n))] } }

theorem test_hyps_HoldsAndWaitsEnd :
    (let s := hoisting 447 1
     reachesHoist s [] 0 = true ∧ (hdrHoist (wordOf (imemWord s 0 (s.core 0).pc))).toNat = 447 ∧ hoistBad s (hoistWait s 0 447) = false ∧
       (∀ a ∈ s.sched.hoists, hoistClash a (hoistWait s 0 447) = false ∧ hoistClash (hoistWait s 0 447) a = false)) ∧
    (let s := hoisting 447 0
     reachesHoist s [] 0 = true ∧ (hdrHoist (wordOf (imemWord s 0 (s.core 0).pc))).toNat = 447 ∧ hoistBad s (hoistWait s 0 447) = true) ∧
    (let w : HoistWait := ⟨0, 1, 1, 0, 0⟩
     let s := { running {} with sched := { (running {}).sched with hoists := [w] }, time := { TimeBase.reset with cycle := 2 } }
     (s.sched.hoists.find? fun h => h.core = 0) = some w ∧ hoistRelease s w = some 2 ∧ 2 ≤ s.cycle) ∧
    (let s := withCore { core0 with hold := some (.runCount 0) } {}; holdOver s (s.core 0) = true) ∧
    (let s := (running {}).mapCore 0 fun k => { k with hold := some (.phase 0 0 0 (some 0)) }
     (s.core 0).hold = some (.phase 0 0 0 (some 0)) ∧ isGuidon s 0 = true ∧ (phaseDecision s 0).isSome = true) ∧
    (let s := (running { thread := 6 }).mapThread 0 6 fun t => { t with st := .pwait false 0 (some 0) }
     s.ev.thread = (6 : BitVec 3).setWidth 4 ∧ (s.thread 0 6).st = .pwait false 0 (some 0)) ∧
    (let a := newAccess (running {}) .pwaitLast 4 4 0 []
     let s := (running { thread := 8, flag := true }).mapCore 0 fun k => { k with pwait := some ⟨a, some 0, false⟩ }
     s.ev.thread = 8 ∧ (s.core 0).pwait = some ⟨a, some 0, false⟩ ∧ s.ev.flag = true) ∧
    (let s := (running { thread := 6 }).mapThread 0 6 fun t => { t with st := .sleep 0 }
     s.ev.thread = (6 : BitVec 3).setWidth 4 ∧ (s.thread 0 6).st = .sleep 0 ∧ (0 : Word) ≤ s.time.now) := by decide +kernel

/-- A packet for core 0. -/
def packet0 : Packet := { dest := 0, occ := 0, ctx := 0, frame := 0, pc := 0, live := 0, f := 0, x := [], moored := false, xfail := false }

/-- Packet 0 on its way, and event data. -/
def travelling (s : State) : State := { s with sched := { s.sched with packets := [(0, some packet0)] } }

/-- Every thread of core 0 asleep. -/
def full (s : State) : State := (List.range 8).foldl (fun s n => s.mapThread 0 (BitVec.ofNat 3 n) fun t => { t with st := .sleep 9 }) s

/-- A thread resumes a frame. -/
def resuming : TState → Bool
  | .resume _ => true
  | _ => false

/-- What resuming means. -/
theorem resuming_iff {t : TState} : resuming t = false ↔ ∀ w, t ≠ .resume w := by
  cases t <;> simp [resuming]

theorem test_hyps_ThreadsResumeAndMigrate :
    (let s := (running { thread := 6 }).mapThread 0 6 fun t => { t with st := .resume true }
     runsThreads s 0 = true ∧ s.ev.thread = (6 : BitVec 3).setWidth 4 ∧ (s.thread 0 6).st = .resume true) ∧
    (let s := (running { thread := 7 }).mapCore 0 fun k => { k with dock := [packet0] }
     runsThreads s 0 = true ∧ s.ev.thread = 7 ∧ freeSlot s 0 = some 0 ∧ (s.core 0).dock = [packet0] ∧ packet0.moored = false ∧
       resuming (s.thread 0 7).st = false) ∧
    (let s := (running { thread := 7 }).mapCore 0 fun k => { k with readyq := [.made 8 1, .of 0 true] }
     runsThreads s 0 = true ∧ s.ev.thread = 7 ∧ freeSlot s 0 = some 0 ∧ (s.core 0).dock = [] ∧
       takeFirst Ready.visible (s.core 0).readyq = some (.of 0 true, [.made 8 1]) ∧
       resuming (s.thread 0 7).st = false) ∧
    (let s := (running { thread := 6 }).mapThread 0 6 fun t => { t with st := .depart 16 true 0 }
     s.ev.thread = (6 : BitVec 3).setWidth 4 ∧ (s.thread 0 6).st = .depart 16 true 0) ∧
    (let s := travelling State.reset; tabGet none s.sched.packets s.ev.ix = some packet0 ∧ s.occ? packet0.occ = none) ∧
    (let s := travelling (running {})
     tabGet none s.sched.packets s.ev.ix = some packet0 ∧ (s.occ? packet0.occ).map (·.ending) = some false ∧
       (s.core packet0.dest).occ = some packet0.occ ∧ (s.core packet0.dest).run ≠ .preempted ∧ freeSlot s packet0.dest = some 0) ∧
    (let s := full (travelling (running {}))
     freeSlot s packet0.dest = none ∧ (s.core packet0.dest).dock.length < 4 ∧ (s.core packet0.dest).run ≠ .preempted) ∧
    (let s := (full (travelling (running {}))).mapCore 0 fun k => { k with dock := List.replicate 4 packet0 }
     freeSlot s packet0.dest = none ∧ 4 ≤ (s.core packet0.dest).dock.length ∧ (s.core packet0.dest).run ≠ .preempted) ∧
    (let s := { running {} with sched := { (running {}).sched with moor := [(0, (0x1FFFFFFC0000000, 0x1FFFFFFC0000000))] } }
     moorDue s 0 = true ∧ (match frameLook s (.thread 0 7) (ctxOfCore s 0) (tabGet (0, 0) s.sched.moor (moorHere s 0)).1.toNat
       .write (.moor (moorHere s 0)) (tabGet false s.sched.moorFail (moorHere s 0)) with
       | .spad _ => true
       | _ => false) = true) := by decide +kernel

/-! ### Links -/

/-- Link 15 as given, and event data. -/
def linked (l : Link) (a : EvArg) : State := (withEv a).mapLink 15 fun _ => l

/-- A flit of a kind on a virtual channel with sequence number 0, addressed to device 0, before its CRC. -/
def flitOf (kind vc : Nat) : Flit := BitVec.ofNat 1024 (kind * 2 ^ 46 + vc * 2 ^ 50)

theorem test_hyps_LinkEventsTakeEffect :
    (let s := linked { Link.reset with state := 1 } { ix := 15, train := .up 2 63 }
     s.ev.ix = (15 : BitVec 4).toNat ∧ (s.link 15).state = 1 ∧ s.ev.train = .up 2 63) ∧
    (let s := linked { Link.reset with state := 1 } { ix := 15, train := .failed }; (s.link 15).state = 1 ∧ s.ev.train = .failed) ∧
    ((linked { Link.reset with state := 2 } { ix := 15 }).link 15).isUp = true ∧
    (let s := owned { who := .fn 0, ix := 15 }; reachable s s.ev.who = true ∧ isOwner s s.ev.who = true ∧ s.ev.ix = (15 : BitVec 4).toNat) ∧
    (let s := { linked { Link.reset with state := 2, waiting := [BitVec.ofNat 1024 (2 ^ 50)] } { ix := 15, aux := 1 } with
       time := { TimeBase.reset with now := 1000000 } }
     stalled s (s.link 15) s.ev.aux.toNat = true ∧ ((s.link 15).waiting.all fun f => fKind f != 7) = true) ∧
    (let r : PeerReq := ⟨7, 0, 0, 0⟩
     let s := { withEv { ix := 7 } with links := { Links.reset with reqs := [r] }, time := { TimeBase.reset with now := 1000000 } }
     (s.links.reqs.find? fun r => r.tag.toNat = s.ev.ix && overdue s r) = some r) ∧
    (let s := { withEv {} with links := { Links.reset with msgRetry := [(0, 0)] } }; s.links.msgRetry = [(0, 0)] ∧ (0 : Word) ≤ s.time.now) ∧
    (let s := linked { Link.reset with state := 2, credits := [(0, 1)] } { ix := 15 }
     (s.link 15).isUp = true ∧ s.now % 65536 = 0 ∧ (s.link 15).hasCredit 0 = true) ∧
    (let s := { linked Link.reset {} with time := { TimeBase.reset with avail := 8, cfgLink := 15, anylink := false } }
     neighbourSilent (s.mapLink 15 fun l => { l with missed := 5 }) = true) := by
  decide +kernel

/-- Link 15, up, and a sealed flit. -/
def arriving (kind vc : Nat) : State := linked { Link.reset with state := 2 } { ix := 15, flit := sealFlit (flitOf kind vc) }

theorem test_hyps_FlitsAreTakenIn :
    (∀ k v, (arriving k v).ev.ix = (15 : BitVec 4).toNat ∧ ((arriving k v).link 15).isUp = true ∧ (arriving k v).ev.flag = false) ∧
    (∀ e ∈ [(0, 0), (9, 0), (8, 0), (1, 1), (3, 1), (5, 1), (2, 2), (4, 2), (6, 2), (7, 3)],
      soundFlit (arriving e.1 e.2).ev.flit e.1 = true) ∧
    ∀ e ∈ [(1, 1), (3, 1), (5, 1), (2, 2), (4, 2), (6, 2), (7, 3)], ∀ s : State, s = linked { Link.reset with state := 2 } {} →
      fSeq (sealFlit (flitOf e.1 e.2)) = ((takeHeader s 15 (sealFlit (flitOf e.1 e.2))).link 15).lastSeq + 1 ∧
      fDst (sealFlit (flitOf e.1 e.2)) = s.links.devnum := by
  refine ⟨fun _ _ => ⟨rfl, rfl, rfl⟩, ?_, ?_⟩
  · simp only [arriving, linked, withEv, State.mapLink, soundFlit_seal]
    decide +kernel
  · rintro e he s rfl
    rw [fSeq_seal, fDst_seal, takeHeader_seal]
    revert e
    decide +kernel

/-! ### The host side -/

theorem test_hyps_HostAccessesArePerformed :
    (let s := { mapped (withEv { who := .fn 0, value := 0x8, thread := 1 }) [0] with mem := { (mapped State.reset [0]).mem with phys := image0 } }
     s.ev.who = .fn 0 ∧ reachable s (.fn 0) = true ∧ s.ev.ix = 0 ∧ s.ev.value.toNat + hostSize s ≤ bar4Size s 0 ∧
     (∀ w ∈ [false, true], (match barAccess s 0 (freshWait s) ((s.ctx ((0 : BitVec 4).setWidth 6)).aperbase + s.ev.value).toNat (hostSize s) w s.ev.flag
        (s.ev.aux.toNat % 2 ^ (8 * hostSize s)) with
      | .ok _ _ _ => true
      | _ => false) = true)) ∧
    (let s := withEv { who := .fn 0, ix := 0x40FFF8 }
     reachable s s.ev.who = true ∧ s.ev.flag = false ∧ s.ev.ix % 8 = 0 ∧ s.ev.thread ≠ 4 ∧ regPlace s.ev.who s.ev.ix = .ctx 63 0xFFF8) ∧
    regPlace (.fn 0) 0xFFF8 = .admin 0xFFF8 ∧ regPlace .mgmt 0 = .admin 0 ∧
    (let s := withEv { who := .fn 0, ix := 32 * 4095 + 24, aux := 8 }
     s.ev.who = .fn 0 ∧ reachable s (.fn 0) = true ∧ s.ev.ix = 32 * (4095 : BitVec 12).toNat + 24 ∧ 1 ≤ s.ev.aux.toNat ∧
       24 + s.ev.aux.toNat ≤ 32 ∧ entryValid s 4095 = false) ∧
    isSensor 0x3008 = true := by
  decide +kernel

/-! ### Copy jobs -/

/-- A job of core 0 in a state. -/
def job0 (st : JobState) : Job := { Job.reset with st := st, counted := true, thread := 8 }

/-- Job slot 63 of cluster 0, and event data. -/
def withJob (x : Job) : State := (running { ix := 0, value := 63 }).mapCluster 0 fun k => { k with jobs := [(63, x)] }

/-- A descriptor's CONTROL in core 0's scratchpad: one dimension of n elements of a byte, scratchpad to scratchpad. -/
def desc0 (n : Byte) : State :=
  let s := withJob (job0 .queued)
  { s with mem := { s.mem with spad := [(16, 0x05), (17, 0x08)] ++ (if n = 0 then [] else [(24, n)]) } }

theorem test_hyps_CopyJobsAdvance :
    (∀ n ∈ [(0 : Byte), 1], (let s := desc0 n
      s.ev.ix = (0 : BitVec 6).toNat ∧ s.ev.value.toNat = 63 ∧ jobStartable s ((s.cluster 0).job 63) = true ∧
      (match descRead (takeIssue s 0 63) 0 63 ((s.cluster 0).job 63) with
       | .ok v bad t =>
          let y := { jobOfDesc ((t.cluster 0).job 63) v with st := .running }
          bad = [] && !descBad (setJob t 0 63 y) 0 y v && y.total = n.toNat
       | _ => false) = true)) ∧
    (let s := withJob (job0 .queued)
     jobStartable s ((s.cluster 0).job 63) = true ∧
      (match descRead (takeIssue s 0 63) 0 63 ((s.cluster 0).job 63) with
       | .ok v bad t =>
          let y := { jobOfDesc ((t.cluster 0).job 63) v with st := .running }
          bad = [] && descBad (setJob t 0 63 y) 0 y v
       | _ => false) = true) ∧
    (let x := { job0 .running with src := 0x1FFFFFFC0000000, total := 1 }
     let s := withJob x
     (s.cluster 0).job 63 = x ∧ jobGoes x = true ∧ x.peerBad = 0 ∧ x.answer = none ∧ x.skind = 0 ∧
      (match jobRead s 0 63 x (virtPlace s (elementAddr x.src Dim.sstr x) x.esize) x.esize with
       | .ok _ _ _ => true
       | _ => false) = true) ∧
    (let x := { job0 .running with control := 1, total := 1 }
     let s := withJob x
     jobGoes x = true ∧ x.skind = 1 ∧
      (match jobRead s 0 63 x (spadPlace s x (fieldOf x.control 4 2) (elementAddr x.src Dim.sstr x) x.esize) x.esize with
       | .ok _ _ _ => true
       | _ => false) = true) ∧
    (let x := { job0 .running with answer := some [1], total := 1 }
     ((withJob x).cluster 0).job 63 = x ∧ jobGoes x = true ∧ x.peerBad = 0 ∧ x.answer = some [1] ∧ ([1] : List Byte) ≠ []) ∧
    (let s := withJob { job0 .running with total := 1, next := 1 }
     ((s.cluster 0).job 63).st = .running ∧ ((s.cluster 0).job 63).total ≤ ((s.cluster 0).job 63).next) := by
  decide +kernel

/-! ### The S and C classes -/

/-- A guard that always holds executes. -/
theorem test_guard : executes prim always = true ∧ executes (thread 6) always = true ∧ executes prim ⟨true, 0⟩ = false := by decide +kernel

theorem test_hyps_IntegerOpsComplete :
    (executes prim (AluForm.mk always 63 1 (.reg 2)).g = true ∧ cwReady prim (.reg 2) = .ok prim) ∧
    (let s := (thread 6).mapCore 0 fun k => { k with cw := [(0, 8)], ccache := [⟨0, 0, 0⟩] }
     executes s (AluForm.mk always 1 2 (.cw 0 0)).g = true ∧ cwReady s (.cw 0 0) = .ok s) ∧
    executes prim (LiForm.mk always 1 (.imm 15)).g = true ∧ executes (thread 6) (UnForm.mk always 1 2).g = true ∧
    executes prim (TimeForm.mk always 0).g = true := by decide +kernel

theorem test_hyps_MultiplyAndDivideAreExact : executes prim (AluForm.mk always 1 2 (.imm 0)).g = true ∧ cwReady prim (.imm 0) = .ok prim := by
  decide +kernel

theorem test_hyps_BitOpsComplete :
    executes prim (AluForm.mk always 1 2 (.imm 64)).g = true ∧ cwReady prim (.imm 64) = .ok prim ∧ executes prim (UnForm.mk always 1 0).g = true := by
  decide +kernel

theorem test_hyps_PredicateOpsComplete :
    executes prim (CmpForm.mk always .c0 1 2 (.reg 3)).g = true ∧ cwReady prim (.reg 3) = .ok prim ∧
    executes prim (PredForm.mk always 15 0 8).g = true ∧ executes prim (PredUnForm.mk always 8 0).g = true ∧
    executes prim (PSetForm.mk always 0 true).g = true := by decide +kernel

theorem test_hyps_FloatOpsComplete :
    executes prim (AluForm.mk always 1 2 (.reg 3)).g = true ∧ cwReady prim (.reg 3) = .ok prim ∧ executes prim (UnForm.mk always 1 2).g = true := by
  decide +kernel

theorem test_hyps_ControlRegistersAreReadAndWritten :
    ((∃ n : BitVec 12, cregKnown n.toNat = true) ∧ cregKnown (0xFFF : BitVec 12).toNat = false ∧ cregRW (0x10 : BitVec 12).toNat = true ∧
      0x30 ≤ (0x37 : BitVec 12).toNat ∧ (0x37 : BitVec 12).toNat ≤ 0x37) ∧
    prim.cur.agent = .prim 0 ∧ (thread 6).cur.agent = .thread 0 6 ∧ executes prim (CRegForm.mk always 1 0).g = true ∧
    executes prim (HoistForm.mk always 1 511).g = true :=
  ⟨⟨⟨0, by decide⟩, by decide, by decide, by decide, by decide⟩, rfl, rfl, rfl, rfl⟩

/-- A code scratchpad of core 0 in which word i has tag t. -/
def tagged (i t : Nat) : State := { State.reset with mem := { Mem.reset with imem := [(i, BitVec.ofNat 34 (t * 2 ^ 32))] } }

theorem test_hyps_TransfersComplete :
    (prim.cur.agent = .prim 0 ∧ (prim.core 0).xfer = none ∧ executes prim (OffForm.mk always 0x1FFFFF).g = true ∧
      executes prim (RegForm.mk always 0).g = true ∧ executes prim (NoneForm.mk always).g = true ∧ (prim.core 0).inui = false) ∧
    (((withCore { Core.reset with inui := true } {}).core 0).xfer = none ∧ ((withCore { Core.reset with inui := true } {}).core 0).inui = true) ∧
    (let s := tagged 4095 1
     s.cur.agent = .prim 0 ∧ (s.core 0).xfer = none ∧ executes s (LoopForm.mk always 3 127 4095).g = true ∧
       executes s (LoopxForm.mk always 3 1 4095).g = true ∧ targetTrap s (s.cur.pc + (4095 : BitVec 12).setWidth 16) 1 = none ∧
       (s.cur.next - s.cur.pc).toNat ≤ (4095 : BitVec 12).toNat) := by decide +kernel

theorem test_hyps_ControlOpsComplete :
    (prim.cur.agent = .prim 0 ∧ isGuidon prim 0 = true ∧ executes prim (HoldForm.mk always 0).g = true ∧ executes prim (RegForm.mk always 1).g = true ∧
      executes prim (NoneForm.mk always).g = true ∧ (prim.core 0).xfer = none ∧ (prim.core 0).inui = false ∧
      executes prim (SetfForm.mk always 15 1).g = true ∧ executes prim (SetfLitForm.mk always 15 7).g = true ∧
      executes prim (FmtLitForm.mk always 0).g = true) ∧
    (let s := tagged 3 2
     executes s (OffForm.mk always 3).g = true ∧ targetTrap s (s.cur.pc + (3 : BitVec 21).setWidth 16) 2 = none) := by decide +kernel

theorem test_hyps_TrapAndBrkTakeTheirTrap :
    prim.cur.agent = .prim 0 ∧ executes prim (CodeForm.mk always 0xFFF).g = true ∧ executes prim (CodeForm.mk ⟨true, 0⟩ 0).g = false ∧
    executes prim (NoneForm.mk ⟨true, 0⟩).g = false := by decide +kernel

/-! ### The M class -/

/-- An access to the scratchpad's word at the offset given, by an immediate index. -/
def at_ (o : Nat) (m : Mode) : MemForm := ⟨always, 1, 0, .imm (BitVec.ofNat 32 o), m, 0, .rlx, 0⟩

theorem test_hyps_PrimaryLoadsAndStoresIssue :
    (prim.cur.agent = .prim 0 ∧ ∀ n ∈ [1, 2, 4, 8], executes prim (at_ (2 ^ 20 - n) .loc).g = true ∧ memTrap prim (at_ (2 ^ 20 - n) .loc) n = none) ∧
    (let f : VMemForm := ⟨always, 31, 0, .imm 16, .loc⟩
     executes prim f.g = true ∧ vmemTrap prim f = none) ∧
    (let f : GathForm := ⟨always, 31, 0, 0, .loc⟩; executes prim f.g = true ∧ gathTrap prim f = none) ∧
    (let f : VMemForm := ⟨always, 31, 0, .imm 16, .weave⟩; executes prim f.g = true ∧ vmemTrap prim f = none) := by
  decide +kernel

theorem test_hyps_PrimarySyncAccessesIssue :
    prim.cur.agent = .prim 0 ∧ executes prim (at_ (2 ^ 20 - 8) .loc).g = true ∧ memTrap prim (at_ (2 ^ 20 - 8) .loc) 8 = none ∧
    executes prim (FenceForm.mk always .ar 4).g = true := by decide +kernel

/-- An access of one piece at the end of core 0's scratchpad. -/
def piece0 (n : Nat) : Piece := { core := 0, off := BitVec.ofNat 20 (2 ^ 20 - n), len := n, pos := 0 }

theorem test_hyps_AccessesChangeOnlyTheirBytes :
    (piece0 8).off.toNat + (piece0 8).len ≤ 1048576 ∧ (piece0 8).pos = 0 ∧
    (newAccess prim (.store 8) 4 0 0 [piece0 8]).pieces = [piece0 8] ∧ piecesFail prim (.prim 0) .write true false [piece0 8] = none ∧
    piecesFail prim (.prim 0) .write false false [piece0 8] = none ∧ (newAccess prim (.load 8 false) 4 0 0 [piece0 8]).op = .load 8 false ∧
    (newAccess prim (.atomic .cas .ar) 4 0 0 [piece0 8]).op = .atomic .cas .ar ∧ (newAccess prim .lda 4 0 0 [piece0 8]).op = .lda ∧
    (newAccess prim (.atomWrite true) 2 0 0 [piece0 8]).op = .atomWrite true ∧ (newAccess prim .strl 6 0 0 [piece0 8]).op = .strl ∧
    (let s := mapQueue prim (bankQueue 0 (piece0 8).off.toNat) fun _ =>
       [{ core := 0, thread := 8, granule := spadWordKey 0 (piece0 8).off.toNat, held := some 0, occ := (prim.core 0).occ }]
     holds s (bankQueue 0 (piece0 8).off.toNat) (spadWordKey 0 (piece0 8).off.toNat) (.prim 0) = true) := by decide +kernel

/-- A thread's global access is made. -/
def isOk : GRes → Bool
  | .ok _ _ => true
  | _ => false

/-- A reservation is held at once. -/
def isHeld : Join → Bool
  | .held _ => true
  | _ => false

theorem test_hyps_ThreadLoadsAndStoresComplete :
    (let s := thread 6
     s.cur.agent = .thread 0 6 ∧ ∀ n ∈ [1, 2, 4, 8], executes s (at_ (2 ^ 20 - n) .loc).g = true ∧ memTrap s (at_ (2 ^ 20 - n) .loc) n = none ∧
       placeOf s 0 .loc (effAddr s (at_ (2 ^ 20 - n) .loc)) n = .spad (piece0 n) ∧ pieceFail s (.thread 0 6) .read true true (piece0 n) = none ∧
       pieceFail s (.thread 0 6) .write true false (piece0 n) = none) ∧
    (let s := (thread 6).mapThread 0 6 fun t => { t with x := [(2, 0x1FFFFFFC1000000)] }
     let f : MemForm := { at_ 0 .glob with a := 2 }
     memTrap s f 8 = none ∧ placeOf s 0 .glob (effAddr s f) 8 = .away 16) ∧
    (let s := (running {}).mapCore 0 fun k => { k with dcache := [⟨0, 0x400000, 0, 0x1000000F, 0, 0, 0, 0, [], false⟩] }
     let s := { s with cur := (thread 6).cur }
     memTrap s (at_ 0 .glob) 8 = none ∧ placeOf s 0 .glob (effAddr s (at_ 0 .glob)) 8 = .global ∧
       isOk (globLoad s 0 6 (ctxOfThread s 0 6) 0 8) = true ∧ isOk (globStore s 0 6 (ctxOfThread s 0 6) 0 8 1) = true) := by decide +kernel

theorem test_hyps_ThreadSyncAccessesComplete :
    let s := thread 6
    let f := at_ (2 ^ 20 - 8) .loc
    let p := piece0 8
    (s.cur.agent = .thread 0 6 ∧ executes s f.g = true ∧ memTrap s f 8 = none ∧ placeOf s 0 f.mode (effAddr s f) 8 = .spad p ∧
      pieceFail s (.thread 0 6) .read false true p = none ∧ pieceFail s (.thread 0 6) .write false false p = none ∧
      pieceFail s (.thread 0 6) .atomic false false p = none ∧ pieceFail s (.thread 0 6) .atomic false true p = none ∧ f.ord = .rlx) ∧
    ((readX s 0 6 f.d).setWidth 32 = (0 : Half) ∧
      (readX (s.mapThread 0 6 fun t => { t with x := [(1, 1)] }) 0 6 f.d).setWidth 32 ≠ (0 : Half) ∧ gatherPieces s [p] = 0 ∧
      (s.thread 0 6).lastRead = false ∧ (s.thread 0 6).st ≠ .lrw) ∧
    (isHeld (joinQueue s (bankQueue 0 p.off.toNat) (spadWordKey 0 p.off.toNat) (.thread 0 6)) = true ∧ p.poisoned s = false ∧
      holds s (bankQueue 0 p.off.toNat) (spadWordKey 0 p.off.toNat) (.thread 0 6) = false) := by decide +kernel

theorem test_hyps_CacheAndServiceOpsComplete :
    (executes (thread 6) (FenceForm.mk always .rlx 0).g = true ∧ executes (thread 6) (FenceForm.mk always .rel 4).g = true) ∧
    (let d : DLine := ⟨0, 0, 0, 0xF, 0, 0, 0, 0, [], false⟩
     let s := { (thread 6) with cores := [(0, { Core.reset with dcache := [d] })] }
     executes s (at_ 0 .glob).g = true ∧ (effAddr s (at_ 0 .glob)).toNat < 2 ^ 57 ∧ inAperture (effAddr s (at_ 0 .glob)).toNat = false ∧
       dcFind (s.core 0) (effAddr s (at_ 0 .glob)).toNat = some d) ∧
    (let s := { mapped State.reset [0] with cur := (thread 6).cur }
     dcFind (s.core 0) (effAddr s (at_ 0 .glob)).toNat = none ∧
       look s (ctxOfThread s 0 6) (effAddr s (at_ 0 .glob)).toNat .read = .hit 0x1000000F false 0x10000000 ∧ pteUncached 0x1000000F = false ∧
       fillHeld s (ctxOfThread s 0 6) 0x1000000F 0 0x10000000 1 = false) ∧
    (let s := thread 7
     s.cur.agent = .thread 0 7 ∧ executes s (at_ (2 ^ 23 - 8) .glob).g = true ∧ (effAddr s (at_ (2 ^ 23 - 8) .glob)).toNat < 2 ^ 52 ∧
       (effAddr s (at_ (2 ^ 23 - 8) .glob)).toNat % 8 = 0) ∧
    (let s := (thread 7).mapThread 0 7 fun t => { t with x := [(1, 0x1000000F)] }
     sttOk s (readR s 1) (readR s 0) (readB s (.reg 0)) = true) := by decide +kernel

/-! ### The V and X classes -/

theorem test_hyps_VectorArithmeticCompletes :
    prim.cur.agent = .prim 0 ∧ executes prim (VForm.mk always 0 1 2 0 .i8).g = true ∧ intType .i8 = true ∧ intType .f16 = false ∧ vext prim >>> 2 = 0 := by
  decide +kernel

theorem test_hyps_WordLanesAreExact :
    prim.cur.agent = .prim 0 ∧ executes prim (VForm.mk always 0 1 2 7 .i32).g = true ∧ executes prim (V1Form.mk always 0 1 0 .i32).g = true := by
  decide +kernel

theorem test_hyps_VectorConversionsAndComparesComplete :
    (executes prim (V1Form.mk always 0 1 0 .i16).g = true ∧ executes prim (VCmpForm.mk always   .c3 1 1 2 0 .f32).g = true ∧
      executes prim (VCvtForm.mk always 0 1 .f32 .rne 0 .f32).g = true ∧ executes prim (VQdecForm.mk always 0 1 true 0).g = true ∧
      executes prim (VRndForm.mk always 0 1 .rne 0).g = true) ∧
    (let f : VUnpkForm := ⟨always, 31, 1, .i32, 0, .i16⟩; executes prim f.g = true ∧ elems f.t = 2 * elems f.u) ∧
    (let s := { prim with cur := { Cur.reset with lits := [24] } }
     ∃ e : BitVec 6, packTrap { prim with cur := { Cur.reset with lits := [e.setWidth 32] } } (VForm.mk always 0 1 2 0 .f32) = none ∧
       executes s (VForm.mk always 0 1 2 0 .f32).g = true) :=
  ⟨by decide +kernel, by decide +kernel, 24, by decide +kernel, by decide +kernel⟩

/-- Lanes, or a mask, with bit 63 alone. -/
def mask63 : State := withCore { Core.reset with mreg := [(1, 2 ^ 63)] } {}

theorem test_hyps_VectorMovesAndReductionsComplete :
    (executes prim (VRedForm.mk always 0 1 0 .rne 0 .i32).g = true ∧ executes prim (VPatForm.mk always 0 1 31 0 .i32).g = true ∧
      executes prim (VIotaForm.mk always 0 1 false).g = true ∧ executes prim (MaskForm.mk always 1 2 3).g = true ∧
      executes prim (MaskUnForm.mk always 0 7).g = true ∧ executes prim (MaskOutForm.mk always 0 1).g = true ∧
      executes prim (MaskInForm.mk always 0 1).g = true) ∧
    (executes prim (VScalForm.mk always 0 1 1 .i32).g = true ∧ executes prim (VExtForm.mk always 1 0 1 .i32).g = true ∧ readM prim 0 1 = 0) ∧
    (executes mask63 (VScalForm.mk always 0 1 1 .i32).g = true ∧ (readM mask63 0 1).getLsbD 63 = true ∧
      ∀ i < 63, (readM mask63 0 1).getLsbD i = false) ∧
    (executes mask63 (V1Form.mk always 0 1 1 .i32).g = true ∧ readM mask63 0 1 ≠ 0 ∧ ∀ i < 64, (readM mask63 0 1).getLsbD i = true → i = 63) := by decide +kernel

/-- A beat that folds. -/
def beat0 (oneshot : Bool) : BeatForm :=
  ⟨always, 0, oneshot, false, false, false, false, false, true, false, false, false, 0, .none, .none, 0, false, false, 0, false, 0⟩

theorem test_hyps_MatrixOpsComplete :
    (prim.cur.agent = .prim 0 ∧ executes prim (beat0 false).g = true ∧ mbeatTrap prim (beat0 false) = none ∧ (beat0 false).oneshot = false) ∧
    (let s := prim.mapCore 0 fun k => { k with sreg := [(2, 0x1000000)] }
     let f : BeatForm := { beat0 false with acc := false, pushA := true, a := .desc 1 }
     s.cur.agent = .prim 0 ∧ executes s f.g = true ∧ mbeatTrap s f = none ∧ srcRemote s f.a = true) ∧
    (let f : SclForm := ⟨always, .none, .none⟩; executes prim f.g = true ∧ msclTrap prim f = none) ∧
    executes prim (ClrForm.mk always true).g = true ∧
    (executes prim (SwapForm.mk always).g = true ∧ ∀ e ∈ (prim.core 0).acc, e.1 < 8192) ∧
    (let f : ImgForm := ⟨always, 0x3F, 0⟩; executes prim f.g = true ∧ imageTrap prim f = none) := by decide +kernel

/-! ### The E class -/

theorem test_hyps_CopyJobOpsComplete :
    (let f : E2Form := ⟨always, 1, 0⟩
     executes prim f.g = true ∧ prim.cur.retry = false ∧ jobSlot (prim.cluster 0) false = some 0 ∧ cpyTrap prim f false = none ∧
       cpyTrap prim f true = none ∧ findJob (prim.cluster 0) prim.myCtx 0 = none) ∧
    (let k := (withJob (job0 .running)).cluster 0; findJob k 0 0 = some 63 ∧ (k.job 63).unfinished = true) ∧
    (let k := (withJob (job0 .done)).cluster 0
     findJob k 0 0 = some 63 ∧ (k.job 63).unfinished = false ∧ (k.job 63).control.getLsbD 15 = false) := by decide +kernel

theorem test_hyps_HalyardOpsComplete :
    (let f : E3Form := ⟨always, 1, 0, 0⟩
     prim.cur.agent = .prim 0 ∧ prim.cur.retry = false ∧ executes prim f.g = true ∧ isGuidon prim 0 = true ∧ hcommitTrap prim f = none) ∧
    (let s := { withHal hal0 {} with cur := { Cur.reset with retry := true, issued := 0 }, time := { TimeBase.reset with cycle := 2 } }
     s.cur.agent = .prim 0 ∧ s.cur.retry = true ∧ isGuidon s 0 = true ∧ s.cur.issued + 2 ≤ s.cycle ∧ (s.core 0).hacts = [] ∧ (s.core 0).pwait = none ∧ (s.core 0).lrwWait = none ∧
       (s.halAt 0).st = .live ∧
       (match withEngine s (halDir s s.cur.opA) (fun t => actHtent t (halDir s s.cur.opA) s.cur.opB) with
        | .done _ _ _ => true
        | _ => false) = true ∧
       (let u := { settleFirst s 0 (fun a => a.born ≤ s.cur.born) 4 with cur := s.cur }
        match withEngine u (halDir u s.cur.opA) (fun t => actClose t (halDir u s.cur.opA) s.cur.opB) with
        | .done _ _ _ => true
        | _ => false) = true) ∧
    (let s := { State.reset with cores := [(0, { Core.reset with gangSize := 1, hres := [(0, some (1, 2))] }), (1, { Core.reset with gangSize := 1, rank := 1 })],
                                 cur := { Cur.reset with agent := .prim 1 } }
     s.cur.agent = .prim 1 ∧ s.cur.retry = false ∧ executes s always = true ∧ isGuidon s 1 = false ∧
       tabGet none (s.core (guidonOf s 1)).hres s.cur.gborn = some (1, 2)) := by decide +kernel

theorem test_hyps_CursorActionsAreStated :
    (let s := withHal hal0 {}
     s.halAt 0 = hal0 ∧ hal0.st = .live ∧ hal0.bound = some s.me ∧ hal0.t.toNat ≤ hal0.g.toNat + 1024 ∧
       hal0.g.toNat + 1024 ≤ hal0.p.toNat + hal0.kvcap.toNat ∧ hal0.g.toNat + 1024 < 2 ^ 48 ∧ hal0.lastck = allOnes64 ∧ hal0.cut = none ∧
       hal0.a.toNat ≤ hal0.i.toNat ∧ (0 : Word).toNat % 2 ^ hal0.cklg.toNat = 0 ∧ (0 : Word).toNat ≤ hal0.g.toNat ∧
       recordReady s 0 = .ok) ∧
    ({ hal0 with st := .parked }.st ≠ .live ∧ { hal0 with st := .parked }.st ≠ .faulted) ∧ Hal.reset.st = .closed := by decide +kernel

/-- Stage queue 0 of occurrence 0 in cluster 0, with capacity 4. -/
def queued0 (s : State) : State := s.mapCluster 0 fun k => { k with queues := [(0, { StageQ.reset with cap := 4, base := 0 })] }

theorem test_hyps_StageQueueOpsComplete :
    (let f : E3Form := ⟨always, 1, 0, 0⟩
     let s := queued0 (running {})
     executes s f.g = true ∧ s.cur.retry = false ∧ s.cur.agent = .prim 0 ∧ sqTrap s f = none ∧ (stageQ s 0).cap ≠ 0 ∧
       (stageQ s 0).tail = (stageQ s 0).head) ∧
    (let f : E3Form := ⟨always, 1, 0, 0⟩
     let s := { queued0 (running {}) with cur := (thread 6).cur }
     executes s f.g = true ∧ s.cur.agent = .thread 0 6 ∧ sqTrap s f = none ∧
       (∀ p ∈ [true, false], portsBusy s [sqBuffer s 0] p = false ∧ portsBusy s [poolPiece s 0] p = false) ∧
       (∀ p ∈ [true, false], (match sqPerform s p 0 0 with
         | .ok _ _ => true
         | _ => false) = true)) ∧
    (stageQ (thread 6) 0).cap = 0 ∧ portsBusy (thread 6) [sqBuffer (thread 6) 0] false = false := by decide +kernel

/-- Occurrence 0 on core 0 with the router program. -/
def routed : State := (withOcc { occ0 with phase := .running, router := some router0 } {}).setCore 0 core0

theorem test_hyps_PlacementMeshAndTraceComplete :
    (let f : ESpawnForm := ⟨always, 1, 0, 0, false⟩
     let s := running {}
     s.cur.retry = false ∧ executes s f.g = true ∧ spawnTrap s f = none ∧ s.myOcc.isSome = true ∧ (s.core s.me).occ = s.myOcc ∧
       (s.core s.me).readyq.length < 256) ∧
    (let s := { running {} with cur := (thread 6).cur }
     (match spawnWrite (releaseReady s 1) 0 6 s.myCtx 0x1FFFFFFC0000000 with
      | .ok _ => true
      | _ => false) = true) ∧
    (let s := (running {}).mapCore 0 fun k => { k with readyq := List.replicate 256 (.of 0 false) }
     s.myOcc.isSome = true ∧ (s.core s.me).occ = s.myOcc ∧ 256 ≤ (s.core s.me).readyq.length) ∧
    (let f : ESpawnForm := ⟨always, 1, 0, 0, true⟩
     let s := (running {}).mapCore 0 fun k => { k with sreg := [] }
     spawnTrap s f = none ∧ (s.core 1).occ ≠ s.myOcc) ∧
    executes prim (E3Form.mk always 1 2 3).g = true ∧
    (let f : MeshForm := ⟨always, 31, 0⟩; executes routed f.g = true ∧ routerOf routed 0 = some router0 ∧ vsendTrap routed f = none) ∧
    (let s := withCore { Core.reset with recv := [(63, [1, 2, 3, 4])] } {}
     recvBuf (s.core 0) 63 = [1, 2, 3, 4] ∧ (s.core 0).ovf.getLsbD 63 = false) ∧
    (let f : LiveForm := ⟨always, .imm 3⟩; (thread 6).cur.agent = .thread 0 6 ∧ executes (thread 6) f.g = true ∧ liveTrap (thread 6) f = none) ∧
    (let f : MigrForm := ⟨always, 1⟩
     executes (thread 6) f.g = true ∧ (readR (thread 6) f.a).toNat < 1024 ∧ readR (thread 6) f.a = (0 : BitVec 10).setWidth 64 ∧
       readR ((thread 6).mapThread 0 6 fun t => { t with x := [(1, 1023)] }) f.a ≠ (0 : BitVec 10).setWidth 64) := by decide +kernel

/-! ### The G class, frames, traps and ends of bundles -/

theorem test_hyps_JumpsComplete :
    (let s := thread 7
     s.cur.agent = .thread 0 7 ∧ executes s always = true ∧
       jumpReady s 0 7 0 = .go s ∧ jumpReady s 0 7 0x1FFFFFFFFFFFFF8 = .go s) ∧
    (let s := (thread 6).mapThread 0 6 fun t => { t with pc := BitVec.ofNat 57 (2 ^ 57 - 8) }
     2 ^ 57 ≤ ((s.thread 0 6).pc.setWidth 64 + 8 * (1 : BitVec 32).signExtend 64).toNat) ∧
    (let s := (thread 6).mapThread 0 6 fun t => { t with x := [(1, 4)] }
     (readX s 0 6 1).toNat < 2 ^ 57 ∧ (readX s 0 6 1).toNat % 8 ≠ 0) := by decide +kernel

/-- A frame access is made. -/
def frameOk : FRes → Bool
  | .ok _ => true
  | _ => false

/-- Thread 6 with its frame at the start of core 0's scratchpad. -/
def framed (th : Thread) : State :=
  { (running {}).mapThread 0 6 fun _ => { th with frame := 0x1FFFFFFC0000000 } with cur := (thread 6).cur }

theorem test_hyps_ThreadControlOpsComplete :
    (let s := framed Thread.reset
     let th := s.thread 0 6
     s.cur.agent = .thread 0 6 ∧ (s.core 0).readyq.length < 256 ∧
       (∀ st ∈ [0, 1], frameOk (frameWrite s 0 6 (ctxOfThread s 0 6) th.frame.toNat (frameParts th (th.pc + 8) st)) = true) ∧
       frameOk (frameWrite s 0 6 (ctxOfThread s 0 6) th.frame.toNat [(21, [5])]) = true) ∧
    256 ≤ (((running {}).mapCore 0 fun k => { k with readyq := List.replicate 256 (.of 0 false) }).core 0).readyq.length ∧
    (0 < (1 : BitVec 32).toInt ∧ (0 : BitVec 32).toInt ≤ 0 ∧
      (let s := (thread 6).mapThread 0 6 fun t => { t with x := [(1, 1)] }
       s.now < (readX s 0 6 1).toNat ∧ (readX s 0 6 0).toNat ≤ s.now)) := by decide +kernel

theorem test_hyps_ScalarOpsChangeOnlyTheirDestination :
    (executes prim (AluForm.mk always 63 1 (.reg 2)).g = true ∧ cwReady prim (.reg 2) = .ok prim ∧ prim.cur = prim.cur ∧
      completes (exec (.add (AluForm.mk always 63 1 (.reg 2))) prim) = true) ∧
    (executes prim (CmpForm.mk always .c0 15 1 (.reg 2)).g = true ∧ completes (exec (.cmp (CmpForm.mk always .c0 15 1 (.reg 2))) prim) = true) ∧
    completes (exec (.li (LiForm.mk always 1 (.imm 1))) prim) = true ∧ completes (exec (.clz (UnForm.mk always 1 2)) prim) = true ∧
    completes (exec (.pand (PredForm.mk always 1 2 3)) prim) = true ∧ completes (exec (.pnot (PredUnForm.mk always 1 2)) prim) = true ∧
    completes (exec (.pset (PSetForm.mk always 1 true)) prim) = true ∧ completes (exec (.now (TimeForm.mk always 1)) prim) = true := by decide +kernel

theorem test_hyps_TrapsAreTakenAsStated :
    ((prim.core 0).occ = none ∧ (0 : BitVec 10) ∈ gangOf prim (guidonOf prim 0)) ∧
    (let s := framed Thread.reset
     let th := s.thread 0 6
     (6 : BitVec 3) ≠ 7 ∧ th.trapped.isSome = false ∧
       frameOk (frameWrite (s.mapThread 0 6 fun th => { th with xfail := none }) 0 6 (ctxOfThread s 0 6) th.frame.toNat (frameParts th th.pc 4)) = true) ∧
    (executes prim (at_ (2 ^ 20) .loc).g = true ∧ (at_ (2 ^ 20) .loc).mode = .loc ∧ 2 ^ 20 ≤ (effAddr prim (at_ (2 ^ 20) .loc)).toNat) ∧
    (∀ n ∈ [2, 4, 8], (effAddr prim (at_ (2 ^ 20 - 1) .loc)).toNat < 2 ^ 20 ∧
      inPool prim 0 (effAddr prim (at_ (2 ^ 20 - 1) .loc)).toNat n = false ∧ (effAddr prim (at_ (2 ^ 20 - 1) .loc)).toNat % n ≠ 0) := by decide +kernel

/-- A bundle whose operations have run. -/
def bundle0 : Bundle :=
  { pc := 4, hdr := 0, len := 2, ops := [], lits := [], scope := 0, cout := none, mword := none, skipTrap := false, status := 0, next := 6, halt := false, gborn := 0 }

/-- Core 0 issues bundle0. -/
def issuing (k : Core) : State := { (withCore { k with bund := some bundle0, run := .running } {}) with agenda := [.issue 0] }

theorem test_hyps_BundlesEndWhereTheyMust :
    (let s := issuing Core.reset
     s.agenda = .issue 0 :: [] ∧ (s.core 0).bund = some bundle0 ∧ bundle0.ops = [] ∧ (s.core 0).xfer = none ∧ loopAt (s.core 0) bundle0.pc = none) ∧
    ((issuing { Core.reset with xfer := some ⟨9, 2, false⟩ }).core 0).xfer = some ⟨9, 2, false⟩ ∧
    ((issuing { Core.reset with xfer := some ⟨9, 1, false⟩ }).core 0).xfer = some ⟨9, 1, false⟩ ∧
    (let e : LoopReg := ⟨2, 1, 4, true, 0, false⟩
     let s := issuing { Core.reset with loops := [(0, e)] }
     (s.core 0).xfer = none ∧ loopAt (s.core 0) bundle0.pc = some (0, e) ∧ 1 < e.count.toNat) := by decide +kernel

/-! ### Words of the spec -/

/-- 14 Table Enc.22: the words of the worked bundle, and the barrel line after it. -/
theorem test_spec_words :
    decodeC 0x047FFFD8 = .ok (.br ⟨⟨false, 3⟩, 0x1FFFD8⟩) ∧ decodeS 0x04028A0C = .ok (.add ⟨⟨false, 0⟩, 5, 5, .imm 1⟩) ∧
    decodeV 0x0402004A = .ok (.vadd ⟨⟨false, 0⟩, 2, 0, 1, 1, .f32⟩) ∧
    decodeX 0x04042B83 0x8A00A00C = .ok (.mbeat ⟨⟨false, 0⟩, 2, false, false, false, true, false, true, false, true, true, true, 3, .desc 5, .none,
      1, false, true, 0, false, 6⟩) ∧
    decodeBarrel 0x5007481008000010 = .ok (.lda ⟨⟨false, 0⟩, 7, 9, .imm 16, .loc, 0, .rlx, 1⟩) ∧
    (∃ e, decodeBarrel 0x5007481408000010 = .illegal e) := by
  refine ⟨by decide, by decide, by decide, by decide, by decide, _, rfl⟩

/-- 14 Tables Enc.4 to Enc.7, Enc.14, Enc.15: S and M words bit by bit. -/
theorem test_words_S_M :
    decodeS 0b011101_10011_000111_011111_100000_0_10 = .ok (.cmp ⟨⟨true, 3⟩, .c2, 7, 31, .reg 32⟩) ∧
    decodeS 0b100000_00000_111111_000000_010111_1_00 = .ok (.li ⟨⟨false, 0⟩, 63, .imm (-9)⟩) ∧
    decodeS 0b110100_00000_000001_000010_000000_0_10 = .ok (.fcvtF2i ⟨⟨false, 0⟩, 1, 2⟩) ∧
    decodeS 0b110110_00000_000001_000000010010_000 = .ok (.mtc ⟨⟨false, 0⟩, 1, 0x012⟩) ∧
    decodeS 0b111010_00000_000001_000010_111_000000 = .ok (.hset ⟨⟨false, 0⟩, 2, 0x1C1⟩) ∧
    decodeM 0b001011_00000_111111_000001_110000_0_00 = .ok (.std ⟨⟨false, 0⟩, 63, 1, .reg 48, .loc, 0, .rlx, 0⟩) ∧
    decodeM 0b010011_00000_000001_000010_111_00_00_01 = .ok (.ptest ⟨⟨false, 0⟩, 1, 2, .imm 0, .core, 7, .rlx, 0⟩) ∧
    decodeM 0b100000_00000_011110_000010_000_11_00_10 = .ok (.acas ⟨⟨false, 0⟩, 30, 2, .imm 0, .weave, 0, .ar, 0⟩) ∧
    decodeM 0b001110_00000_011111_000010_0_10101_0_00 = .ok (.vgath ⟨⟨false, 0⟩, 31, 2, 21, .loc⟩) := by decide

/-- 14 Tables Enc.8, Enc.9, Enc.11, Enc.16, Enc.21: V, C and E words bit by bit. -/
theorem test_words_V_C_E :
    decodeV 0b010010_00000_10_111_00001_00010_001_010 = .ok (.vcmp ⟨⟨false, 0⟩, .c2, 7, 1, 2, 1, .f32⟩) ∧
    decodeV 0b100011_00000_100001_00010_0000_011_000 = .ok (.vext ⟨⟨false, 0⟩, 33, 2, 3, .i32⟩) ∧
    decodeV 0b011110_00000_00001_00010_010_01_000_010 = .ok (.vred ⟨⟨false, 0⟩, 1, 2, 2, .rtz, 0, .f32⟩) ∧
    decodeV 0b101001_00000_00_101_00_110_00_111_000_000 = .ok (.mand ⟨⟨false, 0⟩, 5, 6, 7⟩) ∧
    decodeC 0b000110_00000_11_1111111_100000000001 = .ok (.loop ⟨⟨false, 0⟩, 3, 127, 0x801⟩) ∧
    decodeC 0b001000_00000_1_000101_00000000000000 = .ok (.holdcReg ⟨⟨false, 0⟩, 5⟩) ∧
    decodeC 0b010011_00000_1010_1_110_0000000000000 = .ok (.setfLit ⟨⟨false, 0⟩, 10, 6⟩) ∧
    decodeE 0b001000_00000_100000_100001_100010_000 = .ok (.htent ⟨⟨false, 0⟩, 32, 33, 34⟩) := by decide

/-- 14 Tables Enc.18 to Enc.20: barrel words bit by bit. -/
theorem test_words_barrel :
    decodeBarrel 0b11_000001_1_10_00000_00000_00000_01_0000_11111111111111111111111111111110 = .ok (.jmp ⟨⟨true, 2⟩, -2⟩) ∧
    decodeBarrel 0b11_000110_0_00_00000_00000_00000_00_0001_00000000000000000000000000000000 = .ok .tyieldPark ∧
    decodeBarrel 0b00_000001_0_00_00001_00010_00000_10_0000_00000000000011100000000000000101 = .ok (.add ⟨⟨false, 0⟩, 1, 2, .cw 7 5⟩) ∧
    decodeBarrel 0b01_010111_0_00_00001_00010_00011_00_0111_00_100_000000000000000000000000000 =
      .ok (.aadd ⟨⟨false, 0⟩, 1, 2, .reg 3, .glob, 0, .acq, 4⟩) := by decide

/-! ### Words that the layouts refuse -/

/-- A word is refused. -/
def refused : Decoded → Bool
  | .illegal _ => true
  | .ok _ => false

/-- 14 R342, R344-R346, R351, R352: an unused field that is not 0, a reserved form, type, rounding or code. -/
theorem test_words_refused :
    refused (decodeS 0) = true ∧ refused (decodeS 0b000001_00000_000011_000001_000010_0_01) = true ∧
    refused (decodeS 0b000001_00000_000011_000001_111000_1_00) = true ∧ refused (decodeM 0b010000_00000_000001_000010_000_01_00_00) = true ∧
    refused (decodeM 0b000111_00000_000001_000010_000000_0_11) = true ∧ refused (decodeM 0b100000_00000_011111_000010_000_00_00_00) = true ∧
    refused (decodeV 0b000100_00000_00001_00010_00011_000_010) = true ∧ refused (decodeC 0b001010_00000_000000000000000000001) = true ∧
    refused (decodeX 0b000100_00000_000000000000000000001 0) = true ∧
    refused (decodeBarrel 0b01_000111_0_00_00001_00010_00000_10_0000_00000000000000000000000000000000) = true := by decide

/-- Operands that no encoding holds are ill-formed: an immediate out of range, a mode, a predicate code or an ordering that the layout
does not carry, a type outside its set, a mask that cannot be written, an odd pair, a part list that is empty, a flag above f3. -/
theorem test_ill_formed :
    (Instr.add ⟨always, 1, 2, .imm 16⟩).wfSlot = false ∧ (Instr.add ⟨always, 1, 2, .cw 0 0⟩).wfSlot = false ∧
    (Instr.li ⟨always, 1, .reg 2⟩).wfSlot = false ∧ (Instr.ldd ⟨always, 1, 2, .imm 0, .glob, 0, .rlx, 0⟩).wfSlot = false ∧
    (Instr.ldd ⟨always, 1, 2, .imm 0, .loc, 1, .rlx, 0⟩).wfSlot = false ∧ (Instr.ldd ⟨always, 1, 2, .imm 0, .loc, 0, .acq, 0⟩).wfSlot = false ∧
    (Instr.ldd ⟨always, 1, 2, .imm 0, .loc, 0, .rlx, 1⟩).wfSlot = false ∧ (Instr.lda ⟨always, 1, 2, .imm 1, .loc, 0, .rlx, 0⟩).wfSlot = false ∧
    (Instr.acas ⟨always, 63, 2, .imm 0, .loc, 0, .rlx, 0⟩).wfSlot = false ∧ (Instr.fence ⟨always, .ar, 1⟩).wfSlot = false := by decide

theorem test_ill_formed_vector :
    (Instr.vmulh ⟨always, 1, 2, 3, 0, .f32⟩).wfSlot = false ∧ (Instr.vfma ⟨always, 1, 2, 3, 0, .i32⟩).wfSlot = false ∧
    (Instr.vcmp ⟨always, .c0, 0, 1, 2, 0, .i32⟩).wfSlot = false ∧ (Instr.vcvt ⟨always, 1, 2, .f32, .rne, 0, .f16⟩).wfSlot = false ∧
    (Instr.vunpk ⟨always, 1, 2, .f32, 0, .bf16⟩).wfSlot = false ∧ (Instr.vunpk ⟨always, 2, 2, .i32, 0, .bf16⟩).wfSlot = false ∧
    (Instr.vred ⟨always, 1, 2, 7, .rne, 0, .i32⟩).wfSlot = false ∧ (Instr.vred ⟨always, 1, 2, 0, .rtz, 0, .i32⟩).wfSlot = false ∧
    (Instr.vshuf ⟨always, 1, 2, 22, 0, .i32⟩).wfSlot = false ∧ (Instr.vcx ⟨always, 1, 2, 6, 0, .i32⟩).wfSlot = false ∧
    (Instr.vrand ⟨always, 1, 2, 3, 0, .i32⟩).wfSlot = false ∧ (Instr.mand ⟨always, 0, 1, 2⟩).wfSlot = false := by decide

theorem test_ill_formed_matrix :
    (Instr.mscl ⟨always, .keep, .none⟩).wfSlot = false ∧ (Instr.msave ⟨always, 0, 0⟩).wfSlot = false ∧
    (Instr.mbeat { beat0 false with dconv := 1 }).wfSlot = false ∧ (Instr.mbeat { beat0 false with drain := true, dshift := 1 }).wfSlot = false ∧
    (Instr.mbeat { beat0 false with drain := true, dest := 32 }).wfSlot = false := by decide

theorem test_ill_formed_barrel :
    (Instr.add ⟨⟨false, 4⟩, 1, 2, .reg 3⟩).wfBarrel = false ∧ (Instr.add ⟨always, 32, 2, .reg 3⟩).wfBarrel = false ∧
    (Instr.add ⟨always, 1, 2, .reg 32⟩).wfBarrel = false ∧ (Instr.add ⟨always, 1, 2, .lit .sxt 0⟩).wfBarrel = false ∧
    (Instr.cmp ⟨always, .c0, 4, 1, .reg 2⟩).wfBarrel = false ∧ (Instr.ldd ⟨always, 1, 2, .cw 0 0, .loc, 0, .rlx, 0⟩).wfBarrel = false ∧
    (Instr.ldd ⟨always, 1, 2, .imm 0x800000, .loc, 0, .rlx, 0⟩).wfBarrel = false ∧
    (Instr.vadd ⟨always, 1, 2, 3, 0, .i32⟩).wfBarrel = false ∧ (Instr.jmp ⟨always, 0⟩).wfSlot = false ∧ Instr.coldReset.wf = false := by decide

/-! ### Whole rules, decoding and the machine -/

/-- Thread 6 of core 0 runs; its next operation has the bits w. -/
def fetching (w : BitVec 64) : State :=
  let s := (running {}).mapThread 0 6 fun t => { t with st := .running }
  s.mapCore 0 fun k => { k with icache := [⟨0, w.setWidth 512, 0⟩] }

/-- The core of a state to which class 2 of core 0 has been offered. -/
def offered (s : State) : State := s.mapCore 0 fun k => countResidue k 2 (·.offered) fun r v => { r with offered := v }

theorem test_hyps_AtomicFieldsAreChecked :
    (let w : BitVec 32 := 0b010111_00000_000001_000010_001_00_00_00
     0x17 ≤ (w.extractLsb' 26 6).toNat ∧ (w.extractLsb' 26 6).toNat ≤ 0x20 ∧ (w.extractLsb' 6 3 ≠ 0 ∨ w.extractLsb' 2 2 ≠ 0)) ∧
    (let w : BitVec 32 := 0b100000_00000_000001_000010_000_00_01_00
     (w.extractLsb' 26 6).toNat ≤ 0x20 ∧ (w.extractLsb' 6 3 ≠ 0 ∨ w.extractLsb' 2 2 ≠ 0)) ∧
    (let w : BitVec 64 := 0x5700000040000000
     w.extractLsb' 62 2 = 1 ∧ 0x17 ≤ (w.extractLsb' 56 6).toNat ∧ (w.extractLsb' 56 6).toNat ≤ 0x20 ∧ w.extractLsb' 30 2 ≠ 0 ∧
     (let s := fetching w
      let u : State := { ((offered s).mapCore 0 fun k => notePick k s.cycle 6) with cur := curThread 0 6 2 }
      isOffered s 0 2 = true ∧ pickThread (offered s) 0 2 = some (6, w) ∧ tokenDenied u 0 (barrelTokens u w) = false ∧ refused (decodeBarrel w) = true ∧
        barPrivileged w = false)) ∧
    (let s : State := { State.reset with mem := { Mem.reset with imem := [(0, BitVec.ofNat 34 (2 ^ 32 + 2 ^ 31 + 2 ^ 25)),
       (1, BitVec.ofNat 34 0b010111_00000_000001_000010_001_00_00_00)] } }
     (fetchBundle s 0 0).slots.any fun p => refused p.2.2) = true ∧
    executes prim ⟨true, 0⟩ = false := by decide +kernel

theorem test_hyps_LaneMovesAreExact :
    prim.cur.agent = .prim 0 ∧ executes prim (VForm.mk always 31 31 31 7 .n8).g = true ∧ executes prim (VIotaForm.mk always 31 0 true).g = true := by
  decide +kernel

theorem test_hyps_SlotWordsRoundTrip :
    (Instr.add ⟨⟨true, 15⟩, 63, 63, .imm (-16)⟩).wfSlot = true ∧ (encodeS (.add ⟨⟨true, 15⟩, 63, 63, .imm (-16)⟩)).isSome = true ∧
    (Instr.acas ⟨always, 62, 63, .imm 0, .weave, 0, .ar, 0⟩).wfSlot = true ∧ (encodeM (.acas ⟨always, 62, 63, .imm 0, .weave, 0, .ar, 0⟩)).isSome = true ∧
    (encodeV (.vadd ⟨always, 31, 31, 31, 7, .n8⟩)).isSome = true ∧ (encodeC (.holdcImm ⟨always, 0xFFFFF⟩)).isSome = true ∧
    (encodeE (.htent ⟨always, 63, 63, 63⟩)).isSome = true ∧ (encodeX (.mbeat (beat0 true))).isSome = true ∧ (Instr.mbeat (beat0 true)).wfSlot = true := by
  decide

theorem test_hyps_BarrelWordsRoundTrip : (Instr.add ⟨⟨true, 3⟩, 31, 31, .cw 7 0x1FFFF⟩).wfBarrel = true := by decide

/-- A bundle of one S0 operation, ADD s1 ← s1 + 1, at word 0 of core 0, which is to issue. -/
def issuing0 : State :=
  let s := (running {}).mapCore 0 fun k => { k with run := .running }
  { s with mem := { s.mem with imem := [(0, BitVec.ofNat 34 (2 ^ 32 + 2 ^ 31 + 2 ^ 23)), (1, 0x0400820C)] }, agenda := [.issue 0] }

/-- The state in which that bundle is checked. -/
def checking : State :=
  activeAccesses ((keepCtl { issuing0 with agenda := [] } 0).mapCore 0 fun k => { k with usedAt := issuing0.cycle + 1, used := 0 }) 0

theorem test_hyps_StepRunsTheDecodedInstruction :
    (let s := { State.reset with agenda := [.event .coldReset {}] }; s.agenda = .event .coldReset {} :: []) ∧
    ((issuing0.core 0).bund = none ∧ (issuing0.core 0).usedAt ≠ issuing0.cycle + 1 ∧ (issuing0.core 0).frz = none ∧
      (issuing0.core 0).run = .running ∧ isGuidon issuing0 0 = true ∧ isGuidon checking 0 = true ∧
      chooseFound (fetchFound checking 0 (fetchBundle checking 0 0) ++ slotFound checking 0 (bundleOf checking 0 (fetchBundle checking 0 0))) = none ∧
      (bundleOf checking 0 (fetchBundle checking 0 0)).ops = [(.s0, .add ⟨always, 1, 1, .imm 1⟩)]) ∧
    (let b := { bundle0 with ops := [(.s0, .add ⟨always, 1, 1, .imm 1⟩)] }
     let s := { (withCore { Core.reset with bund := some b } {}) with agenda := [.issue 0] }
     s.agenda = .issue 0 :: [] ∧ (s.core 0).bund = some b) ∧
    (let w : BitVec 64 := 0x0101081000000001
     let s := fetching w
     let u := s.mapCore 0 fun q => countResidue q 0 (·.offered) fun r v => { r with offered := v }
     let v : State := { (u.mapCore 0 fun q => notePick q u.cycle 6) with cur := curThread 0 6 0 }
     isOffered s 0 0 = true ∧ pickThread u 0 0 = some (6, w) ∧ tokenDenied v 0 (barrelTokens v w) = false ∧ barPrivileged w = false ∧
       decodeBarrel w = .ok (.add ⟨always, 1, 1, .imm 1⟩) ∧ (sends v 0 (.add ⟨always, 1, 1, .imm 1⟩)).isNone = true) ∧
    (let w : BitVec 64 := 0x4709401000000000
     let s := fetching w
     let v : State := { ((offered s).mapCore 0 fun q => notePick q s.cycle 6) with cur := curThread 0 6 2 }
     isOffered s 0 2 = true ∧ pickThread (offered s) 0 2 = some (6, w) ∧ tokenDenied v 0 (barrelTokens v w) = false ∧
       barPrivileged w = false ∧ decodeBarrel w = .ok (.ldd ⟨always, 9, 8, .imm 0, .loc, 0, .rlx, 0⟩) ∧
       (sends v 0 (.ldd ⟨always, 9, 8, .imm 0, .loc, 0, .rlx, 0⟩)).isSome = true) ∧
    (let s := (fetching 0).mapThread 0 6 fun th => { th with issued := some .tyield }
     goOn (saveTrapped (decideNet s 0) 0) 0 = some (6, .tyield)) := by
  decide +kernel

theorem test_hyps_MemoryStaysCanonical : State.reset.mem.wf = true ∧ completes (step { State.reset with agenda := [.due] }) = true := by
  decide +kernel

/-! ### The spec's worked examples -/

/-- 15 R360, R364, R383; 16 Table Mem.8; 17 Table Vector.8: the words of the examples. -/
theorem test_example_words :
    decodeS 0x20030E40 = .ok (.div ⟨always, 6, 7, .reg 8⟩) ∧ decodeS 0x7401882A = .ok (.cmp ⟨always, .c2, 3, 4, .reg 5⟩) ∧
    decodeBarrel 0xC30100100000000C = .ok (.jal ⟨1, 12⟩) ∧
    decodeM 0x5C028C10 = .ok (.aadd ⟨always, 5, 6, .imm 0, .loc, 0, .acq, 0⟩) ∧
    decodeM 0x4C049481 = .ok (.ptest ⟨always, 9, 10, .imm 0, .core, 2, .rlx, 0⟩) ∧
    decodeM 0x50049440 = .ok (.pwait ⟨always, 9, 10, .imm 0, .loc, 1, .rlx, 0⟩) ∧ decodeM 0x84000030 = .ok (.fence ⟨always, .ar, 0⟩) ∧
    decodeS 0xE8140600 = .ok (.hset ⟨always, 3, 40⟩) ∧ decodeS 0xEC0219C0 = .ok (.hget ⟨always, 4, 460⟩) ∧
    decodeBarrel 0x5703201F18000008 = .ok (.aadd ⟨always, 3, 4, .imm 8, .glob, 0, .ar, 3⟩) := by decide

theorem test_example_words_vector :
    decodeV 0x04030886 = .ok (.vadd ⟨always, 3, 1, 2, 0, .i8⟩) ∧ decodeV 0x48132142 = .ok (.vcmp ⟨always, .c2, 3, 4, 5, 0, .f32⟩) ∧
    decodeV 0x98083812 = .ok (.vargmx ⟨always, 8, 7, 2, .f32⟩) ∧ decodeV 0x940632C0 = .ok (.vcx ⟨always, 6, 6, 11, 0, .i32⟩) ∧
    decodeV 0x8803A000 = .ok (.vbc ⟨always, 3, 40, 0, .i32⟩) ∧ decodeV 0x78094002 = .ok (.vred ⟨always, 9, 8, 0, .rne, 0, .f32⟩) ∧
    decodeV 0x8C01A000 = .ok (.vext ⟨always, 3, 8, 0, .i32⟩) := by decide

/-- Thread 6 with x7 and x8. -/
def with78 (a b : Word) : State := (thread 6).mapThread 0 6 fun t => { t with x := [(7, a), (8, b)] }

/-- Register x6 after an operation of thread 6. -/
def x6 (o : Host.Outcome State Fault Refusal) : Option Word :=
  match o with
  | .next t => some (readX t 0 6 6)
  | _ => none

/-- 15 R360's example: −7 by 2, and by 0. -/
theorem test_div : x6 (exec (.div ⟨always, 6, 7, .reg 8⟩) (with78 (-7) 2)) = some (-3) ∧ x6 (exec (.div ⟨always, 6, 7, .reg 8⟩) (with78 (-7) 0)) = some (-1) := by
  decide +kernel

theorem test_rem : x6 (exec (.rem ⟨always, 6, 7, .reg 8⟩) (with78 (-7) 2)) = some (-1) ∧ x6 (exec (.rem ⟨always, 6, 7, .reg 8⟩) (with78 (-7) 0)) = some (-7) := by
  decide +kernel

/-- 15 R362's example: eight bits from bit 8 of 0x12345678. -/
theorem test_extr : x6 (exec (.extr ⟨always, 6, 7, .imm 520⟩) (with78 0x12345678 0)) = some 0x56 := by decide +kernel

/-- 15 R359: a sum wraps, and a 32-bit one is extended. -/
theorem test_add_wraps : x6 (exec (.add ⟨always, 6, 7, .reg 8⟩) (with78 (-1) 1)) = some 0 := by decide +kernel
theorem test_addw_extends : x6 (exec (.addw ⟨always, 6, 7, .reg 8⟩) (with78 0x7FFFFFFF 1)) = some 0xFFFFFFFF80000000 := by decide +kernel

/-- 12 R314's example: 2.5 to a whole number under the four roundings, and 3.0e9, which saturates and raises NV. -/
theorem test_convert :
    (convert .f32 .i32 .rne 0x40200000).1 = 2 ∧ (convert .f32 .i32 .rtz 0x40200000).1 = 2 ∧ (convert .f32 .i32 .rup 0x40200000).1 = 3 ∧
    (convert .f32 .i32 .rdn 0x40200000).1 = 2 ∧ (convert .f32 .i32 .rne 0x4F32D05E).1 = 0x7FFFFFFF := by decide +kernel

/-- What holds of core 0 after an operation. -/
def core0After (o : Host.Outcome State Fault Refusal) (p : Core → Bool) : Bool :=
  match o with
  | .next t => p (t.core 0)
  | _ => false

/-- 09 R216, R217: a primary's sum is on its way for one tick and is then read. -/
theorem test_add_lands :
    (core0After (exec (.add ⟨always, 6, 0, .imm 5⟩) prim) fun k => tabGet 0 k.sreg 6 = 0 && tabGet 0 (landDue 1 { k with tick := 1 }).sreg 6 = 5) = true := by
  decide +kernel

/-- 15 R379; 09 Table Primary.10: TRAP 7 of a guidon holds it with cause 0x10 and the code. -/
theorem test_trap :
    (core0After (exec (.trap ⟨always, 7⟩) prim) fun k => k.run = .held && k.trapcause = 0x10 && k.trapinfo = 7) = true := by decide +kernel

/-- 16 R385: a word at an odd address is trapped at issue with MISALIGN, and makes no access. -/
theorem test_misalign :
    (core0After (exec (.ldd (at_ 1 .loc)) prim) fun k => k.trapcause = 6 && k.trapaddr = 1 && k.accs.isEmpty) = true := by decide +kernel

end Sys2Proof.Machine.Tests
end

section
/-! PROOFS. The machine never stops: whatever the agenda names, the step answers a next state (00 R11). An event whose condition does
not hold answers the state as it is, which is the model's choice (log entry 79). -/

namespace Sys2Proof.Machine

/-! ### The meanings that choose among outcomes

Only these decide which outcome they answer before they answer `.next`; every other meaning is `.next` of a state it computes. -/

/-- Both when its trap and guard are looked at and when a primary performs it again after a wait. -/
theorem runE_answers_next (s : State) (t : Option TrapInfo) (g : Guard) (body : State → State) : ∃ u, runE s t g body = .next u := by
  unfold runE
  split
  · split
    · exact ⟨_, rfl⟩
    · exact ⟨_, rfl⟩
  · exact ⟨_, rfl⟩

theorem execVrecv_answers_next (f : MeshForm) (s : State) : ∃ u, execVrecv f s = .next u := by
  unfold execVrecv
  split
  · exact ⟨_, rfl⟩
  · exact runE_answers_next ..

theorem execTyield_answers_next (s : State) : ∃ u, execTyield s = .next u := by
  unfold execTyield
  split
  · exact ⟨_, rfl⟩
  · split
    · exact ⟨_, rfl⟩
    · exact ⟨_, rfl⟩

/-! ### Every instruction and event -/

/-- The engine operations go through `runE`. The last case holds the events and the operations run by `runOp`, `runB` and `saveFrame`,
which answer `.next` on every path, a trap among them. -/
theorem exec_answers_next (i : Instr) (s : State) : ∃ u, exec i s = .next u := by
  cases i with
  | vrecv f => exact execVrecv_answers_next f s
  | tyield => exact execTyield_answers_next s
  | cpy | cpyV | cpyq | cpyw | cpyk | sqput | sqget | sqlen | sqlenArmHigh | sqlenArmLow | tspawn | twake | trace | vsend | live | migr
  | hbindOpen | hbindBind | hbindPark | hbindClose | hread | hframe | htent | hcommit | hcut | hcutT | hckpt
  | hplayHold | hplaySource | hplayHorizon => exact runE_answers_next ..
  | _ => exact ⟨_, rfl⟩

/-- Settles O60, by the two plans of a step: a state reached without an instruction, or an instruction to perform. -/
theorem everyStepAnswersANextState : Obligations.EveryStepAnswersANextState := by
  intro s
  unfold step
  split
  · exact ⟨_, rfl⟩
  · exact exec_answers_next ..

end Sys2Proof.Machine
end

section
/-! SUPPORT. What the closing of halyards leaves alone. A warm reset writes back and closes every live halyard (06 R153); that walks through
caches, bound jobs and records, and reaches neither the time base nor power nor any grant (01 R35). -/

namespace Sys2Proof.Machine

/-- The time base, power and every cluster's grant stand in t as in s. -/
structure KeepsSettings (s t : State) : Prop where
  time : t.time = s.time
  power : t.power = s.power
  grant : ∀ n, (t.cluster n).grant = (s.cluster n).grant

section
variable {s t : State}

theorem keepsSettings_refl (s : State) : KeepsSettings s s := ⟨rfl, rfl, fun _ => rfl⟩

/-! ### The updates of the state -/

theorem mapMem_keepsSettings (h : KeepsSettings s t) (f : Mem → Mem) : KeepsSettings s (t.mapMem f) := ⟨h.time, h.power, h.grant⟩

theorem mapCore_keepsSettings (h : KeepsSettings s t) (c : BitVec 10) (f : Core → Core) : KeepsSettings s (t.mapCore c f) :=
  ⟨h.time, h.power, h.grant⟩

theorem mapSched_keepsSettings (h : KeepsSettings s t) (f : Sched → Sched) : KeepsSettings s (t.mapSched f) := ⟨h.time, h.power, h.grant⟩

theorem mapOcc_keepsSettings (h : KeepsSettings s t) (id : Nat) (f : Occ → Occ) : KeepsSettings s (t.mapOcc id f) := ⟨h.time, h.power, h.grant⟩

theorem pushEvents_keepsSettings (h : KeepsSettings s t) (l : List (Instr × EvArg)) : KeepsSettings s (t.pushEvents l) :=
  ⟨h.time, h.power, h.grant⟩

/-- An update of a cluster that leaves its grant alone. -/
theorem mapCluster_keepsSettings (h : KeepsSettings s t) (n : BitVec 6) {f : Cluster → Cluster} (hf : ∀ k, (f k).grant = k.grant) :
    KeepsSettings s (t.mapCluster n f) := by
  refine ⟨h.time, h.power, fun m => ?_⟩
  rw [cluster_mapCluster]
  split
  · next e => rw [hf, e, h.grant]
  · exact h.grant m

/-- A fold of steps that each keep the settings keeps them. -/
theorem foldl_keepsSettings {α : Type} {f : State → α → State} (l : List α) (h : KeepsSettings s t)
    (hf : ∀ u a, KeepsSettings s u → KeepsSettings s (f u a)) : KeepsSettings s (l.foldl f t) :=
  List.foldlRecOn l f h fun u hu a _ => hf u a hu

/-! ### Writes to scratchpads and memory -/

theorem scatterPieces_keepsSettings (v : Nat) (ps : List Piece) : ∀ {t : State}, KeepsSettings s t → KeepsSettings s (scatterPieces t v ps) := by
  induction ps with
  | nil => exact id
  | cons p r ih => exact fun h => ih (mapMem_keepsSettings h _)

theorem plainWrite_keepsSettings (h : KeepsSettings s t) (a : Ag) (v : Nat) (ps : List Piece) : KeepsSettings s (plainWrite t a v ps) := by
  have tagged := foldl_keepsSettings (f := fun u p => setTags u p (plainTag u a 0 (clusterOf p.core))) ps
    (scatterPieces_keepsSettings v ps h) fun _ _ hu => mapMem_keepsSettings hu _
  exact pushEvents_keepsSettings (mapMem_keepsSettings tagged _) _

theorem setLineMark_keepsSettings (h : KeepsSettings s t) (pa : Nat) (f : LineMark → LineMark) : KeepsSettings s (setLineMark t pa f) :=
  mapMem_keepsSettings h _

theorem settleLine_keepsSettings (h : KeepsSettings s t) (pa : Nat) : KeepsSettings s (settleLine t pa) := mapMem_keepsSettings h _

theorem claimLine_keepsSettings (h : KeepsSettings s t) (x : BitVec 6) (leaf : Word) (va pa : Nat) :
    KeepsSettings s (claimLine t x leaf va pa) := by
  unfold claimLine
  split
  · exact h
  · exact setLineMark_keepsSettings (settleLine_keepsSettings h _) _ _

theorem storeLine_keepsSettings (h : KeepsSettings s t) (d : DLine) : KeepsSettings s (storeLine t d) := by
  unfold storeLine
  split
  · exact h
  · exact pushEvents_keepsSettings (mapMem_keepsSettings
      (foldl_keepsSettings _ (claimLine_keepsSettings h _ _ _ _) fun _ _ hu => mapMem_keepsSettings hu _) _) _

theorem yieldNear_keepsSettings (h : KeepsSettings s t) (c : BitVec 10) (pa : Nat) : KeepsSettings s (yieldNear t c pa) := by
  unfold yieldNear
  split
  · exact h
  · split
    · exact h
    · exact setLineMark_keepsSettings (mapCore_keepsSettings (foldl_keepsSettings _ h fun _ d hu => storeLine_keepsSettings hu d) _ _) _ _

theorem writeBackLine_keepsSettings (h : KeepsSettings s t) (c : BitVec 10) (d : DLine) : KeepsSettings s (writeBackLine t c d) := by
  unfold writeBackLine
  split
  · exact h
  · exact storeLine_keepsSettings (yieldNear_keepsSettings h c _) d

theorem sendHome_keepsSettings (h : KeepsSettings s t) (c : BitVec 10) (d : DLine) : KeepsSettings s (sendHome c t d) := by
  unfold sendHome
  dsimp only
  split
  · exact setLineMark_keepsSettings (writeBackLine_keepsSettings h c d) _ _
  · exact writeBackLine_keepsSettings h c d

theorem dcOut_keepsSettings (h : KeepsSettings s t) (c : BitVec 10) (p : DLine → Bool) : KeepsSettings s (dcOut t c p) := by
  unfold dcOut
  exact mapCore_keepsSettings (foldl_keepsSettings _ h fun _ d hu => sendHome_keepsSettings hu c d) _ _

theorem recallNear_keepsSettings (h : KeepsSettings s t) (pa : Nat) : KeepsSettings s (recallNear t pa) := by
  unfold recallNear
  split
  · exact h
  · exact setLineMark_keepsSettings (dcOut_keepsSettings h _ _) _ _

theorem evictLine_keepsSettings (h : KeepsSettings s t) (pa : Nat) : KeepsSettings s (evictLine t pa) :=
  settleLine_keepsSettings (recallNear_keepsSettings h pa) pa

theorem makeRoom_keepsSettings (h : KeepsSettings s t) (n : BitVec 8) (pa : Nat) : KeepsSettings s (makeRoom t n pa) := by
  unfold makeRoom
  split
  · exact h
  · split
    · exact evictLine_keepsSettings h _
    · exact h

theorem holdLine_keepsSettings (h : KeepsSettings s t) (x : BitVec 6) (leaf : Word) (va pa : Nat) :
    KeepsSettings s (holdLine t x leaf va pa) := by
  unfold holdLine
  split
  · exact h
  · exact makeRoom_keepsSettings (claimLine_keepsSettings (recallNear_keepsSettings h pa) _ _ _ _) _ _

theorem homeWrite_keepsSettings (h : KeepsSettings s t) (a : Ag) (x : BitVec 6) (leaf : Word) (through : Bool) (va pa n v : Nat) :
    KeepsSettings s (homeWrite t a x leaf through va pa n v) := by
  unfold homeWrite
  generalize (through || pteUncached leaf) = out
  cases out with
  | true => exact pushEvents_keepsSettings (mapMem_keepsSettings (mapMem_keepsSettings (mapMem_keepsSettings
      (evictLine_keepsSettings h pa) _) _) _) _
  | false => exact pushEvents_keepsSettings (mapMem_keepsSettings (mapMem_keepsSettings (mapMem_keepsSettings (mapMem_keepsSettings
      (recallNear_keepsSettings (holdLine_keepsSettings h x leaf va pa) pa) _) _) _) _) _

theorem halPut_keepsSettings (h : KeepsSettings s t) (dir : Nat) (ag : Ag) (through : Bool) (va n v : Nat) :
    KeepsSettings s (halPut t dir ag through va n v) := by
  unfold halPut
  split
  · exact plainWrite_keepsSettings h _ _ _
  · split
    · exact foldl_keepsSettings _ h fun _ _ hu => homeWrite_keepsSettings hu _ _ _ _ _ _ _ _
    · exact h

/-! ### Records, bound jobs and the closing of a halyard -/

theorem countRelease_keepsSettings (h : KeepsSettings s t) (a : Ag) (sc : Nat) : KeepsSettings s (countRelease t a sc) := by
  unfold countRelease
  split
  · exact h
  · next n _ =>
    have counted (r : Cluster → Tab (BitVec 16)) (c : Cluster → BitVec 16) :=
      mapCluster_keepsSettings h n (f := fun k => { k with rel := r k, crel := c k }) fun _ => rfl
    dsimp only
    split
    · exact pushEvents_keepsSettings (counted _ _) _
    · exact counted _ _

theorem noteRelease_keepsSettings (h : KeepsSettings s t) (a : Ag) (sc : Nat) (keys : List Nat) : KeepsSettings s (noteRelease t a sc keys) :=
  ⟨h.time, h.power, h.grant⟩

theorem writeRecord_keepsSettings (h : KeepsSettings s t) (dir : Nat) (ag : Ag) : KeepsSettings s (writeRecord t dir ag) := by
  have put := halPut_keepsSettings h dir ag true (t.halAt dir).addr.toNat 256 (leNat (recordBytes (t.halAt dir) (halNum dir)))
  unfold writeRecord
  dsimp only
  refine noteRelease_keepsSettings (countRelease_keepsSettings ?_ ag 4) _ _ _
  split
  · exact mapMem_keepsSettings put _
  · exact put

theorem queueFor_keepsSettings (h : KeepsSettings s t) (owner : Option Nat) (c : BitVec 10) (cause : Word) :
    KeepsSettings s (queueFor t owner c cause) := by
  unfold queueFor
  split
  · exact h
  · dsimp only
    split
    · exact mapOcc_keepsSettings h _ _
    · split
      · exact mapCore_keepsSettings h _ _
      · exact h

theorem leaveMisses_keepsSettings (h : KeepsSettings s t) (w : Requester) : KeepsSettings s (leaveMisses t w) := mapMem_keepsSettings h _

theorem cancelJob_keepsSettings (h : KeepsSettings s t) (cl : BitVec 6) (n : Nat) : KeepsSettings s (cancelJob t cl n) := by
  unfold cancelJob
  dsimp only
  split
  · have cancelled (w : Requester) (j : Cluster → Tab Job) := mapCluster_keepsSettings (leaveMisses_keepsSettings h w) cl
      (f := fun k => { k with jobs := j k }) fun _ => rfl
    unfold jobIrq
    split
    · exact queueFor_keepsSettings (cancelled _ _) _ _ _
    · exact cancelled _ _
  · exact h

theorem cancelBound_keepsSettings (h : KeepsSettings s t) (dir : Nat) : KeepsSettings s (cancelBound t dir) :=
  foldl_keepsSettings _ h fun _ _ hu => cancelJob_keepsSettings hu _ _

theorem closeHal_keepsSettings (h : KeepsSettings s t) (dir : Nat) : KeepsSettings s (closeHal t dir) := by
  have cancelled : KeepsSettings s (if (t.halAt dir).st = .live then cancelBound t dir else t) := by
    split
    · exact cancelBound_keepsSettings h dir
    · exact h
  unfold closeHal
  dsimp only
  generalize (if (t.halAt dir).st = .live then cancelBound t dir else t) = u at cancelled ⊢
  split
  · exact mapSched_keepsSettings cancelled _
  · exact writeRecord_keepsSettings (mapSched_keepsSettings cancelled _) _ _

theorem closeLive_keepsSettings (h : KeepsSettings s t) (dir : Nat) : KeepsSettings s (closeLive t dir) := by
  unfold closeLive
  split
  · exact h
  · exact closeHal_keepsSettings h dir

end

end Sys2Proof.Machine
end

section
/-! PROOFS. What resets leave: the time base, power, clusters and cores (01 R35; 03 R72-R74; 09 R239). Both resets end with the beginning
of a boot step, which touches the management unit and the links alone. -/

namespace Sys2Proof.Machine

/-! ### The state after reset -/

@[simp] theorem reset_core (c : BitVec 10) : State.reset.core c = Core.reset := rfl

@[simp] theorem reset_cluster (n : BitVec 6) : State.reset.cluster n = Cluster.reset := rfl

/-- Settles O59: after reset no core and no cluster is listed, so each reads as its reset value. -/
theorem resetStateHolds : Obligations.ResetStateHolds :=
  ⟨reset_mem_wf, rfl, rfl, rfl, rfl, fun c => by rw [reset_core]; exact ⟨rfl, rfl, rfl, rfl⟩,
    fun n => by rw [reset_cluster]; exact ⟨rfl, rfl⟩, rfl⟩

/-! ### The beginning of a boot step -/

/-- A boot that is not a warm one skips no step. -/
theorem nextStep_of_not_warm {s : State} (h : s.mgmt.warm = false) (m n : Nat) : nextStep s m n = n := by
  cases m with
  | zero => rfl
  | succ m => simp [nextStep, skipsStep, h]

/-- t is s but for the management unit and the links; where keep holds, both copies of the boot record stand in t as in s. -/
def BootFrame (keep : Prop) (s t : State) : Prop :=
  ∃ m l, t = { s with mgmt := m, links := l } ∧ (keep → m.copyA = s.mgmt.copyA ∧ m.copyB = s.mgmt.copyB)

theorem mapLink_bootFrame {keep : Prop} {s t : State} (h : BootFrame keep s t) (n : BitVec 4) (f : Link → Link) :
    BootFrame keep s (t.mapLink n f) := by
  obtain ⟨m, l, rfl, copies⟩ := h
  exact ⟨_, _, rfl, copies⟩

/-- Only the beginning of step 2 may give up a copy of the boot record. -/
theorem beginStep_bootFrame (s : State) (n : Nat) : BootFrame (nextStep s 9 n ≠ 2) s (beginStep s n) := by
  have noted (f : Mgmt → Mgmt) (h : nextStep s 9 n ≠ 2 → (f s.mgmt).copyA = s.mgmt.copyA ∧ (f s.mgmt).copyB = s.mgmt.copyB) :
      BootFrame (nextStep s 9 n ≠ 2) s (s.mapMgmt f) := ⟨f s.mgmt, _, rfl, h⟩
  unfold beginStep
  dsimp only
  split
  · exact List.foldlRecOn _ _ (noted _ fun h => by simp [h]) fun u hu i _ => mapLink_bootFrame hu _ _
  · exact noted _ fun h => by simp [h]

/-- What depends on neither the management unit nor the links stands as before. -/
theorem BootFrame.get_eq {keep : Prop} {s t : State} (h : BootFrame keep s t) {α : Type} (get : State → α)
    (hget : ∀ u m l, get { u with mgmt := m, links := l } = get u) : get t = get s := by
  obtain ⟨m, l, rfl, -⟩ := h
  exact hget s m l

@[simp] theorem beginStep_time (s : State) (n : Nat) : (beginStep s n).time = s.time :=
  (beginStep_bootFrame s n).get_eq State.time fun _ _ _ => rfl
@[simp] theorem beginStep_power (s : State) (n : Nat) : (beginStep s n).power = s.power :=
  (beginStep_bootFrame s n).get_eq State.power fun _ _ _ => rfl
@[simp] theorem beginStep_sched (s : State) (n : Nat) : (beginStep s n).sched = s.sched :=
  (beginStep_bootFrame s n).get_eq State.sched fun _ _ _ => rfl
@[simp] theorem beginStep_spad (s : State) (n : Nat) : (beginStep s n).mem.spad = s.mem.spad :=
  (beginStep_bootFrame s n).get_eq (·.mem.spad) fun _ _ _ => rfl
@[simp] theorem beginStep_clusters (s : State) (n : Nat) : (beginStep s n).clusters = s.clusters :=
  (beginStep_bootFrame s n).get_eq State.clusters fun _ _ _ => rfl
@[simp] theorem beginStep_cores (s : State) (n : Nat) : (beginStep s n).cores = s.cores :=
  (beginStep_bootFrame s n).get_eq State.cores fun _ _ _ => rfl

theorem beginStep_copies {s : State} {n : Nat} (h : nextStep s 9 n ≠ 2) :
    (beginStep s n).mgmt.copyA = s.mgmt.copyA ∧ (beginStep s n).mgmt.copyB = s.mgmt.copyB := by
  obtain ⟨m, l, e, copies⟩ := beginStep_bootFrame s n
  rw [e]
  exact copies h

/-! ### The cold reset -/

theorem coldReset_time (s : State) : (coldReset s).time = TimeBase.reset := beginStep_time _ _

theorem coldReset_cost (s : State) : (coldReset s).power.cost = costReset := congrArg Power.cost (beginStep_power _ _)

theorem coldReset_sched (s : State) : (coldReset s).sched = Sched.reset := beginStep_sched _ _

theorem coldReset_cores (s : State) : (coldReset s).cores = [] := beginStep_cores _ _

theorem coldReset_core (s : State) (c : BitVec 10) : (coldReset s).core c = Core.reset := by
  rw [State.core, coldReset_cores, tabGet_nil]

theorem coldReset_cluster (s : State) (n : BitVec 6) : (coldReset s).cluster n = Cluster.reset := by
  have clusters : (coldReset s).clusters = [] := beginStep_clusters _ _
  rw [State.cluster, clusters, tabGet_nil]

/-- Boot begins at step 1, which gives up no copy of the boot record. -/
theorem coldReset_copies (s : State) : (coldReset s).mgmt.copyA = s.mgmt.copyA ∧ (coldReset s).mgmt.copyB = s.mgmt.copyB :=
  beginStep_copies (by rw [nextStep_of_not_warm rfl]; decide)

/-! ### The warm reset -/

/-- Every live halyard is written back and closed (06 R153). -/
def closeHalyards (s : State) : State := (s.sched.hals.map fun e => e.1).foldl closeLive s

theorem closeHalyards_keepsSettings (s : State) : KeepsSettings s (closeHalyards s) :=
  foldl_keepsSettings _ (keepsSettings_refl s) fun _ dir hu => closeLive_keepsSettings hu dir

/-- Without a live halyard there is none to close. -/
theorem closeHalyards_of_none_live {s : State} (h : ∀ dir, (s.halAt dir).st ≠ .live) : closeHalyards s = s :=
  List.foldlRecOn (motive := (· = s)) _ closeLive rfl fun u hu dir _ => by
    rw [hu]
    exact if_pos (h dir)

/-- A cluster after a warm reset: its grant, a full pool and its overdraw counter. -/
def warmCluster (k : Cluster) : Cluster := { Cluster.reset with grant := k.grant, pool := k.grant.toNat, overdraw := k.overdraw, nextBurgee := 0 }

theorem warmReset_time (s : State) : (warmReset s).time = { s.time with cycle := 0, launched := false } := by
  have base : (warmReset s).time = { (closeHalyards s).time with cycle := 0, launched := false } := beginStep_time _ _
  rw [base, (closeHalyards_keepsSettings s).time]

theorem warmReset_cycle (s : State) : (warmReset s).time.cycle = 0 := by rw [warmReset_time]

theorem warmReset_now (s : State) : (warmReset s).time.now = s.time.now := by rw [warmReset_time]

theorem warmReset_power (s : State) : (warmReset s).power = s.power := by
  have base : (warmReset s).power = (closeHalyards s).power := beginStep_power _ _
  rw [base, (closeHalyards_keepsSettings s).power]

theorem warmReset_cores (s : State) : (warmReset s).cores = [] := beginStep_cores _ _

theorem warmReset_spad (s : State) : (warmReset s).mem.spad = (closeHalyards s).mem.spad := beginStep_spad _ _

theorem warmReset_cluster (s : State) (n : BitVec 6) : (warmReset s).cluster n = warmCluster ((closeHalyards s).cluster n) := by
  have clusters : (warmReset s).clusters = tabMap Cluster.reset (fun _ k => warmCluster k) (closeHalyards s).clusters := beginStep_clusters _ _
  rw [State.cluster, clusters, tabGet_tabMap _ _ _ rfl, State.cluster]

theorem warmReset_reserved (s : State) (n : BitVec 6) : ((warmReset s).cluster n).reserved = 0 := by
  rw [warmReset_cluster, warmCluster]
  rfl

theorem warmReset_grant (s : State) (n : BitVec 6) : ((warmReset s).cluster n).grant = (s.cluster n).grant := by
  rw [warmReset_cluster, warmCluster]
  exact (closeHalyards_keepsSettings s).grant n

/-- While power is on, WARM_RESET is the warm reset. -/
theorem exec_warmReset_of_on {s : State} (h : s.power.on = true) : exec .warmReset s = .next (warmReset s) :=
  congrArg Host.Outcome.next (if_pos h)

/-! ### The statements about resets -/

/-- Settles O53, field by field, from what the two resets leave. -/
theorem resetsOfTimeAndPower : Obligations.ResetsOfTimeAndPower := by
  intro s
  refine ⟨⟨coldReset s, rfl, ?_⟩, fun on => ⟨warmReset s, exec_warmReset_of_on on, ?_⟩⟩
  · simp only [coldReset_time, coldReset_cost, coldReset_cluster, coldReset_core]
    exact ⟨rfl, rfl, ⟨rfl, rfl, rfl, rfl, rfl, rfl, rfl⟩, rfl, fun _ => ⟨rfl, rfl⟩, fun _ => ⟨rfl, rfl⟩⟩
  · exact ⟨warmReset_cycle s, warmReset_reserved s, warmReset_time s, warmReset_grant s, congrArg Power.cost (warmReset_power s)⟩

/-- Settles O12, from what the two resets leave; with no live halyard there is nothing to write back, and the scratchpads stay. -/
theorem resetsLeaveTheStatedState : Obligations.ResetsLeaveTheStatedState := by
  intro s
  refine ⟨⟨coldReset s, rfl, ?_⟩, fun n failed => ?_, fun on => ⟨warmReset s, exec_warmReset_of_on on, ?_⟩⟩
  · simp only [coldReset_cluster, coldReset_core]
    exact ⟨coldReset_time s, coldReset_cores s, coldReset_cost s, fun _ => ⟨rfl, rfl⟩, fun _ => rfl, coldReset_sched s, coldReset_copies s⟩
  · show execBootFailReset s = .next (coldReset s)
    rw [execBootFailReset, failed]
  · refine ⟨warmReset_cycle s, warmReset_cores s, warmReset_reserved s, fun closed =>
      ⟨warmReset_now s, congrArg Power.cost (warmReset_power s), ?_, warmReset_grant s⟩⟩
    rw [warmReset_spad, closeHalyards_of_none_live closed]

end Sys2Proof.Machine
end

section
/-! PROOFS. The discipline of NOW (01 R31-R33; 03 R79): which source is chosen, what a first lock, a later choice and a measurement do to the
time base, and the statement about the events of time sources. -/

namespace Sys2Proof.Machine

/-! ### Choosing a source -/

@[simp] theorem shiftTimers_time (s : State) (x : Word) : (shiftTimers s x).time = s.time := by
  unfold shiftTimers
  split <;> rfl

/-- No source is left: holdover, once NOW has been locked. -/
theorem chooseSource_time_none {s : State} (hb : bestSource s.time = 0) (hl : everLocked s.time = true) :
    (chooseSource s).time = { s.time with source := 0, link := 0, locked := false, holdover := true } := by
  unfold chooseSource
  dsimp only
  rw [shiftTimers_time, State.mapTime_time, if_pos hb, if_pos hl]

/-- The time base with the best source in use. -/
def withBest (s : State) : TimeBase :=
  { s.time with source := bestSource s.time, locked := true, holdover := false,
                link := if bestSource s.time = 3 then (sourceLink s).getD s.time.link else 0 }

/-- A later choice takes the best source, with no step of NOW. -/
theorem chooseSource_time_later {s : State} (hb : bestSource s.time ≠ 0) (hl : everLocked s.time = true) :
    (chooseSource s).time = withBest s := by
  unfold chooseSource
  dsimp only
  rw [shiftTimers_time, State.mapTime_time, if_neg hb, if_pos hl, withBest]

/-- The first choice is the first lock, at the noted offset of the best source. -/
theorem chooseSource_time_first {s : State} (hb : bestSource s.time ≠ 0) (hl : everLocked s.time = false) :
    (chooseSource s).time = firstLock (withBest s) (tabGet 0 s.time.offs (bestSource s.time).toNat) := by
  unfold chooseSource
  dsimp only
  rw [shiftTimers_time, State.mapTime_time, if_neg hb, hl, if_neg Bool.false_ne_true, withBest]

/-- Before any lock, with no source, nothing is chosen. -/
theorem chooseSource_time_idle {s : State} (hb : bestSource s.time = 0) (hl : everLocked s.time = false) :
    (chooseSource s).time = s.time := by
  unfold chooseSource
  dsimp only
  rw [shiftTimers_time, State.mapTime_time, if_pos hb, hl, if_neg Bool.false_ne_true]

/-! ### What a choice leaves alone -/

/-- Once NOW has been locked, a choice of source neither steps it nor touches its slew. -/
theorem chooseSource_later {s : State} (hl : everLocked s.time = true) : (chooseSource s).time.now = s.time.now ∧
    (chooseSource s).time.slew = s.time.slew ∧ (chooseSource s).time.source = bestSource s.time ∧
    (chooseSource s).time.holdover = decide (bestSource s.time = 0) := by
  by_cases hb : bestSource s.time = 0
  · rw [chooseSource_time_none hb hl]
    exact ⟨rfl, rfl, hb.symm, (decide_eq_true hb).symm⟩
  · rw [chooseSource_time_later hb hl]
    exact ⟨rfl, rfl, rfl, (decide_eq_false hb).symm⟩

/-- The codes and the link of TIMECFG (03 Table Host.9) stand in u as in t. -/
def SameConfig (t u : TimeBase) : Prop := u.first = t.first ∧ u.second = t.second ∧ u.third = t.third ∧ u.cfgLink = t.cfgLink

theorem firstLock_sameConfig (t : TimeBase) (x : Int) : SameConfig t (firstLock t x) := by
  unfold firstLock
  split <;> exact ⟨rfl, rfl, rfl, rfl⟩

/-- No choice of source changes TIMECFG. -/
theorem chooseSource_sameConfig (s : State) : SameConfig s.time (chooseSource s).time := by
  by_cases hb : bestSource s.time = 0
  · cases hl : everLocked s.time with
    | false =>
      rw [chooseSource_time_idle hb hl]
      exact ⟨rfl, rfl, rfl, rfl⟩
    | true =>
      rw [chooseSource_time_none hb hl]
      exact ⟨rfl, rfl, rfl, rfl⟩
  · cases hl : everLocked s.time with
    | false =>
      rw [chooseSource_time_first hb hl]
      exact firstLock_sameConfig (withBest s) _
    | true =>
      rw [chooseSource_time_later hb hl]
      exact ⟨rfl, rfl, rfl, rfl⟩

/-! ### The first lock -/

theorem firstLock_locked (t : TimeBase) (x : Int) : (firstLock t x).locked = t.locked := by
  unfold firstLock
  split <;> rfl

theorem firstLock_source (t : TimeBase) (x : Int) : (firstLock t x).source = t.source := by
  unfold firstLock
  split <;> rfl

/-- Before any launch the first lock steps NOW by the offset. -/
theorem firstLock_steps {t : TimeBase} (h : t.launched = false) (x : Int) :
    (firstLock t x).now = wrap (t.now.toNat + x) ∧ (firstLock t x).stepped = true := by
  simp [firstLock, h]

/-- After a launch the first lock shows the offset and removes it by slew alone. -/
theorem firstLock_steers {t : TimeBase} (h : t.launched = true) (x : Int) :
    (firstLock t x).now = t.now ∧ (firstLock t x).offset = satOffset x := by
  simp [firstLock, h, steer]

/-- A step by the offset of a source's time takes NOW to that time. -/
theorem wrap_add_offsetTo (s : State) (t : Word) : wrap (s.time.now.toNat + offsetTo s t) = t := by
  rw [wrap, offsetTo, BitVec.ofInt_add, BitVec.ofInt_natCast, BitVec.ofInt_toInt, BitVec.ofNat_toNat, BitVec.setWidth_eq]
  exact (BitVec.add_comm _ _).trans (BitVec.sub_add_cancel _ _)

/-- The time base with source n available at offset x. -/
def sourceUp (t : TimeBase) (n : BitVec 4) (x : Int) : TimeBase :=
  { t with avail := putField t.avail n.toNat 1 1, offs := tabPut 0 t.offs n.toNat x }

/-- The first source to become available, if it is the best one, gives the first lock. -/
theorem lockSource_time_first {s : State} {n : BitVec 4} (x : Int) (h1 : 1 ≤ n.toNat) (h3 : n.toNat ≤ 3) (hl : everLocked s.time = false)
    (hb : bestSource (sourceUp s.time n x) = n) :
    (lockSource s n x).time = firstLock (withBest (s.mapTime fun t => sourceUp t n x)) x := by
  have best : bestSource (sourceUp s.time n x) ≠ 0 := by
    rw [hb]
    rintro rfl
    exact absurd h1 (by decide)
  have first := chooseSource_time_first (s := s.mapTime fun t => sourceUp t n x) best hl
  have offset : tabGet 0 (sourceUp s.time n x).offs n.toNat = x := tabGet_tabPut_same _ _ _
  rw [State.mapTime_time, hb, offset] at first
  unfold lockSource
  rw [hl, if_neg (by simp [h1, h3])]
  exact (congrArg State.time (if_neg best)).trans first

/-- The first source to become available, if it is the best one, is taken: NOW steps to its time, or, once a launch has run, is slewed toward
it (01 R32). -/
theorem lockSource_first {s : State} {n : BitVec 4} (v : Word) (h1 : 1 ≤ n.toNat) (h3 : n.toNat ≤ 3) (hl : everLocked s.time = false)
    (hb : bestSource (sourceUp s.time n (offsetTo s v)) = n) :
    let t := lockSource s n (offsetTo s v)
    t.time.locked = true ∧ t.time.source = n ∧ (s.time.launched = false → t.time.now = v ∧ t.time.stepped = true) ∧
      (s.time.launched = true → t.time.now = s.time.now ∧ t.time.offset = satOffset (offsetTo s v)) := by
  intro t
  let u := s.mapTime fun t => sourceUp t n (offsetTo s v)
  have time : t.time = firstLock (withBest u) (offsetTo s v) := lockSource_time_first _ h1 h3 hl hb
  rw [time]
  refine ⟨firstLock_locked _ _, (firstLock_source _ _).trans hb, fun unlaunched => ?_,
    fun launched => firstLock_steers (t := withBest u) launched _⟩
  obtain ⟨now, stepped⟩ := firstLock_steps (t := withBest u) unlaunched (offsetTo s v)
  exact ⟨now.trans (wrap_add_offsetTo s v), stepped⟩

/-! ### Losses, samples and TIMECFG -/

theorem loseSource_inUse {s : State} {n : BitVec 4} (hs : s.time.source = n) (hn : n ≠ 0) :
    loseSource s n = chooseSource (s.mapTime fun t => { t with avail := putField t.avail n.toNat 1 0 }) := by
  unfold loseSource
  exact if_pos (by simpa [hs] using hn)

theorem measureOffset_inUse {s : State} {n : BitVec 4} (x : Int) (hl : s.time.locked = true) (hs : s.time.source = n) :
    (measureOffset s n x).time = steer { s.time with offs := tabPut 0 s.time.offs n.toNat x } x := by
  simp [measureOffset, hl, hs]

/-- The owner's write of an administration register is performed. -/
theorem ownerWrite_owner {s : State} {w : Who} (f : State → State) (hr : reachable s w = true) (ho : isOwner s w = true) :
    ownerWrite s w f = f s := by
  simp [ownerWrite, hr, ho]

/-- The time base as the owner's write of TIMECFG sets it. -/
def withConfig (t : TimeBase) (v : Word) : TimeBase :=
  { t with anylink := v.getLsbD 16, cfgLink := v.extractLsb' 12 4, third := v.extractLsb' 8 4, second := v.extractLsb' 4 4,
           first := v.extractLsb' 0 4 }

/-- The three codes of a TIMECFG value, from its low 12 bits. -/
theorem timecfg_codes {v : Word} {a b c : BitVec 4} (hv : v.extractLsb' 0 12 = c ++ b ++ a) :
    v.extractLsb' 0 4 = a ∧ v.extractLsb' 4 4 = b ∧ v.extractLsb' 8 4 = c := by
  have code (lo : Nat) (h : lo + 4 ≤ 12) : v.extractLsb' lo 4 = (c ++ b ++ a).extractLsb' lo 4 := by
    rw [← hv, BitVec.extractLsb'_extractLsb'_of_le h]
  refine ⟨?_, ?_, ?_⟩
  · rw [code 0 (by decide), BitVec.extractLsb'_append_eq_right]
  · rw [code 4 (by decide), BitVec.extractLsb'_append_eq_of_le (by decide), BitVec.extractLsb'_append_eq_right]
  · rw [code 8 (by decide), BitVec.extractLsb'_append_eq_of_le (by decide), BitVec.extractLsb'_append_eq_left]

/-- The owner's write of TIMECFG, with codes below 4 and no source named twice, is followed by a choice among the sources. -/
theorem writeTimecfg_owner {s : State} {w : Who} {v : Word} (hr : reachable s w = true) (ho : isOwner s w = true) {a b c : BitVec 4}
    (hv : v.extractLsb' 0 12 = c ++ b ++ a) (ha : a ≤ 3) (hb : b ≤ 3) (hc : c ≤ 3)
    (hab : a = 0 ∨ (a ≠ b ∧ a ≠ c)) (hbc : b = 0 ∨ b ≠ c) :
    writeTimecfg s w v = chooseSource (s.mapTime fun t => withConfig t v) := by
  obtain ⟨va, vb, vc⟩ := timecfg_codes hv
  have ok : ¬(a > 3 || b > 3 || c > 3 || (a ≠ 0 && (a = b || a = c)) || (b ≠ 0 && b = c)) = true := by
    simp only [gt_iff_lt, Bool.or_eq_true, Bool.and_eq_true, decide_eq_true_eq, not_or, not_and, BitVec.not_lt]
    exact ⟨⟨⟨⟨ha, hb⟩, hc⟩, fun h => hab.resolve_left h⟩, fun h => hbc.resolve_left h⟩
  rw [writeTimecfg, ownerWrite_owner _ hr ho, va, vb, vc]
  dsimp only
  rw [if_neg ok]
  simp only [withConfig, va, vb, vc]

/-! ### The statement -/

theorem exec_timeSourceLock {s : State} {n : BitVec 4} (h : s.ev.ix = n.toNat) :
    exec .timeSourceLock s = .next (lockSource s n (offsetTo s s.ev.value)) := by
  show execTimeSourceLock s = _
  rw [execTimeSourceLock, h, BitVec.ofNat_toNat, BitVec.setWidth_eq]

theorem exec_timeSourceLoss {s : State} {n : BitVec 4} (h : s.ev.ix = n.toNat) (h1 : 1 ≤ n.toNat) (h3 : n.toNat ≤ 3) :
    exec .timeSourceLoss s = .next (loseSource s n) := by
  show execTimeSourceLoss s = _
  rw [execTimeSourceLoss, h, BitVec.ofNat_toNat, BitVec.setWidth_eq, if_pos (by simp [h1, h3])]

/-- Settles O3, clause by clause: a first lock, the loss of the source in use, a sample of it, and the owner's write of TIMECFG. -/
theorem timeSourcesDisciplineNow : Obligations.TimeSourcesDisciplineNow := by
  intro s
  refine ⟨fun n h1 h3 hix hl hb => ⟨_, exec_timeSourceLock hix, lockSource_first _ h1 h3 hl hb⟩,
    fun n h1 h3 hix hl hs => ⟨_, exec_timeSourceLoss hix h1 h3, ?_⟩, fun hl hs => ⟨_, rfl, ?_⟩,
    fun hr ho a b c hv ha hb hc hab hbc => ⟨_, rfl, ?_⟩⟩
  · rw [loseSource_inUse hs (by rintro rfl; exact absurd h1 (by decide))]
    exact chooseSource_later hl
  · dsimp only
    rw [measureOffset_inUse _ hl hs]
    exact ⟨rfl, rfl⟩
  · rw [writeTimecfg_owner hr ho hv ha hb hc hab hbc]
    obtain ⟨va, vb, vc⟩ := timecfg_codes hv
    obtain ⟨first, second, third, link⟩ := chooseSource_sameConfig (s.mapTime fun t => withConfig t s.ev.value)
    exact ⟨first.trans va, second.trans vb, third.trans vc, link, 
      fun hl => (chooseSource_later (s := s.mapTime fun t => withConfig t s.ev.value) hl).1⟩

end Sys2Proof.Machine
end

section
/-! PROOFS. What a write of GRANTn does (01 R18; 03 R68, R79). Besides the grant it takes the cluster off the list of those that the power cap
is still to raise; so where the cluster is on that list, the grant is not all that changes. -/

namespace Sys2Proof.Machine

/-- The owner's write of a grant within the module budget and not below the cluster's reserved sum: the grant is set, and the cap in force
no longer raises it. -/
theorem writeGrant_owner {s : State} {w : Who} {n : BitVec 6} {v : BitVec 32} (hr : reachable s w = true) (ho : isOwner s w = true)
    (budget : otherGrants s n + v.toNat ≤ 1300000000) (reserved : (s.cluster n).reserved ≤ v) :
    writeGrant s w n v = { s.mapCluster n fun k => { k with grant := v } with
      power := { s.power with capRaise := putField s.power.capRaise n.toNat 1 0 } } := by
  rw [writeGrant, ownerWrite_owner _ hr ho]
  refine if_neg ?_
  simpa using ⟨budget, reserved⟩

/-- A state such as a POWER_CAP of 1,600 W leaves: cluster 0's reserved sum takes so much of the module budget that cluster 1 gets 625,000 of
its share, and is on the list of those still to be raised. The PF, the owner, writes GRANT1. -/
def capRaising : State :=
  { State.reset with
    owner := { Owner.reset with holder := 1 }
    power := { Power.reset with capRaise := 2 }
    clusters := [(0, { Cluster.reset with grant := 40000000, reserved := 40000000 }), (1, { Cluster.reset with grant := 625000 })]
    ev := { who := .fn 0, ix := 1, value := 625000 } }

/-- Refutes O2: the write of GRANT1 in `capRaising` takes cluster 1 off the list capRaise, where the statement has a write change the grant
alone. -/
theorem not_powerEventsTakeEffect : ¬ Obligations.PowerEventsTakeEffect := by
  intro h
  obtain ⟨-, grantWrites, -⟩ := h capRaising
  have budget : otherGrants capRaising 1 + (625000 : BitVec 32).toNat ≤ 1300000000 := by decide +kernel
  have reserved : (capRaising.cluster 1).reserved ≤ (625000 : BitVec 32) := by decide
  have stated : exec .grantWrite capRaising = _ := grantWrites 1 625000 rfl rfl rfl rfl budget reserved
  have written : exec .grantWrite capRaising = _ := congrArg Host.Outcome.next (writeGrant_owner (n := 1) rfl rfl budget reserved)
  have raise := congrArg (fun t : State => t.power.capRaise) (Host.Outcome.next.inj (written.symm.trans stated))
  exact absurd raise (by decide)

end Sys2Proof.Machine
end

section
/-! SUPPORT. What traffic on links leaves alone (02 R43-R50). Sending, resending and acknowledging flits move sequence numbers, buffers and
credits; a link's state, width, neighbour and samples stand, and so do the event, NOW and DEVNUM. -/

namespace Sys2Proof.Machine

/-! ### Reads of links after writes -/

theorem link_mapLink (s : State) (n m : BitVec 4) (f : Link → Link) : (s.mapLink n f).link m = if n = m then f (s.link n) else s.link m := by
  simp only [State.link, State.mapLink, tabGet_tabPut, BitVec.toNat_inj]

@[simp] theorem link_mapLink_same (s : State) (n : BitVec 4) (f : Link → Link) : (s.mapLink n f).link n = f (s.link n) := by
  rw [link_mapLink, if_pos rfl]

/-- The link that an event names by its number. -/
theorem ofNat_ix {s : State} {n : BitVec 4} (h : s.ev.ix = n.toNat) : BitVec.ofNat 4 s.ev.ix = n := by
  rw [h, BitVec.ofNat_toNat, BitVec.setWidth_eq]

/-! ### Traffic -/

/-- A link but for what traffic moves: sequence numbers, buffers, credits and the count of resends. -/
def Link.condition (l : Link) : Link :=
  { l with retry := 0, nextSeq := 0, lastSeq := 0, replay := [], tries := [], credits := [], waiting := [], since := [] }

/-- From s to t there is traffic alone. -/
structure OnlyTraffic (s t : State) : Prop where
  ev : t.ev = s.ev
  time : t.time = s.time
  devnum : t.links.devnum = s.links.devnum
  link : ∀ n, (t.link n).condition = (s.link n).condition

/-- Traffic that takes nothing out of what waits for a link. -/
structure OnlySends (s t : State) : Prop extends OnlyTraffic s t where
  waiting : ∀ n, (s.link n).waiting <+: (t.link n).waiting

section
variable {s t u : State}

theorem OnlyTraffic.trans (h : OnlyTraffic s t) (k : OnlyTraffic t u) : OnlyTraffic s u :=
  ⟨k.ev.trans h.ev, k.time.trans h.time, k.devnum.trans h.devnum, fun n => (k.link n).trans (h.link n)⟩

theorem OnlySends.trans (h : OnlySends s t) (k : OnlySends t u) : OnlySends s u :=
  ⟨h.toOnlyTraffic.trans k.toOnlyTraffic, fun n => (h.waiting n).trans (k.waiting n)⟩

/-- What leaves the table of links as it is sends at most. -/
theorem onlySends_of_links_eq (ev : t.ev = s.ev) (time : t.time = s.time) (devnum : t.links.devnum = s.links.devnum)
    (links : t.links.links = s.links.links) : OnlySends s t := by
  have link (n : BitVec 4) : t.link n = s.link n := by rw [State.link, links]; rfl
  exact ⟨⟨ev, time, devnum, fun n => by rw [link]⟩, fun n => ⟨[], by rw [List.append_nil, link]⟩⟩

theorem onlySends_refl (s : State) : OnlySends s s := onlySends_of_links_eq rfl rfl rfl rfl

theorem mapLink_onlyTraffic (s : State) (n : BitVec 4) {f : Link → Link} (hf : (f (s.link n)).condition = (s.link n).condition) :
    OnlyTraffic s (s.mapLink n f) := by
  refine ⟨rfl, rfl, rfl, fun m => ?_⟩
  rw [link_mapLink]
  split
  · next e => rw [hf, e]
  · rfl

theorem mapLink_onlySends (s : State) (n : BitVec 4) {f : Link → Link} (hf : (f (s.link n)).condition = (s.link n).condition)
    (hw : (s.link n).waiting <+: (f (s.link n)).waiting) : OnlySends s (s.mapLink n f) := by
  refine ⟨mapLink_onlyTraffic s n hf, fun m => ?_⟩
  rw [link_mapLink]
  split
  · next e => rwa [← e]
  · exact List.prefix_rfl

theorem foldl_onlySends {α : Type} {f : State → α → State} (hf : ∀ u a, OnlySends u (f u a)) (l : List α) (s : State) :
    OnlySends s (l.foldl f s) :=
  List.foldlRecOn (motive := OnlySends s) l f (onlySends_refl s) fun u hu a _ => hu.trans (hf u a)

end

/-! ### What stands under traffic -/

section
variable {s t : State} (h : OnlyTraffic s t) (n : BitVec 4)
include h

theorem OnlyTraffic.state : (t.link n).state = (s.link n).state := (congrArg Link.state (h.link n) :)
theorem OnlyTraffic.lanes : (t.link n).lanes = (s.link n).lanes := (congrArg Link.lanes (h.link n) :)
theorem OnlyTraffic.peer : (t.link n).peer = (s.link n).peer := (congrArg Link.peer (h.link n) :)
theorem OnlyTraffic.uncorr : (t.link n).uncorr = (s.link n).uncorr := (congrArg Link.uncorr (h.link n) :)
theorem OnlyTraffic.missed : (t.link n).missed = (s.link n).missed := (congrArg Link.missed (h.link n) :)

end

/-! ### Sending -/

theorem output_onlySends (s : State) (n : BitVec 4) (f : Flit) : OnlySends s (output s n f) := onlySends_of_links_eq rfl rfl rfl rfl

theorem pushEvents_onlySends (s : State) (l : List (Instr × EvArg)) : OnlySends s (s.pushEvents l) := onlySends_of_links_eq rfl rfl rfl rfl

theorem countDrop_onlySends (s : State) : OnlySends s (countDrop s) := onlySends_of_links_eq rfl rfl rfl rfl

theorem laterMessage_onlySends (s : State) (f : Flit) : OnlySends s (laterMessage s f) := onlySends_of_links_eq rfl rfl rfl rfl

theorem transmit_onlySends (s : State) (n : BitVec 4) (f : Flit) : OnlySends s (transmit s n f) :=
  (mapLink_onlySends s n rfl List.prefix_rfl).trans (output_onlySends ..)

theorem sendBare_onlySends (s : State) (n : BitVec 4) (kind len : Nat) (nak : Bool) (payload : List Byte) :
    OnlySends s (sendBare s n kind len nak payload) := by
  unfold sendBare
  dsimp only
  split
  · exact onlySends_refl s
  · exact output_onlySends ..

/-- A flit is sent, or waits behind those that wait already. -/
theorem putFlit_onlySends (s : State) (n : BitVec 4) (fresh : Bool) (f : Flit) : OnlySends s (putFlit s n fresh f) := by
  unfold putFlit
  dsimp only
  split
  · exact transmit_onlySends s n f
  · exact mapLink_onlySends s n rfl (List.prefix_append ..)

theorem trySend_onlySends (s : State) (f : Flit) {lost : State → State} (hl : ∀ u, OnlySends u (lost u)) : OnlySends s (trySend s f lost) := by
  unfold trySend
  split
  · exact pushEvents_onlySends ..
  · dsimp only
    split
    · exact (countDrop_onlySends s).trans (hl _)
    · exact putFlit_onlySends ..

theorem loseMessage_onlySends (s : State) (f : Flit) : OnlySends s (loseMessage s f) := by
  unfold loseMessage
  split
  · exact onlySends_refl s
  · split
    · exact laterMessage_onlySends s f
    · exact trySend_onlySends s _ onlySends_refl

theorem dropFlit_onlySends (s : State) (f : Flit) : OnlySends s (dropFlit s f) :=
  (countDrop_onlySends s).trans (loseMessage_onlySends ..)

theorem sendReplay_onlySends (s : State) (n : BitVec 4) : OnlySends s (sendReplay s n) :=
  foldl_onlySends (fun _ _ => output_onlySends ..) _ s

/-- What waits is taken out and put on the link again: traffic, though not only sending. -/
theorem flushLink_onlyTraffic (s : State) (n : BitVec 4) : OnlyTraffic s (flushLink s n) :=
  (mapLink_onlyTraffic s n rfl).trans (foldl_onlySends (fun u f => putFlit_onlySends u n false f) _ _).toOnlyTraffic

/-! ### Headers and acknowledgements -/

theorem resend_onlySends (s : State) (n : BitVec 4) : OnlySends s (resend s n) := by
  unfold resend
  split
  · exact onlySends_refl s
  · dsimp only
    have again := (mapLink_onlySends s n rfl List.prefix_rfl).trans (sendReplay_onlySends (s.mapLink n fun l =>
      { l with retry := satInc l.retry
               tries := l.replay.foldl (fun t f => tabPut 0 t (fSeq f).toNat (tabGet 0 t (fSeq f).toNat + 1)) l.tries }) n)
    split
    · exact again.trans (pushEvents_onlySends ..)
    · exact again

theorem takeHeader_onlyTraffic (s : State) (n : BitVec 4) (f : Flit) : OnlyTraffic s (takeHeader s n f) := by
  have acked : OnlyTraffic s (s.mapLink n fun l => takeAck l (fAck f)) := mapLink_onlyTraffic s n rfl
  unfold takeHeader
  dsimp only
  split
  · exact (acked.trans (resend_onlySends ..).toOnlyTraffic).trans (flushLink_onlyTraffic ..)
  · exact acked.trans (flushLink_onlyTraffic ..)

theorem acceptFlit_onlySends (s : State) (n : BitVec 4) (f : Flit) : OnlySends s (acceptFlit s n f) :=
  ((mapLink_onlySends s n rfl List.prefix_rfl).trans (sendBare_onlySends ..)).trans (sendBare_onlySends ..)

end Sys2Proof.Machine
end

section
/-! PROOFS. The arrival of sound flits (02 R40-R43, R48-R53): what becomes of an unsequenced flit and of the next in order, the sample of a
TIME flit, and the statement. -/

namespace Sys2Proof.Machine

/-! ### Arrival -/

/-- An event that names a link is no flit of this device's own, which numbers 16 and 17 stand for. -/
theorem ix_lt {s : State} {n : BitVec 4} (h : s.ev.ix = n.toNat) : s.ev.ix < 16 := h ▸ n.isLt

section
variable {s : State} {n : BitVec 4} {kind : Nat}

/-- A sound flit of an unsequenced kind: its header is taken, and it is delivered. -/
theorem arrive_unsequenced (deliver : Flit → State → State) (hix : s.ev.ix = n.toNat) (up : (s.link n).isUp = true)
    (clean : s.ev.flag = false) (sound : soundFlit s.ev.flit kind = true) (hk : sequenced kind = false) :
    arrive s kind deliver = deliver s.ev.flit (takeHeader s n s.ev.flit) := by
  have peer : ¬s.ev.ix ≥ 16 := Nat.not_le.mpr (ix_lt hix)
  simp [arrive, peer, ofNat_ix hix, up, clean, sound, hk]

/-- A sound flit of a sequenced kind that is next in order and for this device: its header is taken, it is acknowledged and delivered. -/
theorem arrive_next (deliver : Flit → State → State) (hix : s.ev.ix = n.toNat) (up : (s.link n).isUp = true)
    (clean : s.ev.flag = false) (seq : fSeq s.ev.flit = ((takeHeader s n s.ev.flit).link n).lastSeq + 1)
    (dst : fDst s.ev.flit = s.links.devnum) (hk : sequenced kind = true) (sound : soundFlit s.ev.flit kind = true) :
    arrive s kind deliver = deliver s.ev.flit (acceptFlit (takeHeader s n s.ev.flit) n s.ev.flit) := by
  have peer : ¬s.ev.ix ≥ 16 := Nat.not_le.mpr (ix_lt hix)
  have here : fDst s.ev.flit = (acceptFlit (takeHeader s n s.ev.flit) n s.ev.flit).links.devnum :=
    dst.trans ((takeHeader_onlyTraffic s n _).trans (acceptFlit_onlySends ..).toOnlyTraffic).devnum.symm
  simp [arrive, peer, ofNat_ix hix, up, clean, sound, hk, seq, here]

end

/-! ### The sample of a TIME flit -/

/-- A field that a change of every listed value leaves alone reads the same afterwards, also where the changed value is no longer listed. -/
theorem tabGet_tabMap_keeps {α β : Type} [DecidableEq α] {d : α} (g : α → β) {f : Nat → α → α} (h : ∀ k v, g (f k v) = g v) (t : Tab α)
    (n : Nat) : g (tabGet d (tabMap d f t) n) = g (tabGet d t n) := by
  induction t with
  | nil => rfl
  | cons e r ih =>
    obtain ⟨k, v⟩ := e
    unfold tabMap
    by_cases hk : k = n
    · subst hk
      split
      · next hd => simp [tabGet, ← h k v, hd]
      · simp [tabGet, h]
    · split
      · simp [tabGet, hk, Ne.symm hk, ih]
      · simp [tabGet, hk, ih]

/-- A link but for the instants of NOW that a step of NOW moves. -/
def Link.untimed (l : Link) : Link := { l with trainFrom := 0, since := [] }

theorem shiftTimers_link (s : State) (x : Word) (n : BitVec 4) : ((shiftTimers s x).link n).untimed = (s.link n).untimed := by
  unfold shiftTimers
  split
  · rfl
  · refine tabGet_tabMap_keeps Link.untimed (fun _ _ => ?_) _ _
    rfl

theorem chooseSource_link (s : State) (n : BitVec 4) : ((chooseSource s).link n).untimed = (s.link n).untimed := shiftTimers_link ..

theorem measureOffset_link (s : State) (source n : BitVec 4) (x : Int) : (measureOffset s source x).link n = s.link n := rfl

theorem lockSource_link (s : State) (source n : BitVec 4) (x : Int) : ((lockSource s source x).link n).untimed = (s.link n).untimed := by
  unfold lockSource
  split
  · rfl
  · have chosen (u : State) : ((if bestSource u.time = 0 then u else chooseSource u).link n).untimed = (u.link n).untimed := by
      split
      · rfl
      · exact chooseSource_link u n
    dsimp only
    split
    · rw [measureOffset_link]
      exact chosen _
    · exact chosen _

/-- A sample ends the run of missing ones; whatever it does to NOW, the link's other records stand. -/
theorem takeSample_link (s : State) (n : BitVec 4) (x d : Int) :
    ((takeSample s n x d).link n).untimed = { s.link n with missed := 0, delay := d }.untimed := by
  have noted : ((s.mapLink n fun l => { l with missed := 0, delay := d }).link n).untimed = { s.link n with missed := 0, delay := d }.untimed := by
    rw [link_mapLink_same]
  unfold takeSample
  dsimp only
  split
  · exact noted
  · split
    · exact noted
    · exact (lockSource_link ..).trans noted

/-- Eight bytes of a flit are all ones as a word just when they are as a number. -/
theorem ofNat_fByte_eq_allOnes (f : Flit) (k : Nat) : BitVec.ofNat 64 (fByte f k 8) = BitVec.allOnes 64 ↔ fByte f k 8 = 2 ^ 64 - 1 := by
  have fits : fByte f k 8 < 2 ^ 64 := Nat.mod_lt _ (by decide)
  rw [← BitVec.toNat_inj, BitVec.toNat_ofNat, Nat.mod_eq_of_lt fits, BitVec.toNat_allOnes]

/-- What the delivery of a TIME flit notes of the link (R52): its t_send with NOW, and, unless t_rx and t_nb are all ones, a sample. -/
theorem exec_time {s : State} {n : BitVec 4} (hix : s.ev.ix = n.toNat) (up : (s.link n).isUp = true) (clean : s.ev.flag = false)
    (sound : soundFlit s.ev.flit 8 = true) : reaches (exec .time s) fun t =>
      (t.link n).lastTime = some (BitVec.ofNat 64 (fByte s.ev.flit 0 8), s.time.now) ∧
      (fByte s.ev.flit 8 8 ≠ 2 ^ 64 - 1 ∨ fByte s.ev.flit 16 8 ≠ 2 ^ 64 - 1 → (t.link n).missed = 0) := by
  refine ⟨_, congrArg Host.Outcome.next (arrive_unsequenced _ hix up clean sound rfl), ?_⟩
  rw [ofNat_ix hix]
  dsimp only
  rw [(takeHeader_onlyTraffic s n s.ev.flit).time]
  split
  · next noSample =>
    simp only [Bool.and_eq_true, decide_eq_true_eq, ofNat_fByte_eq_allOnes] at noSample
    rw [link_mapLink_same]
    exact ⟨rfl, fun sampled => absurd noSample fun ⟨rx, nb⟩ => sampled.elim (· rx) (· nb)⟩
  · have sample := takeSample_link ((takeHeader s n s.ev.flit).mapLink n fun l =>
      { l with lastTime := some (BitVec.ofNat 64 (fByte s.ev.flit 0 8), s.time.now) }) n
    rw [link_mapLink_same] at sample
    exact ⟨congrArg Link.lastTime (sample _ _), fun _ => congrArg Link.missed (sample _ _)⟩

/-! ### The credits of a LINKCTL flit -/

/-- The credits that a LINKCTL flit carries for channel v are given on link n (log entry 7). -/
def giveCredits (n : BitVec 4) (f : Flit) (s : State) (v : Nat) : State := s.mapLink n fun l => l.addCredits v (fByte f (2 * v) 2)

/-- The flit of the event stands while credits are given, so that it may be read before each channel's or once. -/
theorem foldl_giveCredits_ev (n : BitVec 4) (l : List Nat) (s : State) :
    l.foldl (fun u v => giveCredits n u.ev.flit u v) s = l.foldl (giveCredits n s.ev.flit) s := by
  induction l generalizing s with
  | nil => rfl
  | cons v r ih => exact ih (giveCredits n s.ev.flit s v)

/-- The credits of a LINKCTL flit are given after its header is taken, and what waited for them is sent. -/
theorem exec_linkctl {s : State} {n : BitVec 4} (hix : s.ev.ix = n.toNat) (up : (s.link n).isUp = true) (clean : s.ev.flag = false)
    (sound : soundFlit s.ev.flit 9 = true) : exec .linkctl s =
      .next (flushLink ((List.range 4).foldl (fun u v => giveCredits n u.ev.flit u v) (takeHeader s n s.ev.flit)) n) := by
  have peer : ¬(takeHeader s n s.ev.flit).ev.ix ≥ 16 := by
    rw [(takeHeader_onlyTraffic s n _).ev]
    exact Nat.not_le.mpr (ix_lt hix)
  refine congrArg Host.Outcome.next ((arrive_unsequenced _ hix up clean sound rfl).trans ((if_neg peer).trans ?_))
  rw [foldl_giveCredits_ev, (takeHeader_onlyTraffic s n _).ev]
  dsimp only
  rw [ofNat_ix hix]
  rfl

/-! ### The statement -/

/-- A message that arrives on a link is taken in; number 17, of a message that this device sends, is no link's. -/
theorem exec_message_arrives {s : State} {n : BitVec 4} (hix : s.ev.ix = n.toNat) : exec .message s = .next (arrive s 7 takeMessage) := by
  have other : s.ev.ix ≠ 17 := Nat.ne_of_lt (Nat.lt_trans (ix_lt hix) (by decide))
  exact congrArg Host.Outcome.next (if_neg other)

/-- Settles O18, kind by kind: an unsequenced flit for its header and what it carries, and a sequenced one, acknowledged at once (log
entry 85), as a request, a response or a message. -/
theorem flitsAreTakenIn : Obligations.FlitsAreTakenIn := by
  intro s n hix up clean
  refine ⟨fun sound => congrArg Host.Outcome.next (arrive_unsequenced _ hix up clean sound rfl),
    exec_linkctl hix up clean, exec_time hix up clean, fun seq dst => ?_⟩
  have taken (kind : Nat) (deliver : Flit → State → State) (hk : sequenced kind = true) (sound : soundFlit s.ev.flit kind = true) :
      Host.Outcome.next (arrive s kind deliver) =
        (.next (deliver s.ev.flit (acceptFlit (takeHeader s n s.ev.flit) n s.ev.flit)) : Host.Outcome State Fault Refusal) :=
    congrArg Host.Outcome.next (arrive_next deliver hix up clean seq dst hk sound)
  exact ⟨taken 1 serveRequest rfl, taken 3 serveRequest rfl, taken 5 serveRequest rfl, taken 2 takeResponse rfl, taken 4 takeResponse rfl,
    taken 6 takeResponse rfl, fun sound => (exec_message_arrives hix).trans (taken 7 takeMessage rfl sound)⟩

end Sys2Proof.Machine
end

section
/-! PROOFS. Training, retraining, routes, stalled channels, timeouts and the NOW exchange (02 R38, R39, R45, R46, R49-R53), and the statement
about the events of links. -/

namespace Sys2Proof.Machine

/-! ### Training -/

/-- TIMESTAT.LINK follows the links, and leaves them alone. -/
theorem relink_link (s : State) (n : BitVec 4) : (relink s).link n = s.link n := rfl

/-- Link n has trained at a width, with a neighbour (R38). -/
def trained (s : State) (n lanes : BitVec 4) (peer : BitVec 6) : State :=
  relink (s.mapLink n fun l =>
    { l with state := if lanes = 8 then 2 else 3, lanes := lanes, peer := peer, credits := trainCredits s.ev.aux })

theorem trained_link (s : State) (n lanes : BitVec 4) (peer : BitVec 6) : (trained s n lanes peer).link n =
    { s.link n with state := if lanes = 8 then 2 else 3, lanes := lanes, peer := peer, credits := trainCredits s.ev.aux } := by
  rw [trained, relink_link, link_mapLink_same]

/-- After training at 8, 4 or 2 lanes the unacknowledged flits are sent again, then what waited. -/
theorem exec_linkTrainingDone_up {s : State} {n lanes : BitVec 4} {peer : BitVec 6} (hix : s.ev.ix = n.toNat)
    (training : (s.link n).state = 1) (done : s.ev.train = .up lanes peer) (width : lanes = 8 ∨ lanes = 4 ∨ lanes = 2) :
    exec .linkTrainingDone s = .next (flushLink (sendReplay (trained s n lanes peer) n) n) := by
  show execLinkTrainingDone s = _
  unfold execLinkTrainingDone
  dsimp only
  rw [ofNat_ix hix, if_neg (fun other => other training), done]
  exact congrArg Host.Outcome.next (if_neg (by rcases width with rfl | rfl | rfl <;> decide))

/-- Sending leaves the trained link its width, neighbour and state. -/
theorem linkTrainingDone_up_link (s : State) (n lanes : BitVec 4) (peer : BitVec 6) :
    let t := flushLink (sendReplay (trained s n lanes peer) n) n
    (t.link n).lanes = lanes ∧ (t.link n).peer = peer ∧ (t.link n).state = if lanes = 8 then 2 else 3 := by
  have sent := (sendReplay_onlySends (trained s n lanes peer) n).toOnlyTraffic.trans (flushLink_onlyTraffic _ n)
  dsimp only
  rw [sent.lanes, sent.peer, sent.state, trained_link]
  exact ⟨rfl, rfl, rfl⟩

theorem sendFreeMsix_links (s : State) : (sendFreeMsix s).links = s.links := by
  unfold sendFreeMsix sendMsix
  dsimp only
  split <;> rfl

/-- Link n is down, with nothing left on it (R55). -/
def emptied (s : State) (n : BitVec 4) : State :=
  relink (s.mapLink n fun l => { l with state := 0, lanes := 0, replay := [], waiting := [], tries := [], credits := [] })

/-- Link n is down, and what it held is lost, older messages reported first (R55). -/
def emptiedReported (s : State) (n : BitVec 4) : State := (s.link n).waiting.foldl dropFlit ((s.link n).replay.foldl loseMessage (emptied s n))

theorem emptiedReported_onlySends (s : State) (n : BitVec 4) : OnlySends (emptied s n) (emptiedReported s n) :=
  (foldl_onlySends loseMessage_onlySends _ _).trans (foldl_onlySends dropFlit_onlySends _ _)

/-- Telemetry, the owner's interrupt and the boot record leave the links alone. -/
theorem linkDown_links (s : State) (n : BitVec 4) : (linkDown s n).links = (emptiedReported s n).links := by
  unfold linkDown
  dsimp only
  show (if _ then sendFreeMsix _ else _ : State).links = _
  split
  · exact sendFreeMsix_links _
  · rfl

/-- What is discarded and reported does not bring the link back. -/
theorem linkDown_state (s : State) (n : BitVec 4) : ((linkDown s n).link n).state = 0 := by
  rw [State.link, linkDown_links]
  change ((emptiedReported s n).link n).state = 0
  rw [(emptiedReported_onlySends s n).state, emptied, relink_link, link_mapLink_same]

theorem exec_linkTrainingDone_failed {s : State} {n : BitVec 4} (hix : s.ev.ix = n.toNat) (training : (s.link n).state = 1)
    (failed : s.ev.train = .failed) : exec .linkTrainingDone s = .next (linkDown s n) := by
  show execLinkTrainingDone s = _
  simp [execLinkTrainingDone, ofNat_ix hix, training, failed]

/-- A link that is up and retrains is in training, and counts it. -/
theorem exec_linkRetrain {s : State} {n : BitVec 4} (hix : s.ev.ix = n.toNat) (up : (s.link n).isUp = true) :
    reaches (exec .linkRetrain s) fun t => (t.link n).state = 1 ∧ (t.link n).trains = (s.link n).trains + 1 := by
  refine ⟨_, rfl, ?_⟩
  dsimp only
  rw [relink_link, ofNat_ix hix, link_mapLink_same, if_pos up]
  exact ⟨rfl, rfl⟩

/-! ### Routes and stalled channels -/

/-- The owner's write of a route entry keeps VALID and LINK of the value (03 Table Host.9). -/
theorem exec_routeWrite {s : State} {n : BitVec 4} (hix : s.ev.ix = n.toNat) (hr : reachable s s.ev.who = true)
    (ho : isOwner s s.ev.who = true) :
    reaches (exec .routeWrite s) fun t => tabGet 0 t.links.routes n.toNat = s.ev.value.setWidth 8 &&& 0x8F := by
  have entry : s.ev.ix % 64 = n.toNat := by rw [hix]; exact Nat.mod_eq_of_lt (Nat.lt_trans n.isLt (by decide))
  refine ⟨_, rfl, ?_⟩
  rw [writeRoute, ownerWrite_owner _ hr ho, entry]
  exact tabGet_tabPut_same ..

/-- No report is made of a flit that is no message, or is a report or a message of this device. -/
def Unreported (s : State) (f : Flit) : Prop := fKind f ≠ 7 ∨ isReport f = true ∨ fSrc f = s.links.devnum

/-- A discarded flit of which no report is made puts nothing on a link. -/
theorem dropFlit_links_of_unreported {s : State} {f : Flit} (h : Unreported s f) : (dropFlit s f).links.links = s.links.links := by
  unfold dropFlit loseMessage
  split
  · rfl
  · next message =>
    have own : fSrc f = (countDrop s).links.devnum := by
      simp only [Bool.or_eq_true, decide_eq_true_eq, not_or] at message
      exact (h.resolve_left message.1).resolve_left message.2
    rw [if_pos own]
    rfl

theorem foldl_dropFlit_links_of_unreported {s : State} {l : List Flit} (h : ∀ f ∈ l, Unreported s f) :
    (l.foldl dropFlit s).links.links = s.links.links := by
  refine (List.foldlRecOn (motive := fun u => u.links.links = s.links.links ∧ u.links.devnum = s.links.devnum) l dropFlit ⟨rfl, rfl⟩ ?_).1
  rintro u ⟨links, devnum⟩ f hf
  have unreported : Unreported u f := by rw [Unreported, devnum]; exact h f hf
  exact ⟨(dropFlit_links_of_unreported unreported).trans links, (dropFlit_onlySends u f).devnum.trans devnum⟩

/-- What waits for link n on channel vc is taken out (R46). -/
def withoutChannel (s : State) (n : BitVec 4) (vc : Nat) : State :=
  s.mapLink n fun l => { l with waiting := l.waiting.filter fun f => fVc f ≠ vc }

theorem withoutChannel_waiting (s : State) (n : BitVec 4) (vc : Nat) :
    ((withoutChannel s n vc).link n).waiting = (s.link n).waiting.filter fun f => fVc f ≠ vc :=
  congrArg Link.waiting (link_mapLink_same ..)

/-- The flits of a stalled channel are discarded (R46). -/
theorem exec_routeStallDiscard {s : State} {n : BitVec 4} (hix : s.ev.ix = n.toNat) (h : stalled s (s.link n) s.ev.aux.toNat = true) :
    exec .routeStallDiscard s = .next (((s.link n).waiting.filter fun f => fVc f = s.ev.aux.toNat).foldl dropFlit
      (withoutChannel s n s.ev.aux.toNat)) := by
  show execRouteStallDiscard s = _
  simp [execRouteStallDiscard, ofNat_ix hix, h, withoutChannel]

/-- The flits of the other channels keep their places; behind them stand at most the reports of lost messages. -/
theorem routeStallDiscard_waiting (s : State) (n : BitVec 4) (vc : Nat) :
    let t := ((s.link n).waiting.filter fun f => fVc f = vc).foldl dropFlit (withoutChannel s n vc)
    let kept := (s.link n).waiting.filter fun f => fVc f ≠ vc
    kept <+: (t.link n).waiting ∧ ((∀ f ∈ (s.link n).waiting, fVc f = vc → Unreported s f) → (t.link n).waiting = kept) := by
  dsimp only
  rw [← withoutChannel_waiting]
  refine ⟨(foldl_onlySends dropFlit_onlySends _ _).waiting n, fun unreported => ?_⟩
  rw [State.link, foldl_dropFlit_links_of_unreported]
  · rfl
  · intro f hf
    obtain ⟨waits, channel⟩ := List.mem_filter.mp hf
    exact unreported f waits (of_decide_eq_true channel)

/-! ### Timeouts and messages -/

theorem exec_linkRequestTimeout {s : State} {r : PeerReq} (h : (s.links.reqs.find? fun r => r.tag.toNat = s.ev.ix && overdue s r) = some r) :
    exec .linkRequestTimeout s = .next (endRequest s r 0x67 []) := by
  show execLinkRequestTimeout s = _
  rw [execLinkRequestTimeout, h]

/-- The one message that waits after a failure is sent when its time has come: none stands before it. -/
theorem exec_messageRetry {s : State} {f : Flit} {w : Word} (h : s.links.msgRetry = [(f, w)]) (due : w ≤ s.time.now) :
    exec .messageRetry s = .next (sendFlit { s with links := { s.links with msgRetry := [] } } f) := by
  show execMessageRetry s = _
  simp [execMessageRetry, h, due, sendMessage]

/-! ### The NOW exchange -/

/-- With a credit of channel 0, an IDLE, TIME or LINKCTL flit leaves at once. -/
theorem sendBare_out {s : State} {n : BitVec 4} (h : (s.link n).hasCredit 0 = true) (kind len : Nat) (nak : Bool) (payload : List Byte) :
    ∃ f, (sendBare s n kind len nak payload).links.out = s.links.out ++ [(n, f)] := by
  unfold sendBare
  dsimp only
  rw [if_neg (by simp [h])]
  exact ⟨_, rfl⟩

/-- A period of 65,536 ns begins on link n: its count of uncorrectable codewords begins again, and a sample is due (log entry 85; R53). -/
def periodBegun (s : State) (n : BitVec 4) : State := s.mapLink n fun l => { l with uncorr := 0, missed := min (l.missed + 1) 5 }

theorem periodBegun_link (s : State) (n : BitVec 4) :
    (periodBegun s n).link n = { s.link n with uncorr := 0, missed := min ((s.link n).missed + 1) 5 } := link_mapLink_same ..

/-- On a link that is up a TIME flit is sent as the period begins (R51). -/
theorem exec_timeFlitSend {s : State} {n : BitVec 4} (hix : s.ev.ix = n.toNat) (up : (s.link n).isUp = true) (begins : s.now % 65536 = 0) :
    ∃ payload, exec .timeFlitSend s = .next (sendBare (periodBegun s n) n 8 2 false payload) := by
  show ∃ payload, execTimeFlitSend s = _
  simp only [execTimeFlitSend, ofNat_ix hix, begins, up]
  exact ⟨_, rfl⟩

theorem timeFlitSend_takesEffect {s : State} {n : BitVec 4} (hix : s.ev.ix = n.toNat) (up : (s.link n).isUp = true)
    (begins : s.now % 65536 = 0) :
    reaches (exec .timeFlitSend s) fun t => (t.link n).uncorr = 0 ∧ (t.link n).missed = min ((s.link n).missed + 1) 5 ∧
      ((s.link n).hasCredit 0 = true → t.links.out.length = s.links.out.length + 1) := by
  obtain ⟨payload, run⟩ := exec_timeFlitSend hix up begins
  have sent := sendBare_onlySends (periodBegun s n) n 8 2 false payload
  refine ⟨_, run, ?_, ?_, fun credit => ?_⟩
  · rw [sent.uncorr, periodBegun_link]
  · rw [sent.missed, periodBegun_link]
  · obtain ⟨f, out⟩ := sendBare_out (s := periodBegun s n) (n := n) (by rw [periodBegun_link]; exact credit) 8 2 false payload
    rw [out, List.length_append]
    rfl

theorem exec_neighbourSourceLost {s : State} (h : neighbourSilent s = true) : exec .neighbourSourceLost s = .next (loseSource s 3) :=
  congrArg Host.Outcome.next (if_pos h)

/-! ### The statement -/

/-- Settles O17, event by event. Where a statement speaks of what stands on a link after flits were sent or discarded, it stands because
all of that is traffic alone. -/
theorem linkEventsTakeEffect : Obligations.LinkEventsTakeEffect := by
  intro s n hix
  exact ⟨fun lanes peer training done width => ⟨_, exec_linkTrainingDone_up hix training done width, linkTrainingDone_up_link s n lanes peer⟩,
    fun training failed => ⟨_, exec_linkTrainingDone_failed hix training failed, linkDown_state s n⟩,
    exec_linkRetrain hix, exec_routeWrite hix,
    fun stall => ⟨_, exec_routeStallDiscard hix stall, routeStallDiscard_waiting s n s.ev.aux.toNat⟩,
    fun _ => exec_linkRequestTimeout, fun _ _ => exec_messageRetry, timeFlitSend_takesEffect hix, exec_neighbourSourceLost⟩

end Sys2Proof.Machine
end

section
/-! PROOFS. Ownership (03 R64, R65): what a change of HOLDER sets, and the statement about the commands of OWNER.CMD. -/

namespace Sys2Proof.Machine

/-! ### A change of HOLDER -/

/-- An MSI-X is the management unit's alone. -/
theorem sendFreeMsix_eq (s : State) : sendFreeMsix s = { s with mgmt := (sendFreeMsix s).mgmt } := by
  unfold sendFreeMsix sendMsix
  dsimp only
  split <;> rfl

/-- Besides OWNER, a change of HOLDER reaches the management unit alone, which reports it (R65). -/
theorem setHolder_eq (s : State) (h : BitVec 2) : setHolder s h =
    { s with owner := { s.owner with holder := h, next := 0, handover := none, changes := s.owner.changes + 1 },
             mgmt := (setHolder s h).mgmt } := sendFreeMsix_eq _

/-! ### The commands -/

section
variable {s : State} (hr : reachable s s.ev.who = true) (hc : claimant s s.ev.who ≠ 0)
include hr hc

/-- A claimant whose path reaches the device may give commands. -/
theorem claimant_commands : ¬((decide (claimant s s.ev.who = 0) || !reachable s s.ev.who) = true) := by simpa [hr] using hc

theorem exec_claim (h : s.owner.holder = 0) : exec .claim s = .next (setHolder s (claimant s s.ev.who)) :=
  congrArg Host.Outcome.next ((if_neg (claimant_commands hr hc)).trans (if_pos h))

theorem exec_release (h : s.owner.holder = claimant s s.ev.who) : exec .release s = .next (setHolder s 0) :=
  congrArg Host.Outcome.next ((if_neg (claimant_commands hr hc)).trans (if_pos h))

theorem exec_handover (h : s.owner.holder = claimant s s.ev.who) (hn : s.owner.next ≠ 0) :
    exec .handover s = .next { s with owner := { s.owner with handover := some (s.time.now + 1000000000) } } :=
  congrArg Host.Outcome.next ((if_neg (claimant_commands hr hc)).trans (if_pos (by simpa [h] using hn)))

theorem exec_accept (h : s.owner.next = claimant s s.ev.who) (ho : s.owner.handover.isSome = true) :
    exec .accept s = .next (setHolder s (claimant s s.ev.who)) :=
  congrArg Host.Outcome.next ((if_neg (claimant_commands hr hc)).trans (if_pos (by simp [h, ho])))

end

theorem exec_handoverLapse {s : State} {n : Word} (h : s.owner.handover = some n) (due : n ≤ s.time.now) :
    exec .handoverLapse s = .next { s with owner := { s.owner with next := 0, handover := none } } := by
  show execHandoverLapse s = _
  rw [execHandoverLapse, h]
  exact congrArg Host.Outcome.next (if_pos due)

/-! ### The statement -/

/-- Settles O1: CLAIM, RELEASE and ACCEPT change HOLDER, HANDOVER opens an offer, and the lapse closes it. -/
theorem ownershipCommandsTakeEffect : Obligations.OwnershipCommandsTakeEffect := fun _ hr =>
  ⟨fun hc h => ⟨_, exec_claim hr hc h, setHolder_eq _ _⟩, fun hc h => ⟨_, exec_release hr hc h, setHolder_eq _ _⟩,
    exec_handover hr, fun hc h ho => ⟨_, exec_accept hr hc h ho, setHolder_eq _ _⟩, fun _ => exec_handoverLapse⟩

end Sys2Proof.Machine
end

section
/-! PROOFS. The management unit (03 R66-R79): the telemetry sample, the boot record, trace rings and boot steps, and the statement about
management events. -/

namespace Sys2Proof.Machine

/-! ### The telemetry sample -/

/-- What each step of a fold leaves alone is at the end as at the start. -/
theorem foldl_keeps {α β γ : Type} (g : β → γ) {f : β → α → β} (h : ∀ s a, g (f s a) = g s) (l : List α) (s : β) :
    g (l.foldl f s) = g s :=
  List.foldlRecOn (motive := fun u => g u = g s) l f rfl fun u hu a _ => (h u a).trans hu

/-- A fold of steps that each leave a key alone. -/
theorem tabGet_foldl {α β : Type} {d : α} {k : Nat} {f : Tab α → β → Tab α} (h : ∀ t b, tabGet d (f t b) k = tabGet d t k)
    (l : List β) (t : Tab α) : tabGet d (l.foldl f t) k = tabGet d t k := foldl_keeps (tabGet d · k) h l t

/-- A sample shows the NOW at which it is taken; what else it puts stands at other offsets (03 Table Host.8). -/
theorem sampleTel_now (s : State) : tabGet 0 (sampleTel s) 0x3000 = s.time.now := by
  unfold sampleTel
  dsimp only
  have other (t : Telemetry) {o : Nat} (v : Word) (h : o ≠ 0x3000) : tabGet 0 (tabPut 0 t o v) 0x3000 = tabGet 0 t 0x3000 :=
    tabGet_tabPut_ne t v h
  rw [other _ _ (by decide), other _ _ (by decide), other _ _ (by decide),
    tabGet_foldl fun t q => (other _ _ (by omega)).trans (other t _ (by omega)),
    tabGet_foldl fun t e => other t _ (by omega), other _ _ (by decide), other _ _ (by decide),
    tabGet_foldl fun t q => other t _ (by omega), tabGet_tabPut_same]

/-- Without readings of the environment a refresh takes a sample of what stands. -/
theorem exec_telemetryRefresh {s : State} (h : s.ev.flag = false) :
    exec .telemetryRefresh s = .next (s.mapMgmt fun m => { m with tel := sampleTel s }) := by
  show execTelemetryRefresh s = _
  simp [execTelemetryRefresh, h]

/-! ### The boot record -/

theorem bootRecord_of_usesB {s : State} (h : s.mgmt.usesB = true) : bootRecord s = s.mgmt.copyB := by
  have valid : s.mgmt.copyB.valid = true := (Bool.and_eq_true_iff.mp h).1
  simp [bootRecord, h, valid]

theorem bootRecord_of_not_usesB {s : State} (h : s.mgmt.usesB = false) (valid : s.mgmt.copyA.valid = true) :
    bootRecord s = s.mgmt.copyA := by
  simp [bootRecord, h, valid]

/-- The contents written stand in the copy that is then in use, whichever that is: it has the higher sequence number (R74). -/
theorem bootRecord_writeBoot (s : State) (f : BootCopy → BootCopy) :
    bootRecord (writeBoot s f) = { f (bootRecord s) with valid := true, seq := (bootRecord s).seq + 1 } := by
  cases inB : s.mgmt.usesB with
  | true =>
    have written : writeBoot s f = s.mapMgmt fun m =>
        { m with copyA := { f (bootRecord s) with valid := true, seq := (bootRecord s).seq + 1 } } := by
      simp [writeBoot, State.mapMgmt, inB]
    have inA : (writeBoot s f).mgmt.usesB = false := by simp [written, Mgmt.usesB, bootRecord_of_usesB inB]
    rw [bootRecord_of_not_usesB inA (by rw [written]; rfl), written]
    rfl
  | false =>
    have written : writeBoot s f = s.mapMgmt fun m =>
        { m with copyB := { f (bootRecord s) with valid := true, seq := (bootRecord s).seq + 1 } } := by
      simp [writeBoot, State.mapMgmt, inB]
    have nowB : (writeBoot s f).mgmt.usesB = true := by
      cases valid : s.mgmt.copyA.valid with
      | true => simp [written, Mgmt.usesB, valid, bootRecord_of_not_usesB inB valid]
      | false => simp [written, Mgmt.usesB, valid]
    rw [bootRecord_of_usesB nowB, written]
    rfl

/-- The entries of a written record. -/
theorem bootEntry_writeBoot (s : State) (f : BootCopy → BootCopy) (n : Nat) :
    bootEntry (writeBoot s f) n = tabGet .reset (f (bootRecord s)).steps n := by rw [bootEntry, bootRecord_writeBoot]

theorem bootEntry_writeBootStep_same (s : State) (n : Nat) (f : BootEntry → BootEntry) :
    bootEntry (writeBootStep s n f) n = f (bootEntry s n) := by
  rw [writeBootStep, bootEntry_writeBoot]
  exact tabGet_tabPut_same ..

theorem bootEntry_writeBootStep_ne (s : State) {n k : Nat} (h : n ≠ k) (f : BootEntry → BootEntry) :
    bootEntry (writeBootStep s n f) k = bootEntry s k := by
  rw [writeBootStep, bootEntry_writeBoot]
  exact tabGet_tabPut_ne _ _ h

/-- The boot record is its two copies. -/
theorem bootEntry_congr {s t : State} (h : t.mgmt.copyA = s.mgmt.copyA ∧ t.mgmt.copyB = s.mgmt.copyB) (n : Nat) :
    bootEntry t n = bootEntry s n := by
  obtain ⟨a, b⟩ := h
  have usesB : t.mgmt.usesB = s.mgmt.usesB := by rw [Mgmt.usesB, a, b, Mgmt.usesB]
  simp only [bootEntry, bootRecord, usesB, a, b]

/-! ### Firmware and boot marks -/

theorem writeBootStep_banks (s : State) (n : Nat) (f : BootEntry → BootEntry) :
    (writeBootStep s n f).mgmt.nextBank = s.mgmt.nextBank ∧ (writeBootStep s n f).mgmt.bank = s.mgmt.bank := by
  unfold writeBootStep writeBoot
  dsimp only [State.mapMgmt]
  split <;> exact ⟨rfl, rfl⟩

/-- The bank that does not run was written and verified. -/
def imageVerified (s : State) : State :=
  s.mapMgmt fun m => { m with nextBank := tabPut none m.nextBank s.ev.ix (some (!tabGet false m.running s.ev.ix)) }

theorem imageVerified_nextBank (s : State) :
    tabGet none (imageVerified s).mgmt.nextBank s.ev.ix = some (!tabGet false s.mgmt.running s.ev.ix) := by
  rw [imageVerified, State.mapMgmt_mgmt, tabGet_tabPut_same]

/-- A verified image becomes active at the next reset, and not before (R76). -/
theorem exec_firmwareUpdate {s : State} (h : s.ev.flag = true) : reaches (exec .firmwareUpdate s) fun t =>
    tabGet none t.mgmt.nextBank s.ev.ix = some (!tabGet false s.mgmt.running s.ev.ix) ∧ t.mgmt.bank = s.mgmt.bank := by
  refine ⟨_, congrArg Host.Outcome.next (if_pos h), ?_⟩
  have kept (c : Bool) (u : State) (n : Nat) (f : BootEntry → BootEntry) :
      (if c then writeBootStep u n f else u).mgmt.nextBank = u.mgmt.nextBank ∧
        (if c then writeBootStep u n f else u).mgmt.bank = u.mgmt.bank := by
    split
    · exact writeBootStep_banks u n f
    · exact ⟨rfl, rfl⟩
  exact ⟨(congrArg (tabGet none · s.ev.ix) (kept _ _ _ _).1).trans (imageVerified_nextBank s), (kept _ _ _ _).2⟩

/-- The owner's CLEAR_BOOT_MARK takes one unit out of a step's mask (R72). -/
theorem exec_clearBootMark {s : State} (hr : reachable s s.ev.who = true) (ho : isOwner s s.ev.who = true) (h1 : 1 ≤ s.ev.ix)
    (h9 : s.ev.ix ≤ 9) : reaches (exec .clearBootMark s) fun t =>
      (bootEntry t s.ev.ix).mask = putField (bootEntry s s.ev.ix).mask s.ev.value.toNat 1 0 := by
  have allowed : ¬(!(reachable s s.ev.who && isOwner s s.ev.who) || decide (s.ev.ix = 0) || decide (s.ev.ix > 9)) = true := by
    simp only [hr, ho, Bool.and_self, Bool.not_true, Bool.false_or, Bool.or_eq_true, decide_eq_true_eq]
    omega
  refine ⟨_, congrArg Host.Outcome.next (if_neg allowed), ?_⟩
  exact congrArg BootEntry.mask ((bootEntry_congr ⟨rfl, rfl⟩ _).trans (bootEntry_writeBootStep_same ..))

/-! ### Trace rings -/

@[simp] theorem traceQ_mapTrace_same (s : State) (q : BitVec 2) (f : TraceQ → TraceQ) : (s.mapTrace q f).traceQ q = f (s.traceQ q) :=
  tabGet_tabPut_same ..

/-- The owner's write of TRACEBASE sets the base, and a new base begins the ring anew (R69). -/
theorem exec_tracebaseWrite {s : State} (hr : reachable s s.ev.who = true) (ho : isOwner s s.ev.who = true) :
    reaches (exec .tracebaseWrite s) fun t =>
      (t.traceQ (BitVec.ofNat 2 s.ev.ix)).base = BitVec.ofNat 52 (fieldOf s.ev.value 16 36 * 65536) ∧
      ((t.traceQ (BitVec.ofNat 2 s.ev.ix)).base ≠ (s.traceQ (BitVec.ofNat 2 s.ev.ix)).base →
        (t.traceQ (BitVec.ofNat 2 s.ev.ix)).head = 0) := by
  refine ⟨_, rfl, ?_⟩
  dsimp only
  rw [writeTraceBase, ownerWrite_owner _ hr ho, traceQ_mapTrace_same]
  dsimp only
  split
  · next same => exact ⟨same.symm, fun new => absurd rfl new⟩
  · exact ⟨rfl, fun _ => rfl⟩

/-- The owner's write of TRACECFG with a SIZE of at least 16 sets it, EN and STOP, and a new size begins the ring anew (R79; log entry 78). -/
theorem exec_tracecfgWrite {s : State} (hr : reachable s s.ev.who = true) (ho : isOwner s s.ev.who = true)
    (h16 : 16 ≤ fieldOf s.ev.value 0 5) : reaches (exec .tracecfgWrite s) fun t =>
      (t.traceQ (BitVec.ofNat 2 s.ev.ix)).size = s.ev.value.setWidth 5 ∧
      (t.traceQ (BitVec.ofNat 2 s.ev.ix)).en = s.ev.value.getLsbD 63 ∧ (t.traceQ (BitVec.ofNat 2 s.ev.ix)).stop = s.ev.value.getLsbD 8 ∧
      ((s.traceQ (BitVec.ofNat 2 s.ev.ix)).size ≠ s.ev.value.setWidth 5 → (t.traceQ (BitVec.ofNat 2 s.ev.ix)).head = 0) := by
  have size : BitVec.ofNat 5 (fieldOf s.ev.value 0 5) = s.ev.value.setWidth 5 := by
    apply BitVec.eq_of_toNat_eq
    simp [fieldOf]
  have fits : ¬(decide (fieldOf s.ev.value 0 5 < 16) || decide (fieldOf s.ev.value 0 5 > 32)) = true := by
    have := Nat.mod_lt (s.ev.value.toNat / 2 ^ 0) (Nat.two_pow_pos 5)
    simp only [Bool.or_eq_true, decide_eq_true_eq]
    unfold fieldOf at h16 ⊢
    omega
  refine ⟨_, rfl, ?_⟩
  dsimp only
  rw [writeTraceCfg, ownerWrite_owner _ hr ho]
  dsimp only
  rw [if_neg fits, traceQ_mapTrace_same, size]
  split
  · next same => exact ⟨same.symm, rfl, rfl, fun new => absurd same.symm new⟩
  · exact ⟨rfl, rfl, rfl, fun _ => rfl⟩

/-! ### Boot steps -/

theorem le_nextStep (s : State) (m n : Nat) : n ≤ nextStep s m n := by
  induction m generalizing n with
  | zero => exact Nat.le_refl n
  | succ m ih =>
    unfold nextStep
    split
    · exact Nat.le_of_succ_le (ih (n + 1))
    · exact Nat.le_refl n

/-- Where the next step to run is not step 2 in its alternate form, its beginning gives up no copy of the boot record. -/
theorem bootEntry_beginStep {s : State} {n : Nat} (h : n ≤ 2 → (bootEntry s 2).outcome ≠ .failed ∧ (bootEntry s 2).outcome ≠ .passedAlt)
    (k : Nat) : bootEntry (beginStep s n) k = bootEntry s k := by
  refine bootEntry_congr ?_ k
  by_cases step2 : nextStep s 9 n = 2
  · obtain ⟨failed, alternate⟩ := h (step2 ▸ le_nextStep s 9 n)
    simp [beginStep, step2, failed, alternate]
  · exact beginStep_copies step2

/-- What a step that passes leaves behind is no outcome of a step. -/
theorem bootEntry_passStep (s : State) (n k : Nat) : bootEntry (passStep s n) k = bootEntry s k := by
  unfold passStep
  dsimp only
  split
  case h_5 =>
    unfold makeAlias
    split
    · rfl
    · split
      · exact bootEntry_writeBoot s _ k
      · rfl
  all_goals rfl

/-- The step in progress passes: neither 5 nor 7, and in its usual form. -/
structure PassesUsually (s : State) : Prop where
  pos : 1 ≤ s.mgmt.bootStep
  le : s.mgmt.bootStep ≤ 9
  ne5 : s.mgmt.bootStep ≠ 5
  ne7 : s.mgmt.bootStep ≠ 7
  goes : s.mgmt.stopped = false
  waits : s.mgmt.failReset = none
  usual : s.mgmt.alt = false
  pass : s.ev.outcome = .pass

/-- The step's pass is recorded, and the next step begins (R71, R72). -/
def passRecorded (s : State) : State :=
  writeBootStep (passStep s s.mgmt.bootStep) s.mgmt.bootStep fun e => { e with outcome := .passed, mask := e.mask ||| 0 }

theorem exec_bootStep_passes {s : State} (h : PassesUsually s) :
    exec .bootStep s = .next (beginStep (passRecorded s) (s.mgmt.bootStep + 1)) := by
  have runs : ¬(decide (s.mgmt.bootStep = 0) || decide (s.mgmt.bootStep > 9) || s.mgmt.stopped || s.mgmt.failReset.isSome) = true := by
    simp only [h.goes, h.waits, Bool.or_eq_true, decide_eq_true_eq, Option.isSome_none, Bool.false_eq_true, or_false]
    have := h.pos
    have := h.le
    omega
  show execBootStep s = _
  unfold execBootStep
  simp only [if_neg runs, h.ne5, h.ne7, h.pass, h.usual]
  rfl

/-- The pass of the step in progress stands in the boot record while the next step begins; after step 1 that is step 2, which in its usual
form gives up no copy of the record. -/
theorem bootStep_passes {s : State} (h : PassesUsually s)
    (usual2 : s.mgmt.bootStep = 1 → (bootEntry s 2).outcome ≠ .failed ∧ (bootEntry s 2).outcome ≠ .passedAlt) :
    (bootEntry (beginStep (passRecorded s) (s.mgmt.bootStep + 1)) s.mgmt.bootStep).outcome = .passed := by
  rw [bootEntry_beginStep, passRecorded, bootEntry_writeBootStep_same]
  intro first
  have step1 : s.mgmt.bootStep = 1 := Nat.le_antisymm (Nat.le_of_succ_le_succ first) h.pos
  rw [passRecorded, step1, bootEntry_writeBootStep_ne _ (by decide), bootEntry_passStep]
  exact usual2 step1

/-! ### Measurements and PLDM -/

section
variable {s : State} (hw : s.ev.who = .fn 0) (hr : reachable s (.fn 0) = true) (hf : s.ev.flag = true)
include hw hr hf

/-- A request for signed measurements over the mailbox of a PF that is reached takes a signature, if one is left (R77). -/
theorem exec_spdmRequest_signed : exec .spdmRequest s = .next (if s.mgmt.aliasMade && s.mgmt.aliasUsed < 1048576 then
    answer (s.mapMgmt fun m => { m with aliasUsed := m.aliasUsed + 1 }) (.measurement s.mgmt.aliasUsed) else answer s .spdmError) := by
  show execSpdmRequest s = _
  unfold execSpdmRequest
  rw [if_neg (by rw [hw, hr]; decide), if_neg (by rw [hf]; decide)]

theorem exec_spdmRequest_left (made : s.mgmt.aliasMade = true) (left : s.mgmt.aliasUsed < 1048576) : exec .spdmRequest s =
    .next (answer (s.mapMgmt fun m => { m with aliasUsed := m.aliasUsed + 1 }) (.measurement s.mgmt.aliasUsed)) :=
  (exec_spdmRequest_signed hw hr hf).trans (congrArg Host.Outcome.next (if_pos (by simp [made, left])))

theorem exec_spdmRequest_spent (spent : s.mgmt.aliasMade = false ∨ 1048576 ≤ s.mgmt.aliasUsed) :
    exec .spdmRequest s = .next (answer s .spdmError) :=
  (exec_spdmRequest_signed hw hr hf).trans (congrArg Host.Outcome.next (if_neg fun takes => by
    simp only [Bool.and_eq_true, decide_eq_true_eq] at takes
    obtain ⟨made, left⟩ := takes
    rcases spent with unmade | none
    · exact absurd made (by simp [unmade])
    · exact absurd left (Nat.not_lt.mpr none)))

end

/-- The types of PLDM that the endpoint has (R66). -/
def pldmType (n : Nat) : Prop := n = 0 ∨ n = 2 ∨ n = 5

theorem exec_pldmBaseRequest_base {s : State} (hf : s.ev.flag = true) (h : pldmType s.ev.ix) :
    exec .pldmBaseRequest s = .next (answer s .pldmBase) :=
  congrArg Host.Outcome.next (if_pos (by simpa [hf, pldmType, or_assoc] using h))

theorem exec_pldmBaseRequest_other {s : State} (h : ¬pldmType s.ev.ix) : exec .pldmBaseRequest s = .next (answer s .pldmError) :=
  congrArg Host.Outcome.next (if_neg fun base => h (by
    simpa [pldmType, or_assoc] using (Bool.and_eq_true_iff.mp base).2))

/-! ### The statement -/

/-- Settles O4, event by event. -/
theorem managementEventsTakeEffect : Obligations.ManagementEventsTakeEffect := by
  intro s
  exact ⟨fun quiet => ⟨_, exec_telemetryRefresh quiet, sampleTel_now s⟩, exec_firmwareUpdate, exec_clearBootMark,
    fun hw hr hf => exec_spdmRequest_left hw hr hf, fun hw hr hf => exec_spdmRequest_spent hw hr hf,
    exec_pldmBaseRequest_base, exec_pldmBaseRequest_other, exec_tracebaseWrite, exec_tracecfgWrite,
    fun pos le ne5 ne7 goes waits usual pass usual2 =>
      have h : PassesUsually s := ⟨pos, le, ne5, ne7, goes, waits, usual, pass⟩
      ⟨_, exec_bootStep_passes h, bootStep_passes h usual2⟩⟩

end Sys2Proof.Machine
end

section
/-! PROOFS. Contexts and functions (03 R61; 04 R80, R82): what commands and resets do to a context's state and registers, and the statement
about context events. -/

namespace Sys2Proof.Machine

/-! ### One bit of a mask -/

/-- A bit that is written by itself reads as written. -/
theorem getLsbD_putField_one {w : Nat} (x : BitVec w) {n : Nat} (h : n < w) (v : Nat) :
    (putField x n 1 v).getLsbD n = decide (v % 2 = 1) := by
  have shift : (x.toNat % 2 ^ n + v % 2 ^ 1 * 2 ^ n + x.toNat / 2 ^ (n + 1) * 2 ^ (n + 1)) / 2 ^ n =
      v % 2 + 2 * (x.toNat / 2 ^ (n + 1)) := by
    have above : x.toNat / 2 ^ (n + 1) * 2 ^ (n + 1) = 2 * (x.toNat / 2 ^ (n + 1)) * 2 ^ n := by
      rw [Nat.mul_comm 2, Nat.mul_assoc, ← Nat.pow_succ']
    rw [above, Nat.add_assoc, ← Nat.add_mul, Nat.add_mul_div_right _ _ (Nat.two_pow_pos n),
      Nat.div_eq_of_lt (Nat.mod_lt _ (Nat.two_pow_pos n)), Nat.zero_add, Nat.pow_one]
  rw [putField, BitVec.getLsbD_ofNat, Nat.testBit_eq_decide_div_mod_eq, shift, Nat.add_mul_mod_self_left, Nat.mod_mod]
  simp [h]

/-! ### Contexts after writes -/

/-- A write at one key leaves what is read at another, whatever each key's default is. -/
theorem tabGet_tabPut_other {α : Type} [DecidableEq α] {d e : α} (t : Tab α) {k n : Nat} (v : α) (h : k ≠ n) :
    tabGet e (tabPut d t k v) n = tabGet e t n := by
  unfold tabPut
  split
  · rw [tabGet_tabDrop, if_neg (by simpa using h.symm)]
  · rw [tabGet_tabSet, if_neg h]

theorem ctx_mapCtx (s : State) (n m : BitVec 6) (f : Ctx → Ctx) : (s.mapCtx n f).ctx m = if n = m then f (s.ctx n) else s.ctx m := by
  split
  · next same => rw [← same, ctx_mapCtx_same]
  · next other => exact tabGet_tabPut_other _ _ (mt BitVec.eq_of_toNat_eq other)

/-- A field that a change of a context leaves alone. -/
theorem ctx_mapCtx_keeps {α : Type} (g : Ctx → α) {s : State} {n : BitVec 6} {f : Ctx → Ctx} (h : g (f (s.ctx n)) = g (s.ctx n))
    (m : BitVec 6) : g ((s.mapCtx n f).ctx m) = g (s.ctx m) := by
  rw [ctx_mapCtx]
  split
  · next same => rw [h, same]
  · rfl

/-- What each step of a fold sets up for its own element and no step undoes holds at the end for every element. -/
theorem forall_mem_foldl {α β : Type} {f : β → α → β} {P : α → β → Prop} (sets : ∀ s a, P a (f s a))
    (keeps : ∀ s a b, P b s → P b (f s a)) (l : List α) (s : β) : ∀ a ∈ l, P a (l.foldl f s) := by
  induction l generalizing s with
  | nil => intro a ha; cases ha
  | cons b r ih =>
    intro a ha
    rcases List.mem_cons.mp ha with rfl | later
    · exact List.foldlRecOn (motive := P a) r f (sets s a) fun u hu c _ => keeps u c a hu
    · exact ih _ a later

/-! ### Stopping a context -/

theorem setValid_ctx (s : State) (e : BitVec 12) (v : Bool) (y : BitVec 6) : (setValid s e v).ctx y = s.ctx y := rfl

theorem clearEntries_ctx (s : State) (x y : BitVec 6) : (clearEntries s x).ctx y = s.ctx y :=
  foldl_keeps (State.ctx · y) (fun u e => by
    split
    · exact setValid_ctx u e false y
    · rfl) _ s

theorem killOccurrence_ctx (s : State) (id : Nat) (st : OccStatus) (cause : Byte) (y : BitVec 6) :
    (killOccurrence s id st cause).ctx y = s.ctx y := by
  unfold killOccurrence
  split
  · rfl
  · split <;> rfl

theorem killCtx_ctx (s : State) (x y : BitVec 6) : (killCtx s x).ctx y = s.ctx y :=
  foldl_keeps (State.ctx · y) (fun u e => by
    split
    · exact killOccurrence_ctx u e.1 .killed 0 y
    · rfl) _ s

/-- A context that is stopped is STOPPING, unless it is FREE; the others stand. -/
theorem stopCtx_ctx (s : State) (x y : BitVec 6) :
    (stopCtx s x).ctx y = if x = y ∧ (s.ctx x).st ≠ .free then { s.ctx x with st := .stopping } else s.ctx y := by
  unfold stopCtx
  split
  · next free => rw [if_neg fun h => h.2 free]
  · next live => simp [ctx_mapCtx, killCtx_ctx, clearEntries_ctx, live]

theorem stopCtx_not_active (s : State) (x : BitVec 6) : ((stopCtx s x).ctx x).st ≠ .active := by
  rw [stopCtx_ctx]
  split
  · exact CtxState.noConfusion
  · next h =>
    have free : (s.ctx x).st = .free := by simpa using h
    rw [free]
    exact CtxState.noConfusion

/-- Stopping a context makes none ACTIVE. -/
theorem stopCtx_keeps_not_active {s : State} {y : BitVec 6} (h : (s.ctx y).st ≠ .active) (x : BitVec 6) :
    ((stopCtx s x).ctx y).st ≠ .active := by
  rw [stopCtx_ctx]
  split
  · exact CtxState.noConfusion
  · exact h

/-! ### Clearing a context's registers -/

theorem mapDom_ctx (s : State) (n : Nat) (f : Dom → Dom) (y : BitVec 6) : (mapDom s n f).ctx y = s.ctx y := rfl

theorem setPending_ctx (s : State) (l : List DomChange) (y : BitVec 6) : (setPending s l).ctx y = s.ctx y :=
  foldl_keeps (State.ctx · y) (fun u n => mapDom_ctx u n _ y) _ s

/-- A write of DOMSEL changes nothing else of a context. -/
theorem writeDomsel_keeps {α : Type} (g : Ctx → α) (hg : ∀ c d, g { c with domsel := d } = g c) (s : State) (x : BitVec 6) (v : Word)
    (y : BitVec 6) : g ((writeDomsel s x v).ctx y) = g (s.ctx y) := by
  unfold writeDomsel
  dsimp only
  split
  · exact congrArg g (setPending_ctx s _ y)
  · exact ctx_mapCtx_keeps g (hg _ _) y

/-- The registers that a function writes are cleared; no context's state changes. -/
theorem clearContext_st (s : State) (x y : BitVec 6) : ((clearContext s x).ctx y).st = (s.ctx y).st :=
  (writeDomsel_keeps Ctx.st (fun _ _ => rfl) ..).trans (ctx_mapCtx_keeps Ctx.st rfl y)

theorem clearContext_aperbase (s : State) (x y : BitVec 6) :
    ((clearContext s x).ctx y).aperbase = if x = y then 0 else (s.ctx y).aperbase := by
  rw [clearContext, writeDomsel_keeps Ctx.aperbase fun _ _ => rfl, ctx_mapCtx]
  split <;> rfl

/-- One context's turn when a function's windows are cleared: at once if it is FREE, otherwise when it will be (log entry 99). -/
def clearWindow (s : State) (x : BitVec 6) : State :=
  if (s.ctx x).st = .free then clearContext s x else s.mapCtx x fun c => { c with aperbase := 0, flr := true }

theorem clearWindow_st (s : State) (x y : BitVec 6) : ((clearWindow s x).ctx y).st = (s.ctx y).st := by
  unfold clearWindow
  split
  · exact clearContext_st s x y
  · exact ctx_mapCtx_keeps Ctx.st rfl y

theorem clearWindow_aperbase (s : State) (x y : BitVec 6) :
    ((clearWindow s x).ctx y).aperbase = if x = y then 0 else (s.ctx y).aperbase := by
  unfold clearWindow
  split
  · exact clearContext_aperbase s x y
  · rw [ctx_mapCtx]
    split <;> rfl

theorem clearWindows_st (s : State) (n : BitVec 4) (xs : List (BitVec 6)) (y : BitVec 6) :
    ((clearWindows s n xs).ctx y).st = (s.ctx y).st :=
  foldl_keeps (fun u : State => (u.ctx y).st) (fun u x => clearWindow_st u x y) xs _

theorem clearWindows_aperbase (s : State) (n : BitVec 4) (xs : List (BitVec 6)) :
    ∀ x ∈ xs, ((clearWindows s n xs).ctx x).aperbase = 0 :=
  forall_mem_foldl (f := clearWindow) (P := fun x u => (u.ctx x).aperbase = 0) (fun u x => by rw [clearWindow_aperbase, if_pos rfl])
    (fun u x y hy => by rw [clearWindow_aperbase, hy, ite_self]) xs _

/-! ### The commands and events -/

section
variable {s : State} (hr : reachable s s.ev.who = true) (hm : mayCommand s.ev.ctx s.ev.who = true)
include hr hm

/-- CREATE of a FREE context, of a function's own only while the function is enabled (R80, R82; log entry 61). -/
theorem exec_create (free : (s.ctx s.ev.ctx).st = .free) (on : s.ev.ctx.toNat ≤ 15 → s.sched.fnOn.getLsbD s.ev.ctx.toNat = true) :
    reaches (exec .create s) fun t => (t.ctx s.ev.ctx).st = .active ∧ (t.ctx s.ev.ctx).aperbase = 0 ∧ (t.ctx s.ev.ctx).entryerr = 0 ∧
      (t.ctx s.ev.ctx).framedrop = 0 ∧ (t.ctx s.ev.ctx).evlost = 0 := by
  have creates : ¬(decide ((s.ctx s.ev.ctx).st ≠ .free) ||
      (decide (s.ev.ctx.toNat ≤ 15) && !s.sched.fnOn.getLsbD s.ev.ctx.toNat)) = true := by
    simpa [free] using on
  refine ⟨_, congrArg Host.Outcome.next ((if_pos (by rw [hr, hm]; rfl)).trans (if_neg creates)), ?_⟩
  dsimp only
  rw [ctx_mapCtx_same]
  split <;> exact ⟨rfl, rfl, rfl, rfl, rfl⟩

theorem exec_destroy (live : (s.ctx s.ev.ctx).st ≠ .free) : reaches (exec .destroy s) fun t => (t.ctx s.ev.ctx).st = .stopping := by
  refine ⟨_, congrArg Host.Outcome.next (if_pos (by rw [hr, hm]; rfl)), ?_⟩
  dsimp only
  rw [stopCtx_ctx, if_pos ⟨rfl, live⟩]

end

/-- With no occurrence and no open halyard left, a STOPPING context becomes FREE (R82). -/
theorem exec_contextFree {s : State} (stopping : (s.ctx s.ev.ctx).st = .stopping) (quiet : ∀ e ∈ occList s, e.2.ctx ≠ s.ev.ctx)
    (closed : openHals s s.ev.ctx = []) : reaches (exec .contextFree s) fun t => (t.ctx s.ev.ctx).st = .free := by
  refine ⟨_, congrArg Host.Outcome.next (if_neg (by simpa [stopping] using quiet)), ?_⟩
  dsimp only
  rw [closed]
  dsimp only [closeAll]
  split
  · rw [clearContext_st, ctx_mapCtx_same]
  · rw [ctx_mapCtx_same]

section
variable {s : State} {n : BitVec 4} (hix : s.ev.ix = n.toNat)
include hix

theorem exec_functionEnable (off : s.sched.fnOn.getLsbD n.toNat = false) (free : (s.ctx (n.setWidth 6)).st = .free) :
    reaches (exec .functionEnable s) fun t => t.sched.fnOn.getLsbD n.toNat = true ∧
      t.ctx (n.setWidth 6) = { Ctx.resetOf (n.setWidth 6) with st := .active } := by
  refine ⟨(s.mapSched fun m => { m with fnOn := putField m.fnOn n.toNat 1 1 }).mapCtx (n.setWidth 6) fun _ =>
      { Ctx.resetOf (n.setWidth 6) with st := .active }, ?_, getLsbD_putField_one _ n.isLt 1, ctx_mapCtx_same ..⟩
  show execFunctionEnable s = _
  rw [execFunctionEnable, ofNat_ix hix, if_neg (by simp [off, free])]

/-- A VF that is disabled ends its context (03 R57). -/
theorem exec_functionDisable (vf : n ≠ 0) (on : s.sched.fnOn.getLsbD n.toNat = true) : reaches (exec .functionDisable s) fun t =>
    t.sched.fnOn.getLsbD n.toNat = false ∧ (t.ctx (n.setWidth 6)).st ≠ .active := by
  refine ⟨(stopCtx s (n.setWidth 6)).mapSched fun m => { m with fnOn := putField m.fnOn n.toNat 1 0 }, ?_,
    getLsbD_putField_one _ n.isLt 0, stopCtx_not_active s _⟩
  show execFunctionDisable s = _
  rw [execFunctionDisable, ofNat_ix hix, if_neg (by simpa [on] using vf)]

end

/-- The contexts that a function-level reset of function n stops (03 R61). -/
def resetContexts (n : BitVec 4) : List (BitVec 6) :=
  if n = 0 then 0 :: (List.range 48).map fun i => BitVec.ofNat 6 (16 + i) else [n.setWidth 6]

theorem mem_resetContexts {n : BitVec 4} {x : BitVec 6} (h : x = n.setWidth 6 ∨ (n = 0 ∧ 16 ≤ x.toNat)) : x ∈ resetContexts n := by
  unfold resetContexts
  by_cases pf : n = 0
  · rw [if_pos pf]
    rcases h with own | ⟨-, high⟩
    · rw [own, pf]
      exact List.mem_cons_self
    · refine List.mem_cons_of_mem _ (List.mem_map.mpr ⟨x.toNat - 16, List.mem_range.mpr ?_, ?_⟩)
      · omega
      · rw [Nat.add_sub_cancel' high, BitVec.ofNat_toNat, BitVec.setWidth_eq]
  · rw [if_neg pf]
    exact List.mem_singleton.mpr (h.resolve_right fun pfs => pf pfs.1)

/-- A function-level reset stops its contexts, clears the windows that serve them and leaves no MSI-X table programmed (03 R61; log entry 99). -/
theorem exec_functionLevelReset {s : State} {n : BitVec 4} (hix : s.ev.ix = n.toNat) : reaches (exec .functionLevelReset s) fun t =>
    t.mgmt.msixOn.getLsbD n.toNat = false ∧
      ∀ x : BitVec 6, (x = n.setWidth 6 ∨ (n = 0 ∧ 16 ≤ x.toNat)) → (t.ctx x).aperbase = 0 ∧ (t.ctx x).st ≠ .active := by
  let u := clearWindows ((resetContexts n).foldl stopCtx s) n (resetContexts n)
  have run : exec .functionLevelReset s = .next (u.mapMgmt fun m =>
      { m with msixOn := putField m.msixOn n.toNat 1 0, msixTab := tabDrop (fun k => k / 512 = n.toNat) m.msixTab
               msixPend := m.msixPend.filter fun e => e.1 ≠ n }) := by
    show execFunctionLevelReset s = _
    rw [execFunctionLevelReset, ofNat_ix hix]
    rfl
  refine ⟨_, run, getLsbD_putField_one _ n.isLt 0, fun x hx => ⟨clearWindows_aperbase _ n _ x (mem_resetContexts hx), ?_⟩⟩
  show (u.ctx x).st ≠ .active
  rw [clearWindows_st]
  exact forall_mem_foldl (P := fun x u => (u.ctx x).st ≠ .active) stopCtx_not_active (fun _ y _ h => stopCtx_keeps_not_active h y) _ s x
    (mem_resetContexts hx)

/-! ### The statement -/

/-- Settles O5, event by event. -/
theorem contextEventsTakeEffect : Obligations.ContextEventsTakeEffect := fun _ =>
  ⟨exec_create, exec_destroy, exec_contextFree, fun _ => exec_functionEnable, fun _ vf hix => exec_functionDisable hix vf,
    fun _ => exec_functionLevelReset⟩

end Sys2Proof.Machine
end

section
/-! PROOFS. The host side (03 R60, R62, R67; 04 R84): accesses through BAR 4, register writes, schedule-table writes and sensor reads, and the
statement about them. -/

namespace Sys2Proof.Machine

/-! ### Accesses through BAR 4 -/

/-- Function fn's access that waited under a number waits no longer. -/
def waitOver (s : State) (id : Nat) (fn : BitVec 4) : State :=
  s.mapMgmt fun m => { m with hostWaits := m.hostWaits.filter fun h => !(h.id = id && h.fn = fn) }

/-- A new access within BAR 4 that is made in its own step: a write is not answered, a read is answered with its value (R60). -/
theorem barOp_ok {s t : State} {fn : BitVec 4} {v : Nat} {bad write : Bool} (hw : s.ev.who = .fn fn) (hr : reachable s (.fn fn) = true)
    (first : s.ev.ix = 0) (fits : s.ev.value.toNat + hostSize s ≤ bar4Size s fn)
    (made : barAccess s fn (freshWait s) ((s.ctx (fn.setWidth 6)).aperbase + s.ev.value).toNat (hostSize s) write s.ev.flag
      (s.ev.aux.toNat % 2 ^ (8 * hostSize s)) = .ok v bad t) :
    barOp s write = if write then waitOver t (freshWait s) fn
      else answer (waitOver t (freshWait s) fn) (if bad then .poisoned (BitVec.ofNat 64 v) else .data (BitVec.ofNat 64 v)) := by
  have new : (s.mgmt.hostWaits.find? fun h => h.id + 1 = 0 && h.fn = fn) = none := List.find?_eq_none.mpr (by simp)
  have within : ¬(s.ev.value.toNat + hostSize s > bar4Size s fn) := Nat.not_lt.mpr fits
  simp only [barOp, hw, hr, first, new, within, decide_false, Bool.not_true, Bool.false_eq_true, if_false, ne_eq, not_true,
    Bool.and_false, Bool.false_and, made]
  rfl

/-! ### Register writes -/

/-- What a path reaches lies in its BAR 0. -/
theorem regPlace_within {w : Who} {o : Nat} (h : regPlace w o ≠ .outside) : o < bar0Size w := by
  cases w with
  | fn n =>
    by_cases pf : n = 0
    · simp only [regPlace, bar0Size, if_pos pf] at h ⊢
      split at h
      · omega
      · split at h
        · omega
        · split at h
          · omega
          · exact absurd rfl h
    · simp only [regPlace, bar0Size, if_neg pf] at h ⊢
      split at h
      · omega
      · exact absurd rfl h
  | _ =>
    simp only [regPlace, bar0Size] at h ⊢
    split at h
    · omega
    · exact absurd rfl h

theorem bar0Size_aligned (w : Who) : bar0Size w % 8 = 0 := by
  unfold bar0Size
  split
  · split <;> rfl
  · rfl

/-- A write of 64 bits by a path, by the place of the register. -/
def writeAt (s : State) (v : Word) : RegPlace → Who → State
  | .admin a, w => writeAdmin s w a v
  | .ctx x a, .fn n => writeCtx s n x a v
  | _, _ => s

theorem writeAt_admin (s : State) (v : Word) (a : Nat) (w : Who) : writeAt s v (.admin a) w = writeAdmin s w a v := by rw [writeAt]

theorem writeAt_ctx (s : State) (v : Word) (x : BitVec 6) (a : Nat) (n : BitVec 4) : writeAt s v (.ctx x a) (.fn n) = writeCtx s n x a v := by
  rw [writeAt]

/-- An aligned write of 64 bits within BAR 0 goes to the register that the path reaches there. -/
theorem exec_registerWrite {s : State} {p : RegPlace} (hr : reachable s s.ev.who = true) (register : s.ev.flag = false)
    (aligned : s.ev.ix % 8 = 0) (wide : s.ev.thread ≠ 4) (place : regPlace s.ev.who s.ev.ix = p) (h : p ≠ .outside) :
    exec .registerWrite s = .next (writeAt s s.ev.value p s.ev.who) := by
  have within : ¬(s.ev.ix + 8 > bar0Size s.ev.who) := by
    have := regPlace_within (place ▸ h)
    have := bar0Size_aligned s.ev.who
    omega
  have whole : s.ev.ix / 8 * 8 = s.ev.ix := Nat.div_mul_cancel (Nat.dvd_of_mod_eq_zero aligned)
  show execRegisterWrite s = _
  simp only [execRegisterWrite, hr, register, wide, within, aligned, whole, place, decide_false, Bool.not_true, Bool.false_eq_true, if_false,
    ne_eq, not_true]
  generalize s.ev.who = w
  cases p <;> cases w <;> rfl

/-! ### Writes of the schedule table -/

/-- What the schedule table keeps of a byte that is written at an offset of an entry: of the flags at 26, VALID comes about by VALID_SET. -/
def keptByte (k : Nat) (b : Byte) : Byte := if k = 26 then b &&& 0x38 else b

/-- The bytes that a list of writes to an entry that is not VALID leaves in the table (04 R84). -/
theorem writeEntry_table {s : State} {e : BitVec 12} (invalid : entryValid s e = false) (l : List (Nat × Byte)) :
    (writeEntry s e l).sched.table = l.foldl (fun t b => tabPut 0 t (32 * e.toNat + b.1) (keptByte b.1 b.2)) s.sched.table := by
  have armed (u : State) (c : Bool) (events : List (Instr × EvArg)) : (if c then u.pushEvents events else u).sched = u.sched := by
    split <;> rfl
  unfold writeEntry
  rw [if_neg (by rw [invalid]; exact Bool.false_ne_true)]
  dsimp only
  rw [armed]
  exact (List.foldl_hom (fun u : State => u.sched.table) fun _ _ => rfl).symm

/-- Writes at rising keys are all read back. -/
theorem tabGet_foldl_tabPut (f : Nat → Byte) (k n : Nat) (t : List Host.Cell) {i : Nat} (h : i < n) :
    tabGet 0 ((List.range n).foldl (fun t i => tabPut 0 t (k + i) (f i)) t) (k + i) = f i := by
  induction n with
  | zero => exact absurd h (Nat.not_lt_zero i)
  | succ n ih =>
    rw [List.range_succ, List.foldl_append, List.foldl_cons, List.foldl_nil, tabGet_tabPut]
    split
    · next last => rw [Nat.add_left_cancel last]
    · next earlier => exact ih (by omega)

/-- Each byte of a write from offset k of an entry on is kept at its place. -/
theorem writeEntry_byte {s : State} {e : BitVec 12} (invalid : entryValid s e = false) (k n : Nat) (data : Lanes) {i : Nat} (h : i < n) :
    tabGet 0 (writeEntry s e (writeBytes k n data)).sched.table (32 * e.toNat + k + i) = keptByte (k + i) (data.extractLsb' (8 * i) 8) := by
  rw [writeEntry_table invalid, writeBytes, List.foldl_map]
  simp only [← Nat.add_assoc (32 * e.toNat)]
  exact tabGet_foldl_tabPut (fun i => keptByte (k + i) (data.extractLsb' (8 * i) 8)) _ n _ h

/-- Of a write that stays within an entry every byte reaches that entry, at its offset there. -/
theorem writeBytes_inEntry {k n : Nat} (h : k + n ≤ 32) (e : Nat) (data : Lanes) :
    ((writeBytes (32 * e + k) n data).filter fun b => b.1 / 32 = e).map (fun b => (b.1 % 32, b.2)) = writeBytes k n data := by
  unfold writeBytes
  rw [List.filter_eq_self.mpr, List.map_map]
  · refine List.map_congr_left fun i hi => ?_
    have := List.mem_range.mp hi
    simp only [Function.comp]
    rw [show (32 * e + k + i) % 32 = k + i by omega]
  · intro b hb
    obtain ⟨i, hi, rfl⟩ := List.mem_map.mp hb
    have := List.mem_range.mp hi
    simp only [decide_eq_true_eq]
    omega

theorem rangeOf_self (n : Nat) : rangeOf n n = [n] := by simp [rangeOf]

/-- The PF's write within one entry of its schedule window writes that entry (04 R83, R84). -/
theorem exec_scheduleEntryWrite {s : State} {e : BitVec 12} {k : Nat} (hw : s.ev.who = .fn 0) (hr : reachable s (.fn 0) = true)
    (hix : s.ev.ix = 32 * e.toNat + k) (nonempty : 1 ≤ s.ev.aux.toNat) (fits : k + s.ev.aux.toNat ≤ 32) :
    exec .scheduleEntryWrite s = .next (writeEntry s e (writeBytes k s.ev.aux.toNat s.ev.data)) := by
  have entry := e.isLt
  have size : min s.ev.aux.toNat 256 = s.ev.aux.toNat := by omega
  have table : ¬(32 * e.toNat + k ≥ 0x100000) := by omega
  have first : (32 * e.toNat + k) / 32 = e.toNat := by omega
  have last : (32 * e.toNat + k + s.ev.aux.toNat - 1) / 32 = e.toNat := by omega
  have inside : ¬(32 * e.toNat + k ≥ windowSize 0 false) := by
    show ¬32 * e.toNat + k ≥ 2 ^ 17
    omega
  have whole : ¬(32 * e.toNat + k + s.ev.aux.toNat > windowSize 0 false) := by
    show ¬32 * e.toNat + k + s.ev.aux.toNat > 2 ^ 17
    omega
  have named : windowEntry s 0 e.toNat = some e := by
    rw [windowEntry, if_pos rfl, if_pos entry, BitVec.ofNat_toNat, BitVec.setWidth_eq]
  show execScheduleEntryWrite s = _
  simp only [execScheduleEntryWrite, hw, hr, hix, size, table, Nat.ne_of_gt nonempty, inside, whole, first, last, rangeOf_self, decide_false,
    Bool.not_true, Bool.or_self, Bool.false_eq_true, if_false, List.foldl_cons, List.foldl_nil, named, writeBytes_inEntry fits]

/-! ### Sensors -/

theorem exec_pldmSensorRead {s : State} (h : isSensor s.ev.ix = true) :
    exec .pldmSensorRead s = .next (answer s (.sensor (tabGet 0 s.mgmt.tel s.ev.ix) (tabGet 0 s.mgmt.tel 0x3000))) :=
  congrArg Host.Outcome.next (if_pos h)

/-! ### The statement -/

/-- Settles O19, access by access. -/
theorem hostAccessesArePerformed : Obligations.HostAccessesArePerformed := by
  intro s
  refine ⟨fun fn v bad t hw hr first fits made => ⟨_, congrArg Host.Outcome.next (barOp_ok hw hr first fits made), rfl, rfl⟩,
    fun fn v bad t hw hr first fits made => ⟨_, congrArg Host.Outcome.next (barOp_ok hw hr first fits made), rfl, rfl⟩,
    fun hr register aligned wide => ⟨fun a place => ?_, fun x a n place hw => ?_⟩,
    fun e k hw hr hix bytes fits invalid => ⟨_, exec_scheduleEntryWrite hw hr hix bytes fits, fun i hi noFlags => ?_⟩, exec_pldmSensorRead⟩
  · rw [exec_registerWrite hr register aligned wide place RegPlace.noConfusion, writeAt_admin]
  · rw [exec_registerWrite hr register aligned wide place RegPlace.noConfusion, hw, writeAt_ctx]
  · rw [hix, writeEntry_byte invalid k _ _ hi, keptByte, if_neg noFlags]

end Sys2Proof.Machine
end

section
/-! SUPPORT. What stands aside from the stores. A write of a record, an event pennant or a cache line walks through memory, cores, counts and the
agenda; what an observation of the state shows besides them is the same afterwards. -/

namespace Sys2Proof.Machine

/-- An observation that shows nothing of memory, of the cores, of the clusters and of the agenda. -/
structure BlindToStores {α : Type} (g : State → α) : Prop where
  mem : ∀ s f, g (s.mapMem f) = g s
  core : ∀ s c f, g (s.mapCore c f) = g s
  cluster : ∀ s n f, g (s.mapCluster n f) = g s
  events : ∀ s l, g (s.pushEvents l) = g s

/-- An observation that shows nothing either of contexts, occurrences, halyards, the management unit and whether selection is due. -/
structure BlindToLaunches {α : Type} (g : State → α) : Prop extends BlindToStores g where
  ctx : ∀ s x f, g (s.mapCtx x f) = g s
  occ : ∀ s n o, g (s.setOcc n o) = g s
  hal : ∀ s k f, g (s.mapHalKey k f) = g s
  mgmt : ∀ s f, g (s.mapMgmt f) = g s
  freed : ∀ s b, g (s.mapSched fun m => { m with freed := b }) = g s

/-- The schedule table is no part of the stores and of what launches hold. -/
theorem table_blind : BlindToLaunches fun s => s.sched.table :=
  ⟨⟨fun _ _ => rfl, fun _ _ _ => rfl, fun _ _ _ => rfl, fun _ _ => rfl⟩, fun _ _ _ => rfl, fun _ _ _ => rfl, fun _ _ _ => rfl, fun _ _ => rfl,
    fun _ _ => rfl⟩

section
variable {α : Type} {g : State → α} (h : BlindToStores g)
include h

/-! ### Scratchpads -/

theorem scatterPieces_blind (v : Nat) (ps : List Piece) (s : State) : g (scatterPieces s v ps) = g s := by
  induction ps generalizing s with
  | nil => rfl
  | cons p r ih => exact (ih _).trans (h.mem _ _)

theorem notePlainWrite_blind (s : State) (a : Ag) (keys : List Nat) : g (notePlainWrite s a keys) = g s := by
  unfold notePlainWrite
  exact h.mem _ _

theorem plainWrite_blind (s : State) (a : Ag) (v : Nat) (ps : List Piece) : g (plainWrite s a v ps) = g s :=
  calc g (plainWrite s a v ps)
    _ = g (ps.foldl (fun s p => setTags s p (plainTag s a 0 (clusterOf p.core))) (scatterPieces s v ps)) :=
      (h.events _ _).trans (notePlainWrite_blind h _ _ _)
    _ = g (scatterPieces s v ps) := foldl_keeps g (fun _ _ => h.mem _ _) _ _
    _ = g s := scatterPieces_blind h v ps s

theorem countRelease_blind (s : State) (a : Ag) (sc : Nat) : g (countRelease s a sc) = g s := by
  unfold countRelease
  split
  · rfl
  · dsimp only
    split
    · exact (h.events _ _).trans (h.cluster _ _ _)
    · exact h.cluster _ _ _

theorem noteRelease_blind (s : State) (a : Ag) (sc : Nat) (keys : List Nat) : g (noteRelease s a sc keys) = g s := by
  unfold noteRelease
  exact h.mem _ _

theorem syncRelease_blind (s : State) (a : Ag) (sc v : Nat) (p : Piece) : g (syncWrite s a true sc v p) = g s :=
  calc g (syncWrite s a true sc v p)
    _ = g (scatterPieces (countRelease s a sc) v [p]) := (h.events _ _).trans ((noteRelease_blind h _ _ _ _).trans (h.mem _ _))
    _ = g s := (scatterPieces_blind h v [p] _).trans (countRelease_blind h s a sc)

/-! ### Lines -/

theorem setLineMark_blind (s : State) (pa : Nat) (f : LineMark → LineMark) : g (setLineMark s pa f) = g s := h.mem _ _

theorem settleLine_blind (s : State) (pa : Nat) : g (settleLine s pa) = g s := h.mem _ _

theorem claimLine_blind (s : State) (x : BitVec 6) (leaf : Word) (va pa : Nat) : g (claimLine s x leaf va pa) = g s := by
  unfold claimLine
  split
  · rfl
  · exact (setLineMark_blind h _ _ _).trans (settleLine_blind h _ _)

theorem storeLine_blind (s : State) (d : DLine) : g (storeLine s d) = g s := by
  unfold storeLine
  split
  · rfl
  · exact (h.events _ _).trans ((h.mem _ _).trans ((foldl_keeps g (fun _ _ => h.mem _ _) _ _).trans (claimLine_blind h _ _ _ _ _)))

theorem yieldNear_blind (s : State) (c : BitVec 10) (pa : Nat) : g (yieldNear s c pa) = g s := by
  unfold yieldNear
  split
  · rfl
  · split
    · rfl
    · exact (setLineMark_blind h _ _ _).trans ((h.core _ _ _).trans (foldl_keeps g (storeLine_blind h) _ _))

theorem writeBackLine_blind (s : State) (c : BitVec 10) (d : DLine) : g (writeBackLine s c d) = g s := by
  unfold writeBackLine
  split
  · rfl
  · exact (storeLine_blind h _ d).trans (yieldNear_blind h s c _)

theorem sendHome_blind (c : BitVec 10) (s : State) (d : DLine) : g (sendHome c s d) = g s := by
  unfold sendHome
  dsimp only
  split
  · exact (setLineMark_blind h _ _ _).trans (writeBackLine_blind h s c d)
  · exact writeBackLine_blind h s c d

theorem dcOut_blind (s : State) (c : BitVec 10) (p : DLine → Bool) : g (dcOut s c p) = g s := by
  unfold dcOut
  exact (h.core _ _ _).trans (foldl_keeps g (sendHome_blind h c) _ _)

theorem recallNear_blind (s : State) (pa : Nat) : g (recallNear s pa) = g s := by
  unfold recallNear
  split
  · rfl
  · exact (setLineMark_blind h _ _ _).trans (dcOut_blind h s _ _)

theorem evictLine_blind (s : State) (pa : Nat) : g (evictLine s pa) = g s :=
  (settleLine_blind h _ pa).trans (recallNear_blind h s pa)

theorem makeRoom_blind (s : State) (n : BitVec 8) (pa : Nat) : g (makeRoom s n pa) = g s := by
  unfold makeRoom
  split
  · rfl
  · split
    · exact evictLine_blind h s _
    · rfl

theorem holdLine_blind (s : State) (x : BitVec 6) (leaf : Word) (va pa : Nat) : g (holdLine s x leaf va pa) = g s := by
  unfold holdLine
  split
  · rfl
  · exact (makeRoom_blind h _ _ _).trans ((claimLine_blind h _ _ _ _ _).trans (recallNear_blind h s pa))

/-- A line that is held and taken back from a near holder. -/
theorem recallHeld_blind (s : State) (x : BitVec 6) (leaf : Word) (va pa : Nat) : g (recallNear (holdLine s x leaf va pa) pa) = g s :=
  (recallNear_blind h _ _).trans (holdLine_blind h s x leaf va pa)

theorem homeWrite_blind (s : State) (a : Ag) (x : BitVec 6) (leaf : Word) (through : Bool) (va pa n v : Nat) :
    g (homeWrite s a x leaf through va pa n v) = g s := by
  have stored (u : State) (out : Bool) : g (notePlainWrite (physStore (dropReplicas u pa) out pa (leBytes n v)) a (physKeys pa n)) = g u :=
    (notePlainWrite_blind h _ _ _).trans ((h.mem _ _).trans (h.mem _ _))
  unfold homeWrite
  generalize (through || pteUncached leaf) = out
  refine (h.events _ _).trans ?_
  cases out with
  | true => exact (stored _ true).trans (evictLine_blind h s pa)
  | false =>
    simp only [Bool.false_eq_true, if_false]
    exact (setLineMark_blind h _ _ _).trans ((stored _ false).trans (recallHeld_blind h s x leaf va pa))

/-! ### Accesses of the halyard engine -/

theorem halPut_blind (s : State) (dir : Nat) (ag : Ag) (through : Bool) (va n v : Nat) : g (halPut s dir ag through va n v) = g s := by
  unfold halPut
  split
  · exact plainWrite_blind h _ _ _ _
  · split
    · exact foldl_keeps g (fun _ _ => homeWrite_blind h _ _ _ _ _ _ _ _ _) _ _
    · rfl

theorem writeRecord_blind (s : State) (dir : Nat) (ag : Ag) : g (writeRecord s dir ag) = g s := by
  have put := halPut_blind h s dir ag true (s.halAt dir).addr.toNat 256 (leNat (recordBytes (s.halAt dir) (halNum dir)))
  refine (noteRelease_blind h _ _ _ _).trans ((countRelease_blind h _ _ _).trans ?_)
  split
  · exact (h.mem _ _).trans put
  · exact put

theorem orPennant_blind (s : State) (dir e : Nat) : g (orPennant s dir e) = g s := by
  unfold orPennant
  dsimp only
  split
  · split
    · rfl
    · exact syncRelease_blind h _ _ _ _ _
  · split
    · exact (h.events _ _).trans ((noteRelease_blind h _ _ _ _).trans ((h.mem _ _).trans ((h.mem _ _).trans
        ((countRelease_blind h _ _ _).trans (recallHeld_blind h _ _ _ _ _)))))
    · rfl

/-! ### The scheduler's own stores -/

theorem cpWrite_blind {s t : State} {x : BitVec 6} {va : Nat} {l : List Byte} (made : cpWrite s x va l = some t) : g t = g s := by
  unfold cpWrite at made
  split at made
  · cases made
  · cases made
    exact (h.events _ _).trans ((notePlainWrite_blind h _ _ _).trans ((h.mem _ _).trans (foldl_keeps g (evictLine_blind h) _ _)))

theorem reservePower_blind (s : State) (cs : List (BitVec 10)) (n : Nat) (add : Bool) : g (reservePower s cs n add) = g s :=
  foldl_keeps g (fun _ _ => h.cluster _ _ _) _ _

theorem releaseQueues_blind (s : State) (id : Nat) (o : Occ) : g (releaseQueues s id o) = g s :=
  foldl_keeps g (fun _ _ => h.cluster _ _ _) _ _

theorem clearCore_blind (s : State) (c : BitVec 10) : g (clearCore s c) = g s := (h.core _ _ _).trans (dcOut_blind h s c _)

end

section
variable {α : Type} {g : State → α} (h : BlindToLaunches g)
include h

/-! ### Records and halyards -/

theorem sendMsix_blind (s : State) (fn : BitVec 4) (v : Nat) : g (sendMsix s fn v) = g s := by
  unfold sendMsix
  dsimp only
  split
  · rfl
  · exact h.mgmt _ _

theorem eventRecord_blind (s : State) (x : BitVec 6) (kind reason : Nat) (occ : Option Nat) (payload : Nat) :
    g (eventRecord s x kind reason occ payload) = g s := by
  unfold eventRecord
  dsimp only
  split
  · exact h.ctx _ _ _
  · split
    · exact h.ctx _ _ _
    · split
      · exact h.ctx _ _ _
      · next made => exact (sendMsix_blind h _ _ _).trans ((h.ctx _ _ _).trans (cpWrite_blind h.toBlindToStores made))

theorem queueFor_blind (s : State) (owner : Option Nat) (c : BitVec 10) (cause : Word) : g (queueFor s owner c cause) = g s := by
  unfold queueFor
  split
  · rfl
  · split
    · exact h.occ _ _ _
    · split
      · exact h.core _ _ _
      · rfl

theorem raiseHal_blind (s : State) (dir e : Nat) : g (raiseHal s dir e) = g s := by
  have raised (u : State) (hu : g u = g s) (b : Bool) (owner : Option Nat) (c : BitVec 10) (cause : Word) :
      g (if b then queueFor u owner c cause else u) = g s := by
    split
    · exact (queueFor_blind h _ _ _ _).trans hu
    · exact hu
  have pennant : g (if (s.halAt dir).evpmask.getLsbD e && (s.halAt dir).evpen ≠ 0 then orPennant s dir e else s) = g s := by
    split
    · exact orPennant_blind h.toBlindToStores s dir e
    · rfl
  unfold raiseHal
  dsimp only
  split
  · exact raised _ pennant _ _ _ _
  · exact pennant

theorem parkNow_blind (s : State) (dir : Nat) : g (parkNow s dir) = g s := by
  unfold parkNow
  split
  · exact (writeRecord_blind h.toBlindToStores _ _ _).trans (h.hal _ _ _)
  · exact (h.hal _ _ _).trans ((eventRecord_blind h _ _ _ _ _ _).trans ((raiseHal_blind h _ _ _).trans (h.hal _ _ _)))

/-! ### What an occurrence holds before it has run -/

theorem releasePower_blind (s : State) (id : Nat) : g (releasePower s id) = g s := by
  unfold releasePower
  split
  · rfl
  · exact (h.occ _ _ _).trans (reservePower_blind h.toBlindToStores _ _ _ _)

theorem unbindHals_blind (s : State) (id : Nat) : g (unbindHals s id) = g s := foldl_keeps g (fun _ _ => parkNow_blind h _ _) _ _

theorem freeCore_blind (s : State) (c : BitVec 10) : g (freeCore s c) = g s := (h.freed _ _).trans (clearCore_blind h.toBlindToStores s c)

theorem freeCores_blind (s : State) (id : Nat) (o : Occ) : g (freeCores s id o) = g s := foldl_keeps g (freeCore_blind h) _ _

theorem releaseAll_blind (s : State) (id : Nat) : g (releaseAll s id) = g s := by
  unfold releaseAll
  split
  · rfl
  · exact (h.freed _ _).trans ((freeCores_blind h _ _ _).trans ((unbindHals_blind h _ _).trans
      ((releaseQueues_blind h.toBlindToStores _ _ _).trans (releasePower_blind h s id))))

end

end Sys2Proof.Machine
end

section
/-! PROOFS. The course of an occurrence (04 R85-R89, R95, R97; 05 R104): arming and disarming an entry, preparation, loading, start, the instant
and the end, and the statement about them. -/

namespace Sys2Proof.Machine

/-! ### VALID of an entry -/

theorem entryValid_setValid (s : State) (d e : BitVec 12) (v : Bool) :
    entryValid (setValid s d v) e = if d = e then v else entryValid s e := by
  have key : 32 * d.toNat + 26 = 32 * e.toNat + 26 ↔ d = e := by
    rw [← BitVec.toNat_inj]
    omega
  simp only [entryValid, setValid, State.mapSched_sched, tabGet_tabPut, key]
  split
  · rw [getLsbD_putField_one _ (by decide)]
    cases v <;> rfl
  · rfl

/-- An entry that is not VALID stays so when another one's VALID is cleared. -/
theorem setValid_false_keeps {s : State} {e : BitVec 12} (h : entryValid s e = false) (d : BitVec 12) :
    entryValid (setValid s d false) e = false := by
  rw [entryValid_setValid, h, ite_self]

/-- VALID is read from the schedule table alone. -/
theorem entryValid_congr {s t : State} (h : t.sched.table = s.sched.table) (e : BitVec 12) : entryValid t e = entryValid s e := by
  rw [entryValid, h, entryValid]

/-! ### What a cancelled occurrence leaves of the table -/

/-- An occurrence that leaves the machine may clear its entry's VALID, and sets none (R85). -/
theorem retireOcc_keeps_invalid {s : State} {e : BitVec 12} (h : entryValid s e = false) (id : Nat) : entryValid (retireOcc s id) e = false := by
  unfold retireOcc
  split
  · exact h
  · dsimp only
    split
    · split
      · exact setValid_false_keeps h _
      · exact h
    · exact h

/-- One occurrence's turn when VALID of entry e is cleared: it is cancelled if its preparation began in this very cycle (R86). -/
def cancelNew (e : BitVec 12) (s : State) (x : Nat × Occ) : State :=
  if x.2.entry = e && x.2.bornAt = s.cycle && x.2.phase ≠ .running then retireOcc (releaseAll s x.1) x.1 else s

theorem cancelNew_keeps_invalid {s : State} {e : BitVec 12} (h : entryValid s e = false) (d : BitVec 12) (x : Nat × Occ) :
    entryValid (cancelNew d s x) e = false := by
  unfold cancelNew
  split
  · exact retireOcc_keeps_invalid ((entryValid_congr (releaseAll_blind table_blind s x.1) e).trans h) x.1
  · exact h

/-! ### Arming and preparation -/

theorem addOcc_number (s : State) (e : BitVec 12) (i : Nat) (shared : Bool) (instant : Word) :
    (addOcc s e i shared instant).1 = s.sched.nextOccId := rfl

section
variable {s : State} {e : BitVec 12} (hix : s.ev.ix = e.toNat)
include hix

/-- The entry that an event's data name. -/
theorem entry_ix : BitVec.ofNat 12 s.ev.ix = e := by rw [hix, BitVec.ofNat_toNat, BitVec.setWidth_eq]

/-- An entry is armed; a shared one's first occurrence is enqueued at once (R85; 05 R104). -/
theorem exec_validSet (off : entryValid s e = false) :
    exec .validSet s = .next (if (entryOf (armEntry s e) e).instant = 0 then enqueueShared (armEntry s e) e else armEntry s e) := by
  show execValidSet s = _
  simp only [execValidSet, entry_ix hix, off, Bool.false_eq_true, if_false]

theorem exec_validClear (on : entryValid s e = true) : reaches (exec .validClear s) fun t => entryValid t e = false := by
  have cleared : entryValid (setValid s e false) e = false := by rw [entryValid_setValid, if_pos rfl]
  refine ⟨(occList s).foldl (cancelNew e) (setValid s e false), ?_,
    List.foldlRecOn (motive := fun u => entryValid u e = false) _ _ cleared fun _ hu x _ => cancelNew_keeps_invalid hu e x⟩
  show execValidClear s = _
  rw [execValidClear, entry_ix hix, on]
  rfl

/-- Preparation of an entry's next occurrence begins when it is due, and the one after it follows in the same cycle if it is due too (R86). -/
theorem exec_preparationBegin {n : Nat} (first : s.ev.aux = 0) (due : prepDue s e = true)
    (known : occInstant s e (tabGet 0 s.sched.nextOcc e.toNat) = some n) :
    exec .preparationBegin s = .next
      (let t := beginTimed (addOcc s e (tabGet 0 s.sched.nextOcc e.toNat) false (BitVec.ofNat 64 n)).2 s.sched.nextOccId (postedLate s e n)
       if prepDue t e then t.pushEvents [(.preparationBegin, { ix := e.toNat })] else t) := by
  show execPreparationBegin s = _
  simp only [execPreparationBegin, entry_ix hix, first, due, known, addOcc_number, ne_eq, not_true, if_false]

end

/-! ### Preparation that goes on, and loading -/

theorem exec_preparationContinue {s : State} (h : s.ev.aux ≠ 0) : exec .preparationBegin s = .next (prepare s (s.ev.aux.toNat - 1)) :=
  congrArg Host.Outcome.next (if_pos h)

/-- The first occurrence that waits for a free core is loaded there when its image can be read (R95). -/
theorem exec_imageLoad {s t : State} {id : Nat} {o : Occ} (first : loaderOf s s.ev.core = some (id, o)) (free : loadable s id s.ev.core = true)
    (read : readImage s id o (fun l u => .ok (loadCore u id o s.ev.core l)) = .ok t) :
    exec .imageLoad s = .next (t.mapOcc id (Occ.loaded s.ev.core)) := by
  show execImageLoad s = _
  simp only [execImageLoad, first, free, read, Bool.not_true, Bool.false_eq_true, if_false]

/-! ### Start, instant and end -/

section
variable {s : State} {o : Occ} (ho : s.occ? s.ev.ix = some o)
include ho

/-- A prepared occurrence starts at its instant, or is refused while the device has no owner (R87; log entry 99). -/
theorem exec_occurrenceStart (timed : o.shared = false) (ready : startable s s.ev.ix o = true) (due : o.instant ≤ s.time.now) :
    exec .occurrenceStart s = .next (beginOcc s s.ev.ix o) := by
  show execOccurrenceStart s = _
  simp [execOccurrenceStart, ho, timed, ready, due]

/-- A shared occurrence starts once it is loaded, or is refused while the device has no owner (05 R104; log entry 99). -/
theorem exec_sharedStart (shared : o.shared = true) (ready : startable s s.ev.ix o = true) :
    exec .sharedStart s = .next (beginOcc s s.ev.ix o) := by
  show execSharedStart s = _
  simp [execSharedStart, ho, shared, ready]

/-- An occurrence that does not run at its instant is late, and why (R89). -/
theorem exec_occurrenceInstant (new : o.atInstant = false) (due : o.instant ≤ s.time.now) (idle : o.phase ≠ .running) :
    exec .occurrenceInstant s =
      .next (lateOcc (s.mapOcc s.ev.ix fun o => { o with atInstant := true }) s.ev.ix (lateReason s s.ev.ix o)) := by
  have reached : ¬s.time.now < o.instant := BitVec.not_lt.mpr due
  show execOccurrenceInstant s = _
  simp [execOccurrenceInstant, ho, new, reached, idle]

/-- An occurrence that has ended is closed once its halyards are parked (R97). -/
theorem exec_occurrenceEnd {t u : State} (finished : ended s s.ev.ix o = true)
    (parked : parkOwned s ((s.sched.hals.filter fun e => e.2.owner = some s.ev.ix && e.2.st = .live).map fun e => e.1) = (some t, u)) :
    exec .occurrenceEnd s = .next (closeOcc t s.ev.ix o o.status o.cause) := by
  show execOccurrenceEnd s = _
  simp only [execOccurrenceEnd, ho, finished, parked, Bool.not_true, Bool.false_eq_true, if_false]

end

/-! ### The statement -/

/-- Settles O6, event by event. -/
theorem occurrencesRunTheirCourse : Obligations.OccurrencesRunTheirCourse := fun _ =>
  ⟨fun _ hix off => ⟨fun timed => by rw [exec_validSet hix off, if_neg timed], fun shared => by rw [exec_validSet hix off, if_pos shared]⟩,
    fun _ => exec_validClear, fun _ _ first hix => exec_preparationBegin hix first, exec_preparationContinue,
    fun _ _ _ => exec_imageLoad, fun _ => exec_occurrenceStart, fun _ => exec_sharedStart, fun _ => exec_occurrenceInstant,
    fun _ _ _ ho => exec_occurrenceEnd ho⟩

end Sys2Proof.Machine
end

section
/-! PROOFS. Frames and halyards (04 R99; 06 R138, R140, R144): submission, the engine's handling, the playback cursor and the end of a cut, and the
statement about them. -/

namespace Sys2Proof.Machine

/-! ### Submission -/

/-- A frame of a slot within its function's window that passes the checks joins the queue of its halyard, with NOW and P of its arrival (R99). -/
theorem exec_frameSubmit {s : State} {fn : BitVec 4} (hw : s.ev.who = .fn fn) (hr : reachable s (.fn fn) = true)
    (slot : s.ev.ix < if fn = 0 then 4096 else 256)
    (passes : frameRefusal s (frameCtx fn (slotFrame s fn s.ev.ix)) (slotFrame s fn s.ev.ix) = 0) :
    exec .frameSubmit s = .next
      (let dir := 4096 * (frameCtx fn (slotFrame s fn s.ev.ix)).toNat + (frameHdr (slotFrame s fn s.ev.ix)).hal
       s.mapSched fun m => { m with frameq := m.frameq ++ [{
         dir := dir, bytes := BitVec.ofNat 2048 (slotFrame s fn s.ev.ix), at_ := s.time.now
         p := if (s.halAt dir).st = .live then some (s.halAt dir).p else none }] }) := by
  have inside : ¬s.ev.ix ≥ (if fn = 0 then 4096 else 256) := Nat.not_le.mpr slot
  show execFrameSubmit s = _
  simp only [execFrameSubmit, hw, hr, inside, passes, decide_false, Bool.not_true, Bool.or_self, Bool.false_eq_true, if_false, ne_eq, not_true]

/-! ### Frames at the engine -/

/-- The oldest frame of a LIVE halyard is taken when all its accesses can be made (06 R140). -/
theorem handleFrame_live {s : State} {dir : Nat} {e : QFrame} (oldest : frameAt s dir = some e) (live : (s.halAt dir).st = .live)
    (ready : halReady s dir (frameAll s dir e) = .ok) :
    handleFrame s dir (frameHdr e.bytes.toNat).kind =
      takeFrame (halHold (s.mapSched fun m => { m with frameq := dropHead dir m.frameq }) dir (frameAll s dir e)) dir
        e.bytes.toNat e.at_.toNat e.p true := by
  simp only [handleFrame, oldest, live, ready, ne_eq, not_true, if_false, decide_true]

/-! ### The playback cursor -/

theorem mayPlay_lt {h : Hal} (plays : mayPlay h = true) : h.p < h.g := by
  simp only [mayPlay, Bool.and_eq_true, decide_eq_true_eq] at plays
  exact plays.1.1.2

/-- One position that can be read and played is passed; the last one raises DRAINED (06 R138). -/
theorem playOn_one {s : State} {dir : Nat} (plays : mayPlay (s.halAt dir) = true) (ready : halReady s dir (playNeeds s dir) = .ok)
    (due : playable s dir s.now (s.halAt dir).p.toNat = true) :
    playOn s dir 1 =
      (let t := (halHold s dir (playNeeds s dir)).mapHalKey dir fun h => { h with p := h.p + 1 }
       if (s.halAt dir).p + 1 = (s.halAt dir).g then raiseHal t dir 6 else t) := by
  simp only [playOn, plays, ready, due, Bool.not_true, Bool.false_eq_true, if_false, if_true]

/-- P passes the last committed position (06 R138). -/
theorem exec_playbackAdvance {s : State} (plays : mayPlay (s.halAt s.ev.ix) = true) (last : (s.halAt s.ev.ix).p + 1 = (s.halAt s.ev.ix).g)
    (ready : halReady s s.ev.ix (playNeeds s s.ev.ix) = .ok) (due : playable s s.ev.ix s.now (s.halAt s.ev.ix).p.toNat = true) :
    exec .playbackAdvance s =
      .next (raiseHal ((halHold s s.ev.ix (playNeeds s s.ev.ix)).mapHalKey s.ev.ix fun h => { h with p := h.p + 1 }) s.ev.ix 6) := by
  have one : (s.halAt s.ev.ix).g.toNat - (s.halAt s.ev.ix).p.toNat = 1 := by
    have := mayPlay_lt plays
    bv_omega
  show Host.Outcome.next (playOn s s.ev.ix _) = _
  rw [one, playOn_one plays ready due]
  exact congrArg Host.Outcome.next (if_pos last)

/-! ### The end of a cut -/

theorem halAt_mapHalKey_same (s : State) (k : Nat) (f : Hal → Hal) : (s.mapHalKey k f).halAt k = f (s.halAt k) := tabGet_tabPut_same ..

theorem exec_cutComplete {s : State} {w : CutWait} (waits : (s.halAt s.ev.ix).cut = some w) (answered : w.done ≤ s.cycle) :
    reaches (exec .cutComplete s) fun t => (t.halAt s.ev.ix).cut = some { w with ended := true } := by
  refine ⟨s.mapHalKey s.ev.ix fun h => { h with cut := some { w with ended := true } }, ?_,
    congrArg Hal.cut (halAt_mapHalKey_same s _ _)⟩
  show execCutComplete s = _
  simp only [execCutComplete, waits, answered, if_true]

/-! ### The statement -/

/-- Settles O13, event by event; the three kinds of frame are handled alike. -/
theorem halyardEventsTakeEffect : Obligations.HalyardEventsTakeEffect := by
  intro s
  refine ⟨fun fn hw hr slot passes => ⟨_, exec_frameSubmit hw hr slot passes, rfl⟩, fun k e oldest kind live ready => ?_,
    fun h hh plays last ready due => ?_, fun w => exec_cutComplete⟩
  · have handled := handleFrame_live oldest live ready
    rw [kind] at handled
    exact ⟨fun merge => congrArg Host.Outcome.next (merge ▸ handled), fun cut => congrArg Host.Outcome.next (cut ▸ handled),
      fun ends => congrArg Host.Outcome.next (ends ▸ handled)⟩
  · subst hh
    exact exec_playbackAdvance plays last ready due

end Sys2Proof.Machine
end

section
/-! PROOFS. Pre-emption (05 R115, R118, R121-R129): rounds, stops, snapshots, restores and the steps of the watchdog, and the statement about
them. -/

namespace Sys2Proof.Machine

section
variable {s : State} {o : Occ} (ho : s.occ? s.ev.ix = some o)
include ho

/-! ### Stops and snapshots -/

/-- The whole occurrence has reached its stop cycle (R121). -/
theorem exec_stopCycle_whole {n : Nat} (chosen : o.stopAt = some n) (due : n ≤ s.cycle) : exec .stopCycle s = .next (stopWhole s s.ev.ix o) := by
  show execStopCycle s = _
  simp only [execStopCycle, ho, chosen, due, decide_true, if_true]

/-- The one unit that is being stopped has reached its stop cycle (R121). -/
theorem exec_stopCycle_unit {u : UnitStop} {n : Nat} (part : o.stopAt = none) (units : o.units = [u]) (chosen : u.stage = .stopping n)
    (due : n ≤ s.cycle) : exec .stopCycle s = .next (stopUnit s s.ev.ix u) := by
  show execStopCycle s = _
  simp only [execStopCycle, ho, part, units, List.filter_cons, chosen, due, decide_true, if_true, Bool.false_eq_true, if_false, List.filter_nil,
    List.foldl_cons, List.foldl_nil]

/-- The units whose snapshots are written go into the store (R122). -/
theorem exec_snapshotComplete :
    exec .snapshotComplete s = .next (afterFree ((o.units.filter (UnitStop.written s.cycle)).foldl (storeUnit s.ev.ix o) s)) := by
  show execSnapshotComplete s = _
  simp only [execSnapshotComplete, ho]

/-! ### Restores -/

/-- The one unit that has been chosen begins its restore (R124). -/
theorem exec_unitResume {u : UnitStop} {c : BitVec 10} (unit : s.ev.flag = false) (core : s.ev.value = c.setWidth 64) (units : o.units = [u])
    (member : u.cores.contains c = true) (chosen : u.stage = .chosen) :
    reaches (exec .unitResume s) fun t =>
      (t.occ? s.ev.ix).map (·.units) = some [{ u with stage := .restoring (s.cycle + snapshotTime u.cores) }] := by
  have named : s.ev.value.setWidth 10 = c := by
    rw [core, BitVec.setWidth_setWidth_of_le _ (by decide), BitVec.setWidth_eq]
  refine ⟨_, congrArg Host.Outcome.next (if_neg (Bool.eq_false_iff.mp unit)), ?_⟩
  dsimp only
  rw [named, mapUnit, occ_mapOcc, if_pos rfl, ho]
  simp only [Option.map_some, units, mapIf, List.map_cons, List.map_nil, member, chosen, if_true]

/-- The units whose restore has ended run again once the image is read (R124). -/
theorem exec_restoreComplete {u : UnitStop} {us : List UnitStop} {t : State} (back : o.units.filter (UnitStop.restored s.cycle) = u :: us)
    (read : readImage s s.ev.ix o (fun l v => .ok (restoreUnits s.ev.ix o (u :: us) l v)) = .ok t) : exec .restoreComplete s = .next t := by
  show execRestoreComplete s = _
  simp only [execRestoreComplete, ho, back, read]

/-! ### Watchdogs -/

omit ho in
/-- The test that every watchdog step begins with: its limit is set and reached, and the step has not been taken. -/
theorem wdStep_due {limit : BitVec 32} {count taken : Nat} (set : limit ≠ 0) (reached : limit.toNat ≤ count) (new : taken % 2 = 0) :
    (limit = 0 || count < limit.toNat || taken % 2 = 1) = false := by
  rw [decide_eq_false set, decide_eq_false (Nat.not_lt.mpr reached), new]
  rfl

/-- The pre-empt step makes its record and its request, if the request can be made (R127). -/
theorem exec_watchdogPreempt (set : o.wdPre ≠ 0) (reached : o.wdPre.toNat ≤ o.wdCount) (new : o.wdDone % 2 = 0) (preemptible : o.pclass ≠ 0)
    (apart : o.wdPre ≠ o.wdKill) (live : o.ending = false) :
    exec .watchdogPreempt s = .next
      (let s' := s.mapOcc s.ev.ix fun o => { o with wdDone := o.wdDone + 1 }
       if canPreempt s' o (unitsToStop s' s.ev.ix o o.coreList) then
         preemptUnits (wdRecord s' s.ev.ix o 0x20 o.queue) s.ev.ix (holdingUnits s' s.ev.ix o o.coreList) else s') := by
  show execWatchdogPreempt s = _
  simp only [execWatchdogPreempt, ho, wdStep_due set reached new, preemptible, apart, live, decide_false, Bool.or_false, Bool.false_or,
    Bool.false_eq_true, if_false, Bool.not_eq_true', ← Bool.not_eq_true, ite_not, State.mapOcc_ev]

/-- The kill step (R128). -/
theorem exec_watchdogKill (set : o.wdKill ≠ 0) (reached : o.wdKill.toNat ≤ o.wdCount) (new : o.wdDone / 2 % 2 = 0) :
    exec .watchdogKill s = .next (killOccurrence (wdRecord (s.mapOcc s.ev.ix fun o => { o with wdDone := o.wdDone + 2 }) s.ev.ix o 0x21 o.queue)
      s.ev.ix .killed 0) := by
  show execWatchdogKill s = _
  simp only [execWatchdogKill, ho, wdStep_due set reached new, Bool.false_eq_true, if_false]

/-- The fence step (R129). -/
theorem exec_watchdogFence (set : o.wdFence ≠ 0) (reached : o.wdFence.toNat ≤ o.wdCount) (new : o.wdDone / 4 % 2 = 0) :
    exec .watchdogFence s = .next (fenceOcc s s.ev.ix o) := by
  show execWatchdogFence s = _
  simp only [execWatchdogFence, ho, wdStep_due set reached new, Bool.false_eq_true, if_false]

end

/-! ### The statement -/

/-- Settles O7, event by event; a round is the new credits, the pre-emptions of the candidates and a selection. -/
theorem preemptionEventsTakeEffect : Obligations.PreemptionEventsTakeEffect := fun _ =>
  ⟨rfl, fun _ _ ho => exec_stopCycle_whole ho, fun _ _ _ ho => exec_stopCycle_unit ho, fun _ => exec_snapshotComplete,
    fun again => congrArg Host.Outcome.next (if_pos again), fun _ _ _ unit ho => exec_unitResume ho unit,
    fun _ _ _ _ ho => exec_restoreComplete ho,
    fun _ ho set reached new preemptible apart live => ⟨_, exec_watchdogPreempt ho set reached new preemptible apart live, rfl⟩,
    fun _ => exec_watchdogKill, fun _ => exec_watchdogFence⟩

end Sys2Proof.Machine
end

section
/-! PROOFS. Hoists, holds and the ends of waits (05 R113; 09 R237; 15 R377; 16 R393, R403; 19 R468), and the statement about them. -/

namespace Sys2Proof.Machine

/-! ### Hoists -/

/-- No wait clashes with another one of its own core. -/
theorem hoistClash_self (w : HoistWait) : hoistClash w w = false := by
  simp [hoistClash]

/-- The waits that the arrival of w breaks: those that clash with another and are w or clash with w (R403). -/
def brokenBy (l : List HoistWait) (w : HoistWait) : List HoistWait :=
  l.filter fun a => (l.any fun b => hoistClash a b) && (a = w || hoistClash a w)

/-- An arrival that clashes with no wait, either way round, breaks none. -/
theorem brokenBy_append_eq_nil {l : List HoistWait} {w : HoistWait} (apart : ∀ a ∈ l, hoistClash a w = false ∧ hoistClash w a = false) :
    brokenBy (l ++ [w]) w = [] := by
  have alone : ((l ++ [w]).any fun b => hoistClash w b) = false := by
    rw [List.any_append, List.any_cons, hoistClash_self, List.any_nil, List.any_eq_false.mpr fun b hb => by rw [(apart b hb).2]; decide]
    rfl
  refine List.filter_eq_nil_iff.mpr fun a ha => ?_
  by_cases same : a = w
  · rw [same, alone, Bool.false_and]
    decide
  · have held : a ∈ l := by simpa [same] using ha
    simp [same, (apart a held).1]

section
variable {s : State} {c : BitVec 10} (hc : s.ev.core = c)
include hc

section
variable {n : Nat} (arrives : reachesHoist s [] c = true) (hn : (hdrHoist (wordOf (imemWord s c (s.core c).pc))).toNat = n)
include arrives hn

/-- A guidon that arrives at a hoist with good masks is held there (R237, R403). -/
theorem exec_hoistArrival_held (good : hoistBad s (hoistWait s c n) = false)
    (apart : ∀ a ∈ s.sched.hoists, hoistClash a (hoistWait s c n) = false ∧ hoistClash (hoistWait s c n) a = false) :
    reaches (exec .hoistArrival s) fun t => t.sched.hoists = s.sched.hoists ++ [hoistWait s c n] ∧ (t.core c).hoistHeld = some (n, 0) := by
  have unbroken := brokenBy_append_eq_nil apart
  rw [brokenBy] at unbroken
  refine ⟨(s.mapSched fun m => { m with hoists := s.sched.hoists ++ [hoistWait s c n] }).mapCore c fun k => { k with hoistHeld := some (n, 0) },
    ?_, rfl, by rw [core_mapCore_same]⟩
  show execHoistArrival s = _
  simp only [execHoistArrival, hc, arrives, hn, good, unbroken, List.isEmpty_nil, Bool.not_true, Bool.false_eq_true, if_false, if_true]

/-- Masks that break R403 by themselves trap the core, and one that splits a gang traps every held participant (R237). -/
theorem exec_hoistArrival_bad (bad : hoistBad s (hoistWait s c n) = true) :
    exec .hoistArrival s = .next (((if splitsGang s (clusterOf c) (hoistWait s c n).cmask then s.sched.hoists.filter (hoistShares (hoistWait s c n))
      else []) ++ [hoistWait s c n]).foldl hoistTrap s) := by
  show execHoistArrival s = _
  simp only [execHoistArrival, hc, arrives, hn, bad, Bool.not_true, Bool.false_eq_true, if_false, if_true]

end

/-- A group whose every participant is held leaves its hoist at its release cycle (R237). -/
theorem exec_hoistRelease {w : HoistWait} {n : Nat} (first : (s.sched.hoists.find? fun h => h.core = c) = some w)
    (complete : hoistRelease s w = some n) (due : n ≤ s.cycle) : exec .hoistRelease s = .next (releaseGroup s w) := by
  show execHoistRelease s = _
  simp only [execHoistRelease, hc, first, complete, Nat.not_lt.mpr due, if_false]

/-! ### Holds -/

/-- A hold that is over is gone (15 R377). -/
theorem exec_holdRelease (ended : holdOver s (s.core c) = true) : reaches (exec .holdRelease s) fun t => (t.core c).hold = none := by
  refine ⟨_, rfl, ?_⟩
  dsimp only
  rw [hc, core_mapCore_same, if_pos ended]

/-- A guidon's PHASE ends: the core goes to the target with the stage and the variant decided (05 R113). -/
theorem exec_phaseHoldEnd {n : BitVec 16} {m : BitVec 32} {o : Option Nat} {st : BitVec 16} {v : BitVec 8} {tgt : BitVec 16}
    (phase : (s.core c).hold = some (.phase 0 n m o)) (guidon : isGuidon s c = true) (decided : phaseDecision s c = some (st, v, tgt)) :
    reaches (exec .phaseHoldEnd s) fun t => (t.core c).hold = none ∧ (t.core c).stage = st ∧ (t.core c).variant = v ∧ (t.core c).pc = tgt := by
  refine ⟨s.mapCore c fun k => { k with hold := none, stage := st, variant := v, pc := tgt }, ?_, ?_⟩
  · show execPhaseHoldEnd s = _
    simp only [execPhaseHoldEnd, hc, phase, guidon, decided, if_true]
  · dsimp only
    rw [core_mapCore_same]
    exact ⟨rfl, rfl, rfl, rfl⟩

/-! ### Waits of a thread -/

section
variable {n : BitVec 3} (hn : s.ev.thread = n.setWidth 4)

omit hc in
include hn in
/-- The number 8 names the primary, no thread. -/
theorem ev_thread_not_prim : s.ev.thread ≠ 8 := by
  rw [hn]
  bv_omega

include hn

/-- What holds of a thread after the change that an event makes to the thread it names. -/
theorem reaches_mapThread {e : Host.Outcome State Fault Refusal} {g : Thread → Thread} (P : Thread → Prop)
    (made : e = .next (s.mapThread s.ev.core (s.ev.thread.setWidth 3) g)) (after : P (g (s.thread c n))) : reaches e fun t => P (t.thread c n) := by
  refine ⟨_, made, ?_⟩
  have named : s.ev.thread.setWidth 3 = n := by rw [hn, BitVec.setWidth_setWidth_of_le _ (by decide), BitVec.setWidth_eq]
  dsimp only
  rw [hc, named, thread_mapThread_same]
  exact after

/-- A thread whose word has been written nonzero reads it once more (16 R393). -/
theorem exec_pwaitWake_thread {g : Bool} {k : Nat} {l : Option Nat} (waits : (s.thread c n).st = .pwait g k l) :
    reaches (exec .pwaitWake s) fun t => (t.thread c n).st = .running ∧ (t.thread c n).lastRead = true :=
  reaches_mapThread hc hn (fun th => th.st = .running ∧ th.lastRead = true) (congrArg Host.Outcome.next (if_neg (ev_thread_not_prim hn)))
    (by rw [waits]; exact ⟨rfl, rfl⟩)

/-- A thread whose bound has passed reads its word once more (16 R393). -/
theorem exec_pwaitTimeout_thread {g : Bool} {k : Nat} (waits : (s.thread c n).st = .pwait g k (some 0)) :
    reaches (exec .pwaitTimeout s) fun t => (t.thread c n).st = .running ∧ (t.thread c n).lastRead = true :=
  reaches_mapThread hc hn (fun th => th.st = .running ∧ th.lastRead = true) (congrArg Host.Outcome.next (if_neg (ev_thread_not_prim hn)))
    (by rw [waits]; exact ⟨rfl, rfl⟩)

/-- A thread whose time has come runs again (19 R468). -/
theorem exec_sleepExpiry {w : Word} (sleeps : (s.thread c n).st = .sleep w) (due : w ≤ s.time.now) :
    reaches (exec .sleepExpiry s) fun t => (t.thread c n).st = .running :=
  reaches_mapThread hc hn (fun th => th.st = .running) rfl (by rw [sleeps]; exact congrArg Thread.st (if_pos due))

end

/-! ### Waits of a primary -/

section
variable {p : PWaitSt} (primary : s.ev.thread = 8) (waits : (s.core c).pwait = some p)
include primary waits

theorem exec_pwaitWake_prim (woken : s.ev.flag = true) : exec .pwaitWake s = .next (s.setCore c (endPwait (s.core c) p)) := by
  show execPwaitWake s = _
  simp only [execPwaitWake, hc, primary, State.mapCore, waits, woken, Bool.true_or, if_true]

theorem exec_pwaitTimeout_prim (passed : p.left = some 0) : exec .pwaitTimeout s = .next (s.setCore c (endPwait (s.core c) p)) := by
  show execPwaitTimeout s = _
  simp only [execPwaitTimeout, hc, primary, State.mapCore, waits, passed, if_true]

end

end

/-! ### The statement -/

/-- Settles O15, event by event; the waits of a thread and of a primary end apart. -/
theorem holdsAndWaitsEnd : Obligations.HoldsAndWaitsEnd := fun _ _ hc =>
  ⟨fun _ => exec_hoistArrival_held hc, fun _ => exec_hoistArrival_bad hc, fun _ _ => exec_hoistRelease hc, exec_holdRelease hc,
    fun _ _ _ _ _ _ => exec_phaseHoldEnd hc,
    fun _ _ _ _ hn waits => ⟨exec_pwaitWake_thread hc hn waits, fun bound => exec_pwaitTimeout_thread hc hn (bound ▸ waits)⟩,
    fun _ primary waits => ⟨exec_pwaitWake_prim hc primary waits, exec_pwaitTimeout_prim hc primary waits⟩,
    fun _ _ hn => exec_sleepExpiry hc hn⟩

end Sys2Proof.Machine
end

section
/-! PROOFS. Stage queues (05 R106-R108; 19 R460, R461): what SQPUT, SQGET and SQLEN come to for a primary and for a thread, and the statement
about them. -/

namespace Sys2Proof.Machine

/-! ### Operands -/

/-- An engine operation that is not performed again reads its registers as every other operation does. -/
theorem eOperand_first {s : State} (first : s.cur.retry = false) (r : BitVec 6) (kept : Word) : eOperand s r kept = readR s r := by
  cases agent : s.cur.agent with
  | prim c => simp only [eOperand, readR, agent, first, Bool.false_eq_true, if_false]
  | thread c n => simp only [eOperand, readR, agent]

theorem eA_first {s : State} (first : s.cur.retry = false) (r : BitVec 6) : eA s r = readR s r := eOperand_first first r _

theorem eB_first {s : State} (first : s.cur.retry = false) (r : BitVec 6) : eB s r = readR s r := eOperand_first first r _

/-! ### SQPUT and SQGET -/

/-- A primary's access is on its way to its buffer's bank (R461). -/
theorem sqOp_prim {s : State} {f : E3Form} {c : BitVec 10} (put : Bool) (agent : s.cur.agent = .prim c) (runs : executes s f.g = true)
    (first : s.cur.retry = false) (passes : sqTrap s f = none) :
    sqOp s f put = .next (s.mapCore c fun k => { k with accs := k.accs ++
      [{ newAccess s (.sq put (BitVec.ofNat 5 (fieldOf (readR s f.a) 0 5))) 4 4 (readR s f.b) [sqBuffer s (readR s f.b).toNat] with
         dest := destS s f.d }] }) := by
  rw [sqOp, passes, runE_next _ runs first]
  simp only [agent, eA_first first, eB_first first, issueAccess, me_prim agent]

/-- The ports that a thread's operation on queue j with its buffer at off needs are free (07 R155; R461). -/
def sqClear (s : State) (put : Bool) (j off : Nat) : Prop :=
  portsBusy s [sqBuffer s off] (!put) = false ∧ ((stageQ s j).cap = 0 ∨
    portsBusy s [poolPiece s ((stageQ s j).base + (if put then (stageQ s j).tail else (stageQ s j).head) % (stageQ s j).cap)] put = false)

theorem sqClear.not_busy {s : State} {put : Bool} {j off : Nat} (clear : sqClear s put j off) :
    (portsBusy s [sqBuffer s off] (!put) || ((stageQ s j).cap ≠ 0 &&
      portsBusy s [poolPiece s ((stageQ s j).base + (if put then (stageQ s j).tail else (stageQ s j).head) % (stageQ s j).cap)] put)) = false := by
  obtain ⟨buffer, none | pool⟩ := clear
  · simp [buffer, none]
  · simp [buffer, pool]

section
variable {s : State} {f : E3Form} {c : BitVec 10} {n : BitVec 3} {put : Bool} (agent : s.cur.agent = .thread c n) (runs : executes s f.g = true)
  (first : s.cur.retry = false) (passes : sqTrap s f = none) (clear : sqClear s put (fieldOf (readR s f.a) 0 5) (readR s f.b).toNat)
include agent runs first passes clear

/-- A thread's operation whose ports are free acts at once (R461). -/
theorem sqOp_thread_ok {d : Nat} {t : State} (made : sqPerform s put (fieldOf (readR s f.a) 0 5) (readR s f.b).toNat = .ok d t) :
    sqOp s f put = .next (finish (writeE t f.d (BitVec.ofNat 64 d))) := by
  rw [sqOp, passes, runE_next _ runs first, eA_first first, eB_first first]
  simp only [agent, clear.not_busy, made, Bool.false_eq_true, if_false]

/-- A queue without capacity raises QRESERVE (05 R108). -/
theorem sqOp_thread_unreserved (unreserved : (stageQ s (fieldOf (readR s f.a) 0 5)).cap = 0) :
    sqOp s f put = .next (takeThreadTrap s c n .qreserve 0) := by
  have refused : sqPerform s put (fieldOf (readR s f.a) 0 5) (readR s f.b).toNat = .reserve := if_pos unreserved
  rw [sqOp, passes, runE_next _ runs first, eA_first first, eB_first first]
  simp only [agent, clear.not_busy, refused, Bool.false_eq_true, if_false, takeTrap, reserveTrap]

end

/-- SQGET on a queue that holds nothing answers 0 and takes nothing (R460). -/
theorem sqPerform_get_empty {s : State} {j : Nat} (off : Nat) (made : (stageQ s j).cap ≠ 0) (empty : (stageQ s j).tail = (stageQ s j).head) :
    sqPerform s false j off = .ok 0 s := (if_neg made).trans (if_pos empty)

/-! ### SQLEN -/

/-- SQLEN answers the occupancy; with a threshold its core's old one gives way, and what the occupancy meets already fires (R460). -/
theorem sqlenOp_runs {s : State} {f : E3Form} (arm : Option Bool) (runs : executes s f.g = true) (first : s.cur.retry = false)
    (made : (stageQ s (fieldOf (readR s f.a) 0 5)).cap ≠ 0) :
    sqlenOp s f arm = .next
      (let j := fieldOf (readR s f.a) 0 5
       let t := writeE s f.d (BitVec.ofNat 64 ((stageQ s j).tail - (stageQ s j).head))
       finish (match arm with
         | none => t
         | some high => fireArms (mapStageQ t j fun q => { q with arms := (q.arms.filter fun u => u.core ≠ t.me) ++
             [{ core := t.me, high := high, at_ := (readR s f.b).setWidth 16 }] }) j)) := by
  rw [sqlenOp, runE_next _ runs first, eA_first first, eB_first first]
  exact congrArg Host.Outcome.next (if_neg made)

/-! ### The statement -/

/-- Settles O44: the operations of either agent, then the length. -/
theorem stageQueueOpsComplete : Obligations.StageQueueOpsComplete := fun _ _ runs first =>
  ⟨fun _ agent passes => ⟨sqOp_prim true agent runs first passes, sqOp_prim false agent runs first passes⟩,
    fun _ _ agent passes => ⟨fun _ _ clear => sqOp_thread_ok (put := true) agent runs first passes clear,
      fun _ _ clear => sqOp_thread_ok (put := false) agent runs first passes clear,
      fun clear => sqOp_thread_unreserved (put := true) agent runs first passes clear⟩,
    sqPerform_get_empty _, fun made => ⟨sqlenOp_runs none runs first made, sqlenOp_runs (some true) runs first made,
      sqlenOp_runs (some false) runs first made⟩⟩

end Sys2Proof.Machine
end

section
/-! PROOFS. The actions on a halyard (06 R131, R133, R138, R139, R148; 19 R456, R458): what each comes to when it is performed and when it is
refused, and the statement about them. -/

namespace Sys2Proof.Machine

/-! ### The common refusals -/

theorem whenLive_bound {s : State} {dir : Nat} (live : (s.halAt dir).st = .live) (bound : (s.halAt dir).bound = some s.me) (k : Hal → HRes) :
    whenLive s dir k = k (s.halAt dir) := by
  simp only [whenLive, live, bound, reduceCtorEq, if_false, ne_eq, not_true, decide_false, Bool.or_self, Bool.false_eq_true]

theorem whenLive_not_live {s : State} {dir : Nat} (dead : (s.halAt dir).st ≠ .live) (sound : (s.halAt dir).st ≠ .faulted) (k : Hal → HRes) :
    whenLive s dir k = refuse s .notLive := by
  simp only [whenLive, sound, dead, if_false, ne_eq, not_false_eq_true, decide_true, Bool.true_or, if_true]

/-! ### The cursors of a halyard that is LIVE and bound to the issuer -/

section
variable {s : State} {dir : Nat} {b : Word} (live : (s.halAt dir).st = .live) (bound : (s.halAt dir).bound = some s.me)
include live bound

theorem actHtent_raises (few : b.toNat ≤ 1024) (rises : (s.halAt dir).t.toNat ≤ (s.halAt dir).g.toNat + b.toNat)
    (room : (s.halAt dir).g.toNat + b.toNat ≤ (s.halAt dir).p.toNat + (s.halAt dir).kvcap.toNat)
    (fits : (s.halAt dir).g.toNat + b.toNat < 2 ^ 48) :
    actHtent s dir b = .done (halResult .ok ((s.halAt dir).g.toNat + b.toNat)) 0
      (s.mapHalKey dir fun h => raiseT h ((s.halAt dir).g.toNat + b.toNat)) := by
  refine (whenLive_bound live bound _).trans (if_neg ?_)
  simp only [Bool.or_eq_true, decide_eq_true_eq]
  omega

theorem actHtent_refused (breaks : 1024 < b.toNat ∨ (s.halAt dir).g.toNat + b.toNat < (s.halAt dir).t.toNat ∨
      (s.halAt dir).p.toNat + (s.halAt dir).kvcap.toNat < (s.halAt dir).g.toNat + b.toNat) :
    actHtent s dir b = refuse s .cursor := by
  refine (whenLive_bound live bound _).trans (if_pos ?_)
  simp only [Bool.or_eq_true, decide_eq_true_eq]
  omega

theorem actHckpt_marks (whole : b.toNat % 2 ^ (s.halAt dir).cklg.toNat = 0) (committed : b.toNat ≤ (s.halAt dir).g.toNat)
    (newest : (s.halAt dir).lastck = allOnes64 ∨ (s.halAt dir).lastck.toNat < b.toNat) :
    actHckpt s dir b = .done (halResult .ok b.toNat) 0 (s.mapHalKey dir fun h =>
      let j := b.toNat / 2 ^ (s.halAt dir).cklg.toNat % (s.halAt dir).ckcount.toNat
      { h with ckvalid := h.ckvalid ||| BitVec.ofNat 64 (2 ^ j), lastck := b, ckpos := tabPut allOnes64 h.ckpos j b }) := by
  refine (whenLive_bound live bound _).trans (if_neg ?_)
  simpa [whole, committed] using newest.resolve_left

theorem actHframe_too_many (uncut : (s.halAt dir).cut = none) (many : 56 < b.toNat) : actHframe s dir b = refuse s .cursor := by
  refine (whenLive_bound live bound _).trans ?_
  simp only [uncut]
  exact if_pos many

theorem actHframe_no_input (uncut : (s.halAt dir).cut = none) (few : b.toNat ≤ 56) (drained : (s.halAt dir).a.toNat ≤ (s.halAt dir).i.toNat) :
    actHframe s dir b = refuse s .noInput := by
  refine (whenLive_bound live bound _).trans ?_
  simp only [uncut]
  exact (if_neg (Nat.not_lt.mpr few)).trans (if_pos drained)

end

/-! ### HBIND -/

section
variable {s : State} {dir : Nat} {b : Word}

/-- A LIVE halyard whose record can be written is parked, whichever gang holds it (19 R456). -/
theorem actPark_live (live : (s.halAt dir).st = .live) (ready : recordReady s dir = .ok) :
    actPark s dir b = .done (halResult .ok 0) 0 (parkHal s dir) := by
  simp only [actPark, live, ready, reduceCtorEq, if_false, ne_eq, not_true]

theorem actClose_live (live : (s.halAt dir).st = .live) (ready : recordReady s dir = .ok) :
    actClose s dir b = .done (halResult .ok 0) 0 (closeHal s dir) := by
  simp only [actClose, live, ready, reduceCtorEq, if_false]

theorem actBind_closed (closed : (s.halAt dir).st = .closed) : actBind s dir b = .done (halResult .state 0) 0 s := by
  simp only [actBind, closed, reduceCtorEq, if_false, decide_true, Bool.true_or, if_true]

theorem actPark_closed (closed : (s.halAt dir).st = .closed) : actPark s dir b = .done (halResult .state 0) 0 s := by
  simp only [actPark, closed, reduceCtorEq, if_false, ne_eq, not_false_eq_true, if_true]

theorem actOpen_misaligned (closed : (s.halAt dir).st = .closed) (misaligned : b.toNat % 256 ≠ 0) :
    actOpen s dir b = .done (halResult .invalid 0) 0 s := by
  simp only [actOpen, closed, misaligned, reduceCtorEq, if_false, ne_eq, not_false_eq_true, if_true]

end

/-! ### The statement -/

/-- Settles O43: the actions of a bound halyard, the refusals of one that is not LIVE, and HBIND. -/
theorem cursorActionsAreStated : Obligations.CursorActionsAreStated := by
  rintro s dir b _ rfl
  refine ⟨fun live bound => ⟨?raise, actHtent_refused live bound, ?mark, fun many uncut => actHframe_too_many live bound uncut many,
      fun few uncut => actHframe_no_input live bound uncut few⟩,
    fun dead sound => ?refusals,
    fun live ready => ⟨actPark_live live ready, actClose_live live ready⟩,
    fun closed => ⟨actBind_closed closed, actPark_closed closed, actOpen_misaligned closed⟩⟩
  case raise =>
    intro few rises room fits
    exact ⟨_, actHtent_raises live bound few rises room fits, halAt_mapHalKey_same ..⟩
  case mark =>
    rintro _ whole committed newest rfl
    refine ⟨_, actHckpt_marks live bound whole committed newest, ?_⟩
    rw [halAt_mapHalKey_same]
    exact ⟨rfl, rfl, rfl⟩
  case refusals =>
    have refused := whenLive_not_live dead sound
    exact ⟨refused _, refused _, refused _, refused _, refused _⟩

end Sys2Proof.Machine
end

section
/-! SUPPORT. What a step does with the agenda's next task, and with the bundle that a core issues (09 R219, R231). -/

namespace Sys2Proof.Machine

theorem step_done {s t : State} (h : plan s = .done t) : step s = .next t := by
  simp only [step, h]

theorem step_run {s t : State} {i : Instr} (h : plan s = .run i t) : step s = exec i t := by
  simp only [step, h]

theorem plan_event {s : State} {i : Instr} {a : EvArg} {r : List Task} (next : s.agenda = .event i a :: r) :
    plan s = .run i { s with agenda := r, ev := a, cur := .reset } := by
  simp only [plan, next]

theorem plan_issue {s : State} {c : BitVec 10} {r : List Task} (next : s.agenda = .issue c :: r) :
    plan s = planIssue { s with agenda := r } c := by
  simp only [plan, next]

theorem plan_offer {s : State} {c : BitVec 10} {k : Nat} {r : List Task} (next : s.agenda = .offer c k :: r) :
    plan s = planOffer { s with agenda := r } c k := by
  simp only [plan, next]

theorem plan_threads {s : State} {c : BitVec 10} {r : List Task} (next : s.agenda = .threads c :: r) :
    plan s = planThreads { s with agenda := r } c := by
  simp only [plan, next]

section
variable {s : State} {c : BitVec 10} {b : Bundle} (issues : (s.core c).bund = some b)
include issues

/-- The operations of a bundle have all run: it ends. -/
theorem planBundle_ends (finished : b.ops = []) (m : BitVec 8) : planBundle s c m = .done (endBundle s c b) := by
  simp only [planBundle, issues, finished]

/-- The next operation of a bundle runs. -/
theorem planBundle_runs {sl : Slot} {i : Instr} {rest : List (Slot × Instr)} (ops : b.ops = (sl, i) :: rest) (m : BitVec 8) :
    planBundle s c m = .run i { (s.mapCore c fun k => { k with bund := some { b with ops := rest } }) with
      cur := { curOf c b sl with mask := m }, agenda := .issue c :: s.agenda } := by
  simp only [planBundle, issues, ops]
  rfl

theorem planIssue_goes_on : planIssue s c = planBundle s c 0 := by
  simp only [planIssue, issues, Option.isSome_some, if_true]

end

end Sys2Proof.Machine
end

section
/-! PROOFS. The end of an issued bundle (09 R216, R219, R225, R230; 15 R375): what the landing of results leaves alone, where the core goes and how
it runs, and the statement. -/

namespace Sys2Proof.Machine

/-! ### Landing results -/

/-- What of a core no result lands in: its counts of cycles, the bundle it issues, how it runs and where it goes. -/
structure Course where
  active : Word
  tick : Nat
  bund : Option Bundle
  run : Run
  pc : BitVec 16
  xfer : Option Xfer
  loops : Tab LoopReg

/-- The course of a core. -/
def Core.course (k : Core) : Course :=
  { active := k.active, tick := k.tick, bund := k.bund, run := k.run, pc := k.pc, xfer := k.xfer, loops := k.loops }

theorem putCreg_course (k : Core) (n : Nat) (v : Word) : (putCreg k n v).course = k.course := by
  unfold putCreg
  split
  case h_8 =>
    split
    · simp only [Core.course]
    · split <;> simp only [Core.course]
  all_goals simp only [Core.course]

theorem landPend_course (k : Core) (p : Pend) : (landPend k p).course = k.course := by
  unfold landPend
  cases p.dest with
  | creg n => exact putCreg_course _ _ _
  | _ => rfl

theorem keepWindows_course (n : Nat) (k : Core) : (keepWindows n k).course = k.course := by
  unfold keepWindows
  split <;> rfl

theorem landDue_course (n : Nat) (k : Core) : (landDue n k).course = k.course := by
  refine (foldl_keeps Core.course landPend_course _ _).trans ?_
  split
  · exact keepWindows_course n _
  · rfl

section
variable (n : Nat) (k : Core)

@[simp] theorem landDue_active : (landDue n k).active = k.active := congrArg Course.active (landDue_course n k)
@[simp] theorem landDue_tick : (landDue n k).tick = k.tick := congrArg Course.tick (landDue_course n k)
@[simp] theorem landDue_bund : (landDue n k).bund = k.bund := congrArg Course.bund (landDue_course n k)
@[simp] theorem landDue_run : (landDue n k).run = k.run := congrArg Course.run (landDue_course n k)
@[simp] theorem landDue_pc : (landDue n k).pc = k.pc := congrArg Course.pc (landDue_course n k)
@[simp] theorem landDue_xfer : (landDue n k).xfer = k.xfer := congrArg Course.xfer (landDue_course n k)
@[simp] theorem landDue_loops : (landDue n k).loops = k.loops := congrArg Course.loops (landDue_course n k)

end

/-! ### Where a core goes after a bundle -/

theorem loopsEnd_keeps {α : Type} (g : Core → α) (blind : ∀ k pc loops, g { k with pc := pc, loops := loops } = g k)
    (pc next : BitVec 16) (n : Nat) (k : Core) : g (loopsEnd k pc next n) = g k := by
  induction n generalizing k with
  | zero => exact blind k next k.loops
  | succ n ih =>
    unfold loopsEnd
    split
    · exact blind k next k.loops
    · split
      · exact (ih _).trans (blind k k.pc _)
      · exact blind k _ _

/-- Where a core goes touches its transfer, its loops, its pc and whether it is in a handler, and nothing else. -/
theorem nextBundle_keeps {α : Type} (g : Core → α)
    (blind : ∀ k xfer pc loops inui, g { k with xfer := xfer, pc := pc, loops := loops, inui := inui } = g k) (k : Core) (b : Bundle) :
    g (nextBundle k b) = g k := by
  unfold nextBundle
  split
  · split
    · dsimp only
      split
      · exact blind k _ _ _ _
      · exact blind k _ _ k.loops k.inui
    · exact blind k _ _ k.loops k.inui
  · exact loopsEnd_keeps g (fun k pc loops => blind k k.xfer pc loops k.inui) _ _ _ _

@[simp] theorem nextBundle_active (k : Core) (b : Bundle) : (nextBundle k b).active = k.active :=
  nextBundle_keeps Core.active (fun _ _ _ _ _ => rfl) k b
@[simp] theorem nextBundle_tick (k : Core) (b : Bundle) : (nextBundle k b).tick = k.tick :=
  nextBundle_keeps Core.tick (fun _ _ _ _ _ => rfl) k b
@[simp] theorem nextBundle_bund (k : Core) (b : Bundle) : (nextBundle k b).bund = k.bund :=
  nextBundle_keeps Core.bund (fun _ _ _ _ _ => rfl) k b

section
variable {k : Core} {b : Bundle}

theorem nextBundle_delay {x : Xfer} (taken : k.xfer = some x) (delayed : 1 < x.left) :
    nextBundle k b = { k with xfer := some { x with left := x.left - 1 }, pc := b.next } := by
  simp only [nextBundle, taken, Nat.not_le.mpr delayed, if_false]

theorem nextBundle_target {x : Xfer} (taken : k.xfer = some x) (last : x.left ≤ 1) (plain : x.iret = false) :
    nextBundle k b = { k with xfer := none, pc := x.target } := by
  simp only [nextBundle, taken, last, plain, if_true, Bool.false_eq_true, if_false]

theorem nextBundle_straight (free : k.xfer = none) (noLoop : loopAt k b.pc = none) : nextBundle k b = { k with pc := b.next } := by
  simp only [nextBundle, free, loopsEnd, noLoop]

theorem nextBundle_back {i : Nat} {e : LoopReg} (free : k.xfer = none) (newest : loopAt k b.pc = some (i, e)) (more : 1 < e.count.toNat) :
    nextBundle k b = { k with loops := tabPut .reset k.loops i { e with count := e.count - 1 }, pc := e.start } := by
  simp only [nextBundle, free, loopsEnd, newest, Nat.not_le.mpr more, if_false]

end

/-! ### The end of a bundle -/

/-- The cycle of an issued bundle is counted (09 R225). -/
def Core.bundleIssued (k : Core) : Core :=
  { k with bund := none, uiHold := false, active := k.active + 1, tick := k.tick + 1,
           handlerCount := if k.inui then k.handlerCount + 1 else k.handlerCount }

/-- How a core runs after a bundle: HALT stops it, and a follower stops with its guidon once it has issued what was forwarded to it (R232). -/
def Core.runsOn (k : Core) (b : Bundle) (stop : Run) : Core :=
  if b.halt then { k with run := .halted }
  else if k.stopPending && k.feed.isEmpty then
    (if stop = .preempted || stop = .killed then { k with run := stop, was := .running } else { k with run := stop, stopPending := false })
  else k

theorem runsOn_eq (k : Core) (b : Bundle) (stop : Run) : ∃ run was pending, (b.halt = true → run = .halted) ∧
    k.runsOn b stop = { k with run := run, was := was, stopPending := pending } := by
  unfold Core.runsOn
  split
  · exact ⟨_, _, _, fun _ => rfl, rfl⟩
  · next goesOn =>
    split
    · split
      · exact ⟨_, _, _, fun halts => absurd halts goesOn, rfl⟩
      · exact ⟨_, _, _, fun halts => absurd halts goesOn, rfl⟩
    · exact ⟨_, _, _, fun halts => absurd halts goesOn, rfl⟩

theorem endBundle_core (s : State) (c : BitVec 10) (b : Bundle) : (endBundle s c b).core c =
    landDue s.cycle ((nextBundle (s.core c).bundleIssued b).runsOn b (s.core (guidonOf s c)).run) :=
  core_mapCore_same s c _

/-! ### The statement -/

/-- Settles O50: the last step of a bundle is endBundle, and nextBundle says case by case where the core goes. -/
theorem bundlesEndWhereTheyMust : Obligations.BundlesEndWhereTheyMust := by
  intro s c r b next issues finished
  let u : State := { s with agenda := r }
  replace issues : (u.core c).bund = some b := issues
  have ends : plan s = .done (endBundle u c b) :=
    (plan_issue next).trans ((planIssue_goes_on issues).trans (planBundle_ends issues finished 0))
  refine ⟨endBundle u c b, step_done ends, rfl, fun d hd => core_mapCore_ne u (Ne.symm hd) _, ?_⟩
  obtain ⟨run, was, pending, halts, runs⟩ := runsOn_eq (nextBundle (u.core c).bundleIssued b) b (u.core (guidonOf u c)).run
  simp only [endBundle_core, runs, landDue_active, landDue_tick, landDue_bund, landDue_run, landDue_pc, landDue_xfer, landDue_loops,
    nextBundle_active, nextBundle_tick, nextBundle_bund]
  refine ⟨rfl, rfl, rfl, halts, fun x taken delayed => ?_, fun x taken last plain => ?_, fun free noLoop => ?_,
    fun i e free newest more => ?_⟩
  · rw [nextBundle_delay (k := (u.core c).bundleIssued) taken delayed]
    exact ⟨rfl, rfl⟩
  · rw [nextBundle_target (k := (u.core c).bundleIssued) taken last plain]
    exact ⟨rfl, rfl⟩
  · rw [nextBundle_straight (k := (u.core c).bundleIssued) free noLoop]
  · rw [nextBundle_back (k := (u.core c).bundleIssued) free newest more]
    exact ⟨rfl, tabGet_tabPut_same _ _ _⟩

end Sys2Proof.Machine
end

section
/-! PROOFS. A step runs the decoded instruction (09 R219, R231; 10 R244, R246; 14 R338, R355): the words of a fetched bundle and its operations,
the issue of a guidon's bundle, the offers and the threads that go on, and the statement. -/

namespace Sys2Proof.Machine

/-! ### The words of a fetched bundle (14 R338-R340) -/

/-- The words that the present slots of a list take. -/
def slotWords (h : Half) : List (Slot × Nat) → Nat
  | [] => 0
  | (sl, b) :: r => (if h.getLsbD b then if sl = .x then 2 else 1 else 0) + slotWords h r

/-- A slot's word lies among the words that the slots take. -/
theorem placeSlots_lt {h : Half} {sl : Slot} {n : Nat} {l : List (Slot × Nat)} {m : Nat} (placed : (sl, n) ∈ placeSlots h l m) :
    n < m + slotWords h l := by
  induction l generalizing m with
  | nil => cases placed
  | cons e r ih =>
    obtain ⟨y, b⟩ := e
    unfold placeSlots at placed
    by_cases present : h.getLsbD b = true
    · rw [if_pos present] at placed
      simp only [slotWords, present, if_true]
      rcases List.mem_cons.mp placed with here | later
      · cases here
        split <;> omega
      · have := ih later
        omega
    · rw [if_neg present] at placed
      simp only [slotWords, present]
      have := ih placed
      omega

theorem fieldOf_one {w : Nat} (x : BitVec w) (i : Nat) : fieldOf x i 1 = if x.getLsbD i then 1 else 0 := by
  simp only [fieldOf, BitVec.getLsbD, Nat.testBit_eq_decide_div_mod_eq, decide_eq_true_eq]
  split <;> omega

/-- The words of all slots: one for each present bit of the header, and one more for X. -/
theorem slotWords_slotBits (h : Half) : slotWords h slotBits = popcount (h.extractLsb' 22 8) + fieldOf h 28 1 := by
  rw [fieldOf_one]
  by_cases wide : h[28] = true
  · simp [slotWords, slotBits, popcount, countTrue, wide]
    omega
  · simp [slotWords, slotBits, popcount, countTrue, wide]
    omega

section
variable (s : State) (c : BitVec 10) (pc : BitVec 16)

theorem fetchBundle_length : (fetchBundle s c pc).words.length = bundleLen (wordOf (imemWord s c pc)) := by
  simp only [fetchBundle, List.length_map, List.length_range]

theorem fetchBundle_word (n : Nat) : (fetchBundle s c pc).words.getD n 0 =
    if n < (fetchBundle s c pc).words.length then imemWord s c (pc + BitVec.ofNat 16 n) else 0 := by
  rw [fetchBundle_length]
  simp only [fetchBundle, List.getD_eq_getElem?_getD, List.getElem?_map]
  split <;> simp [*]

/-- A slot of a fetched bundle is decoded from the words at its place. -/
theorem fetchBundle_slot {sl : Slot} {n : Nat} {d : Decoded} (slot : (sl, n, d) ∈ (fetchBundle s c pc).slots) :
    d = decodeSlot sl (wordOf (imemWord s c (pc + BitVec.ofNat 16 n)))
      (wordOf (if n + 1 < (fetchBundle s c pc).words.length then imemWord s c (pc + BitVec.ofNat 16 (n + 1)) else 0)) := by
  obtain ⟨⟨y, m⟩, placed, here⟩ := List.mem_map.mp slot
  cases here
  have within : m < (fetchBundle s c pc).words.length := by
    have := placeSlots_lt placed
    rw [slotWords_slotBits] at this
    rw [fetchBundle_length, bundleLen]
    omega
  have first := fetchBundle_word s c pc m
  rw [if_pos within] at first
  rw [← first, ← fetchBundle_word]
  rfl

end

/-- A legal operation of a fetched bundle is what the words of its slot decode to. -/
theorem fetchBundle_op {s : State} {c : BitVec 10} {pc : BitVec 16} {sl : Slot} {i : Instr} (op : (sl, i) ∈ (fetchBundle s c pc).ops) :
    ∃ n, decodeSlot sl (wordOf (imemWord s c (pc + BitVec.ofNat 16 n)))
      (wordOf (if n + 1 < (fetchBundle s c pc).words.length then imemWord s c (pc + BitVec.ofNat 16 (n + 1)) else 0)) = .ok i := by
  obtain ⟨⟨y, n, d⟩, slot, legal⟩ := List.mem_filterMap.mp op
  have decoded := fetchBundle_slot s c pc slot
  cases d with
  | illegal e => cases legal
  | ok j =>
    cases legal
    exact ⟨n, decoded.symm⟩

/-! ### A guidon issues its bundle -/

section
variable (s : State) (c : BitVec 10)

/-- Keeping the control registers changes nothing else of the core. -/
theorem keepCtl_core : ∃ was, (keepCtl s c).core c = { s.core c with ctlWas := was } := by
  unfold keepCtl
  split
  · exact ⟨_, core_mapCore_same s c _⟩
  · exact ⟨_, rfl⟩

theorem debitPrimary_core (n : Nat) (d : BitVec 10) : (debitPrimary s c n).core d = s.core d := by
  unfold debitPrimary
  split <;> rfl

/-- A charge of a credit is no part of c.status. -/
theorem chargeCredit_status (o : Option Nat) : statusOf ((chargeCredit s c o).core c) = statusOf (s.core c) := by
  unfold chargeCredit
  split
  · rfl
  · split
    · rfl
    · exact (congrArg statusOf (core_mapCore_same s c fun k => { k with charged := s.cycle + 1 })).trans rfl

/-- A bundle in which no condition was found stands ready on its core (09 R231). -/
theorem beginBundle_bund (b : Bundle) (all : List (Slot × Instr)) :
    ((beginBundle s c b all none).core c).bund = some { b with status := BitVec.ofNat 64 (statusOf (s.core c)) } := by
  simp only [beginBundle, core_mapCore_same, debitPrimary_core, chargeCredit_status]

/-- What is sent to the followers leaves the guidon alone (09 R236). -/
theorem sendFeed_core (b : Bundle) (ui : Option (Word × BitVec 16)) : (sendFeed s c b ui).core c = s.core c := by
  unfold sendFeed
  refine List.foldlRecOn (motive := fun t : State => t.core c = s.core c) _ _ rfl fun t same m follower => ?_
  have apart : m ≠ c := by simpa using (List.mem_filter.mp follower).2
  exact (core_mapCore_ne t apart _).trans same

end

/-- The state in which a core's bundle of an active cycle is fetched and checked. -/
def activeCycle (s : State) (c : BitVec 10) : State :=
  activeAccesses ((keepCtl s c).mapCore c fun k => { k with usedAt := (keepCtl s c).cycle + 1, used := 0 }) c

/-- A guidon waits for no bundle to arrive. -/
theorem waitsFeed_guidon {s : State} {c : BitVec 10} (guidon : isGuidon s c = true) : waitsFeed s c = false := by
  simp only [waitsFeed, guidon, Bool.not_true, Bool.false_and]

/-- A running guidon issues the bundle at its c.pc in an active cycle (09 R219, R225). -/
theorem planIssue_guidon {s : State} {c : BitVec 10} (idle : (s.core c).bund = none) (new : (s.core c).usedAt ≠ s.cycle + 1)
    (unfrozen : (s.core c).frz = none) (runs : (s.core c).run = .running) (guidon : isGuidon s c = true)
    (leads : isGuidon (activeCycle s c) c = true) :
    planIssue s c = planBundle (issueGuidon (activeCycle s c) c).2 c (issueGuidon (activeCycle s c) c).1 := by
  obtain ⟨was, kept⟩ := keepCtl_core s c
  have fed : waitsFeed ((keepCtl s c).mapCore c fun k => { k with usedAt := (keepCtl s c).cycle + 1, used := 0 }) c = false :=
    waitsFeed_guidon (by rw [isGuidon, core_mapCore_same, kept]; exact guidon)
  rw [activeCycle] at leads
  simp only [planIssue, idle, new, unfrozen, runs, fed, leads, activeCycle, Option.isSome_none, Bool.false_eq_true, if_false, reduceCtorEq,
    decide_true, Bool.true_and, ne_eq, not_true_eq_false, if_true]

section
variable {u v : State} {c : BitVec 10} {f : Fetched} {b : Bundle} (fetched : fetchBundle u c (u.core c).pc = f) (own : bundleOf u c f = b)
  (sound : chooseFound (fetchFound u c f ++ slotFound u c b) = none)
  (sent : sendFeed (beginBundle u c b f.ops none) c (forwardOf u c f b)
    (if (u.core c).inui && (u.core c).handlerCount = 0 then some ((u.core c).uicause, (tabGet 0 (u.core c).sreg 71).setWidth 16) else none) = v)
include fetched own sound sent

/-- A bundle in which no condition is found begins, and goes to the followers (09 R231, R236). -/
theorem issueGuidon_sound : issueGuidon u c = (0, v) := by
  subst fetched own sent
  simp only [issueGuidon, sound, Option.isNone_none, if_true]

/-- The first operation of the bundle that a guidon's words decode to runs (09 R219; 14 R338). -/
theorem planIssue_begins {s : State} {issued : Bundle} {sl : Slot} {i : Instr} {rest : List (Slot × Instr)} (active : activeCycle s c = u)
    (stamped : { b with status := BitVec.ofNat 64 (statusOf (u.core c)) } = issued) (idle : (s.core c).bund = none)
    (new : (s.core c).usedAt ≠ s.cycle + 1) (unfrozen : (s.core c).frz = none) (runs : (s.core c).run = .running)
    (guidon : isGuidon s c = true) (leads : isGuidon u c = true) (ops : b.ops = (sl, i) :: rest) :
    planIssue s c = .run i { (v.mapCore c fun k => { k with bund := some { issued with ops := rest } }) with
      cur := curOf c issued sl, agenda := .issue c :: v.agenda } := by
  have ready : (v.core c).bund = some issued := by rw [← sent, sendFeed_core, beginBundle_bund, stamped]
  replace ops : issued.ops = (sl, i) :: rest := stamped ▸ ops
  calc planIssue s c
    _ = planBundle (issueGuidon u c).2 c (issueGuidon u c).1 := by
      subst active
      exact planIssue_guidon idle new unfrozen runs guidon leads
    _ = planBundle v c 0 := by rw [issueGuidon_sound fetched own sound sent]
    _ = _ := planBundle_runs ready ops 0

end

/-! ### Threads -/

/-- The offer of a slot class is counted (10 R251). -/
def countOffer (s : State) (c : BitVec 10) (k : Nat) : State :=
  s.mapCore c fun q => countResidue q k (·.offered) fun r v => { r with offered := v }

/-- A thread is picked for a slot class, and acts. -/
def pick (s : State) (c : BitVec 10) (k t : Nat) : State := { (s.mapCore c fun q => notePick q s.cycle t) with cur := curThread c t k }

section
variable {s : State} {c : BitVec 10} {k t : Nat} {w : BitVec 64} {i : Instr} (offered : isOffered s c k = true)
  (picked : pickThread (countOffer s c k) c k = some (t, w))
  (granted : tokenDenied (pick (countOffer s c k) c k t) c (barrelTokens (pick (countOffer s c k) c k t) w) = false)
  (unserved : t = 7 → serviceWork (pick (countOffer s c k) c k t) c = false) (privileged : barPrivileged w = true → t = 7)
  (legal : decodeBarrel w = .ok i)
include offered picked granted unserved privileged legal

/-- What a slot class that is offered, and not denied, comes to (10 R243-R246). -/
theorem offer_legal : offer s c k = (sends (pick (countOffer s c k) c k t) c i).elim
    (some i, take (pick (countOffer s c k) c k t) c k t w) fun x => (none, postAccess (pick (countOffer s c k) c k t) c k t w x) := by
  have noService : (decide (t = 7) && serviceWork (pick (countOffer s c k) c k t) c) = false := by
    simpa using unserved
  have allowed : (barPrivileged w && decide (t ≠ 7)) = false := by
    simpa using privileged
  simp only [pick, countOffer] at picked granted noService ⊢
  simp only [offer, offered, picked, granted, noService, allowed, legal, Bool.not_true, Bool.false_eq_true, if_false]
  cases sends _ c i <;> rfl

/-- The operation of the picked thread runs at its issue. -/
theorem planOffer_runs (unsent : sends (pick (countOffer s c k) c k t) c i = none) :
    planOffer s c k = .run i (take (pick (countOffer s c k) c k t) c k t w) := by
  simp only [planOffer, offer_legal offered picked granted unserved privileged legal, unsent, Option.elim_none]

/-- The access of the picked thread goes to its bank. -/
theorem planOffer_posts {x : Mode × Piece × Bool × Bool} (sent : sends (pick (countOffer s c k) c k t) c i = some x) :
    planOffer s c k = .done (postAccess (pick (countOffer s c k) c k t) c k t w x) := by
  simp only [planOffer, offer_legal offered picked granted unserved privileged legal, sent, Option.elim_some]

end

theorem postAccess_issued {s : State} {c : BitVec 10} {k t : Nat} {w : BitVec 64} {i : Instr} (legal : decodeBarrel w = .ok i)
    (x : Mode × Piece × Bool × Bool) : ((postAccess s c k t w x).thread c (BitVec.ofNat 3 t)).issued = some i := by
  simp only [postAccess, issueAttempt, thread_mapThread_same, barrelOp, legal]

theorem goOn_issued {s : State} {c : BitVec 10} {t : Nat} {i : Instr} (goes : goOn s c = some (t, i)) :
    (s.thread c (BitVec.ofNat 3 t)).issued = some i := by
  obtain ⟨n, _, here⟩ := List.exists_of_findSome?_eq_some goes
  split at here
  · obtain ⟨j, issued, same⟩ := Option.map_eq_some_iff.mp here
    cases same
    exact issued
  · cases here

/-- A thread goes on inside its operation. -/
theorem planThreads_runs {s u : State} {c : BitVec 10} {t : Nat} {i : Instr} (settled : saveTrapped (decideNet s c) c = u)
    (goes : goOn u c = some (t, i)) : planThreads s c = .run i
      { (u.mapThread c (BitVec.ofNat 3 t) fun th => { th with retry := u.cycle + 1, last := u.cycle, post := none }) with
        cur := curThread c t (u.thread c (BitVec.ofNat 3 t)).cls, agenda := .threads c :: u.agenda } := by
  unfold planThreads
  rw [settled]
  dsimp only
  rw [goes]
  rfl

/-! ### The statement -/

/-- Settles O57, task by task of the agenda. -/
theorem stepRunsTheDecodedInstruction : Obligations.StepRunsTheDecodedInstruction := by
  intro s r
  refine ⟨fun i a next => step_run (plan_event next), ?begins, ?continues, ?offers, ?threads⟩
  case begins =>
    intro c sl i rest next idle new unfrozen runs guidon k u f b v issued leads sound ops
    have begins := planIssue_begins (s := { s with agenda := r }) (issued := issued) (active := rfl) (fetched := rfl) (own := rfl)
      (sent := rfl) (stamped := rfl) sound idle new unfrozen runs guidon leads ops
    refine ⟨step_run ((plan_issue next).trans begins), fetchBundle_op ?_⟩
    have mem : (sl, i) ∈ b.ops := ops ▸ List.mem_cons_self
    exact (List.mem_filter.mp mem).1
  case continues =>
    intro c b sl i rest next issues ops
    let u : State := { s with agenda := r }
    replace issues : (u.core c).bund = some b := issues
    exact step_run ((plan_issue next).trans ((planIssue_goes_on issues).trans (planBundle_runs issues ops 0)))
  case offers =>
    intro c k t w i next u v offered picked granted unserved privileged legal
    have runs := planOffer_runs (s := { s with agenda := r }) offered picked granted unserved privileged legal
    have posts {x} := planOffer_posts (s := { s with agenda := r }) (x := x) offered picked granted unserved privileged legal
    exact ⟨fun unsent => step_run ((plan_offer next).trans (runs unsent)),
      fun x sent => ⟨step_done ((plan_offer next).trans (posts sent)), postAccess_issued legal x⟩⟩
  case threads =>
    intro c t i next u goes
    exact ⟨goOn_issued goes, step_run ((plan_threads next).trans (planThreads_runs rfl goes))⟩

end Sys2Proof.Machine
end

section
/-! PROOFS. Traps and interrupts of a core (09 R227-R232): the access trap, the timer, the taking of a user interrupt, TRAPCTL, and the
statement about them. -/

namespace Sys2Proof.Machine

/-! ### What an acquire leaves alone -/

theorem takeRelease_core (s : State) (a : Ag) (sc : Nat) (r : RelInfo) (d : BitVec 10) : (takeRelease s a sc r).core d = s.core d := by
  unfold takeRelease
  split
  · split <;> rfl
  · rfl

theorem acquireWords_core (s : State) (a : Ag) (sc : Nat) (keys : List Nat) (d : BitVec 10) : (acquireWords s a sc keys).core d = s.core d := by
  induction keys generalizing s with
  | nil => rfl
  | cons k r ih => exact (ih _).trans (foldl_keeps (·.core d) (fun s i => takeRelease_core s a sc i d) _ s)

/-- The acquire of a copy job's interrupt leaves the cores alone (08 R195). -/
@[simp] theorem jobAcquire_core (s : State) (c : BitVec 10) (w : Word) (d : BitVec 10) : (jobAcquire s c w).core d = s.core d := by
  unfold jobAcquire
  split
  · rfl
  · exact foldl_keeps (·.core d) (fun s _ => acquireWords_core s _ _ _ d) _ s

/-! ### The events -/

section
variable {s : State} {c : BitVec 10} (hc : s.ev.core = c)
include hc

/-- The oldest access trap is taken (R231). -/
theorem exec_accessTrap {t : TrapInfo} {r : List TrapInfo} (waits : (s.core c).traps = t :: r) :
    exec .accessTrap s = .next (takePrimTrap s c t) := by
  show execAccessTrap s = _
  simp only [execAccessTrap, hc, waits]

omit hc in
/-- A cause reaches the queue of its own guidon while there is room (R227). -/
theorem queueCause_room {w : Word} (guidon : isGuidon s c = true) (room : (s.core c).uiq.length < 16) :
    ((queueCause s c w).core c).uiq = (s.core c).uiq ++ [w] := by
  rw [queueCause, guidonOf, if_pos guidon, core_mapCore_same, if_neg (Nat.not_le.mpr room)]

/-- The timer that fires is cleared in the whole gang, and its cause is queued at the guidon (R227). -/
theorem exec_uiTimerFire (due : timerDue s (s.core c) = true) (member : c ∈ gangOf s c) :
    reaches (exec .uiTimerFire s) fun t => (t.core c).uitime = 0 ∧
      ((s.core c).uiq.length < 16 → (t.core c).uiq = (s.core c).uiq ++ [uiCause 4 0 0 0]) := by
  refine ⟨(gangOf s c).foldl (fun s m => s.mapCore m fun k => { k with uitime := 0 }) (queueCause s c (uiCause 4 0 0 0)), ?_, ?_, ?_⟩
  · show execUiTimerFire s = _
    simp only [execUiTimerFire, hc, due, if_true]
  · refine forall_mem_foldl (P := fun m (t : State) => (t.core m).uitime = 0) (fun s m => by rw [core_mapCore_same]) (fun s m d cleared => ?_) _ _ c member
    rw [core_mapCore]
    split
    · rfl
    · exact cleared
  · intro room
    have guidon : isGuidon s c = true := by
      simp only [timerDue, Bool.and_eq_true] at due
      exact due.1.1
    rw [← queueCause_room guidon room]
    refine foldl_keeps (fun t : State => (t.core c).uiq) (fun s m => ?_) _ _
    rw [core_mapCore]
    split
    · next same => rw [same]
    · rfl

/-- The core enters the handler with the oldest pending cause of an enabled source (R229). -/
theorem exec_userInterruptTake {w : Word} (first : takable s [] c = some w) :
    reaches (exec .userInterruptTake s) fun t => (t.core c).inui = true ∧ (t.core c).uicause = w ∧
      (t.core c).pc = (s.core c).uivec.setWidth 16 ∧ tabGet 0 (t.core c).sreg 71 = (s.core c).pc.setWidth 64 ∧
      (t.core c).uiq = dropCause (s.core c) (s.core c).uiq := by
  refine ⟨(jobAcquire s c w).mapCore c fun k => enterHandler { k with uiq := dropCause k k.uiq } w k.pc, ?_, ?_⟩
  · show execUserInterruptTake s = _
    simp only [execUserInterruptTake, hc, first]
  · simp only [core_mapCore_same, jobAcquire_core]
    exact ⟨rfl, rfl, rfl, tabGet_tabPut_same _ _ _, rfl⟩

section
variable (owner : s.ev.who = .fn (fnOf s.ev.ctx))
include owner

/-- TRAPCTL RESUME at a held core (R232). -/
theorem exec_trapctlResume (held : (heldAt s s.ev.ctx c).isSome = true) : exec .trapctlResume s = .next (resumeHeld s c) := by
  show execTrapctlResume s = _
  simp only [execTrapctlResume, hc, owner, held, decide_true, Bool.and_self, if_true]

/-- TRAPCTL KILL at a held core (R232). -/
theorem exec_trapctlKill {id : Nat} (held : heldAt s s.ev.ctx c = some id) :
    exec .trapctlKill s = .next (killOccurrence s id .killed 0) := by
  show execTrapctlKill s = _
  simp only [execTrapctlKill, hc, held, owner, if_true]

end

end

/-! ### The statement -/

/-- Settles O14, event by event. -/
theorem trapsAndInterruptsAreTaken : Obligations.TrapsAndInterruptsAreTaken := fun _ _ hc =>
  ⟨fun _ _ => exec_accessTrap hc, exec_uiTimerFire hc, fun _ => exec_userInterruptTake hc, exec_trapctlResume hc,
    fun _ owner => exec_trapctlKill hc owner⟩

end Sys2Proof.Machine
end

section
/-! PROOFS. Frames that resume, leave, arrive and are moored (10 R257, R261-R263), and the statement about them. Whose windows a moored frame is
reached under, that a move is one operation and that an arrival comes before the dock are the model's readings (log entries 65, 100, 113). -/

namespace Sys2Proof.Machine

/-- The thread that an event names. -/
theorem ev_thread_named {s : State} {n : BitVec 3} (hn : s.ev.thread = n.setWidth 4) : s.ev.thread.setWidth 3 = n := by
  rw [hn, BitVec.setWidth_setWidth_of_le _ (by decide), BitVec.setWidth_eq]

section
variable {s : State} {c : BitVec 10} (hc : s.ev.core = c)
include hc

/-! ### Resumes -/

section
variable (runs : runsThreads s c = true)
include runs

/-- A slot that loads its frame goes on with it (R257). -/
theorem exec_frameResume_loading {n : BitVec 3} {w : Bool} (hn : s.ev.thread = n.setWidth 4) (loads : (s.thread c n).st = .resume w) :
    exec .frameResume s = .next (loadFrame s c n.toNat w) := by
  have number : s.ev.thread.toNat = n.toNat := by rw [hn, BitVec.toNat_setWidth_of_le (by decide)]
  show execFrameResume s = _
  simp only [execFrameResume, hc, runs, ev_thread_named hn, number, loads, Bool.not_true, Bool.false_eq_true, if_false]

section
variable {k : Nat} (service : s.ev.thread = 7) (idle : ∀ w, (s.thread c 7).st ≠ .resume w) (slot : freeSlot s c = some k)
include service idle slot

/-- A free slot takes the oldest thread of the dock; `idle` rules out the match's first row (R257). -/
theorem exec_frameResume_dock {p : Packet} {r : List Packet} (docked : (s.core c).dock = p :: r) (whole : p.moored = false) :
    exec .frameResume s = .next (resumePacket (s.mapCore c fun k => { k with dock := r }) c k p) := by
  have named : s.ev.thread.setWidth 3 = 7 := ev_thread_named service
  show execFrameResume s = _
  simp only [execFrameResume, hc, runs, named, slot, docked, whole, Bool.not_true, Bool.false_eq_true, if_false]

/-- With no thread in the dock, a free slot takes the oldest pointer of the ready queue that is visible (R257; 19 R462). -/
theorem exec_frameResume_ready {e : Ready} {r : List Ready} (empty : (s.core c).dock = [])
    (first : takeFirst Ready.visible (s.core c).readyq = some (e, r)) :
    exec .frameResume s = .next (takePointer (s.mapCore c fun k => { k with readyq := r }) c k e.fp e.wake) := by
  have named : s.ev.thread.setWidth 3 = 7 := ev_thread_named service
  show execFrameResume s = _
  simp only [execFrameResume, hc, runs, named, slot, empty, first, Bool.not_true, Bool.false_eq_true, if_false]

end

end

/-! ### Departures -/

/-- A thread on its way to another core leaves in a packet (R261). -/
theorem exec_migrationDeparture {n : BitVec 3} {o : BitVec 10} {next : Bool} {extra : BitVec 32} (hn : s.ev.thread = n.setWidth 4)
    (leaves : (s.thread c n).st = .depart o next extra) : exec .migrationDeparture s = .next (departThread s c n o next extra) := by
  show execMigrationDeparture s = _
  simp only [execMigrationDeparture, hc, ev_thread_named hn, leaves]

/-! ### Moves of moored frames -/

/-- The head of a mooring list that can be reached goes into the dock (R263). -/
theorem exec_mooringMove {l : FLook} (due : moorDue s c = true)
    (looked : frameLook s (.thread c 7) (ctxOfCore s c) (tabGet (0, 0) s.sched.moor (moorHere s c)).1.toNat .write (.moor (moorHere s c))
      (tabGet false s.sched.moorFail (moorHere s c)) = l)
    (reached : (∃ p, l = .spad p) ∨ ∃ x va leaf pa, l = .glob x va leaf pa) :
    exec .mooringMove s = .next (moveMoored (moorAwaits s (moorHere s c) false) c l) := by
  show execMooringMove s = _
  simp only [execMooringMove, hc, due, looked, Bool.not_true, Bool.false_eq_true, if_false]
  obtain ⟨p, rfl⟩ | ⟨x, va, leaf, pa, rfl⟩ := reached
  · rfl
  · rfl

end

/-! ### Arrivals -/

section
variable {s : State} {p : Packet} (arrives : tabGet none s.sched.packets s.ev.ix = some p)
include arrives

/-- A packet whose occurrence is gone is dropped with a record (R262). -/
theorem exec_migrationArrival_gone (gone : s.occ? p.occ = none) : exec .migrationArrival s =
    .next (eventRecord (dropPacket s s.ev.ix) p.ctx 4 0x50 (some p.occ) (payload2 p.frame.toNat p.pc.toNat)) := by
  show execMigrationArrival s = _
  simp only [execMigrationArrival, arrives, gone, if_true]

section
variable {o : Occ} (live : s.occ? p.occ = some o) (going : o.ending = false) (here : (s.core p.dest).occ = some p.occ)
  (runs : (s.core p.dest).run ≠ .preempted)
include live going here runs

/-- A thread whose occurrence runs on the core goes on in a free slot (R262). -/
theorem exec_migrationArrival_resumes {k : Nat} (slot : freeSlot s p.dest = some k) :
    exec .migrationArrival s = .next (resumePacket (dropPacket s s.ev.ix) p.dest k p) := by
  show execMigrationArrival s = _
  simp [execMigrationArrival, arrives, live, going, here, runs, slot]

/-- With no slot free, it waits in the dock (R262). -/
theorem exec_migrationArrival_docks (busy : freeSlot s p.dest = none) (room : (s.core p.dest).dock.length < 4) :
    exec .migrationArrival s = .next ((dropPacket s s.ev.ix).mapCore p.dest fun k => { k with dock := k.dock ++ [p] }) := by
  show execMigrationArrival s = _
  simp [execMigrationArrival, arrives, live, going, here, runs, busy, room]

/-- With the dock full too, it is moored (R262). -/
theorem exec_migrationArrival_moors (busy : freeSlot s p.dest = none) (full : 4 ≤ (s.core p.dest).dock.length) :
    exec .migrationArrival s = .next (moorPacket s s.ev.ix p) := by
  show execMigrationArrival s = _
  simp [execMigrationArrival, arrives, live, going, here, runs, busy, Nat.not_lt.mpr full]

end

end

/-! ### The statement -/

/-- Settles O16, event by event. -/
theorem threadsResumeAndMigrate : Obligations.ThreadsResumeAndMigrate := fun _ _ hc =>
  ⟨fun _ _ runs hn => exec_frameResume_loading hc runs hn,
    fun _ _ _ runs service idle slot => exec_frameResume_dock hc runs service idle slot,
    fun _ _ _ runs service idle slot => exec_frameResume_ready hc runs service idle slot,
    fun _ _ _ _ => exec_migrationDeparture hc,
    fun _ => exec_migrationArrival_gone,
    fun _ _ _ arrives live going here runs => ⟨exec_migrationArrival_resumes arrives live going here runs,
      exec_migrationArrival_docks arrives live going here runs, exec_migrationArrival_moors arrives live going here runs⟩,
    fun _ => exec_mooringMove hc⟩

end Sys2Proof.Machine
end

section
/-! PROOFS. Sleeps, yields, exits, system calls and software traps of a thread (10 R257, R258, R484; 19 R468; 08 R187), and the statement about
them. The STATE that each writes and the PC in the record of SYSC are readings (log entries 41, 42 and 44). -/

namespace Sys2Proof.Machine

section
variable {s : State} {c : BitVec 10} {n : BitVec 3} (agent : s.cur.agent = .thread c n)
include agent

/-! ### Sleeps -/

/-- A register operand of a thread's operation is the thread's register. -/
theorem readB_reg_thread (r : BitVec 6) : readB s (.reg r) = readX s c n r := by
  show readR s r = _
  simp only [readR, agent]

/-- A positive duration: the thread sleeps until it has passed (19 R468). -/
theorem exec_sleepu_for {f : SleepForm} {v : Half} (given : f.t = .imm v) (positive : 0 < v.toInt) :
    exec (.sleepu f) s = .next ((finish s).mapThread c n fun th => { th with st := .sleep (s.time.now + v.signExtend 64) }) := by
  show execSleepu f s = _
  simp only [execSleepu, given, agent, if_neg (Int.not_le.mpr positive)]

omit agent in
/-- A duration that is not positive is no sleep (19 R468). -/
theorem exec_sleepu_for_none {f : SleepForm} {v : Half} (given : f.t = .imm v) (past : v.toInt ≤ 0) :
    exec (.sleepu f) s = .next (finish s) := by
  show execSleepu f s = _
  simp only [execSleepu, given, if_pos past]

/-- An instant to come: the thread sleeps until then (19 R468). -/
theorem exec_sleepu_until {f : SleepForm} {r : BitVec 6} (given : f.t = .reg r) (ahead : s.now < (readX s c n r).toNat) :
    exec (.sleepu f) s = .next ((finish s).mapThread c n fun th => { th with st := .sleep (readX s c n r) }) := by
  show execSleepu f s = _
  simp only [execSleepu, given, readB_reg_thread agent, agent, if_neg (Nat.not_le.mpr ahead)]

/-- An instant that has passed is no sleep (19 R468). -/
theorem exec_sleepu_until_none {f : SleepForm} {r : BitVec 6} (given : f.t = .reg r) (passed : (readX s c n r).toNat ≤ s.now) :
    exec (.sleepu f) s = .next (finish s) := by
  show execSleepu f s = _
  simp only [execSleepu, given, readB_reg_thread agent, if_pos passed]

/-! ### Saves of a frame -/

/-- A frame whose save succeeds is released at scope 0, its slot freed, and the operation goes on from there (08 R187; 10 R258). -/
theorem saveFrame_ok {st : Nat} {t : State} (k : BitVec 10 → BitVec 3 → Thread → BitVec 6 → State → State)
    (saved : frameWrite s c n (ctxOfThread s c n) (s.thread c n).frame.toNat (frameParts (s.thread c n) ((s.thread c n).pc + 8) st) = .ok t) :
    saveFrame s st k = .next (k c n (s.thread c n) (ctxOfThread s c n)
      (freeThread (releaseAt t t.ag 0 (frameKey (ctxOfThread s c n) (s.thread c n).frame)) c n)) := by
  simp only [saveFrame, agent, saved]

/-- TYIELD with room in the ready queue saves its frame and appends it there (19 R468). -/
theorem exec_tyield_room (room : (s.core c).readyq.length < 256) :
    exec .tyield s = saveFrame s 0 fun c _ th _ s => appendReady s c (.of th.frame false) := by
  show execTyield s = _
  simp only [execTyield, agent, ge_iff_le, if_neg (Nat.not_le.mpr room)]

/-- TYIELD with a full ready queue goes on at once (19 R468). -/
theorem exec_tyield_full (full : 256 ≤ (s.core c).readyq.length) : exec .tyield s = .next (finish s) := by
  show execTyield s = _
  simp only [execTyield, agent, ge_iff_le, if_pos full]

omit agent in
/-- TYIELD.park saves its frame and nothing else (19 R468). -/
theorem exec_tyieldPark : exec .tyieldPark s = saveFrame s 1 fun _ _ _ _ s => s := rfl

omit agent in
/-- SYSC saves its frame and writes a SYSCALL record (19 R468). -/
theorem exec_sysc (f : SyscForm) : exec (.sysc f) s = saveFrame s 1 fun c _ th x s => eventRecord s x 4 0x51 (some th.occ)
    (payload2 th.frame.toNat (f.c.toNat + 2 ^ 16 * c.toNat + 2 ^ 32 * (th.pc.toNat % 2 ^ 32))) := rfl

/-- TEXIT with a frame that can be written writes its STATE and frees the slot (19 R468). -/
theorem exec_texit {t : State}
    (written : frameWrite s c n (ctxOfThread s c n) (s.thread c n).frame.toNat [(21, [5])] = .ok t) :
    exec .texit s = .next (freeThread t c n) := by
  show execTexit s = _
  simp only [execTexit, agent, written]

/-! ### Software traps -/

/-- TRAPG is the thread trap TRAP with its code (19 R468). -/
theorem exec_trapg (f : TrapgForm) : exec (.trapg f) s = .next (takeThreadTrap s c n .trap (f.c.setWidth 64)) := by
  show execTrapg f s = _
  simp only [execTrapg, takeTrap, agent]

end

/-! ### The statement -/

/-- Settles O47, operation by operation; TYIELD, TYIELD.park and SYSC save the frame in one way and differ in what follows the save. -/
theorem threadControlOpsComplete : Obligations.ThreadControlOpsComplete := by
  rintro s c n _ agent rfl
  exact ⟨fun _ => ⟨fun _ => exec_sleepu_for agent, fun _ => exec_sleepu_for_none, fun _ => exec_sleepu_until agent,
      fun _ => exec_sleepu_until_none agent⟩,
    fun _ room saved => (exec_tyield_room agent room).trans (saveFrame_ok agent _ saved),
    exec_tyield_full agent,
    fun _ saved => exec_tyieldPark.trans (saveFrame_ok agent _ saved),
    fun _ => exec_texit agent,
    fun f _ saved => (exec_sysc f).trans (saveFrame_ok agent _ saved),
    exec_trapg agent⟩

end Sys2Proof.Machine
end

section
/-! SUPPORT. What the fields of an encoded word read as (14 R341-R353). Every encoder is a concatenation of fields, so a decoder's read of a
word is a read of the field it falls into (`BitVec.extractLsb'_append_eq_ite`; `-Nat.reduceAdd` keeps the widths of the concatenation as the
encoder wrote them). Each code is then undone by a lemma of its own, and each opcode is listed in one map of its class alone. -/

namespace Sys2Proof.Machine
open BitVec (ofBool extractLsb'_append_eq_ite getElem_eq_extractLsb')

/-! ### Reads of bit vectors -/

/-- A field of a field is a field of the whole. -/
theorem extractLsb'_extractLsb'_of_add_le {n s l s' l' : Nat} (x : BitVec n) (h : s + l ≤ l') :
    (x.extractLsb' s' l').extractLsb' s l = x.extractLsb' (s' + s) l := by
  ext i hi
  simp [show s + i < l' by omega, Nat.add_assoc]

/-- Above its width a bit vector reads 0. -/
theorem extractLsb'_eq_zero_of_width_le {n s l : Nat} (x : BitVec n) (h : n ≤ s) : x.extractLsb' s l = 0#l := by
  ext i hi
  simpa using BitVec.getLsbD_of_ge x (s + i) (by omega)

@[simp] theorem ofBool_beq_one (b : Bool) : (ofBool b == 1#1) = b := by cases b <;> rfl

/-! ### Codes -/

@[simp] theorem okIf_true (i : Instr) : okIf true i = .ok i := rfl
@[simp] theorem modeOf_encMode (m : Mode) : modeOf (encMode m) = m := by cases m <;> rfl
@[simp] theorem ordOf_encOrd (o : Ord) : ordOf (encOrd o) = o := by cases o <;> rfl
@[simp] theorem condOf_encCond (c : Cond) : condOf (encCond c) = c := by cases c <;> rfl
@[simp] theorem vtypeOf_encVType (t : VType) : vtypeOf (encVType t) = t := by cases t <;> rfl
@[simp] theorem rndOf_encRnd (r : Rnd) : rndOf (encRnd r) = r := by cases r <;> rfl

@[simp] theorem xsrcOf_encXSrc (s : XSrc) : xsrcOf ((encXSrc s).extractLsb' 5 2) ((encXSrc s).extractLsb' 0 5) = some s := by
  cases s <;> simp [-Nat.reduceAdd, xsrcOf, encXSrc, extractLsb'_append_eq_ite, getElem_eq_extractLsb']

theorem primMode_iff {m : Mode} : primMode m = true ↔ m ≠ .glob := by simp [primMode]

/-- The guard that bits [25:21] give, whatever the word around them. -/
def guardField (b : BitVec 5) : Guard := guardOf (0#6 ++ b ++ 0#21)

@[simp] theorem guardOf_eq_guardField (w : BitVec 32) : guardOf w = guardField (w.extractLsb' 21 5) := by
  simp [-Nat.reduceAdd, guardField, guardOf, extractLsb'_append_eq_ite, getElem_eq_extractLsb', extractLsb'_extractLsb'_of_add_le]

@[simp] theorem guardField_encGuard (g : Guard) : guardField (encGuard g) = g := by
  simp [-Nat.reduceAdd, guardField, guardOf, encGuard, extractLsb'_append_eq_ite, getElem_eq_extractLsb']

/-- The operand that bits [8:2] give, whatever the word around them. -/
def srcField (b : BitVec 7) : Option Src := srcOf (0#23 ++ b ++ 0#2)

@[simp] theorem srcOf_eq_srcField (w : BitVec 32) : srcOf w = srcField (w.extractLsb' 2 7) := by
  simp [-Nat.reduceAdd, -BitVec.extractLsb'_toNat, srcField, srcOf, extractLsb'_append_eq_ite, getElem_eq_extractLsb',
    extractLsb'_extractLsb'_of_add_le]

@[simp] theorem srcField_encSrc {s : Src} (h : primSrc s = true) : srcField (encSrc s) = some s := by
  cases s with
  | reg r => simp [-Nat.reduceAdd, srcField, encSrc, srcOf, extractLsb'_append_eq_ite, getElem_eq_extractLsb']
  | imm v =>
    have small : (v.extractLsb' 0 5).signExtend 32 = v := by simpa [primSrc] using h
    simp [-Nat.reduceAdd, srcField, srcOf, encSrc, small, extractLsb'_append_eq_ite, getElem_eq_extractLsb']
  | lit k n =>
    cases k <;> simp [-Nat.reduceAdd, srcField, srcOf, encSrc, extractLsb'_append_eq_ite, getElem_eq_extractLsb']
  | cw => nomatch h

/-! ### Opcode maps

The decoder looks an opcode up in one map after another: what a later map lists, no earlier map does. -/

theorem sMaps_of_SU : ∀ op, (ctorSU op).isSome → ctorSA op = none := by decide
theorem sMaps_of_Cmp : ∀ op, (ctorCmp op).isSome → ctorSA op = none ∧ ctorSU op = none := by decide
theorem sMaps_of_Pred : ∀ op, (ctorPred op).isSome → ctorSA op = none ∧ ctorSU op = none ∧ ctorCmp op = none := by decide
theorem sMaps_of_PredUn : ∀ op, (ctorPredUn op).isSome →
    ctorSA op = none ∧ ctorSU op = none ∧ ctorCmp op = none ∧ ctorPred op = none := by decide
/-- The S operations with a layout of their own. -/
theorem sMaps_of_own : ∀ op ∈ [0x20#6, 0x2C#6, 0x34#6, 0x35#6, 0x36#6, 0x37#6, 0x38#6, 0x3A#6, 0x3B#6],
    ctorSA op = none ∧ ctorSU op = none ∧ ctorCmp op = none ∧ ctorPred op = none ∧ ctorPredUn op = none := by decide

theorem mMaps_of_Sync : ∀ op, (ctorSync op).isSome → ctorMA op = none := by decide
theorem mMaps_of_SyncPred : ∀ op, (ctorSyncPred op).isSome → ctorMA op = none ∧ ctorSync op = none := by decide
theorem mMaps_of_Atomic : ∀ op, (ctorAtomic op).isSome →
    ctorMA op = none ∧ ctorSync op = none ∧ ctorSyncPred op = none := by decide
theorem mMaps_of_MC : ∀ op, (ctorMC op).isSome →
    ctorMA op = none ∧ ctorSync op = none ∧ ctorSyncPred op = none ∧ ctorAtomic op = none := by decide
theorem mMaps_of_MP : ∀ op, (ctorMP op).isSome →
    ctorMA op = none ∧ ctorSync op = none ∧ ctorSyncPred op = none ∧ ctorAtomic op = none ∧ ctorMC op = none := by decide
/-- The M operations with a layout of their own. -/
theorem mMaps_of_own : ∀ op ∈ [0x0C#6, 0x0D#6, 0x0E#6, 0x0F#6, 0x21#6],
    ctorMA op = none ∧ ctorSync op = none ∧ ctorSyncPred op = none ∧ ctorAtomic op = none ∧ ctorMC op = none ∧ ctorMP op = none := by
  decide

theorem vMaps_of_V1 : ∀ op, (ctorV1 op).isSome → ctorVV op = none := by decide
theorem vMaps_of_VRnd : ∀ op, (ctorVRnd op).isSome → ctorVV op = none ∧ ctorV1 op = none := by decide
theorem vMaps_of_VK : ∀ op, (ctorVK op).isSome → ctorVV op = none ∧ ctorV1 op = none ∧ ctorVRnd op = none := by decide
theorem vMaps_of_VR : ∀ op, (ctorVR op).isSome →
    ctorVV op = none ∧ ctorV1 op = none ∧ ctorVRnd op = none ∧ ctorVK op = none := by decide
theorem vMaps_of_VP : ∀ op, (ctorVP op).isSome →
    ctorVV op = none ∧ ctorV1 op = none ∧ ctorVRnd op = none ∧ ctorVK op = none ∧ ctorVR op = none := by decide
theorem vMaps_of_VS : ∀ op, (ctorVS op).isSome →
    ctorVV op = none ∧ ctorV1 op = none ∧ ctorVRnd op = none ∧ ctorVK op = none ∧ ctorVR op = none ∧ ctorVP op = none := by decide
theorem vMaps_of_MM : ∀ op, (ctorMM op).isSome →
    ctorVV op = none ∧ ctorV1 op = none ∧ ctorVRnd op = none ∧ ctorVK op = none ∧ ctorVR op = none ∧ ctorVP op = none ∧
    ctorVS op = none := by decide
theorem vMaps_of_MT : ∀ op, (ctorMT op).isSome →
    ctorVV op = none ∧ ctorV1 op = none ∧ ctorVRnd op = none ∧ ctorVK op = none ∧ ctorVR op = none ∧ ctorVP op = none ∧
    ctorVS op = none ∧ ctorMM op = none := by decide
/-- The V operations with a layout of their own. -/
theorem vMaps_of_own : ∀ op ∈ [0x15#6, 0x17#6, 0x18#6, 0x23#6, 0x27#6, 0x28#6, 0x2C#6, 0x2F#6],
    ctorVV op = none ∧ ctorV1 op = none ∧ ctorVRnd op = none ∧ ctorVK op = none ∧ ctorVR op = none ∧ ctorVP op = none ∧
    ctorVS op = none ∧ ctorMM op = none ∧ ctorMT op = none := by decide

theorem cMaps_of_Reg : ∀ op, (ctorReg op).isSome → ctorOff op = none := by decide
theorem cMaps_of_None : ∀ op, (ctorNone op).isSome → ctorOff op = none ∧ ctorReg op = none := by decide
/-- The C operations with a layout of their own. -/
theorem cMaps_of_own : ∀ op ∈ [0x06#6, 0x07#6, 0x08#6, 0x0B#6, 0x13#6, 0x14#6],
    ctorOff op = none ∧ ctorReg op = none ∧ ctorNone op = none := by decide

theorem eMaps_of_E3 : ∀ op fn, (ctorE3 op fn).isSome → ctorE2 op fn = none := by decide
/-- The E operations with a layout of their own. -/
theorem eMaps_of_own : ∀ op ∈ [0x06#6, 0x10#6, 0x11#6, 0x13#6, 0x14#6], ∀ fn, ctorE2 op fn = none ∧ ctorE3 op fn = none := by
  decide

end Sys2Proof.Machine
end

section
/-! PROOFS. Slot words round trip (14 R341-R351, Tables Enc.14 to Enc.17). A layout's lemma says that a word of that layout decodes to the
operation that the opcode map lists; an operation needs only its entry of the map (`rfl`) and what its well-formedness says. -/

namespace Sys2Proof.Machine
open BitVec (ofBool extractLsb'_append_eq_ite getElem_eq_extractLsb')

/-! ### Class S (14 R343, R344) -/

section
variable {op : BitVec 6}

theorem decodeS_encSA {c : AluForm → Instr} {f : AluForm} (listed : ctorSA op = some c) (wf : primSrc f.b = true) :
    decodeS (encSA op f) = .ok (c f) := by
  simp [-Nat.reduceAdd, decodeS, encSA, listed, wf, extractLsb'_append_eq_ite]

theorem decodeS_encSU {c : UnForm → Instr} {f : UnForm} (listed : ctorSU op = some c) : decodeS (encSU 0 op f) = .ok (c f) := by
  simp [-Nat.reduceAdd, decodeS, encSU, sMaps_of_SU, listed, extractLsb'_append_eq_ite]

theorem decodeS_encCmp {c : CmpForm → Instr} {f : CmpForm} (listed : ctorCmp op = some c) (wf : primSrc f.b = true) :
    decodeS (encCmp op f) = .ok (c f) := by
  simp [-Nat.reduceAdd, decodeS, encCmp, sMaps_of_Cmp, listed, wf, extractLsb'_append_eq_ite]

theorem decodeS_encPred {c : PredForm → Instr} {f : PredForm} (listed : ctorPred op = some c) : decodeS (encPred op f) = .ok (c f) := by
  simp [-Nat.reduceAdd, decodeS, encPred, sMaps_of_Pred, listed, extractLsb'_append_eq_ite]

theorem decodeS_encPredUn {c : PredUnForm → Instr} {f : PredUnForm} (listed : ctorPredUn op = some c) :
    decodeS (encPredUn op f) = .ok (c f) := by
  simp [-Nat.reduceAdd, decodeS, encPredUn, sMaps_of_PredUn, listed, extractLsb'_append_eq_ite]

end

theorem decodeS_encLi {f : LiForm} (wf : (primSrc f.b && !isReg f.b) = true) : decodeS (encLi f) = .ok (.li f) := by
  obtain ⟨g, d, b⟩ := f
  obtain ⟨hb, const⟩ : primSrc b = true ∧ isReg b = false := by simpa using wf
  cases b with
  | reg => nomatch const
  | _ => simp [-Nat.reduceAdd, decodeS, encLi, sMaps_of_own, hb, extractLsb'_append_eq_ite]

theorem decodeS_encPset (f : PSetForm) : decodeS (encPset f) = .ok (.pset f) := by
  simp [-Nat.reduceAdd, decodeS, encPset, sMaps_of_own, extractLsb'_append_eq_ite, getElem_eq_extractLsb']

theorem decodeS_fcvt (f : UnForm) :
    decodeS (encSU 0 0x34 f) = .ok (.fcvtI2f f) ∧ decodeS (encSU 1 0x34 f) = .ok (.fcvtN2f f) ∧
    decodeS (encSU 2 0x34 f) = .ok (.fcvtF2i f) ∧ decodeS (encSU 3 0x34 f) = .ok (.fcvtF2n f) := by
  simp [-Nat.reduceAdd, decodeS, encSU, sMaps_of_own, extractLsb'_append_eq_ite]

theorem decodeS_encCReg (f : CRegForm) : decodeS (encCReg 0x35 f) = .ok (.mfc f) ∧ decodeS (encCReg 0x36 f) = .ok (.mtc f) := by
  simp [-Nat.reduceAdd, decodeS, encCReg, sMaps_of_own, extractLsb'_append_eq_ite]

theorem decodeS_encTime (f : TimeForm) : decodeS (encTime 0x37 f) = .ok (.now f) ∧ decodeS (encTime 0x38 f) = .ok (.cyc f) := by
  simp [-Nat.reduceAdd, decodeS, encTime, sMaps_of_own, extractLsb'_append_eq_ite]

theorem decodeS_encHset (f : HoistForm) : decodeS (encHset f) = .ok (.hset f) := by
  simp [-Nat.reduceAdd, decodeS, encHset, sMaps_of_own, extractLsb'_append_eq_ite]

theorem decodeS_encHget (f : HoistForm) : decodeS (encHget f) = .ok (.hget f) := by
  simp [-Nat.reduceAdd, decodeS, encHget, sMaps_of_own, extractLsb'_append_eq_ite]

theorem decodeS_of_encodeS {i : Instr} (wf : i.wfSlot = true) : ∀ w, encodeS i = some w → decodeS w = .ok i := by
  cases i with
  | add | sub | addw | subw | mul | mulh | mulhn | div | divn | rem | remn | and | or | xor | andn | orn | shl | shr | sra | rotr
  | min | max | minn | maxn | extr | insr | sxt | zxt | lea | fadd | fsub | fmul | ffma | fmin | fmax | mix =>
    rintro _ ⟨⟩; exact decodeS_encSA rfl wf
  | clz | ctz | popc | brev | mov | movx => rintro _ ⟨⟩; exact decodeS_encSU rfl
  | cmp | cmpn | fcmp => rintro _ ⟨⟩; exact decodeS_encCmp rfl wf
  | pand | por | pxor => rintro _ ⟨⟩; exact decodeS_encPred rfl
  | pnot | pmov => rintro _ ⟨⟩; exact decodeS_encPredUn rfl
  | li => rintro _ ⟨⟩; exact decodeS_encLi wf
  | pset f => rintro _ ⟨⟩; exact decodeS_encPset f
  | fcvtI2f f => rintro _ ⟨⟩; exact (decodeS_fcvt f).1
  | fcvtN2f f => rintro _ ⟨⟩; exact (decodeS_fcvt f).2.1
  | fcvtF2i f => rintro _ ⟨⟩; exact (decodeS_fcvt f).2.2.1
  | fcvtF2n f => rintro _ ⟨⟩; exact (decodeS_fcvt f).2.2.2
  | mfc f => rintro _ ⟨⟩; exact (decodeS_encCReg f).1
  | mtc f => rintro _ ⟨⟩; exact (decodeS_encCReg f).2
  | now f => rintro _ ⟨⟩; exact (decodeS_encTime f).1
  | cyc f => rintro _ ⟨⟩; exact (decodeS_encTime f).2
  | hset f => rintro _ ⟨⟩; exact decodeS_encHset f
  | hget f => rintro _ ⟨⟩; exact decodeS_encHget f
  | _ => nofun

/-! ### Class M (14 R345) -/

section
variable {op : BitVec 6} {c : MemForm → Instr} {f : MemForm}

theorem decodeM_encMA (listed : ctorMA op = some c)
    (wf : (primSrc f.i && primMode f.mode && f.p = 0 && f.ord = .rlx && f.scope = 0) = true) : decodeM (encMA op f) = .ok (c f) := by
  obtain ⟨g, d, a, i, mode, p, ord, scope⟩ := f
  simp only [Bool.and_eq_true, decide_eq_true_eq, primMode_iff] at wf
  obtain ⟨⟨⟨⟨hi, notGlob⟩, rfl⟩, rfl⟩, rfl⟩ := wf
  simp [-Nat.reduceAdd, decodeM, encMA, listed, hi, notGlob, extractLsb'_append_eq_ite]

theorem decodeM_encMS_sync (listed : ctorSync op = some c)
    (wf : (f.i = .imm 0 && primMode f.mode && f.p = 0 && f.ord = .rlx && f.scope = 0) = true) : decodeM (encMS op f) = .ok (c f) := by
  obtain ⟨g, d, a, i, mode, p, ord, scope⟩ := f
  simp only [Bool.and_eq_true, decide_eq_true_eq, primMode_iff] at wf
  obtain ⟨⟨⟨⟨rfl, notGlob⟩, rfl⟩, rfl⟩, rfl⟩ := wf
  simp [-Nat.reduceAdd, decodeM, encMS, encOrd, mMaps_of_Sync, listed, notGlob, extractLsb'_append_eq_ite]

theorem decodeM_encMS_syncPred (listed : ctorSyncPred op = some c)
    (wf : (f.i = .imm 0 && primMode f.mode && f.ord = .rlx && f.scope = 0) = true) : decodeM (encMS op f) = .ok (c f) := by
  obtain ⟨g, d, a, i, mode, p, ord, scope⟩ := f
  simp only [Bool.and_eq_true, decide_eq_true_eq, primMode_iff] at wf
  obtain ⟨⟨⟨rfl, notGlob⟩, rfl⟩, rfl⟩ := wf
  simp [-Nat.reduceAdd, decodeM, encMS, encOrd, mMaps_of_SyncPred, listed, notGlob, extractLsb'_append_eq_ite]

/-- ACAS (opcode 0x20) alone may not name the last register of a side (14 R345; 16 R396). -/
theorem decodeM_encMS_atomic (listed : ctorAtomic op = some c) (pair : op ≠ 0x20 ∨ f.d.extractLsb' 0 5 ≠ 31)
    (wf : (f.i = .imm 0 && primMode f.mode && f.p = 0 && f.scope = 0) = true) : decodeM (encMS op f) = .ok (c f) := by
  obtain ⟨g, d, a, i, mode, p, ord, scope⟩ := f
  simp only [Bool.and_eq_true, decide_eq_true_eq, primMode_iff] at wf
  obtain ⟨⟨⟨rfl, notGlob⟩, rfl⟩, rfl⟩ := wf
  have notLast : (!decide (op = 0x20#6) || !decide (d.extractLsb' 0 5 = 31#5)) = true := by
    simpa using pair
  simp [-Nat.reduceAdd, decodeM, encMS, mMaps_of_Atomic, listed, notGlob, notLast, extractLsb'_append_eq_ite]

end

theorem decodeM_encMV {f : VMemForm} (wf : (primSrc f.i && primMode f.mode) = true) :
    decodeM (encMV 0x0C f) = .ok (.ldv f) ∧ decodeM (encMV 0x0D f) = .ok (.stv f) := by
  simp only [Bool.and_eq_true, primMode_iff] at wf
  simp [-Nat.reduceAdd, decodeM, encMV, mMaps_of_own, wf, extractLsb'_append_eq_ite, getElem_eq_extractLsb']

theorem decodeM_encMG {f : GathForm} (wf : primMode f.mode = true) :
    decodeM (encMG 0x0E f) = .ok (.vgath f) ∧ decodeM (encMG 0x0F f) = .ok (.vscat f) := by
  rw [primMode_iff] at wf
  simp [-Nat.reduceAdd, decodeM, encMG, mMaps_of_own, wf, extractLsb'_append_eq_ite, getElem_eq_extractLsb']

theorem decodeM_encFence {f : FenceForm} (wf : decide (f.scope = 0) = true) : decodeM (encFence f) = .ok (.fence f) := by
  obtain ⟨g, ord, scope⟩ := f
  obtain rfl : scope = 0 := by simpa using wf
  simp [-Nat.reduceAdd, decodeM, encFence, mMaps_of_own, extractLsb'_append_eq_ite]

/-- What a well-formed ACAS of a primary is: a well-formed atomic whose data register is not the last of its side. -/
theorem wfSlot_acas {f : MemForm} (wf : (Instr.acas f).wfSlot = true) :
    (f.i = .imm 0 && primMode f.mode && f.p = 0 && f.scope = 0) = true ∧ f.d.extractLsb' 0 5 ≠ 31 := by
  change (_ && !decide _) = true at wf
  rw [Bool.and_eq_true, Bool.not_eq_true', decide_eq_false_iff_not] at wf
  exact wf

theorem decodeM_of_encodeM {i : Instr} (wf : i.wfSlot = true) : ∀ w, encodeM i = some w → decodeM w = .ok i := by
  cases i with
  | ldb | ldbn | ldh | ldhn | ldw | ldwn | ldd | stb | sth | stw | std => rintro _ ⟨⟩; exact decodeM_encMA rfl wf
  | lda | strl | praise => rintro _ ⟨⟩; exact decodeM_encMS_sync rfl wf
  | ptest | pwait | lrw | sch => rintro _ ⟨⟩; exact decodeM_encMS_syncPred rfl wf
  | aadd | aand | aor | axor | amin | amax | aminn | amaxn | axch => rintro _ ⟨⟩; exact decodeM_encMS_atomic rfl (.inl (by decide)) wf
  | acas => rintro _ ⟨⟩; exact decodeM_encMS_atomic rfl (.inr (wfSlot_acas wf).2) (wfSlot_acas wf).1
  | ldv => rintro _ ⟨⟩; exact (decodeM_encMV wf).1
  | stv => rintro _ ⟨⟩; exact (decodeM_encMV wf).2
  | vgath => rintro _ ⟨⟩; exact (decodeM_encMG wf).1
  | vscat => rintro _ ⟨⟩; exact (decodeM_encMG wf).2
  | fence => rintro _ ⟨⟩; exact decodeM_encFence wf
  | _ => nofun

/-! ### Class V (14 R346, Table Enc.16) -/

section
variable {op : BitVec 6}

theorem decodeV_encVV {c : VForm → Instr} {f : VForm} (listed : ctorVV op = some c) (wf : vvTypes op f.t = true) :
    decodeV (encVV op f) = .ok (c f) := by
  simp [-Nat.reduceAdd, decodeV, encVV, listed, wf, extractLsb'_append_eq_ite]

theorem decodeV_encV1 {c : V1Form → Instr} {f : V1Form} (listed : ctorV1 op = some c) : decodeV (encV1 op f) = .ok (c f) := by
  simp [-Nat.reduceAdd, decodeV, encV1, vMaps_of_V1, listed, extractLsb'_append_eq_ite]

theorem decodeV_encVRnd {c : VRndForm → Instr} {f : VRndForm} (listed : ctorVRnd op = some c) : decodeV (encVRnd op f) = .ok (c f) := by
  have type : vtypeOf 2#3 = .f32 := rfl
  simp [-Nat.reduceAdd, decodeV, encVRnd, vMaps_of_VRnd, listed, type, extractLsb'_append_eq_ite]

theorem decodeV_encVK {c : VCmpForm → Instr} {f : VCmpForm} (listed : ctorVK op = some c) (wf : (!(f.n = 0)) = true) :
    decodeV (encVK op f) = .ok (c f) := by
  have named : f.n ≠ 0#3 := by simpa using wf
  simp [-Nat.reduceAdd, decodeV, encVK, vMaps_of_VK, listed, named, extractLsb'_append_eq_ite]

theorem decodeV_encVR {c : VRedForm → Instr} {f : VRedForm} (listed : ctorVR op = some c) (wf : redOk f.x f.r f.t = true) :
    decodeV (encVR op f) = .ok (c f) := by
  simp [-Nat.reduceAdd, decodeV, encVR, vMaps_of_VR, listed, wf, extractLsb'_append_eq_ite]

theorem decodeV_encVP {c : VPatForm → Instr} {f : VPatForm} (listed : ctorVP op = some c)
    (code : if op = 0x21#6 then f.c.toNat ≤ 21 else vcxOk f.c = true) : decodeV (encVP op f) = .ok (c f) := by
  simp [-Nat.reduceAdd, decodeV, encVP, vMaps_of_VP, listed, code, extractLsb'_append_eq_ite]

theorem decodeV_encVS {c : VScalForm → Instr} {f : VScalForm} (listed : ctorVS op = some c) : decodeV (encVS op f) = .ok (c f) := by
  simp [-Nat.reduceAdd, decodeV, encVS, vMaps_of_VS, listed, extractLsb'_append_eq_ite]

theorem decodeV_encMM {c : MaskForm → Instr} {f : MaskForm} (listed : ctorMM op = some c) (wf : (!(f.d = 0)) = true) :
    decodeV (encMM op f) = .ok (c f) := by
  have named : f.d ≠ 0#3 := by simpa using wf
  simp [-Nat.reduceAdd, decodeV, encMM, vMaps_of_MM, listed, named, extractLsb'_append_eq_ite]

theorem decodeV_encMT {c : MaskOutForm → Instr} {f : MaskOutForm} (listed : ctorMT op = some c) :
    decodeV (encMT op f) = .ok (c f) := by
  simp [-Nat.reduceAdd, decodeV, encMT, vMaps_of_MT, listed, extractLsb'_append_eq_ite, getElem_eq_extractLsb']

end

theorem decodeV_vrand {f : VForm} (wf : decide (f.t = .n32) = true) : decodeV (encVV 0x27 f) = .ok (.vrand f) := by
  obtain ⟨g, d, a, b, m, t⟩ := f
  obtain rfl : t = .n32 := by simpa using wf
  simp [-Nat.reduceAdd, decodeV, encVV, vMaps_of_own, extractLsb'_append_eq_ite]

theorem decodeV_encVC {f : VCvtForm} (wf : cvtOk f.s f.r f.t = true) : decodeV (encVC f) = .ok (.vcvt f) := by
  simp [-Nat.reduceAdd, decodeV, encVC, vMaps_of_own, wf, extractLsb'_append_eq_ite]

theorem decodeV_encVU {f : VUnpkForm} (wf : (unpkOk f.t f.u && f.d.getLsbD 0 = false) = true) :
    decodeV (encVU f) = .ok (.vunpk f) := by
  obtain ⟨types, even⟩ : unpkOk f.t f.u = true ∧ f.d[0] = false := by simpa using wf
  simp [-Nat.reduceAdd, decodeV, encVU, vMaps_of_own, types, even, extractLsb'_append_eq_ite]

theorem decodeV_encVQ (f : VQdecForm) : decodeV (encVQ f) = .ok (.vqdec f) := by
  have type : vtypeOf 0#3 = .i32 := rfl
  simp [-Nat.reduceAdd, decodeV, encVQ, vMaps_of_own, type, extractLsb'_append_eq_ite, getElem_eq_extractLsb']

theorem decodeV_encVX (f : VExtForm) : decodeV (encVX f) = .ok (.vext f) := by
  simp [-Nat.reduceAdd, decodeV, encVX, vMaps_of_own, extractLsb'_append_eq_ite]

theorem decodeV_encV0 (f : VIotaForm) : decodeV (encV0 f) = .ok (.viota f) := by
  have type : vtypeOf (0#2 ++ ofBool f.n) = if f.n then .n32 else .i32 := by cases f.n <;> rfl
  simp [-Nat.reduceAdd, decodeV, encV0, vMaps_of_own, type, extractLsb'_append_eq_ite, getElem_eq_extractLsb']

theorem decodeV_encMN {f : MaskUnForm} (wf : (!(f.d = 0)) = true) : decodeV (encMN f) = .ok (.mnot f) := by
  have named : f.d ≠ 0#3 := by simpa using wf
  simp [-Nat.reduceAdd, decodeV, encMN, vMaps_of_own, named, extractLsb'_append_eq_ite]

theorem decodeV_encMF {f : MaskInForm} (wf : (!(f.d = 0)) = true) : decodeV (encMF f) = .ok (.mfrom f) := by
  have named : f.d ≠ 0#3 := by simpa using wf
  simp [-Nat.reduceAdd, decodeV, encMF, vMaps_of_own, named, extractLsb'_append_eq_ite]

theorem decodeV_of_encodeV {i : Instr} (wf : i.wfSlot = true) : ∀ w, encodeV i = some w → decodeV w = .ok i := by
  cases i with
  | vadd | vsub | vmul | vmulh | vfma | vfms | vmin | vmax | vand | vor | vxor | vshl | vshr | vsra | vsel | vpack | vperm =>
    rintro _ ⟨⟩; exact decodeV_encVV rfl wf
  | vabs | vneg | vnot | vargmx => rintro _ ⟨⟩; exact decodeV_encV1 rfl
  | vexp2 | vlog2 | vrcp | vrsq | vsqrt => rintro _ ⟨⟩; exact decodeV_encVRnd rfl
  | vcmp | vcmpx => rintro _ ⟨⟩; exact decodeV_encVK rfl wf
  | vred | vscan => rintro _ ⟨⟩; exact decodeV_encVR rfl wf
  | vshuf => rintro _ ⟨⟩; exact decodeV_encVP rfl (of_decide_eq_true wf)
  | vcx => rintro _ ⟨⟩; exact decodeV_encVP rfl wf
  | vbc | vins => rintro _ ⟨⟩; exact decodeV_encVS rfl
  | mand | mor | mxor => rintro _ ⟨⟩; exact decodeV_encMM rfl wf
  | mpop | mfirst | mtos => rintro _ ⟨⟩; exact decodeV_encMT rfl
  | vrand => rintro _ ⟨⟩; exact decodeV_vrand wf
  | vcvt => rintro _ ⟨⟩; exact decodeV_encVC wf
  | vunpk => rintro _ ⟨⟩; exact decodeV_encVU wf
  | vqdec f => rintro _ ⟨⟩; exact decodeV_encVQ f
  | vext f => rintro _ ⟨⟩; exact decodeV_encVX f
  | viota f => rintro _ ⟨⟩; exact decodeV_encV0 f
  | mnot => rintro _ ⟨⟩; exact decodeV_encMN wf
  | mfrom => rintro _ ⟨⟩; exact decodeV_encMF wf
  | _ => nofun

/-! ### Class C (14 R349) -/

section
variable {op : BitVec 6}

theorem decodeC_encOff {c : OffForm → Instr} {f : OffForm} (listed : ctorOff op = some c) : decodeC (encOff op f) = .ok (c f) := by
  simp [-Nat.reduceAdd, decodeC, encOff, listed, extractLsb'_append_eq_ite]

theorem decodeC_encReg {c : RegForm → Instr} {f : RegForm} (listed : ctorReg op = some c) : decodeC (encReg op f) = .ok (c f) := by
  simp [-Nat.reduceAdd, decodeC, encReg, cMaps_of_Reg, listed, extractLsb'_append_eq_ite]

theorem decodeC_encNone {c : NoneForm → Instr} {f : NoneForm} (listed : ctorNone op = some c) :
    decodeC (encNone op f) = .ok (c f) := by
  simp [-Nat.reduceAdd, decodeC, encNone, cMaps_of_None, listed, extractLsb'_append_eq_ite]

end

theorem decodeC_encLoop (f : LoopForm) : decodeC (encLoop f) = .ok (.loop f) := by
  simp [-Nat.reduceAdd, decodeC, encLoop, cMaps_of_own, extractLsb'_append_eq_ite]

theorem decodeC_encLoopx (f : LoopxForm) : decodeC (encLoopx f) = .ok (.loopx f) := by
  simp [-Nat.reduceAdd, decodeC, encLoopx, cMaps_of_own, extractLsb'_append_eq_ite, getElem_eq_extractLsb']

theorem decodeC_encHoldImm (f : HoldForm) : decodeC (encHoldImm f) = .ok (.holdcImm f) := by
  simp [-Nat.reduceAdd, decodeC, encHoldImm, cMaps_of_own, extractLsb'_append_eq_ite, getElem_eq_extractLsb']

theorem decodeC_encHoldReg (f : RegForm) : decodeC (encHoldReg f) = .ok (.holdcReg f) := by
  simp [-Nat.reduceAdd, decodeC, encHoldReg, cMaps_of_own, extractLsb'_append_eq_ite, getElem_eq_extractLsb']

theorem decodeC_encTrap (f : CodeForm) : decodeC (encTrap f) = .ok (.trap f) := by
  simp [-Nat.reduceAdd, decodeC, encTrap, cMaps_of_own, extractLsb'_append_eq_ite]

theorem decodeC_encSetfReg (f : SetfForm) : decodeC (encSetfReg f) = .ok (.setfReg f) := by
  simp [-Nat.reduceAdd, decodeC, encSetfReg, cMaps_of_own, extractLsb'_append_eq_ite, getElem_eq_extractLsb']

theorem decodeC_encSetfLit (f : SetfLitForm) : decodeC (encSetfLit f) = .ok (.setfLit f) := by
  simp [-Nat.reduceAdd, decodeC, encSetfLit, cMaps_of_own, extractLsb'_append_eq_ite, getElem_eq_extractLsb']

theorem decodeC_encFmtReg (f : RegForm) : decodeC (encFmtReg f) = .ok (.fmtReg f) := by
  simp [-Nat.reduceAdd, decodeC, encFmtReg, cMaps_of_own, extractLsb'_append_eq_ite, getElem_eq_extractLsb']

theorem decodeC_encFmtLit (f : FmtLitForm) : decodeC (encFmtLit f) = .ok (.fmtLit f) := by
  simp [-Nat.reduceAdd, decodeC, encFmtLit, cMaps_of_own, extractLsb'_append_eq_ite, getElem_eq_extractLsb']

theorem decodeC_of_encodeC {i : Instr} : ∀ w, encodeC i = some w → decodeC w = .ok i := by
  cases i with
  | br | call | mseek => rintro _ ⟨⟩; exact decodeC_encOff rfl
  | bri | calli | holdu | phase => rintro _ ⟨⟩; exact decodeC_encReg rfl
  | ret | halt | brk | iret | uien | uidis | ifence => rintro _ ⟨⟩; exact decodeC_encNone rfl
  | loop f => rintro _ ⟨⟩; exact decodeC_encLoop f
  | loopx f => rintro _ ⟨⟩; exact decodeC_encLoopx f
  | holdcImm f => rintro _ ⟨⟩; exact decodeC_encHoldImm f
  | holdcReg f => rintro _ ⟨⟩; exact decodeC_encHoldReg f
  | trap f => rintro _ ⟨⟩; exact decodeC_encTrap f
  | setfReg f => rintro _ ⟨⟩; exact decodeC_encSetfReg f
  | setfLit f => rintro _ ⟨⟩; exact decodeC_encSetfLit f
  | fmtReg f => rintro _ ⟨⟩; exact decodeC_encFmtReg f
  | fmtLit f => rintro _ ⟨⟩; exact decodeC_encFmtLit f
  | _ => nofun

/-! ### Class E (14 R348; 19 Table Engine.1) -/

theorem decodeE_encE2 {op : BitVec 6} {fn : BitVec 3} {c : E2Form → Instr} {f : E2Form} (listed : ctorE2 op fn = some c) :
    decodeE (encE2 fn op f) = .ok (c f) := by
  simp [-Nat.reduceAdd, decodeE, encE2, listed, extractLsb'_append_eq_ite]

theorem decodeE_encE3 {op : BitVec 6} {fn : BitVec 3} {c : E3Form → Instr} {f : E3Form} (listed : ctorE3 op fn = some c) :
    decodeE (encE3 fn op f) = .ok (c f) := by
  simp [-Nat.reduceAdd, decodeE, encE3, eMaps_of_E3, listed, extractLsb'_append_eq_ite]

theorem decodeE_encHread (f : HreadForm) : decodeE (encHread f) = .ok (.hread f) := by
  simp [-Nat.reduceAdd, decodeE, encHread, eMaps_of_own, extractLsb'_append_eq_ite]

theorem decodeE_encSpawn (f : ESpawnForm) : decodeE (encSpawn 0x10 f) = .ok (.tspawn f) ∧ decodeE (encSpawn 0x11 f) = .ok (.twake f) := by
  simp [-Nat.reduceAdd, decodeE, encSpawn, eMaps_of_own, extractLsb'_append_eq_ite, getElem_eq_extractLsb']

theorem decodeE_encMesh (f : MeshForm) : decodeE (encMesh 0x13 f) = .ok (.vsend f) ∧ decodeE (encMesh 0x14 f) = .ok (.vrecv f) := by
  simp [-Nat.reduceAdd, decodeE, encMesh, eMaps_of_own, extractLsb'_append_eq_ite, getElem_eq_extractLsb']

theorem decodeE_of_encodeE {i : Instr} : ∀ w, encodeE i = some w → decodeE w = .ok i := by
  cases i with
  | cpy | cpyV | cpyq | cpyw | cpyk | hbindBind | hbindPark | hbindClose | hcut | hcutT => rintro _ ⟨⟩; exact decodeE_encE2 rfl
  | hbindOpen | hframe | htent | hcommit | hckpt | hplayHold | hplaySource | hplayHorizon | sqput | sqget | sqlen | sqlenArmHigh
  | sqlenArmLow | trace => rintro _ ⟨⟩; exact decodeE_encE3 rfl
  | hread f => rintro _ ⟨⟩; exact decodeE_encHread f
  | tspawn f => rintro _ ⟨⟩; exact (decodeE_encSpawn f).1
  | twake f => rintro _ ⟨⟩; exact (decodeE_encSpawn f).2
  | vsend f => rintro _ ⟨⟩; exact (decodeE_encMesh f).1
  | vrecv f => rintro _ ⟨⟩; exact (decodeE_encMesh f).2
  | _ => nofun

/-! ### Class X (14 R350, R351) -/

theorem encBeat0_fields (f : BeatForm) :
    (encBeat0 f).extractLsb' 26 6 = 1 ∧ guardOf (encBeat0 f) = f.g ∧ (encBeat0 f).extractLsb' 17 4 = f.fsel ∧
    (encBeat0 f).getLsbD 16 = f.oneshot ∧ (encBeat0 f).getLsbD 15 = f.sparse ∧ (encBeat0 f).getLsbD 14 = f.bank ∧
    (encBeat0 f).getLsbD 13 = f.pushA ∧ (encBeat0 f).getLsbD 12 = f.pushB ∧ (encBeat0 f).getLsbD 11 = f.acc ∧
    (encBeat0 f).getLsbD 10 = f.fold ∧ (encBeat0 f).getLsbD 9 = f.shA ∧ (encBeat0 f).getLsbD 8 = f.shB ∧
    (encBeat0 f).getLsbD 7 = f.drain ∧ (encBeat0 f).extractLsb' 0 7 = f.amt := by
  simp [-Nat.reduceAdd, encBeat0, extractLsb'_append_eq_ite, getElem_eq_extractLsb']

theorem encBeat1_fields (f : BeatForm) :
    xsrcOf ((encBeat1 f).extractLsb' 30 2) ((encBeat1 f).extractLsb' 25 5) = some f.a ∧
    xsrcOf ((encBeat1 f).extractLsb' 23 2) ((encBeat1 f).extractLsb' 18 5) = some f.b ∧
    (encBeat1 f).extractLsb' 15 3 = f.dconv ∧ (encBeat1 f).getLsbD 14 = f.drnd ∧ (encBeat1 f).getLsbD 13 = f.dsat ∧
    (encBeat1 f).extractLsb' 8 5 = f.dshift ∧ (encBeat1 f).getLsbD 7 = f.dkind ∧ (encBeat1 f).getLsbD 6 = f.dest.getLsbD 5 ∧
    (encBeat1 f).extractLsb' 1 6 = f.dest ∧ (encBeat1 f).getLsbD 0 = false := by
  simp [-Nat.reduceAdd, encBeat1, extractLsb'_append_eq_ite, getElem_eq_extractLsb']

theorem encBeat1_noDrain {f : BeatForm}
    (unused : f.dconv = 0 ∧ f.drnd = false ∧ f.dsat = false ∧ f.dshift = 0 ∧ f.dkind = false ∧ f.dest = 0) :
    (encBeat1 f).extractLsb' 1 17 = 0 := by
  simp [-Nat.reduceAdd, encBeat1, unused, extractLsb'_append_eq_ite]

/-- What a well-formed MBEAT leaves zero: the drain fields without a drain, the shift below dconv 5, and bit 5 of a vector destination. -/
theorem wfSlot_mbeat {f : BeatForm} (wf : (Instr.mbeat f).wfSlot = true) :
    (f.drain = true ∨ f.dconv = 0 ∧ f.drnd = false ∧ f.dsat = false ∧ f.dshift = 0 ∧ f.dkind = false ∧ f.dest = 0) ∧
      (5 ≤ f.dconv.toNat ∨ f.dshift = 0) ∧ (f.dkind = true ∨ f.dest.getLsbD 5 = false) := by
  change (_ && (_ || _) && (_ || _) && (_ || _)) = true at wf
  simp only [Bool.and_eq_true, Bool.or_eq_true, Bool.not_eq_true', decide_eq_true_eq, and_assoc] at wf
  exact wf.2.2

theorem decodeX_mbeat {f : BeatForm} (wf : (Instr.mbeat f).wfSlot = true) : decodeX (encBeat0 f) (encBeat1 f) = .ok (.mbeat f) := by
  obtain ⟨drain, shift, dest⟩ := wfSlot_mbeat wf
  have zero : ((encBeat1 f).getLsbD 0 = false && (f.drain || (encBeat1 f).extractLsb' 1 17 = 0) &&
      (f.dconv.toNat ≥ 5 || f.dshift = 0) && (f.dkind || f.dest.getLsbD 5 = false)) = true := by
    simp only [encBeat1_fields, Bool.and_eq_true, Bool.or_eq_true, decide_eq_true_eq, true_and]
    exact ⟨⟨drain.imp_right encBeat1_noDrain, shift⟩, dest⟩
  simp only [encBeat1_fields] at zero
  simp only [decodeX, encBeat0_fields, encBeat1_fields, zero, okIf_true]
  rfl

theorem decodeX_encScl {f : SclForm} (wf : (!(f.a = .keep) && !(f.b = .keep)) = true) :
    decodeX (encScl f).1 (encScl f).2 = .ok (.mscl f) := by
  have kept : f.a ≠ .keep ∧ f.b ≠ .keep := by simpa using wf
  simp [-Nat.reduceAdd, decodeX, encScl, kept, extractLsb'_append_eq_ite]

theorem decodeX_mclr (f : ClrForm) : decodeX (0x03#6 ++ encGuard f.g ++ 0#6 ++ ofBool f.bank ++ 0#14) 0 = .ok (.mclr f) := by
  simp [-Nat.reduceAdd, decodeX, xsrcOf, extractLsb'_append_eq_ite, getElem_eq_extractLsb']

theorem decodeX_mswap (f : SwapForm) : decodeX (0x04#6 ++ encGuard f.g ++ 0#21) 0 = .ok (.mswap f) := by
  simp [-Nat.reduceAdd, decodeX, xsrcOf, extractLsb'_append_eq_ite]

theorem decodeX_encImg {f : ImgForm} (wf : (!(f.parts = 0)) = true) :
    decodeX (encImg 0x05 f).1 (encImg 0x05 f).2 = .ok (.msave f) ∧ decodeX (encImg 0x06 f).1 (encImg 0x06 f).2 = .ok (.mload f) := by
  have named : f.parts ≠ 0#6 := by simpa using wf
  simp [-Nat.reduceAdd, decodeX, encImg, xsrcOf, named, extractLsb'_append_eq_ite, getElem_eq_extractLsb']

theorem decodeX_of_encodeX {i : Instr} (wf : i.wfSlot = true) : ∀ w u, encodeX i = some (w, u) → decodeX w u = .ok i := by
  cases i with
  | mbeat => rintro _ _ ⟨⟩; exact decodeX_mbeat wf
  | mscl => rintro _ _ ⟨⟩; exact decodeX_encScl wf
  | mclr f => rintro _ _ ⟨⟩; exact decodeX_mclr f
  | mswap f => rintro _ _ ⟨⟩; exact decodeX_mswap f
  | msave => rintro _ _ ⟨⟩; exact (decodeX_encImg wf).1
  | mload => rintro _ _ ⟨⟩; exact (decodeX_encImg wf).2
  | _ => nofun

/-! ### The statement -/

/-- A primary operation has a word, or two: of each constructor either it has words or no operands of it are well-formed. -/
theorem encode_ne_nil {i : Instr} (wf : i.wfSlot = true) : encode i ≠ [] := by
  intro empty
  cases i <;> nomatch empty, wf

/-- Settles O54, class by class. -/
theorem slotWordsRoundTrip : Obligations.SlotWordsRoundTrip := fun _ wf =>
  ⟨decodeS_of_encodeS wf, decodeM_of_encodeM wf, decodeV_of_encodeV wf, decodeC_of_encodeC, decodeE_of_encodeE, decodeX_of_encodeX wf,
    encode_ne_nil wf⟩

end Sys2Proof.Machine
end

section
/-! PROOFS. Barrel words round trip (14 R352, R353, Tables Enc.18 to Enc.20). All barrel operations share one layout (`barWord`), whose fields
are read once; what is left to an operation is what its well-formedness says of the fields that it leaves zero. -/

namespace Sys2Proof.Machine
open BitVec (ofBool extractLsb'_append_eq_ite getElem_eq_extractLsb')

/-! ### Operands in their five, two or twenty-four bits -/

@[simp] theorem setWidth_extract_of_x5 {r : BitVec 6} (h : x5 r = true) : (r.extractLsb' 0 5).setWidth 6 = r := by
  revert r; decide

@[simp] theorem setWidth_extract_of_f2 {p : BitVec 4} (h : f2 p = true) : (p.extractLsb' 0 2).setWidth 4 = p := by
  revert p; decide

theorem extract_high_of_f2 {p : BitVec 4} (h : f2 p = true) : p.extractLsb' 2 2 = 0#2 := by
  revert p; decide

@[simp] theorem setWidth_extract_of_le_three {p : BitVec 3} (h : p.toNat ≤ 3) : (p.extractLsb' 0 2).setWidth 3 = p := by
  revert p; decide

/-! ### The barrel layout -/

section
variable (cls : BitVec 2) (op : BitVec 6) (g : Guard) (d a b : BitVec 6) (kind : BitVec 2) (fn : BitVec 4) (imm : BitVec 32)

theorem barWord_fields :
    (barWord cls op g d a b kind fn imm).extractLsb' 62 2 = cls ∧
    (barWord cls op g d a b kind fn imm).extractLsb' 56 6 = op ∧
    (barWord cls op g d a b kind fn imm).extractLsb' 53 3 = ofBool g.neg ++ g.pred.extractLsb' 0 2 ∧
    (barWord cls op g d a b kind fn imm).extractLsb' 48 5 = d.extractLsb' 0 5 ∧
    (barWord cls op g d a b kind fn imm).extractLsb' 43 5 = a.extractLsb' 0 5 ∧
    (barWord cls op g d a b kind fn imm).extractLsb' 38 5 = b.extractLsb' 0 5 ∧
    (barWord cls op g d a b kind fn imm).extractLsb' 36 2 = kind ∧
    (barWord cls op g d a b kind fn imm).extractLsb' 36 7 = b.extractLsb' 0 5 ++ kind ∧
    (barWord cls op g d a b kind fn imm).extractLsb' 32 4 = fn ∧
    (barWord cls op g d a b kind fn imm).extractLsb' 0 32 = imm := by
  simp [-Nat.reduceAdd, barWord, extractLsb'_append_eq_ite]

/-- The reads of an operation on flags, which stand in the register fields. -/
theorem barWord_flags :
    (barWord cls op g d a b kind fn imm).extractLsb' 50 3 = d.extractLsb' 2 3 ∧
    (barWord cls op g d a b kind fn imm).extractLsb' 48 2 = d.extractLsb' 0 2 ∧
    (barWord cls op g d a b kind fn imm).extractLsb' 45 3 = a.extractLsb' 2 3 ∧
    (barWord cls op g d a b kind fn imm).extractLsb' 43 2 = a.extractLsb' 0 2 ∧
    (barWord cls op g d a b kind fn imm).extractLsb' 40 3 = b.extractLsb' 2 3 ∧
    (barWord cls op g d a b kind fn imm).extractLsb' 38 2 = b.extractLsb' 0 2 := by
  simp [-Nat.reduceAdd, barWord, extractLsb'_append_eq_ite, extractLsb'_extractLsb'_of_add_le]

/-- The reads of an access (14 Table Enc.19): ordering and mode in fn; flag, scope and offset in the immediate. -/
theorem barWord_access :
    (barWord cls op g d a b kind fn imm).extractLsb' 34 2 = fn.extractLsb' 2 2 ∧
    (barWord cls op g d a b kind fn imm).extractLsb' 32 2 = fn.extractLsb' 0 2 ∧
    (barWord cls op g d a b kind fn imm).extractLsb' 30 2 = imm.extractLsb' 30 2 ∧
    (barWord cls op g d a b kind fn imm).extractLsb' 27 3 = imm.extractLsb' 27 3 ∧
    (barWord cls op g d a b kind fn imm).extractLsb' 24 3 = imm.extractLsb' 24 3 ∧
    (barWord cls op g d a b kind fn imm).extractLsb' 0 24 = imm.extractLsb' 0 24 := by
  simp [-Nat.reduceAdd, barWord, extractLsb'_append_eq_ite]

theorem decodeBarrel_class :
    decodeBarrel (barWord 0#2 op g d a b kind fn imm) = decodeBarS (barWord 0#2 op g d a b kind fn imm) ∧
    decodeBarrel (barWord 1#2 op g d a b kind fn imm) = decodeBarM (barWord 1#2 op g d a b kind fn imm) ∧
    decodeBarrel (barWord 2#2 op g d a b kind fn imm) = decodeBarE (barWord 2#2 op g d a b kind fn imm) ∧
    decodeBarrel (barWord 3#2 op g d a b kind fn imm) = decodeBarG (barWord 3#2 op g d a b kind fn imm) := by
  simp [decodeBarrel, barWord_fields]

theorem barGuard_barWord {g : Guard} (h : barG g = true) : barGuard (barWord cls op g d a b kind fn imm) = g := by
  have low : (g.pred.extractLsb' 0 2).setWidth 4 = g.pred := setWidth_extract_of_f2 h
  simp [-Nat.reduceAdd, barGuard, barWord, low, extractLsb'_append_eq_ite, getElem_eq_extractLsb']

theorem barSrc_barWord {s : Src} (h : barSrcOk s = true) :
    barSrc (barWord cls op g d a (barOpnd s).1 (barOpnd s).2.1 fn (barOpnd s).2.2) = some s := by
  cases s with
  | reg r =>
    have low : x5 r = true := h
    simp [barSrc, barWord_fields, barOpnd, low]
  | imm v => simp [barSrc, barWord_fields, barOpnd]
  | cw w o => simp [-Nat.reduceAdd, barSrc, barWord_fields, barOpnd, extractLsb'_append_eq_ite]
  | lit => nomatch h

theorem barIndex_barWord {s : Src} (h : barIdxOk s = true) (off : imm.extractLsb' 0 24 = (barIdx s).2.2) :
    barIndex (barWord cls op g d a (barIdx s).1 (barIdx s).2.1 fn imm) = some s := by
  cases s with
  | reg r =>
    have low : x5 r = true := h
    simp only [barIdx] at off
    simp [barIndex, barWord_fields, barWord_access, off, barIdx, low]
  | imm v =>
    have small : (v.extractLsb' 0 24).signExtend 32 = v := by simpa [barIdxOk] using h
    simp only [barIdx] at off
    simp [barIndex, barWord_fields, barWord_access, off, barIdx, small]
  | lit | cw => nomatch h

end

/-! ### Class S (14 Table Enc.18)

A thread has no MOVX, MTC and HSET. -/

section
variable {op : BitVec 6}

theorem decodeBarrel_barSA {c : AluForm → Instr} {f : AluForm} (listed : ctorSA op = some c)
    (thread : op ≠ 0x21#6 ∧ op ≠ 0x36#6 ∧ op ≠ 0x3A#6)
    (wf : (barG f.g && x5 f.d && x5 f.a && barSrcOk f.b) = true) : decodeBarrel (barSA op f) = .ok (c f) := by
  simp only [Bool.and_eq_true] at wf
  simp [barSA, decodeBarrel_class, decodeBarS, barWord_fields, barGuard_barWord, barSrc_barWord, listed, thread, wf]

theorem decodeBarrel_barSU {c : UnForm → Instr} {f : UnForm} (listed : ctorSU op = some c)
    (thread : op ≠ 0x21#6 ∧ op ≠ 0x36#6 ∧ op ≠ 0x3A#6)
    (wf : (barG f.g && x5 f.d && x5 f.a) = true) : decodeBarrel (barSU 0 op f) = .ok (c f) := by
  simp only [Bool.and_eq_true] at wf
  simp [barSU, decodeBarrel_class, decodeBarS, barWord_fields, barGuard_barWord, sMaps_of_SU, listed, thread, wf]

theorem decodeBarrel_barCmp {c : CmpForm → Instr} {f : CmpForm} (listed : ctorCmp op = some c)
    (thread : op ≠ 0x21#6 ∧ op ≠ 0x36#6 ∧ op ≠ 0x3A#6)
    (wf : (barG f.g && f2 f.d && x5 f.a && barSrcOk f.b) = true) : decodeBarrel (barCmp op f) = .ok (c f) := by
  simp only [Bool.and_eq_true] at wf
  simp [-Nat.reduceAdd, barCmp, decodeBarrel_class, decodeBarS, barWord_fields, barWord_flags, barGuard_barWord, barSrc_barWord,
    sMaps_of_Cmp, listed, thread, wf, extract_high_of_f2, extractLsb'_append_eq_ite]

theorem decodeBarrel_barPred {c : PredForm → Instr} {f : PredForm} (listed : ctorPred op = some c)
    (thread : op ≠ 0x21#6 ∧ op ≠ 0x36#6 ∧ op ≠ 0x3A#6) (wf : (barG f.g && f2 f.d && f2 f.a && f2 f.b) = true) :
    decodeBarrel (barPred op f) = .ok (c f) := by
  simp only [Bool.and_eq_true] at wf
  simp [-Nat.reduceAdd, barPred, decodeBarrel_class, decodeBarS, barWord_fields, barWord_flags, barGuard_barWord,
    sMaps_of_Pred, listed, thread, wf, extract_high_of_f2, extractLsb'_append_eq_ite]

theorem decodeBarrel_barPredUn {c : PredUnForm → Instr} {f : PredUnForm} (listed : ctorPredUn op = some c)
    (thread : op ≠ 0x21#6 ∧ op ≠ 0x36#6 ∧ op ≠ 0x3A#6) (wf : (barG f.g && f2 f.d && f2 f.a) = true) :
    decodeBarrel (barPredUn op f) = .ok (c f) := by
  simp only [Bool.and_eq_true] at wf
  simp [-Nat.reduceAdd, barPredUn, decodeBarrel_class, decodeBarS, barWord_fields, barWord_flags, barGuard_barWord,
    sMaps_of_PredUn, listed, thread, wf, extract_high_of_f2, extractLsb'_append_eq_ite]

end

theorem decodeBarrel_barLi {f : LiForm} (wf : (barG f.g && x5 f.d && barSrcOk f.b && !isReg f.b) = true) :
    decodeBarrel (barLi f) = .ok (.li f) := by
  obtain ⟨g, d, b⟩ := f
  simp only [Bool.and_eq_true] at wf
  cases b with
  | reg => nomatch wf.2
  | _ => simp [barLi, decodeBarrel_class, decodeBarS, barWord_fields, barGuard_barWord, barSrc_barWord, sMaps_of_own, wf]

theorem decodeBarrel_barPset {f : PSetForm} (wf : (barG f.g && f2 f.d) = true) : decodeBarrel (barPset f) = .ok (.pset f) := by
  simp only [Bool.and_eq_true] at wf
  simp [-Nat.reduceAdd, barPset, decodeBarrel_class, decodeBarS, barWord_fields, barWord_flags, barGuard_barWord, sMaps_of_own, wf,
    extract_high_of_f2, extractLsb'_append_eq_ite, getElem_eq_extractLsb']

theorem decodeBarrel_fcvt {f : UnForm} (wf : (barG f.g && x5 f.d && x5 f.a) = true) :
    decodeBarrel (barSU 0 0x34 f) = .ok (.fcvtI2f f) ∧ decodeBarrel (barSU 1 0x34 f) = .ok (.fcvtN2f f) ∧
    decodeBarrel (barSU 2 0x34 f) = .ok (.fcvtF2i f) ∧ decodeBarrel (barSU 3 0x34 f) = .ok (.fcvtF2n f) := by
  simp only [Bool.and_eq_true] at wf
  simp [barSU, decodeBarrel_class, decodeBarS, barWord_fields, barGuard_barWord, sMaps_of_own, wf]

theorem decodeBarrel_mfc {f : CRegForm} (wf : (barG f.g && x5 f.r) = true) :
    decodeBarrel (barNum 0x35 f.g f.r (f.c.setWidth 32)) = .ok (.mfc f) := by
  simp only [Bool.and_eq_true] at wf
  simp [barNum, decodeBarrel_class, decodeBarS, barWord_fields, barGuard_barWord, sMaps_of_own, wf, BitVec.extractLsb'_setWidth_of_le,
    extractLsb'_eq_zero_of_width_le]

theorem decodeBarrel_hget {f : HoistForm} (wf : (barG f.g && x5 f.r) = true) :
    decodeBarrel (barNum 0x3B f.g f.r (f.h.setWidth 32)) = .ok (.hget f) := by
  simp only [Bool.and_eq_true] at wf
  simp [barNum, decodeBarrel_class, decodeBarS, barWord_fields, barGuard_barWord, sMaps_of_own, wf, BitVec.extractLsb'_setWidth_of_le,
    extractLsb'_eq_zero_of_width_le]

theorem decodeBarrel_barTime {f : TimeForm} (wf : (barG f.g && x5 f.d) = true) :
    decodeBarrel (barTime 0x37 f) = .ok (.now f) ∧ decodeBarrel (barTime 0x38 f) = .ok (.cyc f) := by
  simp only [Bool.and_eq_true] at wf
  simp [barTime, decodeBarrel_class, decodeBarS, barWord_fields, barGuard_barWord, sMaps_of_own, wf]

/-! ### Class M (14 Table Enc.19) -/

theorem barIdx_kind_of_isReg {s : Src} (h : isReg s = true) : (barIdx s).2.1 = 0#2 := by
  cases s with
  | reg => rfl
  | imm | lit | cw => nomatch h

theorem MemForm.mk_of_fields {f : MemForm} {d : BitVec 6} {mode : Mode} {p scope : BitVec 3} {ord : Ord} (hd : f.d = d) (hm : f.mode = mode)
    (hp : f.p = p) (ho : f.ord = ord) (hs : f.scope = scope) : (⟨f.g, d, f.a, f.i, mode, p, ord, scope⟩ : MemForm) = f := by
  subst hd hm hp ho hs; rfl

/-- What every barrel access needs of its operands. -/
def AccessOperands (f : MemForm) : Prop :=
  (((barG f.g = true ∧ x5 f.d = true) ∧ x5 f.a = true) ∧ barIdxOk f.i = true) ∧ f.scope.toNat ≤ 4

section
variable {op : BitVec 6} {f : MemForm} {c : MemForm → Instr}

theorem barMem_fields (wf : AccessOperands f) :
    (barMem op f).extractLsb' 56 6 = op ∧ barGuard (barMem op f) = f.g ∧
    ((barMem op f).extractLsb' 48 5).setWidth 6 = f.d ∧ ((barMem op f).extractLsb' 43 5).setWidth 6 = f.a ∧
    barIndex (barMem op f) = some f.i ∧ (barMem op f).extractLsb' 36 2 = (barIdx f.i).2.1 ∧
    (barMem op f).extractLsb' 34 2 = encOrd f.ord ∧ (barMem op f).extractLsb' 32 2 = encMode f.mode ∧
    (barMem op f).extractLsb' 30 2 = f.p.extractLsb' 0 2 ∧ (barMem op f).extractLsb' 27 3 = f.scope ∧
    (barMem op f).extractLsb' 24 3 = 0#3 := by
  obtain ⟨operands, -⟩ := wf
  simp [-Nat.reduceAdd, barMem, barWord_fields, barWord_access, barGuard_barWord, barIndex_barWord, operands, extractLsb'_append_eq_ite]

theorem decodeBarrel_barMem : decodeBarrel (barMem op f) = decodeBarM (barMem op f) :=
  (decodeBarrel_class ..).2.1

theorem AccessOperands.scope (wf : AccessOperands f) : ¬5 ≤ f.scope.toNat := Nat.not_le.mpr (Nat.lt_succ_of_le wf.2)

theorem decodeBarrel_barMem_plain (listed : ctorMA op = some c)
    (wf : (barG f.g && x5 f.d && x5 f.a && barIdxOk f.i && f.scope.toNat ≤ 4 && f.p = 0 && f.ord = .rlx && f.scope = 0) = true) :
    decodeBarrel (barMem op f) = .ok (c f) := by
  simp only [Bool.and_eq_true, decide_eq_true_eq] at wf
  obtain ⟨⟨⟨operands, hp⟩, ho⟩, hs⟩ := wf
  simpa [decodeBarrel_barMem, decodeBarM, barMem_fields operands, listed, encOrd, hp, ho, hs]
    using congrArg c (MemForm.mk_of_fields rfl rfl hp ho hs)

theorem decodeBarrel_barMem_sync (listed : ctorSync op = some c)
    (wf : (barG f.g && x5 f.d && x5 f.a && barIdxOk f.i && f.scope.toNat ≤ 4 && f.p = 0 && f.ord = .rlx) = true) :
    decodeBarrel (barMem op f) = .ok (c f) := by
  simp only [Bool.and_eq_true, decide_eq_true_eq] at wf
  obtain ⟨⟨operands, hp⟩, ho⟩ := wf
  simpa [decodeBarrel_barMem, decodeBarM, barMem_fields operands, AccessOperands.scope operands, mMaps_of_Sync, listed, encOrd, hp, ho]
    using congrArg c (MemForm.mk_of_fields rfl rfl hp ho rfl)

theorem decodeBarrel_barMem_syncPred (listed : ctorSyncPred op = some c)
    (wf : (barG f.g && x5 f.d && x5 f.a && barIdxOk f.i && f.scope.toNat ≤ 4 && f.p.toNat ≤ 3 && f.ord = .rlx) = true) :
    decodeBarrel (barMem op f) = .ok (c f) := by
  simp only [Bool.and_eq_true, decide_eq_true_eq] at wf
  obtain ⟨⟨operands, hp⟩, ho⟩ := wf
  simpa [decodeBarrel_barMem, decodeBarM, barMem_fields operands, AccessOperands.scope operands, mMaps_of_SyncPred, listed, encOrd, hp, ho]
    using congrArg c (MemForm.mk_of_fields rfl rfl rfl ho rfl)

/-- ACAS (opcode 0x20) alone may not name x31 (16 R396). -/
theorem decodeBarrel_barMem_atomic (listed : ctorAtomic op = some c) (pair : op ≠ 0x20 ∨ f.d ≠ 31)
    (wf : (barG f.g && x5 f.d && x5 f.a && barIdxOk f.i && f.scope.toNat ≤ 4 && f.p = 0) = true) :
    decodeBarrel (barMem op f) = .ok (c f) := by
  simp only [Bool.and_eq_true, decide_eq_true_eq] at wf
  obtain ⟨operands, hp⟩ := wf
  have notLast : (!decide (op = 0x20#6) || !decide (f.d = 31#6)) = true := by simpa using pair
  simpa [decodeBarrel_barMem, decodeBarM, barMem_fields operands, AccessOperands.scope operands, mMaps_of_Atomic, listed, notLast, hp]
    using congrArg c (MemForm.mk_of_fields rfl rfl hp rfl rfl)

theorem decodeBarrel_barMem_cache (listed : ctorMC op = some c)
    (wf : (barG f.g && x5 f.d && x5 f.a && barIdxOk f.i && f.scope.toNat ≤ 4 && f.p = 0 && f.ord = .rlx && f.scope = 0 &&
      f.mode = .glob && f.d = 0) = true) : decodeBarrel (barMem op f) = .ok (c f) := by
  simp only [Bool.and_eq_true, decide_eq_true_eq] at wf
  obtain ⟨⟨⟨⟨⟨operands, hp⟩, ho⟩, hs⟩, hm⟩, hd⟩ := wf
  simpa [decodeBarrel_barMem, decodeBarM, barMem_fields operands, mMaps_of_MC, listed, encOrd, hp, ho, hs, hm, hd]
    using congrArg c (MemForm.mk_of_fields hd hm hp ho hs)

/-- STT (any opcode of the map but 0x25) takes no offset (16 R401). -/
theorem decodeBarrel_barMem_service (listed : ctorMP op = some c) (index : op = 0x25 ∨ isReg f.i = true)
    (wf : (barG f.g && x5 f.d && x5 f.a && barIdxOk f.i && f.scope.toNat ≤ 4 && f.p = 0 && f.ord = .rlx && f.scope = 0 &&
      f.mode = .glob) = true) : decodeBarrel (barMem op f) = .ok (c f) := by
  simp only [Bool.and_eq_true, decide_eq_true_eq] at wf
  obtain ⟨⟨⟨⟨operands, hp⟩, ho⟩, hs⟩, hm⟩ := wf
  have kind : (decide (op = 0x25#6) || decide ((barIdx f.i).2.1 = 0#2)) = true := by
    simpa using index.imp_right barIdx_kind_of_isReg
  simpa [decodeBarrel_barMem, decodeBarM, barMem_fields operands, mMaps_of_MP, listed, encOrd, hp, ho, hs, hm, kind]
    using congrArg c (MemForm.mk_of_fields rfl hm hp ho hs)

end

theorem decodeBarrel_barFence {f : FenceForm} (wf : (barG f.g && f.scope.toNat ≤ 4) = true) :
    decodeBarrel (barFence f) = .ok (.fence f) := by
  simp only [Bool.and_eq_true, decide_eq_true_eq] at wf
  obtain ⟨hg, hs⟩ := wf
  have scope : ¬5 ≤ f.scope.toNat := by omega
  have mode : modeOf 0#2 = .loc := rfl
  simp [-Nat.reduceAdd, barFence, decodeBarrel_class, decodeBarM, barIndex, barWord_fields, barWord_access, barGuard_barWord, mMaps_of_own,
    hg, scope, mode, extractLsb'_append_eq_ite]

theorem wfBarrel_acas {f : MemForm} (wf : (Instr.acas f).wfBarrel = true) :
    (barG f.g && x5 f.d && x5 f.a && barIdxOk f.i && f.scope.toNat ≤ 4 && f.p = 0) = true ∧ f.d ≠ 31 := by
  change (_ && !decide _) = true at wf
  rw [Bool.and_eq_true, Bool.not_eq_true', decide_eq_false_iff_not] at wf
  exact wf

theorem wfBarrel_stt {f : MemForm} (wf : (Instr.stt f).wfBarrel = true) :
    (barG f.g && x5 f.d && x5 f.a && barIdxOk f.i && f.scope.toNat ≤ 4 && f.p = 0 && f.ord = .rlx && f.scope = 0 &&
      f.mode = .glob) = true ∧ isReg f.i = true := by
  change (_ && _) = true at wf
  rwa [Bool.and_eq_true] at wf

/-! ### Class E (19 R446) -/

theorem decodeBarrel_barE2 {f : E2Form} (wf : (barG f.g && x5 f.d && x5 f.a) = true) :
    decodeBarrel (barE2 0 0x01 f) = .ok (.cpy f) ∧ decodeBarrel (barE2 1 0x01 f) = .ok (.cpyV f) ∧
    decodeBarrel (barE2 0 0x02 f) = .ok (.cpyq f) ∧ decodeBarrel (barE2 0 0x03 f) = .ok (.cpyw f) ∧
    decodeBarrel (barE2 0 0x04 f) = .ok (.cpyk f) := by
  simp only [Bool.and_eq_true] at wf
  simp [barE2, decodeBarrel_class, decodeBarE, barWord_fields, barGuard_barWord, wf]

theorem decodeBarrel_barE3 {f : E3Form} (wf : (barG f.g && x5 f.d && x5 f.a && x5 f.b) = true) :
    decodeBarrel (barE3 0x0D f) = .ok (.sqput f) ∧ decodeBarrel (barE3 0x0E f) = .ok (.sqget f) ∧
    decodeBarrel (barE3 0x0F f) = .ok (.sqlen f) ∧ decodeBarrel (barE3 0x12 f) = .ok (.trace f) := by
  simp only [Bool.and_eq_true] at wf
  simp [barE3, decodeBarrel_class, decodeBarE, barWord_fields, barGuard_barWord, wf]

theorem decodeBarrel_barSpawn {f : ESpawnForm} (wf : (barG f.g && x5 f.d && x5 f.a && x5 f.b) = true) :
    decodeBarrel (barSpawn 0x10 f) = .ok (.tspawn f) ∧ decodeBarrel (barSpawn 0x11 f) = .ok (.twake f) := by
  simp only [Bool.and_eq_true] at wf
  simp [-Nat.reduceAdd, barSpawn, decodeBarrel_class, decodeBarE, barWord_fields, barGuard_barWord, wf, extractLsb'_append_eq_ite,
    getElem_eq_extractLsb']

theorem decodeBarrel_barHread {f : HreadForm} (wf : (barG f.g && x5 f.d && x5 f.a) = true) :
    decodeBarrel (barHread f) = .ok (.hread f) := by
  simp only [Bool.and_eq_true] at wf
  simp [-Nat.reduceAdd, barHread, decodeBarrel_class, decodeBarE, barWord_fields, barGuard_barWord, wf, extractLsb'_append_eq_ite]

theorem decodeBarrel_barLive {f : LiveForm} (wf : (barG f.g && liveSrcOk f.b) = true) : decodeBarrel (barLive f) = .ok (.live f) := by
  obtain ⟨g, b⟩ := f
  obtain ⟨hg, hb⟩ := Bool.and_eq_true_iff.mp wf
  cases b with
  | reg r =>
    have low : x5 r = true := hb
    simp [barLive, decodeBarrel_class, decodeBarE, barWord_fields, barGuard_barWord, barOpnd, hg, low]
  | imm v => simp [barLive, decodeBarrel_class, decodeBarE, barWord_fields, barGuard_barWord, barOpnd, hg]
  | lit | cw => nomatch hb

theorem decodeBarrel_barMigr {f : MigrForm} (wf : (barG f.g && x5 f.a) = true) : decodeBarrel (barMigr f) = .ok (.migr f) := by
  simp only [Bool.and_eq_true] at wf
  simp [barMigr, decodeBarrel_class, decodeBarE, barWord_fields, barGuard_barWord, wf]

/-! ### Class G (14 Table Enc.20; 15 R383) -/

theorem decodeBarrel_barJmp {f : JmpForm} (wf : barG f.g = true) : decodeBarrel (barJmp f) = .ok (.jmp f) := by
  simp [barJmp, decodeBarrel_class, decodeBarG, barWord_fields, barGuard_barWord, wf]

theorem decodeBarrel_barJr {f : JrForm} (wf : x5 f.a = true) : decodeBarrel (barJr f) = .ok (.jr f) := by
  simp [barJr, decodeBarrel_class, decodeBarG, barWord_fields, gTrue, wf]

theorem decodeBarrel_barJal {f : JalForm} (wf : x5 f.d = true) : decodeBarrel (barJal f) = .ok (.jal f) := by
  simp [barJal, decodeBarrel_class, decodeBarG, barWord_fields, gTrue, wf]

theorem decodeBarrel_barJalr {f : JalrForm} (wf : (x5 f.d && x5 f.a) = true) : decodeBarrel (barJalr f) = .ok (.jalr f) := by
  simp only [Bool.and_eq_true] at wf
  simp [barJalr, decodeBarrel_class, decodeBarG, barWord_fields, gTrue, wf]

theorem decodeBarrel_barSleep {f : SleepForm} (wf : sleepSrcOk f.t = true) : decodeBarrel (barSleep f) = .ok (.sleepu f) := by
  obtain ⟨t⟩ := f
  cases t with
  | reg r =>
    have low : x5 r = true := wf
    simp [barSleep, decodeBarrel_class, decodeBarG, barWord_fields, gTrue, low]
  | imm v => simp [barSleep, decodeBarrel_class, decodeBarG, barWord_fields, gTrue]
  | lit | cw => nomatch wf

theorem decodeBarrel_barSys :
    decodeBarrel (barSys 0x06 0) = .ok .tyield ∧ decodeBarrel (barSys 0x06 1) = .ok .tyieldPark ∧
    decodeBarrel (barSys 0x07 0) = .ok .texit := by
  simp [barSys, decodeBarrel_class, decodeBarG, barWord_fields, gTrue]

theorem decodeBarrel_sysc (f : SyscForm) : decodeBarrel (barCode 0x08 (f.c.setWidth 32)) = .ok (.sysc f) := by
  simp [barCode, decodeBarrel_class, decodeBarG, barWord_fields, gTrue, BitVec.extractLsb'_setWidth_of_le,
    extractLsb'_eq_zero_of_width_le]

theorem decodeBarrel_trapg (f : TrapgForm) : decodeBarrel (barCode 0x09 (f.c.setWidth 32)) = .ok (.trapg f) := by
  simp [barCode, decodeBarrel_class, decodeBarG, barWord_fields, gTrue, BitVec.extractLsb'_setWidth_of_le,
    extractLsb'_eq_zero_of_width_le]

/-! ### The statement -/

/-- Settles O55, layout by layout. -/
theorem barrelWordsRoundTrip : Obligations.BarrelWordsRoundTrip := by
  intro i wf
  cases i with
  | add | sub | addw | subw | mul | mulh | mulhn | div | divn | rem | remn | and | or | xor | andn | orn | shl | shr | sra | rotr
  | min | max | minn | maxn | extr | insr | sxt | zxt | lea | fadd | fsub | fmul | ffma | fmin | fmax | mix =>
    exact ⟨_, rfl, decodeBarrel_barSA rfl (by decide) wf⟩
  | clz | ctz | popc | brev | mov => exact ⟨_, rfl, decodeBarrel_barSU rfl (by decide) wf⟩
  | cmp | cmpn | fcmp => exact ⟨_, rfl, decodeBarrel_barCmp rfl (by decide) wf⟩
  | pand | por | pxor => exact ⟨_, rfl, decodeBarrel_barPred rfl (by decide) wf⟩
  | pnot | pmov => exact ⟨_, rfl, decodeBarrel_barPredUn rfl (by decide) wf⟩
  | li => exact ⟨_, rfl, decodeBarrel_barLi wf⟩
  | pset => exact ⟨_, rfl, decodeBarrel_barPset wf⟩
  | fcvtI2f => exact ⟨_, rfl, (decodeBarrel_fcvt wf).1⟩
  | fcvtN2f => exact ⟨_, rfl, (decodeBarrel_fcvt wf).2.1⟩
  | fcvtF2i => exact ⟨_, rfl, (decodeBarrel_fcvt wf).2.2.1⟩
  | fcvtF2n => exact ⟨_, rfl, (decodeBarrel_fcvt wf).2.2.2⟩
  | mfc => exact ⟨_, rfl, decodeBarrel_mfc wf⟩
  | hget => exact ⟨_, rfl, decodeBarrel_hget wf⟩
  | now => exact ⟨_, rfl, (decodeBarrel_barTime wf).1⟩
  | cyc => exact ⟨_, rfl, (decodeBarrel_barTime wf).2⟩
  | ldb | ldbn | ldh | ldhn | ldw | ldwn | ldd | stb | sth | stw | std => exact ⟨_, rfl, decodeBarrel_barMem_plain rfl wf⟩
  | lda | strl | praise => exact ⟨_, rfl, decodeBarrel_barMem_sync rfl wf⟩
  | ptest | pwait | lrw | sch => exact ⟨_, rfl, decodeBarrel_barMem_syncPred rfl wf⟩
  | aadd | aand | aor | axor | amin | amax | aminn | amaxn | axch =>
    exact ⟨_, rfl, decodeBarrel_barMem_atomic rfl (.inl (by decide)) wf⟩
  | acas => exact ⟨_, rfl, decodeBarrel_barMem_atomic rfl (.inr (wfBarrel_acas wf).2) (wfBarrel_acas wf).1⟩
  | cflush | cinv | cpre => exact ⟨_, rfl, decodeBarrel_barMem_cache rfl wf⟩
  | pld => exact ⟨_, rfl, decodeBarrel_barMem_service rfl (.inl rfl) wf⟩
  | stt => exact ⟨_, rfl, decodeBarrel_barMem_service rfl (.inr (wfBarrel_stt wf).2) (wfBarrel_stt wf).1⟩
  | fence => exact ⟨_, rfl, decodeBarrel_barFence wf⟩
  | cpy => exact ⟨_, rfl, (decodeBarrel_barE2 wf).1⟩
  | cpyV => exact ⟨_, rfl, (decodeBarrel_barE2 wf).2.1⟩
  | cpyq => exact ⟨_, rfl, (decodeBarrel_barE2 wf).2.2.1⟩
  | cpyw => exact ⟨_, rfl, (decodeBarrel_barE2 wf).2.2.2.1⟩
  | cpyk => exact ⟨_, rfl, (decodeBarrel_barE2 wf).2.2.2.2⟩
  | sqput => exact ⟨_, rfl, (decodeBarrel_barE3 wf).1⟩
  | sqget => exact ⟨_, rfl, (decodeBarrel_barE3 wf).2.1⟩
  | sqlen => exact ⟨_, rfl, (decodeBarrel_barE3 wf).2.2.1⟩
  | trace => exact ⟨_, rfl, (decodeBarrel_barE3 wf).2.2.2⟩
  | tspawn => exact ⟨_, rfl, (decodeBarrel_barSpawn wf).1⟩
  | twake => exact ⟨_, rfl, (decodeBarrel_barSpawn wf).2⟩
  | hread => exact ⟨_, rfl, decodeBarrel_barHread wf⟩
  | live => exact ⟨_, rfl, decodeBarrel_barLive wf⟩
  | migr => exact ⟨_, rfl, decodeBarrel_barMigr wf⟩
  | jmp => exact ⟨_, rfl, decodeBarrel_barJmp wf⟩
  | jr => exact ⟨_, rfl, decodeBarrel_barJr wf⟩
  | jal => exact ⟨_, rfl, decodeBarrel_barJal wf⟩
  | jalr => exact ⟨_, rfl, decodeBarrel_barJalr wf⟩
  | sleepu => exact ⟨_, rfl, decodeBarrel_barSleep wf⟩
  | tyield => exact ⟨_, rfl, decodeBarrel_barSys.1⟩
  | tyieldPark => exact ⟨_, rfl, decodeBarrel_barSys.2.1⟩
  | texit => exact ⟨_, rfl, decodeBarrel_barSys.2.2⟩
  | sysc f => exact ⟨_, rfl, decodeBarrel_sysc f⟩
  | trapg f => exact ⟨_, rfl, decodeBarrel_trapg f⟩
  | _ => nomatch wf

end Sys2Proof.Machine
end

section
/-! SUPPORT. How an operation runs whose guard holds, and what the bit-field and mask helpers come to, bit by bit (14 R341; 15 R357, R362). -/

namespace Sys2Proof.Machine

/-! ### Running an operation -/

theorem runB_next {s t : State} {g : Guard} {b : Src} (body : State → State) (runs : executes s g = true) (ready : cwReady s b = .ok t) :
    runB s g b body = .next (body t) := by
  simp only [runB, runs, ready, if_true]

theorem runOp_none {s : State} {t : Option TrapInfo} {g : Guard} (b : State → State) (passes : t = none) (runs : executes s g = true) :
    runOp s t g b = .next (b s) := passes ▸ runOp_next b runs

theorem runOp_some {s : State} {t : Option TrapInfo} {x : TrapInfo} {g : Guard} (b : State → State) (fails : t = some x) :
    runOp s t g b = .next (takeTrap s { x with mask := trapMask s }) := fails ▸ runOp_trap ..

theorem takeTrap_prim {s : State} {c : BitVec 10} (agent : s.cur.agent = .prim c) (x : TrapInfo) : takeTrap s x = takePrimTrap s c x := by
  simp only [takeTrap, agent]

/-! ### Bit by bit -/

theorem testBit_fieldOf {w : Nat} (x : BitVec w) (lo len i : Nat) :
    (fieldOf x lo len).testBit i = (decide (i < len) && x.getLsbD (lo + i)) := by
  rw [fieldOf, Nat.testBit_mod_two_pow, Nat.testBit_div_two_pow, BitVec.testBit_toNat, Nat.add_comm]

theorem getLsbD_putField {w : Nat} (x : BitVec w) (lo len v : Nat) {i : Nat} (h : i < w) :
    (putField x lo len v).getLsbD i = if lo ≤ i ∧ i < lo + len then v.testBit (i - lo) else x.getLsbD i := by
  have low : x.toNat % 2 ^ lo < 2 ^ lo := Nat.mod_lt _ (Nat.two_pow_pos lo)
  have mid : 2 ^ lo * (v % 2 ^ len) + x.toNat % 2 ^ lo < 2 ^ (lo + len) := by
    have := mod_add_mul_lt x.toNat (m := lo) (k := len) (Nat.mod_lt v (Nat.two_pow_pos len))
    rwa [Nat.mul_comm, Nat.add_comm]
  have fields : x.toNat % 2 ^ lo + v % 2 ^ len * 2 ^ lo + x.toNat / 2 ^ (lo + len) * 2 ^ (lo + len) =
      2 ^ (lo + len) * (x.toNat / 2 ^ (lo + len)) + (2 ^ lo * (v % 2 ^ len) + x.toNat % 2 ^ lo) := by
    rw [Nat.mul_comm (v % 2 ^ len), Nat.mul_comm (x.toNat / _)]
    omega
  rw [putField, BitVec.getLsbD_ofNat, fields, Nat.testBit_two_pow_mul_add _ mid, Nat.testBit_two_pow_mul_add _ low]
  simp only [h, decide_true, Bool.true_and, Nat.testBit_mod_two_pow, Nat.testBit_div_two_pow, BitVec.testBit_toNat]
  rcases Nat.lt_or_ge i lo with below | above
  · simp [below, show ¬ lo ≤ i by omega, show i < lo + len by omega]
  · rcases Nat.lt_or_ge i (lo + len) with within | beyond
    · simp [above, within, show ¬ i < lo by omega, show i - lo < len by omega]
    · simp [show ¬ i < lo + len by omega, Nat.sub_add_cancel beyond]

theorem testBit_maskFrom (f : Nat → Bool) (n i : Nat) : (maskFrom f n).testBit i = (decide (i < n) && f i) := by
  have bound : ∀ n, maskFrom f n < 2 ^ n := by
    intro n
    induction n with
    | zero => exact Nat.one_pos
    | succ n ih => rw [maskFrom, Nat.pow_succ]; split <;> omega
  induction n with
  | zero => simp [maskFrom]
  | succ n ih =>
    have top : maskFrom f n + (if f n then 2 ^ n else 0) = 2 ^ n * (f n).toNat + maskFrom f n := by cases f n <;> simp [Nat.add_comm]
    rw [maskFrom, top, Nat.testBit_two_pow_mul_add _ (bound n), ih]
    rcases Nat.lt_trichotomy i n with h | rfl | h
    · simp [h, Nat.lt_succ_of_lt h]
    · cases f i <;> simp
    · obtain ⟨k, hk⟩ : ∃ k, i - n = k + 1 := ⟨i - n - 1, by omega⟩
      simp [show ¬ i < n by omega, show ¬ i < n + 1 by omega, hk]
      cases f n <;> simp [Nat.testBit_succ]

theorem getLsbD_ofMask (f : Nat → Bool) {i : Nat} (h : i < 64) : (ofMask f).getLsbD i = f i := by
  rw [ofMask, BitVec.getLsbD_ofNat, testBit_maskFrom]
  simp [h]

theorem countTrue_eq (f : Nat → Bool) (n : Nat) : countTrue f n = ((List.range n).filter f).length := by
  induction n with
  | zero => rfl
  | succ n ih =>
    rw [countTrue, ih, List.range_succ, List.filter_append, List.length_append]
    cases h : f n <;> simp [h]

/-- The search of a range ends at the first index that p holds of, or at the range's length. -/
theorem firstTrue_range (p : Nat → Bool) (n : Nat) : ∃ k, (firstTrue p (List.range n)).getD n = k ∧ k ≤ n ∧ (∀ i < k, p i = false) ∧
    (k < n → p k = true) := by
  have from_ (m : Nat) : ∀ k, ∃ j, (firstTrue p (List.range' k m)).getD (k + m) = j ∧ k ≤ j ∧ j ≤ k + m ∧ (∀ i, k ≤ i → i < j → p i = false) ∧
      (j < k + m → p j = true) := by
    induction m with
    | zero => intro k; exact ⟨k, rfl, Nat.le_refl _, Nat.le_refl _, fun i _ _ => by omega, fun h => by omega⟩
    | succ m ih =>
      intro k
      rw [List.range'_succ, firstTrue]
      split
      · next h => exact ⟨k, rfl, Nat.le_refl _, by omega, fun i _ _ => by omega, fun _ => h⟩
      · next h =>
        obtain ⟨j, eq, lo, hi, none, at_⟩ := ih (k + 1)
        refine ⟨j, by rwa [Nat.add_right_comm] at eq, by omega, by omega, fun i h1 h2 => ?_, fun hj => at_ (by omega)⟩
        rcases Nat.eq_or_lt_of_le h1 with rfl | h1
        · simpa using h
        · exact none i h1 h2
  obtain ⟨j, eq, -, hi, none, at_⟩ := from_ n 0
  rw [Nat.zero_add, ← List.range_eq_range'] at *
  exact ⟨j, eq, hi, fun i => none i (Nat.zero_le i), at_⟩

theorem fieldOf_zero {w : Nat} (x : BitVec w) (len : Nat) : fieldOf x 0 len = (x.setWidth len).toNat := by
  simp [fieldOf]

end Sys2Proof.Machine
end

section
/-! PROOFS. The S class (15 R359-R369; 16 R402): products, quotients, rotations, fields and conversions as values, and the statements about
them. -/

namespace Sys2Proof.Machine

/-! ### The shapes of the class -/

theorem alu_next {s t : State} {f : AluForm} (runs : executes s f.g = true) (ready : cwReady s f.b = .ok t) (n : Nat) (op : Word → Word → Word) :
    alu s f n op = .next (finish (writeR t f.d (op (readR t f.a) (readB t f.b)) n)) := runB_next _ runs ready

/-- The destination receives the value that the operation comes to. -/
theorem alu_of_eq {s t : State} {f : AluForm} (runs : executes s f.g = true) (ready : cwReady s f.b = .ok t) (n : Nat) (op : Word → Word → Word)
    {v : Word} (h : op (readR t f.a) (readB t f.b) = v) : alu s f n op = .next (finish (writeR t f.d v n)) := h ▸ alu_next runs ready n op

theorem unary_next {s : State} {f : UnForm} (runs : executes s f.g = true) (n : Nat) (op : Word → Word) :
    unary s f n op = .next (finish (writeR s f.d (op (readR s f.a)) n)) := runOp_next _ runs

theorem compare_next {s t : State} {f : CmpForm} (runs : executes s f.g = true) (ready : cwReady s f.b = .ok t) (n : Nat)
    (op : Word → Word → Bool) : compare s f n op = .next (finish (writeP t f.d (op (readR t f.a) (readB t f.b)) n)) := runB_next _ runs ready

theorem float2_next {s t : State} {f : AluForm} (runs : executes s f.g = true) (ready : cwReady s f.b = .ok t) (op : Nat → Nat → FRes2) :
    float2 s f op = .next (finish (writeFloat t f.d (op ((readR t f.a).toNat % 2 ^ 32) ((readB t f.b).toNat % 2 ^ 32)) 4)) :=
  runB_next _ runs ready

/-! ### Sums, products and quotients -/

theorem mul_eight (b : Word) : 8 * b = b <<< 3 := by
  rw [BitVec.mul_comm, BitVec.shiftLeft_eq_mul_twoPow]; rfl

theorem wrap_toInt (a : Word) : wrap a.toInt = a := BitVec.ofInt_toInt

theorem mulSigned_high (a b : Word) : wrap (a.toInt * b.toInt / 2 ^ 64) = (a.signExtend 128 * b.signExtend 128).extractLsb' 64 64 := by
  have product : (a.signExtend 128 * b.signExtend 128) = BitVec.ofInt 128 (a.toInt * b.toInt) := by
    rw [BitVec.ofInt_mul]; rfl
  apply BitVec.eq_of_toNat_eq
  rw [product, BitVec.extractLsb'_toNat, BitVec.toNat_ofInt, wrap, BitVec.toNat_ofInt, Nat.shiftRight_eq_div_pow]
  generalize a.toInt * b.toInt = x
  omega

theorem mulUnsigned_high (a b : Word) : BitVec.ofNat 64 (a.toNat * b.toNat / 2 ^ 64) = (a.setWidth 128 * b.setWidth 128).extractLsb' 64 64 := by
  have fits : a.toNat * b.toNat < 2 ^ 128 := by
    have := Nat.mul_lt_mul'' a.isLt b.isLt
    omega
  apply BitVec.eq_of_toNat_eq
  rw [BitVec.extractLsb'_toNat, BitVec.toNat_mul, BitVec.toNat_setWidth_of_le (by decide), BitVec.toNat_setWidth_of_le (by decide),
    Nat.mod_eq_of_lt fits, Nat.shiftRight_eq_div_pow]
  rfl

theorem divSigned_eq (a b : Word) : divSigned a b = if b = 0 then BitVec.allOnes 64 else a.sdiv b := by
  unfold divSigned
  split
  · rfl
  split
  · next h =>
    obtain ⟨ha, hb⟩ := h
    have : a = BitVec.intMin 64 := BitVec.eq_of_toInt_eq ha
    have : b = -1#64 := BitVec.eq_of_toInt_eq hb
    subst a b
    exact BitVec.intMin_sdiv_neg_one.symm
  · apply BitVec.eq_of_toInt_eq
    rw [BitVec.toInt_sdiv, wrap, BitVec.toInt_ofInt]

theorem remSigned_eq (a b : Word) : remSigned a b = a.srem b := by
  unfold remSigned
  split
  · next h => rw [h]; exact BitVec.srem_zero.symm
  split
  · next h =>
    obtain ⟨ha, hb⟩ := h
    apply BitVec.eq_of_toInt_eq
    rw [BitVec.toInt_srem, ha, hb]; rfl
  · rw [← Int.tmod_def, ← BitVec.toInt_srem]; exact wrap_toInt _

theorem ite_sle {α : Type} (a b : Word) (x y : α) : (if a.toInt ≤ b.toInt then x else y) = if a.sle b then x else y := by
  simp only [BitVec.sle_iff_toInt_le]

theorem ite_ule {α : Type} (a b : Word) (x y : α) : (if a.toNat ≤ b.toNat then x else y) = if a.ule b then x else y := by
  simp only [BitVec.ule_iff_toNat_le]

/-- Settles O21: the value of each operation is the one stated, some of them up to the way a comparison is written. -/
theorem integerOpsComplete : Obligations.IntegerOpsComplete := by
  intro s t
  refine ⟨fun f runs ready => ?_, fun f runs ready => runB_next (fun u => finish (writeR u f.d (readB u f.b) 1)) runs ready,
    fun f runs => ⟨unary_next runs 1 id, unary_next runs 2 id⟩,
    fun f runs => ⟨runOp_next (fun u => finish (writeR u f.d u.time.now 2)) runs, runOp_next (fun u => finish (writeR u f.d u.time.cycle 2)) runs⟩⟩
  have val := alu_next runs ready
  have val' := @alu_of_eq _ _ _ runs ready
  exact ⟨val 1 (· + ·), val 1 (· - ·), val 1 fun a b => sxtN (a + b) 32, val 1 fun a b => sxtN (a - b) 32, val 1 (· &&& ·), val 1 (· ||| ·),
    val 1 (· ^^^ ·), val 1 fun a b => a &&& ~~~b, val 1 fun a b => a ||| ~~~b, val 1 fun a b => a <<< shiftBy b, val 1 fun a b => a >>> shiftBy b,
    val 1 fun a b => a.sshiftRight (shiftBy b), val' 1 (fun a b => if a.toInt ≤ b.toInt then a else b) (ite_sle ..),
    val' 1 (fun a b => if a.toInt ≤ b.toInt then b else a) (ite_sle ..), val' 1 (fun a b => if a.toNat ≤ b.toNat then a else b) (ite_ule ..),
    val' 1 (fun a b => if a.toNat ≤ b.toNat then b else a) (ite_ule ..), val' 1 (fun a b => a + 8 * b) (congrArg _ (mul_eight _)),
    val 3 fun a b => (zeluaMix a b 0).setWidth 64⟩

theorem divUnsigned_eq (a b : Word) :
    (if b = 0 then BitVec.allOnes 64 else BitVec.ofNat 64 (a.toNat / b.toNat)) = if b = 0 then BitVec.allOnes 64 else a / b :=
  congrArg (ite _ _) (BitVec.eq_of_toNat_eq (by rw [BitVec.toNat_udiv, BitVec.toNat_ofNat]; exact Nat.mod_eq_of_lt (BitVec.toNat_udiv ▸ (a / b).isLt)))

theorem remUnsigned_eq (a b : Word) : (if b = 0 then a else BitVec.ofNat 64 (a.toNat % b.toNat)) = a % b := by
  split
  · next h => rw [h]; exact BitVec.umod_zero.symm
  · rw [← BitVec.toNat_umod, BitVec.ofNat_toNat, BitVec.setWidth_eq]

/-- Settles O22, by the values above. -/
theorem multiplyAndDivideAreExact : Obligations.MultiplyAndDivideAreExact := by
  intro s t f runs ready
  have val := @alu_of_eq _ _ _ runs ready
  exact ⟨val 3 (· * ·) rfl, val 3 (fun a b => wrap (a.toInt * b.toInt / 2 ^ 64)) (mulSigned_high ..),
    val 3 (fun a b => BitVec.ofNat 64 (a.toNat * b.toNat / 2 ^ 64)) (mulUnsigned_high ..), val 16 divSigned (divSigned_eq ..),
    val 16 (fun a b => if b = 0 then BitVec.allOnes 64 else BitVec.ofNat 64 (a.toNat / b.toNat)) (divUnsigned_eq ..),
    val 16 remSigned (remSigned_eq ..), val 16 (fun a b => if b = 0 then a else BitVec.ofNat 64 (a.toNat % b.toNat)) (remUnsigned_eq ..)⟩

/-! ### Rotations, fields and extensions -/

theorem rotateRight_eq (a : Word) {n : Nat} (h : n < 64) : rotateRight a n = a.rotateRight n := by
  unfold rotateRight
  rw [BitVec.rotateRight_def, Nat.mod_eq_of_lt h]
  split
  · next h => subst h; simp
  · rfl

/-- The field of a control word: its start in bits [5:0], its length in bits [12:6], cut off at bit 63 (15 R362). -/
theorem fieldSpec_eq (c : Word) : fieldSpec c =
    ((c.setWidth 6).toNat, min ((c >>> 6).setWidth 7).toNat (64 - (c.setWidth 6).toNat)) := by
  rw [fieldSpec, fieldOf_zero, BitVec.toNat_setWidth (x := c >>> 6), BitVec.toNat_ushiftRight, Nat.shiftRight_eq_div_pow]
  rfl

theorem getLsbD_extractField (a c : Word) (i : Nat) :
    (extractField a c).getLsbD i = (decide (i < (fieldSpec c).2) && a.getLsbD ((fieldSpec c).1 + i)) := by
  have short : (fieldSpec c).2 ≤ 64 := by rw [fieldSpec_eq]; dsimp only; omega
  rw [extractField, BitVec.getLsbD_ofNat, testBit_fieldOf, ← Bool.and_assoc, ← Bool.decide_and]
  congr 2
  simp only [eq_iff_iff]
  omega

theorem getLsbD_insertField (d a c : Word) {i : Nat} (h : i < 64) : (insertField d a c).getLsbD i =
    if (fieldSpec c).1 ≤ i ∧ i < (fieldSpec c).1 + (fieldSpec c).2 then a.getLsbD (i - (fieldSpec c).1) else d.getLsbD i :=
  getLsbD_putField d _ _ _ h

theorem getLsbD_sxtN (a : Word) {m i : Nat} (hm : 0 < m) (hi : i < 64) :
    (sxtN a m).getLsbD i = if i < m then a.getLsbD i else a.getLsbD (m - 1) := by
  have top : (a.setWidth m).getLsbD (m - 1) = a.getLsbD (m - 1) := by rw [BitVec.getLsbD_setWidth]; simp [show m - 1 < m by omega]
  rw [sxtN, BitVec.getLsbD_signExtend, BitVec.msb_eq_getLsbD_last, top, BitVec.getLsbD_setWidth]
  by_cases h : i < m <;> simp [hi, h]

theorem getLsbD_zxtN (a : Word) {m i : Nat} (hi : i < 64) : (zxtN a m).getLsbD i = (decide (i < m) && a.getLsbD i) := by
  simp only [zxtN, BitVec.getLsbD_setWidth, hi, decide_true, Bool.true_and]

/-- SXT and ZXT keep the value whole at a width of 0 or of 64 and more (15 R362). -/
theorem extendBy_keeps {b : Word} (h : (b.setWidth 7).toNat = 0 ∨ 64 ≤ (b.setWidth 7).toNat) : extendBy b = none := if_pos h

theorem extendBy_width {b : Word} (h : ¬ ((b.setWidth 7).toNat = 0 ∨ 64 ≤ (b.setWidth 7).toNat)) : extendBy b = some (b.setWidth 7).toNat :=
  if_neg h

theorem execSxt_next {s t : State} {f : AluForm} (runs : executes s f.g = true) (ready : cwReady s f.b = .ok t) :
    ∃ v : Word, exec (.sxt f) s = .next (finish (writeR t f.d v 1)) ∧ ∀ i < 64, v.getLsbD i =
      if ((readB t f.b).setWidth 7).toNat = 0 ∨ 64 ≤ ((readB t f.b).setWidth 7).toNat ∨ i < ((readB t f.b).setWidth 7).toNat then
        (readR t f.a).getLsbD i
      else (readR t f.a).getLsbD (((readB t f.b).setWidth 7).toNat - 1) := by
  refine ⟨_, (show execSxt f s = _ from alu_next runs ready 1 _), fun i hi => ?_⟩
  by_cases h : ((readB t f.b).setWidth 7).toNat = 0 ∨ 64 ≤ ((readB t f.b).setWidth 7).toNat
  · simp only [extendBy_keeps h]
    rw [if_pos (by omega)]
  · simp only [extendBy_width h]
    rw [getLsbD_sxtN _ (by omega) hi]
    exact ite_congr (propext (by omega)) (fun _ => rfl) fun _ => rfl

theorem execZxt_next {s t : State} {f : AluForm} (runs : executes s f.g = true) (ready : cwReady s f.b = .ok t) :
    ∃ v : Word, exec (.zxt f) s = .next (finish (writeR t f.d v 1)) ∧ ∀ i < 64, v.getLsbD i =
      (decide (((readB t f.b).setWidth 7).toNat = 0 ∨ 64 ≤ ((readB t f.b).setWidth 7).toNat ∨ i < ((readB t f.b).setWidth 7).toNat) &&
        (readR t f.a).getLsbD i) := by
  refine ⟨_, (show execZxt f s = _ from alu_next runs ready 1 _), fun i hi => ?_⟩
  by_cases h : ((readB t f.b).setWidth 7).toNat = 0 ∨ 64 ≤ ((readB t f.b).setWidth 7).toNat
  · simp only [extendBy_keeps h]
    rw [decide_eq_true (by omega), Bool.true_and]
  · simp only [extendBy_width h]
    rw [getLsbD_zxtN _ hi]
    congr 2
    simp only [eq_iff_iff]
    omega

/-- Settles O23, operation by operation. -/
theorem bitOpsComplete : Obligations.BitOpsComplete := by
  intro s t
  refine ⟨fun f runs ready => ⟨?_, ?_, ?_, execSxt_next runs ready, execZxt_next runs ready⟩, fun f runs => ⟨?_, ?_, ?_, ?_⟩⟩
  · exact alu_of_eq runs ready 1 (fun a b => rotateRight a (shiftBy b)) (rotateRight_eq _ (BitVec.isLt _))
  · exact ⟨_, alu_next runs ready 1 extractField, fun i => by rw [getLsbD_extractField, fieldSpec_eq]⟩
  · exact ⟨_, runB_next (fun u => finish (writeR u f.d (insertField (readR u f.d) (readR u f.a) (readB u f.b)) 1)) runs ready, fun i hi => by
      rw [getLsbD_insertField _ _ _ hi, fieldSpec_eq]⟩
  · obtain ⟨n, eq, first⟩ := firstTrue_range (fun i => (readR s f.a).getLsbD (63 - i)) 64
    exact ⟨n, eq ▸ unary_next runs 1 fun a => BitVec.ofNat 64 (leadingZeros a), first⟩
  · obtain ⟨n, eq, first⟩ := firstTrue_range (fun i => (readR s f.a).getLsbD i) 64
    exact ⟨n, eq ▸ unary_next runs 1 fun a => BitVec.ofNat 64 (trailingZeros a), first⟩
  · exact countTrue_eq (fun i => (readR s f.a).getLsbD i) 64 ▸ unary_next runs 1 fun a => BitVec.ofNat 64 (popcount a)
  · exact ⟨_, unary_next runs 1 bitReverse, fun i hi => getLsbD_ofMask _ hi⟩

/-! ### Predicates -/

/-- Settles O24, form by form. -/
theorem predicateOpsComplete : Obligations.PredicateOpsComplete := by
  intro s t
  refine ⟨fun f runs ready => ⟨?_, ?_, ?_⟩, fun f runs => ⟨?_, ?_, ?_⟩, fun f runs => ⟨?_, ?_⟩, fun f runs => ?_⟩
  · exact compare_next runs ready 1 (cmpSigned f.cc)
  · exact compare_next runs ready 1 (cmpUnsigned f.cc)
  · show execFcmp f s = _
    exact runB_next _ runs ready
  · exact runOp_next (fun u => finish (writeP u f.d (readP u f.a && readP u f.b) 1)) runs
  · exact runOp_next (fun u => finish (writeP u f.d (readP u f.a || readP u f.b) 1)) runs
  · exact runOp_next (fun u => finish (writeP u f.d (readP u f.a != readP u f.b) 1)) runs
  · exact runOp_next (fun u => finish (writeP u f.d (!readP u f.a) 1)) runs
  · exact runOp_next (fun u => finish (writeP u f.d (readP u f.a) 1)) runs
  · exact runOp_next (fun u => finish (writeP u f.d f.v 1)) runs

/-! ### binary32 -/

/-- A conversion to an integer stays within its bounds. -/
theorem fToInt_bounds (f : Fmt) (mode : Rnd) {lo hi : Int} (h0 : lo ≤ 0) (h1 : 0 ≤ hi) (x : Nat) :
    lo ≤ (fToInt f mode lo hi x).1 ∧ (fToInt f mode lo hi x).1 ≤ hi := by
  unfold fToInt
  split
  · exact ⟨h0, h1⟩
  · dsimp only
    split <;> omega
  · dsimp only
    split
    · dsimp only; omega
    · split <;> dsimp only <;> omega

/-- A conversion of a NaN to an integer answers 0 and raises NV. -/
theorem fToInt_nan {f : Fmt} {x : Nat} (h : (decodeF f x).isNan = true) (mode : Rnd) (lo hi : Int) : fToInt f mode lo hi x = (0, flNV) := by
  unfold fToInt
  split
  · rfl
  · next e => rw [e] at h; exact nomatch h
  · next e => rw [e] at h; exact nomatch h

/-- Settles O25: the operations of two sources, then the conversions with their bounds. -/
theorem floatOpsComplete : Obligations.FloatOpsComplete := by
  intro s t
  refine ⟨fun f runs ready => ?_, fun f runs => ?_⟩
  · have val := float2_next runs ready
    refine ⟨val (fAdd fmtF32 .rne), val (fSub fmtF32 .rne), val (fMul fmtF32 .rne), ?_, val (fMinMax fmtF32 false), val (fMinMax fmtF32 true)⟩
    show execFfma f s = _
    exact runB_next _ runs ready
  · obtain ⟨lo, hi⟩ := fToInt_bounds fmtF32 .rne (lo := -2 ^ 63) (hi := 2 ^ 63 - 1) (by decide) (by decide) ((readR s f.a).toNat % 2 ^ 32)
    obtain ⟨lo', hi'⟩ := fToInt_bounds fmtF32 .rne (lo := 0) (hi := 2 ^ 64 - 1) (by decide) (by decide) ((readR s f.a).toNat % 2 ^ 32)
    refine ⟨?_, ?_, ?_, ?_, lo, Int.lt_of_le_sub_one hi, lo', Int.lt_of_le_sub_one hi', fun nan => ⟨fToInt_nan nan .., fToInt_nan nan ..⟩⟩
    · exact runOp_next (fun u => finish (writeFloat u f.d (fOfInt fmtF32 .rne (readR u f.a).toInt) 4)) runs
    · exact runOp_next (fun u => finish (writeFloat u f.d (fOfInt fmtF32 .rne (readR u f.a).toNat) 4)) runs
    · show execFcvtF2i f s = _
      exact runOp_next _ runs
    · show execFcvtF2n f s = _
      exact runOp_next _ runs

/-! ### Control registers -/

section
variable {s : State} {c : BitVec 10}

theorem mtcTrap_prim (agent : s.cur.agent = .prim c) (f : CRegForm) : mtcTrap f s =
    if 0x30 ≤ f.c.toNat ∧ f.c.toNat ≤ 0x37 then some (bundleTrap s .priv (f.c.setWidth 64))
    else if cregRW f.c.toNat then none else some (bundleTrap s .illop 0) := by
  simp [mtcTrap, agent]

theorem mtcTrap_thread {n : BitVec 3} (agent : s.cur.agent = .thread c n) (f : CRegForm) : mtcTrap f s = some (bundleTrap s .illop 0) := by
  simp [mtcTrap, agent]

theorem cregRW_not_cw {n : Nat} (h : cregRW n = true) : ¬ (0x30 ≤ n ∧ n ≤ 0x37) := by
  simp only [cregRW, Bool.or_eq_true, Bool.and_eq_true, decide_eq_true_eq] at h
  omega

end

/-- Settles O26, register by register; the traps of MTC go by the agent and the number. -/
theorem controlRegistersAreReadAndWritten : Obligations.ControlRegistersAreReadAndWritten := by
  intro s
  refine ⟨fun f known runs => ?_, fun f unknown => ?_, fun f c agent rw_ runs => ?_, fun f c agent lo hi => ?_, fun f c n agent => ?_,
    fun f c agent runs => ⟨?_, ?_⟩⟩
  · exact runOp_none (fun u => finish (writeR u f.r (readCtl u f.c.toNat) 2)) (if_pos known) runs
  · show execMfc f s = _
    exact runOp_some _ (if_neg (by simp [unknown]))
  · rw [← finish_prim (s := addPend ..) agent]
    show execMtc f s = _
    rw [execMtc, mtcTrap_prim agent, if_neg (cregRW_not_cw rw_), if_pos rw_, runOp_next _ runs, me_prim agent]
  · show execMtc f s = _
    rw [execMtc, mtcTrap_prim agent, if_pos ⟨lo, hi⟩, runOp_trap, takeTrap_prim agent]
  · show execMtc f s = _
    rw [execMtc, mtcTrap_thread agent, runOp_trap]
  · show execHset f s = _
    rw [execHset, runOp_next _ runs, me_prim agent, finish_prim (by rw [addPend_cur]; exact agent)]
  · show execHget f s = _
    rw [execHget, runOp_next _ runs, me_prim agent, finish_prim (by rw [writeR_cur]; exact agent)]

end Sys2Proof.Machine
end

section
/-! PROOFS. The C class and the jumps of a thread (15 R372-R383; 18 R433, R436; 09 R230, R231), and the statements about them. -/

namespace Sys2Proof.Machine

/-! ### The C class of a primary -/

section
variable {s : State} {c : BitVec 10} (agent : s.cur.agent = .prim c)
include agent

/-- Outside a delay bundle a transfer may be made (15 R372). -/
theorem delayTrap_none (outside : (s.core c).xfer = none) : delayTrap s = none := by
  rw [delayTrap, me_prim agent, outside]
  rfl

theorem iretTrap_eq (outside : (s.core c).xfer = none) {f : NoneForm} (runs : executes s f.g = true) :
    iretTrap s f = if (s.core c).inui then none else some (bundleTrap s .illop 0) := by
  rw [iretTrap, delayTrap_none agent outside, runs, me_prim agent]
  cases (s.core c).inui <;> rfl

theorem phaseTrap_none (outside : (s.core c).xfer = none) (main : (s.core c).inui = false) (f : RegForm) : phaseTrap s f = none := by
  rw [phaseTrap, delayTrap_none agent outside, me_prim agent, main]
  simp

theorem fmtTrap_none (main : (s.core c).inui = false) (g : Guard) : fmtTrap s g = none := by
  rw [fmtTrap, me_prim agent, main]
  simp

theorem loopTrap_none (outside : (s.core c).xfer = none) {g : Guard} {e : BitVec 12} (header : targetTrap s (s.cur.pc + e.setWidth 16) 1 = none)
    (ahead : (s.cur.next - s.cur.pc).toNat ≤ e.toNat) : loopTrap s g e = none := by
  have inside : ¬ e.toNat < (s.cur.next - s.cur.pc).toNat := Nat.not_lt.mpr ahead
  rw [loopTrap, header, ite_self, delayTrap_none agent outside]
  simp only [inside, Option.isSome_none, decide_false, Bool.or_self, Bool.false_eq_true, if_false]

theorem holdUntil_guidon (guidon : isGuidon s c = true) (h : Hold) : holdUntil s h = s.mapCore c fun k => { k with hold := some h } := by
  rw [holdUntil, me_prim agent, if_pos guidon]

/-- A hold is the guidon's alone; what its core shows besides stands. -/
theorem holdUntil_core (h : Hold) : ((holdUntil s h).core c).imemOld = (s.core c).imemOld ∧
    (isGuidon s c = true → ((holdUntil s h).core c).hold = some h) := by
  rw [holdUntil, me_prim agent]
  split
  · exact ⟨by rw [core_mapCore_same], fun _ => by rw [core_mapCore_same]⟩
  · next follower => exact ⟨rfl, fun guidon => absurd guidon follower⟩

end

/-- Settles O27, transfer by transfer. -/
theorem transfersComplete : Obligations.TransfersComplete := by
  intro s c agent outside
  have free := delayTrap_none agent outside
  have me := me_prim agent
  refine ⟨fun f runs => ⟨?_, ?_⟩, fun f runs => ⟨?_, ?_⟩, fun f runs => ?_, fun f runs handler => ?_, fun f runs main => ?_,
    fun f runs header ahead => ?_, fun f runs header ahead => ?_⟩
  · show execBr f s = _
    rw [execBr, runOp_none _ free runs, transferTo, me]; rfl
  · show execCall f s = _
    rw [execCall, runOp_none _ free runs, transferTo, me]; rfl
  · show execBri f s = _
    rw [execBri, runOp_none _ free runs, transferTo, me]
  · show execCalli f s = _
    rw [execCalli, runOp_none _ free runs, transferTo, me]
  · show execRet f s = _
    rw [execRet, runOp_none _ free runs, transferTo, me]
  · show execIret f s = _
    rw [execIret, iretTrap_eq agent outside runs, if_pos handler, runOp_next _ runs, transferTo, me]
  · show execIret f s = _
    rw [execIret, iretTrap_eq agent outside runs, main, runOp_some _ (if_neg (by decide)), takeTrap_prim agent]
  · exact runOp_none (fun u => startLoop u f.l (f.n.setWidth 32) f.e) (loopTrap_none agent outside header ahead) runs
  · exact runOp_none (fun u => startLoop u f.l ((cOperand u f.r).setWidth 32) f.e) (loopTrap_none agent outside header ahead) runs

/-- Settles O28, operation by operation. -/
theorem controlOpsComplete : Obligations.ControlOpsComplete := by
  intro s c agent
  have me := me_prim agent
  refine ⟨fun f runs guidon => ?_, fun f runs guidon => ⟨?_, ?_⟩, fun f runs => ⟨?_, ?_, ?_, ?_⟩, fun f runs outside main => ?_,
    fun f runs metadata => ?_, fun f runs => ?_, fun f runs => ?_, fun f runs main => ?_, fun f runs main => ?_⟩
  · show execHoldcImm f s = _
    rw [execHoldcImm, runOp_next _ runs, holdUntil_guidon agent guidon]
  · show execHoldcReg f s = _
    rw [execHoldcReg, runOp_next _ runs, holdUntil_guidon agent guidon]
  · show execHoldu f s = _
    rw [execHoldu, runOp_next _ runs, holdUntil_guidon agent guidon]
  · show execHalt f s = _
    rw [execHalt, runOp_next _ runs, me]
  · show execUien f s = _
    rw [execUien, runOp_next _ runs, me]
  · show execUidis f s = _
    rw [execUidis, runOp_next _ runs, me]
  · refine ⟨_, (show execIfence f s = _ from runOp_next _ runs), ?_⟩
    obtain ⟨fresh, held⟩ := holdUntil_core (s := s.mapCore s.me fun k => { k with imemOld := [] }) agent (.fence 2)
    rw [me] at fresh held ⊢
    rw [core_mapCore_same] at fresh
    exact ⟨fresh, fun guidon => held (by rw [isGuidon, core_mapCore_same]; exact guidon)⟩
  · show execPhase f s = _
    rw [execPhase, runOp_none _ (phaseTrap_none agent outside main f) runs, me]
  · show execMseek f s = _
    rw [execMseek, runOp_none _ (by rw [mseekTrap, if_pos runs]; exact metadata) runs, me]; rfl
  · show execSetfReg f s = _
    rw [execSetfReg, runOp_next _ runs, me]
  · show execSetfLit f s = _
    rw [execSetfLit, runOp_next _ runs, me]
  · show execFmtReg f s = _
    rw [execFmtReg, runOp_none _ (fmtTrap_none agent main f.g) runs, me]
  · show execFmtLit f s = _
    rw [execFmtLit, runOp_none _ (fmtTrap_none agent main f.g) runs, me]

/-- Settles O29; without the guard nothing follows. -/
theorem trapAndBrkTakeTheirTrap : Obligations.TrapAndBrkTakeTheirTrap := by
  intro s c agent
  refine ⟨fun f runs => ?_, fun f runs => ?_, fun f off => ?_, fun f off => ?_⟩
  · show execTrap f s = _
    rw [execTrap, trapTrap, if_pos runs, runOp_trap, takeTrap_prim agent]; rfl
  · show execBrk f s = _
    rw [execBrk, brkTrap, if_pos runs, runOp_trap, takeTrap_prim agent]; rfl
  · show execTrap f s = _
    rw [execTrap, trapTrap, off, if_neg (by decide), runOp_skip _ off, finish_prim agent]
  · show execBrk f s = _
    rw [execBrk, brkTrap, off, if_neg (by decide), runOp_skip _ off, finish_prim agent]

/-! ### Jumps of a thread -/

/-- A miss makes its thread wait or trap, and answers no value. -/
theorem threadMiss_not_ok {s u : State} {c : BitVec 10} {n : BitVec 3} {x : BitVec 6} {va v : Nat} {k : AccessKind} {p : Bool} :
    threadMiss s c n x va k p ≠ .ok v u := by
  unfold threadMiss
  split
  · nofun
  · dsimp only
    split <;> nofun

/-- An access that a thread's checks let through has touched a translation alone before it goes on. -/
theorem threadLook_ok {s u : State} {c : BitVec 10} {n : BitVec 3} {x : BitVec 6} {va v : Nat} {kind : AccessKind}
    {k : Word → Nat → State → GRes} (found : threadLook s c n x va kind k = .ok v u) :
    ∃ leaf pa h t, k leaf pa (tlbTouch s h t) = .ok v u := by
  unfold threadLook at found
  split at found
  · cases found
  unfold threadServe at found
  split at found
  · exact absurd found threadMiss_not_ok
  · exact ⟨_, _, _, _, found⟩

section
variable {s : State} {c : BitVec 10} {n : BitVec 3} (agent : s.cur.agent = .thread c n)
include agent

theorem readR_thread (r : BitVec 6) : readR s r = readX s c n r := by simp only [readR, agent]

theorem relTarget_thread (off : BitVec 32) : relTarget s off = (s.thread c n).pc.setWidth 64 + 8 * off.signExtend 64 := by
  simp only [relTarget, threadPc, agent]

/-- A trap of a thread's own that names an address. -/
theorem takeTrap_addr {w : Cause} (h : w = .sprange ∨ w = .misalign) (a : Word) : takeTrap s (trapAt w a) = takeThreadTrap s c n w a := by
  rcases h with rfl | rfl <;> simp only [takeTrap, agent, trapAt]

omit agent in
/-- The check of a target may touch a translation, and leaves what is performed alone. -/
theorem jumpReady_cur {t : State} {target : Word} (ready : jumpReady s c n target = .go t) : t.cur = s.cur := by
  unfold jumpReady at ready
  split at ready
  · cases ready
  split at ready
  · cases ready
  split at ready
  · cases ready; rfl
  split at ready
  · next u found => cases ready; obtain ⟨_, _, _, _, goes⟩ := threadLook_ok found; cases goes; rfl
  · cases ready
  · cases ready; rfl
  · cases ready

theorem jumpOp_go {t : State} {target : Word} (ready : jumpReady s c n target = .go t) (link : Option (BitVec 6)) :
    jumpOp s target link = (match link with
      | some d => writeX t c n d (((t.thread c n).pc + 8).setWidth 64)
      | none => t).mapThread c n fun th =>
        { th with pc := target.setWidth 57, st := .running, retry := 0, xfail := none, issued := none, lastRead := false } := by
  have cur := jumpReady_cur ready
  simp only [jumpOp, agent, ready]
  cases link <;> simp only [jumpTo, writeX_cur, cur, agent]

theorem jumpOp_trap {x : TrapInfo} {target : Word} (refused : jumpReady s c n target = .trap x) (link : Option (BitVec 6)) :
    jumpOp s target link = takeTrap s x := by
  simp only [jumpOp, agent, refused]

end

/-- Settles O46: where the target's check answers go, and the two traps of an address. -/
theorem jumpsComplete : Obligations.JumpsComplete := by
  intro s c n agent
  refine ⟨fun f runs => ⟨fun t ready => ?_, fun far => ?_⟩, fun f => ⟨fun t ready => ?_, fun near odd => ?_⟩, fun f t ready => ?_,
    fun f t ready => ?_⟩
  · show execJmp f s = _
    rw [execJmp, runOp_next _ runs, relTarget_thread agent, jumpOp_go agent ready]
  · show execJmp f s = _
    rw [execJmp, runOp_next _ runs, relTarget_thread agent, jumpOp_trap agent (if_pos far), takeTrap_addr agent (.inl rfl)]
  · show execJr f s = _
    rw [execJr, readR_thread agent, jumpOp_go agent ready]
  · show execJr f s = _
    rw [execJr, readR_thread agent, jumpOp_trap agent ((if_neg (Nat.not_le.mpr near)).trans (if_pos odd)), takeTrap_addr agent (.inr rfl)]
  · show execJal f s = _
    rw [execJal, relTarget_thread agent, jumpOp_go agent ready]
  · show execJalr f s = _
    rw [execJalr, readR_thread agent, jumpOp_go agent ready]

end Sys2Proof.Machine
end

section
/-! PROOFS. The accesses that a primary issues (16 R386-R398; Tables Mem.2, Mem.3): each goes on its way to its bank as one access, a WEAVE LDV
or STV as two, and the statements about them. -/

namespace Sys2Proof.Machine

/-! ### Putting accesses on their way -/

/-- A core with an access on its way is not as after reset. -/
theorem accs_append_ne_reset (k : Core) (a : Access) : { k with accs := k.accs ++ [a] } ≠ Core.reset := fun h =>
  absurd (congrArg Core.accs h) (by simp [Core.reset])

/-- What an access is made of does not depend on the accesses on their way. -/
theorem newAccess_issueAccess (s : State) (a : Access) (op : AccOp) (dist bound : Nat) (addr : Word) (ps : List Piece) :
    newAccess (issueAccess s a) op dist bound addr ps = newAccess s op dist bound addr ps := by
  have me : (issueAccess s a).me = s.me := rfl
  rw [newAccess, newAccess, me, issueAccess, core_mapCore_same]
  rfl

theorem memAccess_issueAccess (s : State) (a : Access) (m : Mode) (op : AccOp) (dist bound : Nat) (addr : Word) (ps : List Piece) :
    memAccess (issueAccess s a) m op dist bound addr ps = memAccess s m op dist bound addr ps := by
  rw [memAccess, memAccess, newAccess_issueAccess]

section
variable {s : State} {c : BitVec 10} (agent : s.cur.agent = .prim c)
include agent

theorem issueAccess_prim (a : Access) : issueAccess s a = s.mapCore c fun k => { k with accs := k.accs ++ [a] } := by
  rw [issueAccess, me_prim agent]

theorem accs_issueAccess (a : Access) : ((issueAccess s a).core c).accs = (s.core c).accs ++ [a] := by
  rw [issueAccess_prim agent, core_mapCore_same]

/-- Two accesses that are issued one after the other. -/
theorem issueAccess_issueAccess (a b : Access) :
    issueAccess (issueAccess s a) b = s.mapCore c fun k => { k with accs := k.accs ++ [a, b] } := by
  have later : (issueAccess s a).cur.agent = .prim c := agent
  rw [issueAccess_prim later, issueAccess_prim agent, mapCore_mapCore _ _ _ _ (accs_append_ne_reset _ a)]
  simp only [List.append_assoc, List.singleton_append]

/-! ### Loads and stores -/

theorem load_prim {f : MemForm} {n : Nat} (runs : executes s f.g = true) (passes : memTrap s f n = none) (signed : Bool) :
    load s f n signed = .next (s.mapCore c fun k => { k with accs := k.accs ++
      [{ memAccess s f.mode (.load n signed) (bankDist f.mode) (loadBound f.mode) (effAddr s f) (piecesOf s f.mode (effAddr s f) n) with
         dest := destS s f.d }] }) := by
  rw [load, runOp_none _ passes runs]
  simp only [agent, issueAccess_prim agent]

theorem store_prim {f : MemForm} {n : Nat} (runs : executes s f.g = true) (passes : memTrap s f n = none) :
    store s f n = .next (s.mapCore c fun k => { k with accs := k.accs ++
      [{ memAccess s f.mode (.store n) (bankDist f.mode) 0 (effAddr s f) (piecesOf s f.mode (effAddr s f) n) with
         data := BitVec.ofNat 2048 ((readR s f.d).toNat % 2 ^ (8 * n)) }] }) := by
  rw [store, runOp_none _ passes runs]
  simp only [agent, issueAccess_prim agent]

theorem issueRows_one {m : Mode} (row : m ≠ .weave) (op : AccOp) (bound : Nat) (a : Word) (ps : List Piece) (d : Option Dest) (v : Lanes) :
    issueRows s m op bound a ps d v = s.mapCore c fun k => { k with accs := k.accs ++
      [{ memAccess s m op (bankDist m) bound a ps with dest := d, data := v }] } := by
  cases m with
  | weave => exact absurd rfl row
  | loc | core | glob => exact issueAccess_prim agent _

theorem issueRows_weave (op : AccOp) (bound : Nat) (a : Word) (ps : List Piece) (d : Option Dest) (v : Lanes) :
    issueRows s .weave op bound a ps d v = s.mapCore c fun k => { k with accs := k.accs ++
      [{ memAccess s .weave op 4 bound a (ps.take 16) with data := v }, { memAccess s .weave op 5 bound a (ps.drop 16) with dest := d, data := v }] } := by
  simp only [issueRows]
  rw [memAccess_issueAccess, issueAccess_issueAccess agent]

end

/-- Settles O30. -/
theorem primaryLoadsAndStoresIssue : Obligations.PrimaryLoadsAndStoresIssue := by
  intro s c agent
  have me := me_prim agent
  refine ⟨fun f n runs passes => ?_, fun f runs passes => ⟨fun row => ⟨?_, ?_⟩, fun weave => ⟨?_, ?_⟩⟩, fun f runs passes => ⟨?_, ?_⟩⟩
  · have ld := load_prim agent runs passes
    have st := store_prim agent runs passes
    exact ⟨fun h => by subst h; exact ⟨ld true, ld false, st⟩, fun h => by subst h; exact ⟨ld true, ld false, st⟩,
      fun h => by subst h; exact ⟨ld true, ld false, st⟩, fun h => by subst h; exact ⟨ld false, st⟩⟩
  · show execLdv f s = _
    rw [execLdv, runOp_none _ passes runs, issueRows_one agent row, me]; rfl
  · show execStv f s = _
    rw [execStv, runOp_none _ passes runs, issueRows_one agent row, me]; rfl
  · show execLdv f s = _
    rw [execLdv, runOp_none _ passes runs, weave, issueRows_weave agent, me]; rfl
  · show execStv f s = _
    rw [execStv, runOp_none _ passes runs, weave, issueRows_weave agent, me]; rfl
  · show execVgath f s = _
    rw [execVgath, runOp_none _ passes runs, issueAccess_prim agent, me]
  · show execVscat f s = _
    rw [execVscat, runOp_none _ passes runs, issueAccess_prim agent, me]

/-! ### Synchronising accesses, atomics and fences -/

section
variable {s : State} {c : BitVec 10} (agent : s.cur.agent = .prim c)
include agent

theorem atomic_prim {f : MemForm} (runs : executes s f.g = true) (passes : memTrap s f 8 = none) (op : AtomOp) :
    atomic s f op = .next (s.mapCore c fun k => { k with accs := k.accs ++
      [{ memAccess s f.mode (.atomic op f.ord) (if ordRel f.ord then 4 else bankDist f.mode) (atomBound f.mode) (effAddr s f)
          (piecesOf s f.mode (effAddr s f) 8) with
         dest := destS s f.d, data := (readR s f.d).setWidth 2048, data2 := readR s (f.d + 1) }] }) := by
  rw [atomic, runOp_none _ passes runs]
  simp only [agent, issueAccess_prim agent, atomDist]

theorem fence_prim {f : FenceForm} (runs : executes s f.g = true) : reaches (exec (.fence f) s) fun t =>
    (t.core c).accs = (s.core c).accs ++
      (if ordAcq f.ord then [newAccess s (.fence true) (if ordRel f.ord then 6 else 4) 0 0 []] else []) ++
      (if ordRel f.ord then [newAccess s (.fence false) 6 0 0 []] else []) := by
  refine ⟨_, (show execFence f s = _ from runOp_next _ runs), ?_⟩
  have later (a : Access) : (issueAccess s a).cur.agent = .prim c := agent
  cases f.ord <;>
    simp [agent, ordAcq, ordRel, newAccess_issueAccess, accs_issueAccess agent, accs_issueAccess (later _)]

end

/-- Settles O31. -/
theorem primarySyncAccessesIssue : Obligations.PrimarySyncAccessesIssue := by
  intro s c agent
  refine ⟨fun f runs passes => ?_, fun f => fence_prim agent⟩
  have put (body : State → State) (a : Access) (h : body s = issueAccess s a) :
      runOp s (memTrap s f 8) f.g body = .next (s.mapCore c fun k => { k with accs := k.accs ++ [a] }) := by
    rw [runOp_none _ passes runs, h, issueAccess_prim agent]
  have atom := atomic_prim agent runs passes
  refine ⟨?_, ?_, ?_, ?_, ?_, ?_, ?_, atom .add, atom .and, atom .or, atom .xor, atom .min, atom .max, atom .minn, atom .maxn, atom .xch, atom .cas⟩
  · show execLda f s = _
    exact put _ _ (by simp only [agent])
  · show execStrl f s = _
    exact put _ _ (by simp only [agent, primRelease])
  · show execPraise f s = _
    exact put _ _ (by simp only [agent, primRelease])
  · show execPtest f s = _
    exact put _ _ (by simp only [agent])
  · show execPwait f s = _
    exact put _ _ (by simp only [agent])
  · show execLrw f s = _
    exact put _ _ (by simp only [agent])
  · show execSch f s = _
    exact put _ _ (by simp only [agent])

end Sys2Proof.Machine
end

section
/-! PROOFS. What an access of a primary does to the stores at its bank (16 R386, R390, R396; 09 R222): a checked write puts its bytes, a read none,
and the statement about them. -/

namespace Sys2Proof.Machine

/-! ### Bytes -/

@[simp] theorem leBytes_length (n v : Nat) : (leBytes n v).length = n := by
  induction n generalizing v with
  | zero => rfl
  | succ n ih => rw [leBytes, List.length_cons, ih]

theorem leBytes_getD {n k : Nat} (h : k < n) (v : Nat) : (leBytes n v).getD k 0 = BitVec.ofNat 8 (v / 2 ^ (8 * k)) := by
  induction n generalizing k v with
  | zero => omega
  | succ n ih =>
    cases k with
    | zero => simp [leBytes]
    | succ k =>
      rw [leBytes, List.getD_cons_succ, ih (by omega), Nat.div_div_eq_div_mul, Nat.mul_succ, Nat.add_comm (8 * k), Nat.pow_add]

/-! ### The bytes of the stores -/

/-- Every byte of the scratchpads and of physical memory stands in t as in s. -/
def SameBytes (s t : State) : Prop := t.mem.spad = s.mem.spad ∧ t.mem.phys = s.mem.phys

theorem SameBytes.refl (s : State) : SameBytes s s := ⟨rfl, rfl⟩

theorem SameBytes.trans {s t u : State} (h : SameBytes s t) (k : SameBytes t u) : SameBytes s u := ⟨k.1.trans h.1, k.2.trans h.2⟩

theorem sameBytes_of_mem {s t : State} (h : t.mem = s.mem) : SameBytes s t := by rw [SameBytes, h]; exact ⟨rfl, rfl⟩

theorem SameBytes.spadByte {s t : State} (h : SameBytes s t) (o : BitVec 10) (i : Nat) : spadByte t o i = spadByte s o i := by
  rw [Machine.spadByte, Machine.spadByte, h.1]

theorem SameBytes.physByte {s t : State} (h : SameBytes s t) (q : Nat) : physByte t q = physByte s q := by
  rw [Machine.physByte, Machine.physByte, h.2]

theorem foldl_sameBytes {α : Type} {f : State → α → State} (h : ∀ s a, SameBytes s (f s a)) (l : List α) : ∀ s, SameBytes s (l.foldl f s) := by
  induction l with
  | nil => exact SameBytes.refl
  | cons a r ih => exact fun s => (h s a).trans (ih _)

theorem setTags_sameBytes (s : State) (p : Piece) (t : RaceTag) : SameBytes s (setTags s p t) := ⟨rfl, rfl⟩

theorem notePlainWrite_sameBytes (s : State) (a : Ag) (ks : List Nat) : SameBytes s (notePlainWrite s a ks) := ⟨rfl, rfl⟩

theorem noteRelease_sameBytes (s : State) (a : Ag) (sc : Nat) (ks : List Nat) : SameBytes s (noteRelease s a sc ks) := ⟨rfl, rfl⟩

theorem noteInfos_sameBytes (s : State) (a : Ag) (l : List RelInfo) : SameBytes s (noteInfos s a l) := by
  unfold noteInfos
  dsimp only
  split <;> exact ⟨rfl, rfl⟩

theorem noteRead_sameBytes (a : Ag) (ks : List Nat) : ∀ s, SameBytes s (noteRead s a ks) := by
  induction ks with
  | nil => exact SameBytes.refl
  | cons k r ih => exact fun s => (noteInfos_sameBytes s a _).trans (ih _)

theorem mapQueue_sameBytes (s : State) (q : Nat) (f : List Waiter → List Waiter) : SameBytes s (mapQueue s q f) := ⟨rfl, rfl⟩

theorem dropReservations_sameBytes (s : State) (a : Agent) : SameBytes s (dropReservations s a) := by
  refine foldl_sameBytes (fun t e => ?_) _ s
  split
  · exact mapQueue_sameBytes ..
  · exact .refl t

/-- An agent that joins a queue has left the ones that it stood in. -/
theorem joinQueue_cases (s : State) (q g : Nat) (a : Agent) : joinQueue s q g a = .full ∨ ∃ f, 
    joinQueue s q g a = .held (mapQueue (dropReservations s a) q f) ∨ joinQueue s q g a = .waits (mapQueue (dropReservations s a) q f) := by
  unfold joinQueue
  extract_lets left_ queue barrel
  split
  · exact .inl rfl
  · refine .inr ⟨(· ++ [{ core := a.core, thread := waiterThread a, occ := (left_.core a.core).occ, granule := g, held := none }]), ?_⟩
    split
    · exact .inl rfl
    · exact .inr rfl

theorem joinQueue_sameBytes {s t : State} {q g : Nat} {a : Agent} (h : joinQueue s q g a = .held t ∨ joinQueue s q g a = .waits t) :
    SameBytes s t := by
  have joined (f : List Waiter → List Waiter) := (dropReservations_sameBytes s a).trans (mapQueue_sameBytes _ q f)
  rcases joinQueue_cases s q g a with eq | ⟨f, eq | eq⟩ <;> (rw [eq] at h; rcases h with h | h <;> cases h)
  · exact joined f
  · exact joined f

theorem fenceRelease_sameBytes (s : State) (a : Ag) (sc : Nat) : SameBytes s (fenceRelease s a sc) :=
  (sameBytes_of_mem (countRelease_mem s a sc)).trans ⟨rfl, rfl⟩

theorem earlyRelease_sameBytes (s : State) (c : BitVec 10) (sc key : Nat) : SameBytes s (earlyRelease s c sc key) :=
  (sameBytes_of_mem (countRelease_mem (lagAccesses s c fun _ => true) (.prim c) sc)).trans (noteRelease_sameBytes _ (.prim c) sc [key])

@[simp] theorem landAt_mem (s : State) (c : BitVec 10) (a : Access) (d : Option Dest) (v : Lanes) : (landAt s c a d v).mem = s.mem := by
  unfold landAt
  split <;> rfl

@[simp] theorem goesOn_mem (s : State) (c : BitVec 10) (a : Access) (op : AccOp) (v : Lanes) : (goesOn s c a op v).mem = s.mem := rfl

@[simp] theorem failAccess_mem (s : State) (c : BitVec 10) (a : Access) (due : Nat) (f : AccFail) (addr : Word) :
    (failAccess s c a due f addr).mem = s.mem := by
  unfold failAccess
  split <;> rfl

@[simp] theorem acquireGranule_mem (s : State) (a : Ag) (sc key : Nat) : (acquireGranule s a sc key).mem = s.mem := takeReleases_mem ..

@[simp] theorem primAcquire_mem (s : State) (c : BitVec 10) (a : Access) : (primAcquire s c a).mem = s.mem := by
  simp only [primAcquire, landAt_mem, acquireWords_mem]

/-! ### Writes of one piece -/

/-- The bytes of the scratchpads after the little-endian bytes of v have been put at piece p. -/
def PutsBytes (s t : State) (p : Piece) (v : Nat) : Prop :=
  ∀ (o : BitVec 10) (i : Nat), i < 1048576 → spadByte t o i =
    if o = p.core ∧ p.off.toNat ≤ i ∧ i < p.off.toNat + p.len then BitVec.ofNat 8 (v / 2 ^ (8 * (i - p.off.toNat))) else spadByte s o i

theorem PutsBytes.before {s t u : State} {p : Piece} {v : Nat} (h : SameBytes s t) (k : PutsBytes t u p v) : PutsBytes s u p v :=
  fun o i hi => (k o i hi).trans (by rw [h.spadByte])

theorem PutsBytes.after {s t u : State} {p : Piece} {v : Nat} (h : PutsBytes s t p v) (k : SameBytes t u) : PutsBytes s u p v :=
  fun o i hi => (k.spadByte o i).trans (h o i hi)

theorem scatterPieces_puts {p : Piece} (whole : p.pos = 0) (fits : p.off.toNat + p.len ≤ 1048576) (s : State) (v : Nat) :
    PutsBytes s (scatterPieces s v [p]) p v := by
  intro o i hi
  have here : 1048576 * p.core.toNat + p.off.toNat ≤ 1048576 * o.toNat + i ∧
      1048576 * o.toNat + i < 1048576 * p.core.toNat + p.off.toNat + p.len ↔ o = p.core ∧ p.off.toNat ≤ i ∧ i < p.off.toNat + p.len := by
    rw [← BitVec.toNat_inj]
    omega
  rw [scatterPieces, scatterPieces, spadByte_spadStore, whole, leBytes_length]
  by_cases h : o = p.core ∧ p.off.toNat ≤ i ∧ i < p.off.toNat + p.len
  · obtain ⟨rfl, lo, hi⟩ := h
    rw [if_pos (here.mpr ⟨rfl, lo, hi⟩), if_pos ⟨rfl, lo, hi⟩, leBytes_getD (by omega), Nat.mul_zero, Nat.pow_zero, Nat.div_one]
    congr 4
    omega
  · rw [if_neg fun inside => h (here.mp inside), if_neg h]

theorem scatterPieces_phys (v : Nat) (ps : List Piece) : ∀ s, (scatterPieces s v ps).mem.phys = s.mem.phys := by
  induction ps with
  | nil => intro s; rfl
  | cons p r ih => intro s; exact ih _

theorem laggedWrite_phys (s : State) (a : Ag) (lag v : Nat) (ps : List Piece) : (laggedWrite s a lag v ps).mem.phys = s.mem.phys :=
  (foldl_sameBytes (fun s p => setTags_sameBytes s p _) ps (scatterPieces s v ps)).2.trans (scatterPieces_phys v ps s)

theorem laggedWrite_puts {p : Piece} (whole : p.pos = 0) (fits : p.off.toNat + p.len ≤ 1048576) (s : State) (a : Ag) (lag v : Nat) :
    PutsBytes s (laggedWrite s a lag v [p]) p v :=
  (scatterPieces_puts whole fits s v).after ⟨rfl, rfl⟩

theorem syncWrite_phys (s : State) (a : Ag) (release : Bool) (sc v : Nat) (p : Piece) : (syncWrite s a release sc v p).mem.phys = s.mem.phys := by
  cases release with
  | true =>
    show (countRelease s a sc).mem.phys = _
    rw [countRelease_mem]
  | false => rfl

theorem syncWrite_puts {p : Piece} (whole : p.pos = 0) (fits : p.off.toNat + p.len ≤ 1048576) (s : State) (a : Ag) (release : Bool) (sc v : Nat) :
    PutsBytes s (syncWrite s a release sc v p) p v := by
  cases release with
  | true => exact ((scatterPieces_puts whole fits (countRelease s a sc) v).before (sameBytes_of_mem (countRelease_mem s a sc))).after ⟨rfl, rfl⟩
  | false => exact (scatterPieces_puts whole fits s v).after ⟨rfl, rfl⟩

/-- The low 64 bits of a value hold its first 8 bytes. -/
theorem PutsBytes.of_low {s t : State} {p : Piece} {v : Nat} (word : p.len = 8) (h : PutsBytes s t p (v % 2 ^ 64)) : PutsBytes s t p v := by
  intro o i hi
  rw [h o i hi]
  split
  · next at_ =>
    obtain ⟨-, lo, hi⟩ := at_
    obtain ⟨k, hk, eq⟩ : ∃ k, k < 8 ∧ i - p.off.toNat = k := ⟨_, by omega, rfl⟩
    rw [eq]
    apply BitVec.eq_of_getLsbD_eq
    intro j hj
    simp only [BitVec.getLsbD_ofNat, Nat.testBit_div_two_pow, Nat.testBit_mod_two_pow, show j + 8 * k < 64 by omega, decide_true, Bool.true_and]
  · rfl

/-! ### The checks at the bank -/

section
variable {s : State} {c : BitVec 10} {a : Access} {r : Right} {plain reads : Bool}

/-- An access fails its checks, which changes no memory, or goes on from a state with the same memory. -/
theorem checkedPrim_cases (k : State → State) :
    (checkedPrim s c a r plain reads k).mem = s.mem ∨ ∃ u : State, u.mem = s.mem ∧ checkedPrim s c a r plain reads k = k u := by
  unfold checkedPrim
  dsimp only
  split
  · left
    rw [failAccess_mem]
    split <;> rfl
  · right
    refine ⟨_, ?_, rfl⟩
    split <;> rfl

/-- What a check's continuation keeps of memory, the check keeps. -/
theorem checkedPrim_keeps {α : Type} (g : Mem → α) {k : State → State} (h : ∀ u, g (k u).mem = g u.mem) :
    g (checkedPrim s c a r plain reads k).mem = g s.mem := by
  rcases checkedPrim_cases (s := s) (c := c) (a := a) (r := r) (plain := plain) (reads := reads) k with failed | ⟨u, same, goes⟩
  · rw [failed]
  · rw [goes, h, same]

theorem checkedPrim_phys {k : State → State} (h : ∀ u, (k u).mem.phys = u.mem.phys) :
    (checkedPrim s c a r plain reads k).mem.phys = s.mem.phys := checkedPrim_keeps (g := Mem.phys) h

theorem checkedPrim_spad {k : State → State} (h : ∀ u, (k u).mem.spad = u.mem.spad) :
    (checkedPrim s c a r plain reads k).mem.spad = s.mem.spad := checkedPrim_keeps (g := Mem.spad) h

theorem checkedPrim_sameBytes {k : State → State} (h : ∀ u, SameBytes u (k u)) : SameBytes s (checkedPrim s c a r plain reads k) :=
  ⟨checkedPrim_spad fun u => (h u).1, checkedPrim_phys fun u => (h u).2⟩

/-- An access of one piece that is no half of a WEAVE row goes on once its piece passes. -/
theorem checkedPrim_passes (k : State → State) (single : a.op ≠ .ldv ∧ a.op ≠ .stv) {p : Piece} (pieces : a.pieces = [p])
    (passes : piecesFail s (.prim c) r plain reads [p] = none) : checkedPrim s c a r plain reads k = k s := by
  have alone : ((s.core c).accs.find? fun e => a.partner e) = none := by
    rw [List.find?_eq_none]
    simp [Access.partner, single]
  unfold checkedPrim
  rw [alone, pieces]
  cases a.checked with
  | true => rfl
  | false =>
    simp only [Bool.false_eq_true, if_false, List.append_nil, passes]

end

/-! ### Performing an access -/

theorem foldl_syncWrite_phys (a : Ag) (release : Bool) (sc v : Nat) (ps : List Piece) : ∀ s : State,
    (ps.foldl (fun s p => syncWrite s a release sc v p) s).mem.phys = s.mem.phys := by
  induction ps with
  | nil => intro s; rfl
  | cons p r ih => intro s; exact (ih _).trans (syncWrite_phys ..)

/-- The read of an LRW changes no byte. -/
theorem lrwRead_mem (s : State) (c : BitVec 10) (a : Access) : (lrwRead s c a).mem = s.mem :=
  checkedPrim_keeps (g := id) fun u => by
    simp only [goesOn_mem, landAt_mem, id]
    rw [foldl_mem _ (fun s k => acquireGranule_mem s _ _ k), acquireWords_mem]

/-- An atomic's read at its bank changes no byte; its write follows (16 R390, R396). -/
theorem performMem_atomic_sameBytes {s : State} {c : BitVec 10} {a : Access} {o : AtomOp} {ord : Ord} (op : a.op = .atomic o ord) :
    SameBytes s (performMem s c a) := by
  unfold performMem
  rw [op]
  refine checkedPrim_sameBytes fun u => ?_
  split
  · exact .refl u
  · next p _ _ =>
    have read : SameBytes u (if ordAcq ord then acquireWords u (.prim c) a.scope.toNat p.words else noteRead u (.prim c) p.words) := by
      split
      · exact sameBytes_of_mem (acquireWords_mem ..)
      · exact noteRead_sameBytes ..
    dsimp only
    split <;> exact read.trans (sameBytes_of_mem (by rw [goesOn_mem, landAt_mem]))

/-- No access of a primary reaches physical memory. -/
theorem performMem_phys (s : State) (c : BitVec 10) (a : Access) : (performMem s c a).mem.phys = s.mem.phys := by
  unfold performMem
  cases op : a.op with
  | load n signed => exact checkedPrim_phys fun u => by rw [landAt_mem]; exact (noteRead_sameBytes _ _ u).2
  | store _ | stv | scat _ => exact checkedPrim_phys fun u => laggedWrite_phys u _ _ _ _
  | gath _ => exact checkedPrim_phys fun u => by rw [landAt_mem]; exact (noteRead_sameBytes _ _ u).2
  | ldv =>
    refine checkedPrim_phys fun u => ?_
    dsimp only
    split
    · exact (noteRead_sameBytes _ _ u).2
    · rw [landAt_mem]; exact (noteRead_sameBytes _ _ u).2
  | lda | ptest | pwaitLast => exact checkedPrim_phys fun u => congrArg Mem.phys (primAcquire_mem u c a)
  | pwait n =>
    refine checkedPrim_phys fun u => ?_
    split
    · rw [primAcquire_mem]
    · rfl
  | strl | praise => exact checkedPrim_phys fun u => foldl_syncWrite_phys _ _ _ _ _ u
  | lrw =>
    refine checkedPrim_phys fun u => ?_
    split
    · rfl
    · split
      · simp only [landAt_mem]
        exact (dropReservations_sameBytes u _).2
      · next joined => rw [lrwRead_mem]; exact (joinQueue_sameBytes (.inl joined)).2
      · next joined => exact (joinQueue_sameBytes (.inr joined)).2
  | lrwRead => exact congrArg Mem.phys (lrwRead_mem s c a)
  | sch =>
    refine checkedPrim_phys fun u => ?_
    split
    · rfl
    · dsimp only
      split
      · rfl
      · rw [landAt_mem]
  | schWrite =>
    dsimp only
    split
    · rfl
    · split
      · rw [landAt_mem]
        exact syncWrite_phys ..
      · rw [landAt_mem]
  | atomic o ord =>
    have read := performMem_atomic_sameBytes (s := s) (c := c) op
    unfold performMem at read
    rw [op] at read
    exact read.2
  | atomWrite rel => exact foldl_syncWrite_phys _ _ _ _ _ s
  | fence acq =>
    cases acq
    · exact (fenceRelease_sameBytes s _ _).2
    · exact congrArg Mem.phys (takeReleases_mem _ _ _ s)
  | hoistRel => exact (earlyRelease_sameBytes s c _ _).2
  | hoistAcq => exact congrArg Mem.phys (acquireWords_mem _ _ _ s)
  | _ => rfl
/-- Settles O32: the writes of one piece, each after its check, and the reads. -/
theorem accessesChangeOnlyTheirBytes : Obligations.AccessesChangeOnlyTheirBytes := by
  intro s c a p pieces whole fits
  refine ⟨fun n op passes => ?_, fun n signed op => ?_, fun op => ?_, fun o ord op => ?_, fun written word => ?_,
    fun q => by rw [physByte, physByte, performMem_phys]⟩
  · show PutsBytes s (performMem s c a) p a.data.toNat
    unfold performMem
    rw [op]
    dsimp only
    rw [checkedPrim_passes _ (by simp [op]) pieces passes, pieces]
    exact laggedWrite_puts whole fits s (.prim c) a.lag a.data.toNat
  · unfold performMem
    rw [op]
    exact checkedPrim_spad fun u => by rw [landAt_mem]; exact (noteRead_sameBytes _ _ u).1
  · unfold performMem
    rw [op]
    exact checkedPrim_spad fun u => congrArg Mem.spad (primAcquire_mem u c a)
  · exact (performMem_atomic_sameBytes op).1
  · suffices written : PutsBytes s (performMem s c a) p a.data.toNat by
      rw [PutsBytes, word] at written
      exact written
    have puts (release : Bool) := (syncWrite_puts whole fits s (.prim c) release a.scope.toNat (a.data.toNat % 2 ^ 64)).of_low word
    unfold performMem
    rcases written with ⟨op, holding⟩ | ⟨release, op⟩ | ⟨op | op, passes⟩ <;> rw [op] <;> dsimp only
    · rw [pieces]
      dsimp only
      rw [if_pos holding]
      exact (puts true).after ((mapQueue_sameBytes _ _ _).trans (sameBytes_of_mem (landAt_mem ..)))
    · rw [pieces]
      exact puts release
    · rw [checkedPrim_passes _ (by simp [op]) pieces passes, pieces]
      exact puts true
    · rw [checkedPrim_passes _ (by simp [op]) pieces passes, pieces]
      exact puts true

end Sys2Proof.Machine
end

section
/-! SUPPORT. Vector lanes (17 R405-R407): what a lane of a written vector is, and how an operation on elements or lanes writes them. -/

namespace Sys2Proof.Machine

/-! ### Lanes and elements -/

theorem laneOf_ofLanes (f : Nat → Half) {i : Nat} (h : i < 64) : laneOf (ofLanes f) i = f i := by
  have bound (n : Nat) : lanesFrom f n < 2 ^ (32 * n) := by
    induction n with
    | zero => exact Nat.one_pos
    | succ n ih =>
      have top := mod_add_mul_lt (lanesFrom f n) (m := 32 * n) (f n).isLt
      rwa [Nat.mod_eq_of_lt ih] at top
  have bits (n k : Nat) : (lanesFrom f n).testBit k = (decide (k < 32 * n) && (f (k / 32)).getLsbD (k % 32)) := by
    induction n with
    | zero => simp [lanesFrom]
    | succ n ih =>
      rw [lanesFrom, Nat.add_comm, Nat.mul_comm, Nat.testBit_two_pow_mul_add _ (bound n)]
      split
      · next below => simp [ih, below, show k < 32 * (n + 1) by omega]
      · next above =>
        rw [BitVec.testBit_toNat]
        by_cases within : k < 32 * (n + 1)
        · rw [show k / 32 = n by omega, show k % 32 = k - 32 * n by omega]
          simp [within]
        · simp [within, BitVec.getLsbD_of_ge (f n) (k - 32 * n) (by omega)]
  apply BitVec.eq_of_getLsbD_eq
  intro j hj
  rw [laneOf, BitVec.getLsbD_extractLsb', ofLanes, BitVec.getLsbD_ofNat, bits, show (32 * i + j) / 32 = i by omega,
    show (32 * i + j) % 32 = j by omega]
  simp [hj, show 32 * i + j < 2048 by omega]

/-- A lane keeps its elements mod 2^w. -/
theorem joinElems_congr {t : VType} {f g : Nat → Nat} (same : ∀ h, f h % 2 ^ elemWidth t = g h % 2 ^ elemWidth t) :
    joinElems t f = joinElems t g := by
  have sums (n : Nat) : elemsFrom (elemWidth t) f n = elemsFrom (elemWidth t) g n := by
    induction n with
    | zero => rfl
    | succ n ih => rw [elemsFrom, elemsFrom, ih, same]
  rw [joinElems, sums, joinElems]

theorem joinElems_word (f : Nat → Nat) : joinElems .i32 f = BitVec.ofNat 32 (f 0) := by
  have one : joinElems .i32 f = BitVec.ofNat 32 (0 + f 0 % 2 ^ 32 * 2 ^ 0) := rfl
  rw [one]
  apply BitVec.eq_of_toNat_eq
  simp

theorem elemOf_word (x : Half) : elemOf .i32 x 0 = x.toNat := by
  have all : elemOf .i32 x 0 = x.toNat / 2 ^ 0 % 2 ^ 32 := rfl
  rw [all, Nat.pow_zero, Nat.div_one, Nat.mod_eq_of_lt x.isLt]

/-! ### Writing them -/

theorem orFlags_zero {l : List (BitVec 5)} (none : ∀ v ∈ l, v = 0) : orFlags l = 0 := by
  suffices ∀ l : List (BitVec 5), (∀ v ∈ l, v = 0) → l.foldl (fun a b => a ||| b) 0 = 0 from this l none
  intro l
  induction l with
  | nil => intro; rfl
  | cons v l ih =>
    intro none
    rw [List.foldl_cons, none v List.mem_cons_self]
    exact ih fun u h => none u (List.mem_cons_of_mem _ h)

theorem raiseFlags_zero (s : State) (bound : Nat) : raiseFlags s 0 bound = s := by
  rw [raiseFlags]
  cases s.cur.agent with
  | prim c => rfl
  | thread c t => rfl

/-- Elements without flags are lanes. -/
theorem writeElems_plain (s : State) (d : BitVec 5) (m : BitVec 3) (t : VType) (f : Nat → Nat → Nat) (bound : Nat) :
    writeElems s d m t (fun i h => (f i h, 0)) bound = writeLanes s d (activeOf s m) (fun i => joinElems t (f i)) bound := by
  rw [writeElems, orFlags_zero, raiseFlags_zero]
  intro v listed
  simp only [List.mem_flatMap, List.mem_map] at listed
  obtain ⟨_, -, _, -, rfl⟩ := listed
  rfl

/-- Elements are written mod 2^w. -/
theorem writeElems_congr (s : State) (d : BitVec 5) (m : BitVec 3) {t : VType} {f g : Nat → Nat → Nat} (bound : Nat)
    (same : ∀ i h, f i h % 2 ^ elemWidth t = g i h % 2 ^ elemWidth t) :
    writeElems s d m t (fun i h => (f i h, 0)) bound = writeElems s d m t (fun i h => (g i h, 0)) bound := by
  rw [writeElems_plain, writeElems_plain]
  exact congrArg (writeLanes s d _ · bound) (funext fun i => joinElems_congr (same i))

section
variable {s : State} {c : BitVec 10} (agent : s.cur.agent = .prim c)
include agent

theorem activeOf_prim (m : BitVec 3) : activeOf s m = fun i => (readM s c m).getLsbD i := by
  funext i
  rw [activeOf, me_prim agent]

theorem writeLanes_prim (d : BitVec 5) (act : Nat → Bool) (f : Nat → Half) (bound : Nat) : ∃ r : Lanes,
    writeLanes s d act f bound = writeV s c d r bound ∧ ∀ i < 64, laneOf r i = if act i then f i else laneOf (readV s c d) i := by
  rw [writeLanes, me_prim agent]
  exact ⟨_, rfl, fun i h => laneOf_ofLanes _ h⟩

/-- The active lanes are written, the others keep what vd held at issue. -/
theorem writeLanes_active (d : BitVec 5) (m : BitVec 3) (f : Nat → Half) (bound : Nat) : ∃ r : Lanes,
    writeLanes s d (activeOf s m) f bound = writeV s c d r bound ∧
      ∀ i < 64, laneOf r i = if (readM s c m).getLsbD i then f i else laneOf (readV s c d) i := by
  rw [activeOf_prim agent]
  exact writeLanes_prim agent ..

end

end Sys2Proof.Machine
end

section
/-! PROOFS. Vector operations (17 R405-R431): the lanes of type i32 and the lane moves, lane by lane. -/

namespace Sys2Proof.Machine

/-! ### Stored bits of type i32 -/

theorem elemInt_word (x : Half) : elemInt .i32 x.toNat = x.toInt := by
  have signed : elemInt .i32 x.toNat = if x.toNat < 2 ^ 31 then (x.toNat : Int) else (x.toNat : Int) - 2 ^ 32 := rfl
  rw [signed, BitVec.toInt_eq_toNat_cond]
  split <;> split <;> omega

theorem ofNat_elemWrap_word (x : Int) : BitVec.ofNat 32 (elemWrap .i32 x) = BitVec.ofInt 32 x := by
  have wrapped : elemWrap .i32 x = (x % 2 ^ 32).toNat := rfl
  apply BitVec.eq_of_toNat_eq
  rw [wrapped, BitVec.toNat_ofNat, BitVec.toNat_ofInt]
  omega

theorem mulHigh_word (x y : Half) : BitVec.ofInt 32 (x.toInt * y.toInt / 2 ^ 32) = (x.signExtend 64 * y.signExtend 64).extractLsb' 32 32 := by
  have product : x.signExtend 64 * y.signExtend 64 = BitVec.ofInt 64 (x.toInt * y.toInt) := by
    rw [BitVec.ofInt_mul]; rfl
  apply BitVec.eq_of_toNat_eq
  rw [product, BitVec.extractLsb'_toNat, BitVec.toNat_ofInt, BitVec.toNat_ofInt, Nat.shiftRight_eq_div_pow]
  generalize x.toInt * y.toInt = z
  omega

theorem intMinMax_word (x y : Half) : BitVec.ofNat 32 (intMinMax .i32 false x.toNat y.toNat) = (if x.sle y then x else y) ∧
    BitVec.ofNat 32 (intMinMax .i32 true x.toNat y.toNat) = (if x.sle y then y else x) := by
  simp only [intMinMax, elemInt_word, BitVec.sle_eq_decide, decide_eq_true_eq, if_true, Bool.false_eq_true, if_false]
  rcases Int.lt_trichotomy x.toInt y.toInt with h | h | h
  · simp [h, Int.le_of_lt h]
  · simp [BitVec.toInt_inj.mp h]
  · simp [Int.not_le.mpr h, Int.lt_asymm h]

/-- The operation writes the lanes v to vd, at its bound; an inactive lane keeps what vd held at issue. -/
def WritesLanes (s : State) (c : BitVec 10) (d : BitVec 5) (m : BitVec 3) (bound : Nat) (v : Nat → Half) (o : Host.Outcome State Fault Refusal) : Prop :=
  ∃ r : Lanes, o = .next (writeV s c d r bound) ∧ ∀ k < 64, laneOf r k = if (readM s c m).getLsbD k then v k else laneOf (readV s c d) k

section
variable {s : State} {c : BitVec 10} (agent : s.cur.agent = .prim c)
include agent

theorem writesLanes_active (d : BitVec 5) (m : BitVec 3) (bound : Nat) (v : Nat → Half) :
    WritesLanes s c d m bound v (.next (writeLanes s d (activeOf s m) v bound)) := by
  obtain ⟨r, eq, lanes⟩ := writeLanes_active agent d m v bound
  exact ⟨r, congrArg _ eq, lanes⟩

/-- An operation without flags on two lanes of type i32. -/
theorem vec2_words {f : VForm} (word : f.t = .i32) (runs : executes s f.g = true) (bound : Nat) {op : Nat → Nat → Nat} {v : Half → Half → Half}
    (exact : ∀ x y : Half, BitVec.ofNat 32 (op x.toNat y.toNat) = v x y) :
    WritesLanes s c f.d f.m bound (fun k => v (laneOf (readV s c f.a) k) (laneOf (readV s c f.b) k))
      (vec2 s f none bound fun x y => (op x y, 0)) := by
  rw [vec2, runOp_next _ runs, writeElems_plain, me_prim agent]
  simp only [word, joinElems_word, elemOf_word, exact]
  exact writesLanes_active agent ..

/-- An operation on one lane of type i32. -/
theorem vec1_words {f : V1Form} (word : f.t = .i32) (runs : executes s f.g = true) {op : Nat → Nat} {v : Half → Half}
    (exact : ∀ x : Half, BitVec.ofNat 32 (op x.toNat) = v x) :
    WritesLanes s c f.d f.m 2 (fun k => v (laneOf (readV s c f.a) k)) (vec1 s f op) := by
  rw [vec1, runOp_next _ runs, writeElems_plain, me_prim agent]
  simp only [word, joinElems_word, elemOf_word, exact]
  exact writesLanes_active agent ..

/-- A whole-lane operation. -/
theorem lane2_lanes {f : VForm} (runs : executes s f.g = true) (op : Half → Half → Half) :
    WritesLanes s c f.d f.m 2 (fun k => op (laneOf (readV s c f.a) k) (laneOf (readV s c f.b) k)) (lane2 s f op) := by
  rw [lane2, runOp_next _ runs, me_prim agent]
  exact writesLanes_active agent ..

/-! ### The operations on lanes of type i32 -/

section
variable {f : VForm} (word : f.t = .i32) (runs : executes s f.g = true)
include word runs

theorem vadd_words : WritesLanes s c f.d f.m 2 (fun k => laneOf (readV s c f.a) k + laneOf (readV s c f.b) k) (execVadd f s) := by
  rw [execVadd, word]
  exact vec2_words agent word runs 2 (op := fun x y => x + y) (v := fun x y => x + y) fun x y => rfl

theorem vsub_words : WritesLanes s c f.d f.m 2 (fun k => laneOf (readV s c f.a) k - laneOf (readV s c f.b) k) (execVsub f s) := by
  rw [execVsub, word]
  refine vec2_words agent word runs 2 (v := fun x y => x - y) fun x y => ?_
  show BitVec.ofNat 32 (elemWrap .i32 ((x.toNat : Int) - y.toNat)) = x - y
  rw [ofNat_elemWrap_word]
  apply BitVec.eq_of_toNat_eq
  rw [BitVec.toNat_ofInt, BitVec.toNat_sub]
  omega

theorem vmul_words : WritesLanes s c f.d f.m 3 (fun k => laneOf (readV s c f.a) k * laneOf (readV s c f.b) k) (execVmul f s) := by
  rw [execVmul, word]
  exact vec2_words agent word runs 3 (op := fun x y => x * y) (v := fun x y => x * y) fun x y => rfl

theorem vmulh_words : WritesLanes s c f.d f.m 3 (fun k => ((laneOf (readV s c f.a) k).signExtend 64 * (laneOf (readV s c f.b) k).signExtend 64).extractLsb' 32 32)
    (execVmulh f s) := by
  rw [execVmulh, word]
  refine vec2_words agent word runs 3 (v := fun x y => (x.signExtend 64 * y.signExtend 64).extractLsb' 32 32) fun x y => ?_
  rw [ofNat_elemWrap_word, elemInt_word, elemInt_word]
  exact mulHigh_word x y

theorem vmin_words : WritesLanes s c f.d f.m 2
    (fun k => if (laneOf (readV s c f.a) k).sle (laneOf (readV s c f.b) k) then laneOf (readV s c f.a) k else laneOf (readV s c f.b) k) (execVmin f s) := by
  rw [execVmin, word]
  exact vec2_words agent word runs 2 (v := fun x y => if x.sle y then x else y) fun x y => (intMinMax_word x y).1

theorem vmax_words : WritesLanes s c f.d f.m 2
    (fun k => if (laneOf (readV s c f.a) k).sle (laneOf (readV s c f.b) k) then laneOf (readV s c f.b) k else laneOf (readV s c f.a) k) (execVmax f s) := by
  rw [execVmax, word]
  exact vec2_words agent word runs 2 (v := fun x y => if x.sle y then y else x) fun x y => (intMinMax_word x y).2

theorem vshl_words : WritesLanes s c f.d f.m 2 (fun k => laneOf (readV s c f.a) k <<< ((laneOf (readV s c f.b) k).toNat % 32)) (execVshl f s) := by
  rw [execVshl, word]
  refine vec2_words agent word runs 2 (v := fun x y => x <<< (y.toNat % 32)) fun x y => ?_
  show BitVec.ofNat 32 (x.toNat * 2 ^ (y.toNat % 32)) = _
  apply BitVec.eq_of_toNat_eq
  rw [BitVec.toNat_ofNat, BitVec.toNat_shiftLeft, Nat.shiftLeft_eq]

theorem vshr_words : WritesLanes s c f.d f.m 2 (fun k => laneOf (readV s c f.a) k >>> ((laneOf (readV s c f.b) k).toNat % 32)) (execVshr f s) := by
  rw [execVshr, word]
  refine vec2_words agent word runs 2 (v := fun x y => x >>> (y.toNat % 32)) fun x y => ?_
  show BitVec.ofNat 32 (x.toNat / 2 ^ (y.toNat % 32)) = _
  rw [← Nat.shiftRight_eq_div_pow, ← BitVec.toNat_ushiftRight, BitVec.ofNat_toNat, BitVec.setWidth_eq]

theorem vsra_words : WritesLanes s c f.d f.m 2 (fun k => (laneOf (readV s c f.a) k).sshiftRight ((laneOf (readV s c f.b) k).toNat % 32))
    (execVsra f s) := by
  rw [execVsra, word]
  refine vec2_words agent word runs 2 (v := fun x y => x.sshiftRight (y.toNat % 32)) fun x y => ?_
  show BitVec.ofNat 32 (elemWrap .i32 (elemInt .i32 x.toNat / 2 ^ (y.toNat % 32))) = _
  rw [ofNat_elemWrap_word, elemInt_word, BitVec.sshiftRight, Int.shiftRight_eq_div_pow, Int.natCast_pow, Int.cast_ofNat_Int]

end

section
variable {f : V1Form} (word : f.t = .i32) (runs : executes s f.g = true)
include word runs

theorem vnot_words : WritesLanes s c f.d f.m 2 (fun k => ~~~ laneOf (readV s c f.a) k) (execVnot f s) := by
  rw [execVnot, word]
  refine vec1_words agent word runs (v := fun x => ~~~ x) fun x => ?_
  show BitVec.ofNat 32 (2 ^ 32 - 1 - x.toNat) = _
  rw [← BitVec.toNat_not, BitVec.ofNat_toNat, BitVec.setWidth_eq]

theorem vneg_words : WritesLanes s c f.d f.m 2 (fun k => - laneOf (readV s c f.a) k) (execVneg f s) := by
  rw [execVneg, word]
  refine vec1_words agent word runs (v := fun x => - x) fun x => ?_
  show BitVec.ofNat 32 (elemWrap .i32 (-elemInt .i32 x.toNat)) = _
  rw [ofNat_elemWrap_word, elemInt_word, BitVec.ofInt_neg, BitVec.ofInt_toInt]

theorem vabs_words : WritesLanes s c f.d f.m 2 (fun k => if (laneOf (readV s c f.a) k).slt 0 then - laneOf (readV s c f.a) k else laneOf (readV s c f.a) k)
    (execVabs f s) := by
  rw [execVabs, word]
  refine vec1_words agent word runs (v := fun x => if x.slt 0 then - x else x) fun x => ?_
  show BitVec.ofNat 32 (elemWrap .i32 (elemInt .i32 x.toNat).natAbs) = _
  rw [ofNat_elemWrap_word, elemInt_word, BitVec.slt_eq_decide]
  simp only [decide_eq_true_eq]
  split
  · next below => rw [Int.ofNat_natAbs_of_nonpos (Int.le_of_lt below), BitVec.ofInt_neg, BitVec.ofInt_toInt]
  · next above => rw [Int.natAbs_of_nonneg (Int.not_lt.mp above), BitVec.ofInt_toInt]

end

end

/-- Settles O37. -/
theorem wordLanesAreExact : Obligations.WordLanesAreExact := fun _ _ _ _ agent runs runs1 word word1 =>
  ⟨vadd_words agent word runs, vsub_words agent word runs, vmul_words agent word runs, vmulh_words agent word runs, vmin_words agent word runs,
    vmax_words agent word runs, lane2_lanes agent runs _, lane2_lanes agent runs _, lane2_lanes agent runs _, vshl_words agent word runs,
    vshr_words agent word runs, vsra_words agent word runs, vnot_words agent word1 runs1, vneg_words agent word1 runs1, vabs_words agent word1 runs1⟩

/-! ### Lane moves -/

/-- A word put together from its low end is the word put together from its high end. -/
theorem encVV_eq (op : BitVec 6) (f : VForm) : op ++ (encGuard f.g ++ (f.d ++ (f.a ++ (f.b ++ (f.m ++ encVType f.t))))) = encVV op f := by
  rw [encVV]
  simp only [BitVec.append_assoc, BitVec.cast_eq]

theorem encV0_eq (f : VIotaForm) : 0x28#6 ++ (encGuard f.g ++ (f.d ++ (0#10 ++ (f.m ++ (0#2 ++ BitVec.ofBool f.n))))) = encV0 f := by
  rw [encV0]
  simp only [BitVec.append_assoc, BitVec.cast_eq]

section
variable {s : State} {c : BitVec 10} (agent : s.cur.agent = .prim c)
include agent

theorem vsel_lanes {f : VForm} (runs : executes s f.g = true) : ∃ r : Lanes, execVsel f s = .next (writeV s c f.d r 2) ∧
    ∀ i < 64, laneOf r i = if (readM s c f.m).getLsbD i then laneOf (readV s c f.a) i else laneOf (readV s c f.b) i := by
  rw [execVsel, runOp_next _ runs, me_prim agent, activeOf_prim agent]
  obtain ⟨r, eq, lanes⟩ := writeLanes_prim agent f.d (fun _ => true)
    (fun i => if (readM s c f.m).getLsbD i then laneOf (readV s c f.a) i else laneOf (readV s c f.b) i) 2
  exact ⟨r, congrArg _ eq, lanes⟩

theorem vperm_lanes {f : VForm} (runs : executes s f.g = true) :
    WritesLanes s c f.d f.m 3 (fun i => laneOf (readV s c f.a) ((laneOf (readV s c f.b) i).toNat % 64)) (execVperm f s) := by
  have low (x : Half) : fieldOf x 0 6 = x.toNat % 64 := by rw [fieldOf_zero, BitVec.toNat_setWidth]
  simp only [execVperm, low]
  rw [runOp_next _ runs, me_prim agent]
  exact writesLanes_active agent ..

theorem viota_lanes {f : VIotaForm} (runs : executes s f.g = true) : WritesLanes s c f.d f.m 2
    (fun i => BitVec.ofNat 32 ((List.range i).filter fun k => (readM s c f.m).getLsbD k).length) (execViota f s) := by
  simp only [execViota, countTrue_eq]
  rw [runOp_next _ runs]
  have lanes := writesLanes_active agent f.d f.m 2 fun i => BitVec.ofNat 32 ((List.range i).filter (activeOf s f.m)).length
  rwa [activeOf_prim agent] at lanes ⊢

end

/-- Settles O52. -/
theorem laneMovesAreExact : Obligations.LaneMovesAreExact := by
  refine ⟨fun f => ?_, fun f => (encV0_eq f).symm ▸ decodeV_encV0 f, fun s c agent => ⟨fun f runs => ⟨vsel_lanes agent runs, vperm_lanes agent runs⟩,
    fun f runs => ?_⟩⟩
  · rw [encVV_eq, encVV_eq]
    exact ⟨decodeV_encVV rfl rfl, decodeV_encVV rfl rfl⟩
  · obtain ⟨r, eq, lanes⟩ := viota_lanes agent runs
    refine ⟨r, eq, fun i h => ⟨lanes i h, fun every => ?_⟩⟩
    have all (k : Nat) (hk : k < 64) : (readM s c 0).getLsbD k = true := by
      rw [readM, if_pos rfl, BitVec.getLsbD_allOnes, decide_eq_true hk]
    have below : (List.range i).filter (fun k => (readM s c 0).getLsbD k) = List.range i :=
      List.filter_eq_self.mpr fun k hk => all k (Nat.lt_trans (List.mem_range.mp hk) h)
    rw [lanes i h, every, if_pos (all i h)]
    dsimp only
    rw [below, List.length_range]

end Sys2Proof.Machine
end

section
/-! PROOFS. The fields of an atomic that must be 0 (16 R397): what decodes to no operation, what such a word raises, and a false guard. -/

namespace Sys2Proof.Machine

/-- The opcodes of the atomics (14 Table Enc.15). -/
theorem ctorAtomic_listed : ∀ op : BitVec 6, 0x17 ≤ op.toNat → op.toNat ≤ 0x20 → (ctorAtomic op).isSome := by decide

theorem okIf_false {zero : Bool} (bad : zero = false) (i : Instr) : okIf zero i = .illegal .field := by
  rw [okIf, bad]; rfl

theorem decodeM_atomic_illegal {w : BitVec 32} (lo : 0x17 ≤ (w.extractLsb' 26 6).toNat) (hi : (w.extractLsb' 26 6).toNat ≤ 0x20)
    (bad : w.extractLsb' 6 3 ≠ 0 ∨ w.extractLsb' 2 2 ≠ 0) : ∃ e, decodeM w = .illegal e := by
  have listed := ctorAtomic_listed _ lo hi
  obtain ⟨noMA, noSync, noPred⟩ := mMaps_of_Atomic _ listed
  obtain ⟨make, named⟩ := Option.isSome_iff_exists.mp listed
  have fields (z : Bool) : (decide (w.extractLsb' 6 3 = 0) && decide (w.extractLsb' 2 2 = 0) && z) = false := by
    rcases bad with h | h
    · rw [decide_eq_false h, Bool.false_and, Bool.false_and]
    · rw [decide_eq_false h, Bool.and_false, Bool.false_and]
  rw [decodeM]
  simp only [noMA, noSync, noPred, named, okIf_false (fields _)]
  split
  · exact ⟨_, rfl⟩
  · exact ⟨_, rfl⟩

theorem decodeBarrel_atomic_illegal {w : BitVec 64} (group : w.extractLsb' 62 2 = 1) (lo : 0x17 ≤ (w.extractLsb' 56 6).toNat)
    (hi : (w.extractLsb' 56 6).toNat ≤ 0x20) (bad : w.extractLsb' 30 2 ≠ 0) : ∃ e, decodeBarrel w = .illegal e := by
  have listed := ctorAtomic_listed _ lo hi
  obtain ⟨noMA, noSync, noPred⟩ := mMaps_of_Atomic _ listed
  obtain ⟨make, named⟩ := Option.isSome_iff_exists.mp listed
  have flag (z : Bool) : (decide (w.extractLsb' 30 2 = 0) && z) = false := by
    rw [decide_eq_false bad, Bool.false_and]
  have kind : decodeBarrel w = decodeBarM w := by rw [decodeBarrel, group]; rfl
  rw [kind, decodeBarM]
  simp only [noMA, noSync, noPred, named, okIf_false (flag _)]
  cases barIndex w with
  | none => exact ⟨_, rfl⟩
  | some i => exact ⟨.field, ite_self _⟩

/-- A slot belongs to the mask of a list that holds it. -/
theorem maskOf_of_mem {l : List Slot} {sl : Slot} (mem : sl ∈ l) : (maskOf l).getLsbD sl.bit = true := by
  have keeps (l : List Slot) (m : BitVec 8) {n : Nat} (h : m.getLsbD n = true) :
      (l.foldl (fun m y => m ||| BitVec.ofNat 8 (2 ^ y.bit)) m).getLsbD n = true := by
    induction l generalizing m with
    | nil => exact h
    | cons y l ih => exact ih _ (by rw [BitVec.getLsbD_or, h, Bool.true_or])
  have sets : (BitVec.ofNat 8 (2 ^ sl.bit)).getLsbD sl.bit = true := by cases sl <;> rfl
  suffices ∀ m : BitVec 8, (l.foldl (fun m y => m ||| BitVec.ofNat 8 (2 ^ y.bit)) m).getLsbD sl.bit = true from this 0
  induction l with
  | nil => exact absurd mem List.not_mem_nil
  | cons y l ih =>
    intro m
    rcases List.mem_cons.mp mem with rfl | later
    · exact keeps l _ (by rw [BitVec.getLsbD_or, sets, Bool.or_true])
    · exact ih later _

/-- A word that decodes to no operation is found at the fetch, as ILLOP of its slot (14 R355). -/
theorem fetchFound_illegal (s : State) (c : BitVec 10) {f : Fetched} {sl : Slot} {n : Nat} {e : Illegal} (mem : (sl, n, Decoded.illegal e) ∈ f.slots) :
    ∃ x ∈ fetchFound s c f, x.trap.cause = .illop ∧ x.mask.getLsbD sl.bit = true := by
  have listed {p : Slot × Nat × Decoded → Bool} (is : p (sl, n, .illegal e) = true) : sl ∈ (f.slots.filter p).map fun q => q.1 :=
    List.mem_map.mpr ⟨_, List.mem_filter.mpr ⟨mem, is⟩, rfl⟩
  have found {p : Slot × Nat × Decoded → Bool} {l m : List Found} (is : p (sl, n, .illegal e) = true) :
      (if ((f.slots.filter p).map fun q => q.1).isEmpty then l else m) = m :=
    if_neg (by rw [List.isEmpty_iff]; exact List.ne_nil_of_mem (listed is))
  rw [fetchFound, found]
  · exact ⟨_, List.mem_append_right _ List.mem_cons_self, rfl, maskOf_of_mem (listed rfl)⟩
  · rfl

theorem atomic_skip {s : State} {f : MemForm} (idle : executes s f.g = false) (op : AtomOp) : atomic s f op = .next (finish s) := by
  have passes : memTrap s f 8 = none := by simp [memTrap, idle]
  rw [atomic, passes, runOp_skip _ idle]

section
variable {s : State} {c : BitVec 10} {k t : Nat} {w : BitVec 64} {e : Illegal} (offered : isOffered s c k = true)
  (picked : pickThread (countOffer s c k) c k = some (t, w))
  (granted : tokenDenied (pick (countOffer s c k) c k t) c (barrelTokens (pick (countOffer s c k) c k t) w) = false)
  (unserved : t = 7 → serviceWork (pick (countOffer s c k) c k t) c = false) (privileged : barPrivileged w = true → t = 7)
  (illegal : decodeBarrel w = .illegal e)
include offered picked granted unserved privileged illegal

/-- The picked thread takes ILLOP where its word decodes to no operation. -/
theorem offer_illegal : offer s c k =
    (none, takeThreadTrap (take (pick (countOffer s c k) c k t) c k t w) c (BitVec.ofNat 3 t) .illop 0) := by
  have noService : (decide (t = 7) && serviceWork (pick (countOffer s c k) c k t) c) = false := by
    simpa using unserved
  have allowed : (barPrivileged w && decide (t ≠ 7)) = false := by
    simpa using privileged
  simp only [pick, countOffer] at picked granted noService ⊢
  simp only [offer, offered, picked, granted, noService, allowed, illegal, Bool.not_true, Bool.false_eq_true, if_false]

end

/-- Settles O51. -/
theorem atomicFieldsAreChecked : Obligations.AtomicFieldsAreChecked := by
  refine ⟨fun w lo hi bad => decodeM_atomic_illegal lo hi bad, fun w group lo hi bad => decodeBarrel_atomic_illegal group lo hi bad,
    fun s c f sl n e mem => fetchFound_illegal s c mem, fun s c i t w e u offered eq picked granted unserved illegal privileged => ?_,
    fun s f e mem idle => ?_⟩
  · subst eq
    have trap := offer_illegal offered picked granted unserved privileged illegal
    obtain ⟨first, second⟩ := Prod.ext_iff.mp trap
    dsimp only at second
    exact ⟨first, _, second⟩
  · simp only [List.mem_cons, List.not_mem_nil, or_false] at mem
    have skips := atomic_skip idle
    rcases mem with rfl | rfl | rfl | rfl | rfl | rfl | rfl | rfl | rfl | rfl
    · exact skips .add
    · exact skips .and
    · exact skips .or
    · exact skips .xor
    · exact skips .min
    · exact skips .max
    · exact skips .minn
    · exact skips .maxn
    · exact skips .xch
    · exact skips .cas

end Sys2Proof.Machine
end

section
/-! PROOFS. Element arithmetic (17 R405, R410-R413): wrapped integers, or one rounding under the V extension's rounding. -/

namespace Sys2Proof.Machine

/-! ### Integers of a type -/

theorem elemWrap_cast (t : VType) (x : Int) : (elemWrap t x : Int) = x % 2 ^ elemWidth t :=
  Int.toNat_of_nonneg (Int.emod_nonneg _ (Int.ne_of_gt (Int.pow_pos (by decide))))

/-- Stored bits are what they mean, mod 2^w. -/
theorem elemInt_emod (t : VType) (x : Nat) : elemInt t x % 2 ^ elemWidth t = (x : Int) % 2 ^ elemWidth t := by
  rw [elemInt]
  split
  · rw [signedOf]
    split
    · rfl
    · exact Int.sub_emod_right ..
  · rfl

/-- The smaller and the larger of two integers, as stored bits. -/
theorem intMinMax_emod (t : VType) (x y : Nat) : (intMinMax t false x y : Int) % 2 ^ elemWidth t = min (elemInt t x) (elemInt t y) % 2 ^ elemWidth t ∧
    (intMinMax t true x y : Int) % 2 ^ elemWidth t = max (elemInt t x) (elemInt t y) % 2 ^ elemWidth t := by
  simp only [intMinMax, if_true, Bool.false_eq_true, if_false]
  split
  · next less => rw [Int.min_eq_left (Int.le_of_lt less), Int.max_eq_right (Int.le_of_lt less), elemInt_emod, elemInt_emod]; exact ⟨rfl, rfl⟩
  · next more => rw [Int.min_eq_right (Int.not_lt.mp more), Int.max_eq_left (Int.not_lt.mp more), elemInt_emod, elemInt_emod]; exact ⟨rfl, rfl⟩

/-! ### Operations on elements -/

theorem extTrap_int (s : State) {t : VType} (int : intType t = true) : extTrap s t = none := by
  rw [extTrap, int]; rfl

theorem extTrap_zero {s : State} (t : VType) (reserved : vext s >>> 2 = 0) : extTrap s t = none := by
  simp [extTrap, reserved]

section
variable {s : State} {c : BitVec 10} (agent : s.cur.agent = .prim c) {f : VForm} (runs : executes s f.g = true)
include agent runs

theorem vec2_elems {trap : Option TrapInfo} (passes : trap = none) (bound : Nat) (op : Nat → Nat → FRes2) : vec2 s f trap bound op = .next
    (writeElems s f.d f.m f.t (fun i h => op (elemOf f.t (laneOf (readV s c f.a) i) h) (elemOf f.t (laneOf (readV s c f.b) i) h)) bound) := by
  rw [vec2, runOp_none _ passes runs, me_prim agent]

theorem vec3_elems (passes : extTrap s f.t = none) (op : Nat → Nat → Nat → FRes2) : vec3 s f op = .next
    (writeElems s f.d f.m f.t (fun i h => op (elemOf f.t (laneOf (readV s c f.a) i) h) (elemOf f.t (laneOf (readV s c f.b) i) h)
      (elemOf f.t (laneOf (readV s c f.d) i) h)) 4) := by
  rw [vec3, runOp_none _ passes runs, me_prim agent]

/-- An operation whose answer is an integer mod 2^w. -/
theorem vec2_ints {trap : Option TrapInfo} (passes : trap = none) (bound : Nat) {op : Nat → Nat → Nat} (v : Nat → Nat → Int)
    (wraps : ∀ x y, (op x y : Int) % 2 ^ elemWidth f.t = v x y % 2 ^ elemWidth f.t) : vec2 s f trap bound (fun x y => (op x y, 0)) = .next
    (writeElems s f.d f.m f.t (fun i h => (elemWrap f.t (v (elemOf f.t (laneOf (readV s c f.a) i) h) (elemOf f.t (laneOf (readV s c f.b) i) h)), 0))
      bound) := by
  rw [vec2_elems agent runs passes]
  refine congrArg _ (writeElems_congr s f.d f.m bound fun i h => ?_)
  rw [← Int.natCast_inj, Int.natCast_emod, Int.natCast_emod, Int.natCast_pow, Int.cast_ofNat_Int, wraps, elemWrap_cast, Int.emod_emod]

end

/-- Settles O36. -/
theorem vectorArithmeticCompletes : Obligations.VectorArithmeticCompletes := by
  intro s c f agent runs
  have ints := @vec2_ints s c agent f runs
  have elems2 := @vec2_elems s c agent f runs
  have elems3 := @vec3_elems s c agent f runs
  refine ⟨fun int => ?_, fun float reserved => ?_⟩
  · have passes := extTrap_int s int
    have add : execVadd f s = vec2 s f (extTrap s f.t) 2 fun x y => (x + y, 0) := by simp only [execVadd, arithBound, int, if_true]
    have sub : execVsub f s = vec2 s f (extTrap s f.t) 2 fun x y => (elemWrap f.t ((x : Int) - y), 0) := by
      simp only [execVsub, arithBound, int, if_true]
    have mul : execVmul f s = vec2 s f (extTrap s f.t) 3 fun x y => (x * y, 0) := by simp only [execVmul, arithBound, int, if_true]
    have least : execVmin f s = vec2 s f none 2 fun x y => (intMinMax f.t false x y, 0) := by simp only [execVmin, int, if_true]
    have most : execVmax f s = vec2 s f none 2 fun x y => (intMinMax f.t true x y, 0) := by simp only [execVmax, int, if_true]
    have high : execVmulh f s = vec2 s f none 3 fun x y => (elemWrap f.t (elemInt f.t x * elemInt f.t y / 2 ^ elemWidth f.t), 0) := by rw [execVmulh]
    have left : execVshl f s = vec2 s f none 2 fun x y => (x * 2 ^ (y % elemWidth f.t), 0) := by rw [execVshl]
    have right : execVshr f s = vec2 s f none 2 fun x y => (x / 2 ^ (y % elemWidth f.t), 0) := by rw [execVshr]
    have arith : execVsra f s = vec2 s f none 2 fun x y => (elemWrap f.t (signedOf (elemWidth f.t) x / 2 ^ (y % elemWidth f.t)), 0) := by rw [execVsra]
    refine ⟨add.trans (ints passes 2 (fun x y => elemInt f.t x + elemInt f.t y) fun x y => ?_),
      sub.trans (ints passes 2 (fun x y => elemInt f.t x - elemInt f.t y) fun x y => ?_),
      mul.trans (ints passes 3 (fun x y => elemInt f.t x * elemInt f.t y) fun x y => ?_), high.trans (elems2 rfl 3 _),
      least.trans (ints rfl 2 (fun x y => min (elemInt f.t x) (elemInt f.t y)) fun x y => (intMinMax_emod f.t x y).1),
      most.trans (ints rfl 2 (fun x y => max (elemInt f.t x) (elemInt f.t y)) fun x y => (intMinMax_emod f.t x y).2),
      left.trans (ints rfl 2 (fun x y => x * 2 ^ (y % elemWidth f.t)) fun x y => by push_cast; rfl),
      right.trans (ints rfl 2 (fun x y => (x / 2 ^ (y % elemWidth f.t) : Nat)) fun x y => rfl), arith.trans (elems2 rfl 2 _)⟩
    · rw [Int.natCast_add, Int.add_emod, ← elemInt_emod, ← elemInt_emod f.t y, ← Int.add_emod]
    · rw [elemWrap_cast, Int.emod_emod, Int.sub_emod, ← elemInt_emod, ← elemInt_emod f.t y, ← Int.sub_emod]
    · rw [Int.natCast_mul, Int.mul_emod, ← elemInt_emod, ← elemInt_emod f.t y, ← Int.mul_emod]
  · have passes := extTrap_zero f.t reserved
    have add : execVadd f s = vec2 s f (extTrap s f.t) 4 fun x y => fAdd (vfmt f.t) (extRnd s) x y := by
      simp only [execVadd, arithBound, float, Bool.false_eq_true, if_false]
    have sub : execVsub f s = vec2 s f (extTrap s f.t) 4 fun x y => fSub (vfmt f.t) (extRnd s) x y := by
      simp only [execVsub, arithBound, float, Bool.false_eq_true, if_false]
    have mul : execVmul f s = vec2 s f (extTrap s f.t) 4 fun x y => fMul (vfmt f.t) (extRnd s) x y := by
      simp only [execVmul, arithBound, float, Bool.false_eq_true, if_false]
    have least : execVmin f s = vec2 s f none 2 fun x y => fMinMax (vfmt f.t) false x y := by
      simp only [execVmin, float, Bool.false_eq_true, if_false]
    have most : execVmax f s = vec2 s f none 2 fun x y => fMinMax (vfmt f.t) true x y := by
      simp only [execVmax, float, Bool.false_eq_true, if_false]
    have fma : execVfma f s = vec3 s f fun x y z => fFma (vfmt f.t) (extRnd s) false x y z := by rw [execVfma]
    have fms : execVfms f s = vec3 s f fun x y z => fFma (vfmt f.t) (extRnd s) true x y z := by rw [execVfms]
    exact ⟨add.trans (elems2 passes 4 _), sub.trans (elems2 passes 4 _), mul.trans (elems2 passes 4 _), fma.trans (elems3 passes _), fms.trans (elems3 passes _),
      least.trans (elems2 rfl 2 _), most.trans (elems2 rfl 2 _)⟩

end Sys2Proof.Machine
end

section
/-! PROOFS. One-source operations, lane logic, compares, select, conversions and the correctly rounded functions (17 R412, R414-R421). -/

namespace Sys2Proof.Machine

/-- A level of the code books is a small integer (12 Table Formats.5). -/
theorem level_toInt (book : Bool) (n : Nat) :
    (BitVec.ofInt 32 ((if book then levelsL else levelsN).getD n 0)).toInt = (if book then levelsL else levelsN).getD n 0 := by
  have small : ∀ b : Bool, ∀ x ∈ (if b then levelsL else levelsN), -2 ^ 31 ≤ x ∧ x < 2 ^ 31 := by decide
  have fits : -2 ^ 31 ≤ (if book then levelsL else levelsN).getD n 0 ∧ (if book then levelsL else levelsN).getD n 0 < 2 ^ 31 := by
    rw [List.getD_eq_getElem?_getD]
    cases at_ : (if book then levelsL else levelsN)[n]? with
    | none => exact ⟨by decide, by decide⟩
    | some x => exact small book x (List.mem_of_getElem? at_)
  exact BitVec.toInt_ofInt_eq_self (by decide) fits.1 fits.2

section
variable {s : State} {c : BitVec 10} (agent : s.cur.agent = .prim c)
include agent

theorem vec1_elems {f : V1Form} (runs : executes s f.g = true) (op : Nat → Nat) : vec1 s f op = .next
    (writeElems s f.d f.m f.t (fun i h => (op (elemOf f.t (laneOf (readV s c f.a) i) h), 0)) 2) := by
  rw [vec1, runOp_next _ runs, me_prim agent]

theorem lane2_next {f : VForm} (runs : executes s f.g = true) (op : Half → Half → Half) : lane2 s f op = .next
    (writeLanes s f.d (fun i => (readM s c f.m).getLsbD i) (fun i => op (laneOf (readV s c f.a) i) (laneOf (readV s c f.b) i)) 2) := by
  rw [lane2, runOp_next _ runs, me_prim agent, activeOf_prim agent]

/-- A compare sets a bit of the mask where it holds for every element of an active lane (17 R414). -/
theorem vecCmp_mask {f : VCmpForm} (runs : executes s f.g = true) (op : Nat → Nat → Bool × BitVec 5) : ∃ (r : Word) (v : BitVec 5),
    vecCmp s f op = .next (raiseFlags (writeM s c f.n r 2) v 2) ∧ (∀ k < 64, r.getLsbD k = ((readM s c f.m).getLsbD k &&
      (List.range (elems f.t)).all fun h => (op (elemOf f.t (laneOf (readV s c f.a) k) h) (elemOf f.t (laneOf (readV s c f.b) k) h)).1)) ∧
    ((∀ x y, (op x y).2 = 0) → v = 0) := by
  rw [vecCmp, runOp_next _ runs, me_prim agent, activeOf_prim agent]
  refine ⟨_, _, rfl, fun k h => getLsbD_ofMask _ h, fun plain => orFlags_zero fun v mem => ?_⟩
  obtain ⟨i, -, of⟩ := List.mem_flatMap.mp mem
  obtain ⟨h, -, rfl⟩ := List.mem_map.mp of
  exact plain ..

/-- A compare without flags. -/
theorem vecCmp_plain {f : VCmpForm} (runs : executes s f.g = true) (op : Nat → Nat → Bool) : ∃ r : Word,
    vecCmp s f (fun x y => (op x y, 0)) = .next (writeM s c f.n r 2) ∧ ∀ k < 64, r.getLsbD k = ((readM s c f.m).getLsbD k &&
      (List.range (elems f.t)).all fun h => op (elemOf f.t (laneOf (readV s c f.a) k) h) (elemOf f.t (laneOf (readV s c f.b) k) h)) := by
  obtain ⟨r, v, eq, bits, plain⟩ := vecCmp_mask agent runs fun x y => (op x y, 0)
  rw [plain fun _ _ => rfl, raiseFlags_zero] at eq
  exact ⟨r, eq, bits⟩

theorem vecFn_next {f : VRndForm} (runs : executes s f.g = true) (op : Rnd → Nat → FRes2) : vecFn s f op = .next
    (writeElems s f.d f.m .f32 (fun i _ => op f.r (laneOf (readV s c f.a) i).toNat) 8) := by
  rw [vecFn, runOp_next _ runs, me_prim agent]

theorem execVcvt_next {f : VCvtForm} (runs : executes s f.g = true) : execVcvt f s = .next
    (writeElems s f.d f.m f.t (fun i h => convert f.s f.t f.r (elemOf f.s (laneOf (readV s c f.a) i) h)) 3) := by
  rw [execVcvt, runOp_next _ runs, me_prim agent]

theorem execVpack_next {f : VForm} (runs : executes s f.g = true) (passes : packTrap s f = none) : execVpack f s = .next
    (writeElems s f.d f.m (extType s) (fun i h => packElem f.t (extType s) ((vext s).getLsbD 2) (extRnd s)
      (if h < elems f.t then elemOf f.t (laneOf (readV s c f.a) i) h else elemOf f.t (laneOf (readV s c f.b) i) (h - elems f.t))) 3) := by
  rw [execVpack, runOp_none _ passes runs, me_prim agent]

theorem execVunpk_next {f : VUnpkForm} (runs : executes s f.g = true) : execVunpk f s = .next (writeElems
    (writeElems s f.d f.m f.u (fun i h => unpackElem f.t f.u (elemOf f.t (laneOf (readV s c f.a) i) (elems f.u * 0 + h))) 3) (f.d + 1) f.m f.u
    (fun i h => unpackElem f.t f.u (elemOf f.t (laneOf (readV s c f.a) i) (elems f.u * 1 + h))) 3) := by
  rw [execVunpk, runOp_next _ runs, me_prim agent]

theorem execVqdec_lanes {f : VQdecForm} (runs : executes s f.g = true) : WritesLanes s c f.d f.m 2
    (fun i => BitVec.ofInt 32 ((if f.book then levelsL else levelsN).getD (fieldOf (laneOf (readV s c f.a) (i / 8)) (4 * (i % 8)) 4) 0))
    (execVqdec f s) := by
  rw [execVqdec, runOp_next _ runs, me_prim agent]
  exact writesLanes_active agent ..

end

/-- Settles O38. -/
theorem vectorConversionsAndComparesComplete : Obligations.VectorConversionsAndComparesComplete := by
  intro s c agent
  refine ⟨fun f runs => ?_, fun f runs => ?_, fun f runs => ?_, fun f runs => execVcvt_next agent runs, fun f runs passes => execVpack_next agent runs passes,
    fun f runs _ => execVunpk_next agent runs, fun f runs => ?_, fun f runs => ?_⟩
  · have one := @vec1_elems s c agent f runs
    have not : execVnot f s = vec1 s f fun x => 2 ^ elemWidth f.t - 1 - x := by rw [execVnot]
    refine ⟨not.trans (one _), fun int => ?_, fun float => ?_⟩
    · have abs : execVabs f s = vec1 s f fun x => elemWrap f.t (elemInt f.t x).natAbs := by simp only [execVabs, int, if_true]
      have neg : execVneg f s = vec1 s f fun x => elemWrap f.t (-elemInt f.t x) := by simp only [execVneg, int, if_true]
      exact ⟨abs.trans (one _), neg.trans (one _)⟩
    · have abs : execVabs f s = vec1 s f (signOp f.t fun x => x % (vfmt f.t).signBit) := by
        simp only [execVabs, float, Bool.false_eq_true, if_false]
      have neg : execVneg f s = vec1 s f (signOp f.t fun x => x ^^^ (vfmt f.t).signBit) := by
        simp only [execVneg, float, Bool.false_eq_true, if_false]
      exact ⟨abs.trans (one _), neg.trans (one _)⟩
  · have two := @lane2_next s c agent f runs
    have and : execVand f s = lane2 s f fun x y => x &&& y := by rw [execVand]
    have or : execVor f s = lane2 s f fun x y => x ||| y := by rw [execVor]
    have xor : execVxor f s = lane2 s f fun x y => x ^^^ y := by rw [execVxor]
    exact ⟨and.trans (two _), or.trans (two _), xor.trans (two _), vsel_lanes agent runs⟩
  · have plain := @vecCmp_plain s c agent f runs
    have total : execVcmpx f s = vecCmp s f fun x y => (condInt f.cc (orderKey f.t x) (orderKey f.t y), 0) := by rw [execVcmpx]
    obtain ⟨order, ordered, bits⟩ := plain fun x y => condInt f.cc (orderKey f.t x) (orderKey f.t y)
    refine ⟨⟨order, total.trans ordered, bits⟩, fun int => ?_, fun float => ?_⟩
    · have cmp : execVcmp f s = vecCmp s f fun x y => (condInt f.cc (elemInt f.t x) (elemInt f.t y), 0) := by simp only [execVcmp, int, if_true]
      obtain ⟨r, eq, bits⟩ := plain fun x y => condInt f.cc (elemInt f.t x) (elemInt f.t y)
      exact ⟨r, cmp.trans eq, bits⟩
    · have cmp : execVcmp f s = vecCmp s f fun x y => fCmp (vfmt f.t) f.cc x y := by simp only [execVcmp, float, Bool.false_eq_true, if_false]
      obtain ⟨r, v, eq, bits, -⟩ := vecCmp_mask agent runs fun x y => fCmp (vfmt f.t) f.cc x y
      exact ⟨r, v, cmp.trans eq, bits⟩
  · obtain ⟨r, eq, lanes⟩ := execVqdec_lanes agent runs
    refine ⟨r, eq, fun i h active => ?_⟩
    rw [lanes i h, if_pos active, level_toInt]
  · have fn := @vecFn_next s c agent f runs
    have exp2 : execVexp2 f s = vecFn s f fExp2 := by rw [execVexp2]
    have log2 : execVlog2 f s = vecFn s f fLog2 := by rw [execVlog2]
    have rcp : execVrcp f s = vecFn s f fRcp := by rw [execVrcp]
    have rsq : execVrsq f s = vecFn s f fRsq := by rw [execVrsq]
    have sqrt : execVsqrt f s = vecFn s f fSqrt := by rw [execVsqrt]
    exact ⟨exp2.trans (fn _), log2.trans (fn _), rcp.trans (fn _), rsq.trans (fn _), sqrt.trans (fn _)⟩

end Sys2Proof.Machine
end

section
/-! SUPPORT. Reductions and scans over the lanes of a mask: prefixes under COMB, the winner of VARGMX and the lowest active lane
(17 R422-R424, R427). -/

namespace Sys2Proof.Machine

/-! ### Lanes and elements by their values below 64 and below the element count -/

theorem joinElems_congr_lt {t : VType} {f g : Nat → Nat} (same : ∀ h < elems t, f h = g h) : joinElems t f = joinElems t g := by
  have sums (n : Nat) (le : n ≤ elems t) : elemsFrom (elemWidth t) f n = elemsFrom (elemWidth t) g n := by
    induction n with
    | zero => rfl
    | succ n ih => rw [elemsFrom, elemsFrom, ih (Nat.le_of_succ_le le), same n le]
  rw [joinElems, joinElems, sums _ (Nat.le_refl _)]

theorem ofLanes_congr {f g : Nat → Half} (same : ∀ i < 64, f i = g i) : ofLanes f = ofLanes g := by
  have sums (n : Nat) (le : n ≤ 64) : lanesFrom f n = lanesFrom g n := by
    induction n with
    | zero => rfl
    | succ n ih => rw [lanesFrom, lanesFrom, ih (Nat.le_of_succ_le le), same n le]
  rw [ofLanes, ofLanes, sums 64 (Nat.le_refl _)]

theorem writeLanes_congr (s : State) (d : BitVec 5) (act : Nat → Bool) {f g : Nat → Half} (bound : Nat) (same : ∀ i < 64, f i = g i) :
    writeLanes s d act f bound = writeLanes s d act g bound := by
  have lanes : ofLanes (fun i => if act i then f i else laneOf (readV s s.me d) i) = ofLanes fun i => if act i then g i else laneOf (readV s s.me d) i :=
    ofLanes_congr fun i h => by rw [same i h]
  rw [writeLanes, lanes, writeLanes]

/-! ### Prefixes -/

theorem scanList_length (t : VType) (op : RedOp) (r : Rnd) (acc : Option Nat × BitVec 5) (l : List (Option Nat × BitVec 5)) :
    (scanList t op r acc l).length = l.length := by
  induction l generalizing acc with
  | nil => rfl
  | cons x l ih => rw [scanList, List.length_cons, ih, List.length_cons]

/-- Entry i of a scan is the run up to i. -/
theorem scanList_getD (t : VType) (op : RedOp) (r : Rnd) (acc d : Option Nat × BitVec 5) {l : List (Option Nat × BitVec 5)} {i : Nat} (h : i < l.length) :
    (scanList t op r acc l).getD i d = (l.take (i + 1)).foldl (comb t op r) acc := by
  induction l generalizing acc i with
  | nil => exact absurd h (Nat.not_lt_zero i)
  | cons x l ih =>
    rw [scanList, List.take_succ_cons, List.foldl_cons]
    cases i with
    | zero => rfl
    | succ i => exact ih _ (Nat.lt_of_succ_lt_succ h)

/-- One more integer of a run: a run of none is its first value. -/
def redNext (t : VType) (op : RedOp) (o : Option Nat) (y : Nat) : Option Nat :=
  match o with
  | none => some y
  | some x => some (redInt t op x y)

/-- On an integer type COMB sets no flag, and combines the values that are there. -/
theorem foldl_comb_int {t : VType} (int : intType t = true) (op : RedOp) (r : Rnd) (act : Nat → Bool) (e : Nat → Nat) (l : List Nat) (o : Option Nat) :
    (l.map fun i => ((if act i then some (e i) else none, 0) : Option Nat × BitVec 5)).foldl (comb t op r) (o, 0) =
      (((l.filter act).map e).foldl (redNext t op) o, 0) := by
  have there (o : Option Nat) (y : Nat) : comb t op r (o, 0) (some y, 0) = (redNext t op o y, 0) := by
    cases o with
    | none => simp [comb, redNext]
    | some x => simp [comb, redNext, int]
  have absent (o : Option Nat) : comb t op r (o, 0) (none, 0) = (o, 0) := by
    cases o <;> simp [comb]
  induction l generalizing o with
  | nil => rfl
  | cons i l ih =>
    rw [List.map_cons, List.foldl_cons]
    by_cases active : act i = true
    · rw [if_pos active, there, ih, List.filter_cons_of_pos active, List.map_cons, List.foldl_cons]
    · rw [if_neg active, absent, ih, List.filter_cons_of_neg active]

/-! ### The lowest active lane -/

theorem firstTrue_none {p : Nat → Bool} {l : List Nat} (unset : ∀ i ∈ l, p i = false) : firstTrue p l = none := by
  induction l with
  | nil => rfl
  | cons i l ih =>
    rw [firstTrue, unset i List.mem_cons_self]
    exact ih fun j h => unset j (List.mem_cons_of_mem _ h)

theorem firstTrue_range_some {p : Nat → Bool} {n k : Nat} (below : k < n) (at_ : p k = true) (least : ∀ i < k, p i = false) :
    firstTrue p (List.range n) = some k := by
  obtain ⟨j, eq, -, none, found⟩ := firstTrue_range p n
  have same : j = k := by
    rcases Nat.lt_trichotomy j k with lt | rfl | gt
    · exact absurd (found (by omega)) (by simp [least j lt])
    · rfl
    · exact absurd at_ (by simp [none k gt])
  subst same
  cases first : firstTrue p (List.range n) with
  | none => rw [first] at eq; simp only [Option.getD_none] at eq; omega
  | some i => rw [first] at eq; exact congrArg some eq

/-! ### The winner of VARGMX -/

/-- Whether an element wins: the largest, and the first of equals. -/
def Wins (t : VType) (l : List (Nat × Nat)) (e : Nat × Nat) : Prop :=
  ∀ y ∈ l, orderKey t y.2 ≤ orderKey t e.2 ∧ (orderKey t y.2 = orderKey t e.2 → e.1 ≤ y.1)

/-- The winner of a list in ascending order of the indices. -/
theorem argmax_wins {t : VType} {l : List (Nat × Nat)} (sorted : l.Pairwise fun a b => a.1 < b.1) (some_ : l ≠ []) :
    ∃ e ∈ l, argmax t l = some e ∧ Wins t l e := by
  induction l with
  | nil => exact absurd rfl some_
  | cons e l ih =>
    obtain ⟨first, sorted⟩ := List.pairwise_cons.mp sorted
    by_cases empty : l = []
    · subst empty
      refine ⟨e, List.mem_cons_self, rfl, fun y mem => ?_⟩
      rw [List.mem_singleton.mp mem]
      exact ⟨Int.le_refl _, fun _ => Nat.le_refl _⟩
    obtain ⟨k, mem, eq, wins⟩ := ih sorted empty
    by_cases more : orderKey t e.2 ≥ orderKey t k.2
    · refine ⟨e, List.mem_cons_self, by rw [argmax, eq]; exact if_pos more, fun y listed => ?_⟩
      rcases List.mem_cons.mp listed with rfl | later
      · exact ⟨Int.le_refl _, fun _ => Nat.le_refl _⟩
      · exact ⟨Int.le_trans (wins y later).1 more, fun _ => Nat.le_of_lt (first y later)⟩
    · refine ⟨k, List.mem_cons_of_mem _ mem, by rw [argmax, eq]; exact if_neg more, fun y listed => ?_⟩
      rcases List.mem_cons.mp listed with rfl | later
      · exact ⟨Int.le_of_lt (Int.not_le.mp more), fun same => absurd (Int.le_of_eq same.symm) more⟩
      · exact wins y later

/-- The elements of the active lanes with their indices, as VARGMX orders them. -/
def indexed (act : Nat → Bool) (n : Nat) (x : Nat → Nat → Nat) : List (Nat × Nat) :=
  ((List.range 64).filter act).flatMap fun i => (List.range n).map fun h => (n * i + h, x i h)

theorem mem_indexed {act : Nat → Bool} {n : Nat} {x : Nat → Nat → Nat} {e : Nat × Nat} :
    e ∈ indexed act n x ↔ ∃ i < 64, act i = true ∧ ∃ h < n, (n * i + h, x i h) = e := by
  simp [indexed, and_assoc]

theorem indexed_sorted (act : Nat → Bool) (n : Nat) (x : Nat → Nat → Nat) : (indexed act n x).Pairwise fun a b => a.1 < b.1 := by
  rw [indexed, List.pairwise_flatMap]
  constructor
  · intro i _
    rw [List.pairwise_map]
    exact List.pairwise_lt_range.imp fun h => Nat.add_lt_add_left h _
  · refine (List.pairwise_lt_range.filter _).imp fun {i j} less a ha b hb => ?_
    obtain ⟨h, below, rfl⟩ := List.mem_map.mp ha
    obtain ⟨k, -, rfl⟩ := List.mem_map.mp hb
    have := Nat.mul_le_mul_left n (Nat.succ_le_of_lt less)
    have := List.mem_range.mp below
    simp only [Nat.mul_succ] at *
    omega

end Sys2Proof.Machine
end

section
/-! PROOFS. Reductions, scans, lane moves, random numbers, indices and lane masks (17 R422-R431). -/

namespace Sys2Proof.Machine

section
variable {s : State} {c : BitVec 10} (agent : s.cur.agent = .prim c)
include agent

/-! ### Reductions and scans -/

omit agent in
theorem execVred_next {f : VRedForm} (runs : executes s f.g = true) : execVred f s = .next (raiseFlags
    (writeLanes s f.d (fun i => i = 0) (fun _ => joinElems f.t fun h => (redTree s f h).1.getD (redIdent f.t f.x)) 6)
    (orFlags ((List.range (elems f.t)).map fun h => (redTree s f h).2)) 6) := by
  rw [execVred, runOp_next _ runs]

omit agent in
theorem next_raiseFlags_congr {t u : State} {v w : BitVec 5} (writes : t = u) (flags : v = w) :
    (.next (raiseFlags t v 6) : Host.Outcome State Fault Refusal) = .next (raiseFlags u w 6) := by rw [writes, flags]

/-- The run up to lane i at position h. -/
def prefixOf (s : State) (f : VRedForm) (h i : Nat) : Option Nat × BitVec 5 := ((redInput s f h).take (i + 1)).foldl (comb f.t f.x f.r) (none, 0)

omit agent in
theorem redInput_length (f : VRedForm) (h : Nat) : (redInput s f h).length = 64 := by
  rw [redInput, List.length_map, List.length_range]

theorem execVscan_next {f : VRedForm} (runs : executes s f.g = true) : execVscan f s = .next (raiseFlags
    (writeLanes s f.d (fun i => (readM s c f.m).getLsbD i) (fun i => joinElems f.t fun h => (prefixOf s f h i).1.getD 0) 6)
    (orFlags ((List.range (elems f.t)).map fun h => (prefixOf s f h 63).2)) 6) := by
  have at_ (h : Nat) {i : Nat} (lane : i < 64) : (scanList f.t f.x f.r (none, 0) (redInput s f h)).getD i (none, 0) = prefixOf s f h i :=
    scanList_getD _ _ _ _ _ (redInput_length f h ▸ lane)
  have last (h : Nat) : (scanList f.t f.x f.r (none, 0) (redInput s f h)).getLastD (none, 0) = prefixOf s f h 63 := by
    rw [← at_ h (by decide : 63 < 64), List.getLastD_eq_getLast?, List.getLast?_eq_getElem?, scanList_length, redInput_length,
      List.getD_eq_getElem?_getD]
  have column {h : Nat} (elem : h < elems f.t) :
      ((List.range (elems f.t)).map fun h => scanList f.t f.x f.r (none, 0) (redInput s f h)).getD h [] =
        scanList f.t f.x f.r (none, 0) (redInput s f h) := by
    rw [List.getD_eq_getElem?_getD, List.getElem?_map, List.getElem?_range elem, Option.map_some, Option.getD_some]
  rw [execVscan, runOp_next _ runs, activeOf_prim agent]
  dsimp only
  rw [List.map_map]
  exact next_raiseFlags_congr
    (writeLanes_congr s f.d _ 6 fun i lane => joinElems_congr_lt fun h elem => by
      rw [column elem, at_ h lane])
    (congrArg orFlags (List.map_congr_left fun h _ => congrArg Prod.snd (last h)))

/-- On an integer type a run combines the values of the active lanes, and sets no flag. -/
theorem prefixOf_int {f : VRedForm} (int : intType f.t = true) (h : Nat) {i : Nat} (lane : i < 64) : prefixOf s f h i =
    ((((List.range (i + 1)).filter fun k => (readM s c f.m).getLsbD k).map fun k => elemOf f.t (laneOf (readV s c f.a) k) h).foldl
      (redNext f.t f.x) none, 0) := by
  rw [prefixOf, redInput, ← List.map_take, List.take_range, Nat.min_eq_left lane, activeOf_prim agent, me_prim agent]
  exact foldl_comb_int int f.x f.r (fun k => (readM s c f.m).getLsbD k) (fun k => elemOf f.t (laneOf (readV s c f.a) k) h) (List.range (i + 1)) none

theorem execVscan_int {f : VRedForm} (runs : executes s f.g = true) (int : intType f.t = true) : execVscan f s = .next
    (writeLanes s f.d (fun i => (readM s c f.m).getLsbD i) (fun i => joinElems f.t fun h =>
      ((((List.range (i + 1)).filter fun k => (readM s c f.m).getLsbD k).map fun k => elemOf f.t (laneOf (readV s c f.a) k) h).foldl
        (redNext f.t f.x) none).getD 0) 6) := by
  have plain : orFlags ((List.range (elems f.t)).map fun h => (prefixOf s f h 63).2) = 0 := orFlags_zero fun v mem => by
    obtain ⟨h, -, rfl⟩ := List.mem_map.mp mem
    rw [prefixOf_int agent int h (by decide : 63 < 64)]
  rw [execVscan_next agent runs, plain, raiseFlags_zero]
  exact congrArg _ (writeLanes_congr s f.d _ 6 fun i lane => congrArg (joinElems f.t) (funext fun h => by rw [prefixOf_int agent int h lane]))

/-! ### VARGMX -/

/-- The elements that VARGMX compares. -/
def comparedElems (s : State) (c : BitVec 10) (f : V1Form) : List (Nat × Nat) :=
  indexed (fun i => (readM s c f.m).getLsbD i) (elems f.t) fun i h => elemOf f.t (laneOf (readV s c f.a) i) h

omit agent in
theorem mem_comparedElems {f : V1Form} {e : Nat × Nat} : e ∈ comparedElems s c f ↔ ∃ i < 64, (readM s c f.m).getLsbD i = true ∧
    ∃ h < elems f.t, (elems f.t * i + h, elemOf f.t (laneOf (readV s c f.a) i) h) = e := mem_indexed

omit agent in
/-- There is a winner among the elements, if there are any. -/
theorem exists_winner {f : V1Form} {e : Nat × Nat} (listed : e ∈ comparedElems s c f) :
    ∃ e ∈ comparedElems s c f, argmax f.t (comparedElems s c f) = some e ∧ Wins f.t (comparedElems s c f) e :=
  argmax_wins (indexed_sorted ..) (List.ne_nil_of_mem listed)

omit agent in
theorem comparedElems_empty {f : V1Form} (empty : readM s c f.m = 0) : comparedElems s c f = [] := by
  refine List.eq_nil_iff_forall_not_mem.mpr fun e mem => ?_
  obtain ⟨i, -, active, -⟩ := mem_comparedElems.mp mem
  rw [empty] at active
  exact absurd active (by simp)

theorem execVargmx_none {f : V1Form} (runs : executes s f.g = true) (empty : argmax f.t (comparedElems s c f) = none) : execVargmx f s = .next
    (writeLanes s f.d (fun k => k < 2) (fun k => if k = 0 then BitVec.allOnes 32 else 0) 6) := by
  rw [comparedElems, indexed] at empty
  rw [execVargmx, runOp_next _ runs, activeOf_prim agent, me_prim agent]
  dsimp only
  rw [empty]

theorem execVargmx_some {f : V1Form} (runs : executes s f.g = true) {i x : Nat} (winner : argmax f.t (comparedElems s c f) = some (i, x)) :
    execVargmx f s = .next
      (writeLanes s f.d (fun k => k < 2) (fun k => if k = 0 then BitVec.ofNat 32 i else BitVec.ofNat 32 x) 6) := by
  rw [comparedElems, indexed] at winner
  rw [execVargmx, runOp_next _ runs, activeOf_prim agent, me_prim agent]
  dsimp only
  rw [winner]

/-- The best element of the active lanes is the only one that wins. -/
theorem execVargmx_best {f : V1Form} (runs : executes s f.g = true) {k h : Nat} (lane : k < 64) (elem : h < elems f.t)
    (active : (readM s c f.m).getLsbD k = true)
    (wins : Wins f.t (comparedElems s c f) (elems f.t * k + h, elemOf f.t (laneOf (readV s c f.a) k) h)) : execVargmx f s = .next
    (writeLanes s f.d (fun i => i < 2)
      (fun i => if i = 0 then BitVec.ofNat 32 (elems f.t * k + h) else BitVec.ofNat 32 (elemOf f.t (laneOf (readV s c f.a) k) h)) 6) := by
  have listed : (elems f.t * k + h, elemOf f.t (laneOf (readV s c f.a) k) h) ∈ comparedElems s c f := mem_comparedElems.mpr ⟨k, lane, active, h, elem, rfl⟩
  obtain ⟨e, mem, eq, first⟩ := exists_winner listed
  obtain ⟨i, -, -, j, below, rfl⟩ := mem_comparedElems.mp mem
  have keys := Int.le_antisymm (wins _ mem).1 (first _ listed).1
  have index : elems f.t * k + h = elems f.t * i + j := Nat.le_antisymm ((wins _ mem).2 keys) ((first _ listed).2 keys.symm)
  have lanes : k = i := by
    have := congrArg (· / elems f.t) index
    simpa [Nat.mul_add_div (Nat.zero_lt_of_lt elem), Nat.div_eq_of_lt elem, Nat.div_eq_of_lt below] using this
  subst lanes
  obtain rfl : h = j := Nat.add_left_cancel index
  exact execVargmx_some agent runs eq

omit agent in
/-- A mask that is not empty has a best element. -/
theorem exists_wins {f : V1Form} (some_ : readM s c f.m ≠ 0) : ∃ k < 64, ∃ h < elems f.t, (readM s c f.m).getLsbD k = true ∧
    Wins f.t (comparedElems s c f) (elems f.t * k + h, elemOf f.t (laneOf (readV s c f.a) k) h) := by
  have elem : 0 < elems f.t := by cases f.t <;> decide
  obtain ⟨k, lane, active⟩ : ∃ k < 64, (readM s c f.m).getLsbD k = true := by
    refine Classical.byContradiction fun unset => some_ (BitVec.eq_of_getLsbD_eq fun i h => ?_)
    exact (Bool.eq_false_iff.mpr fun set_ => unset ⟨i, h, set_⟩).trans BitVec.getLsbD_zero.symm
  have listed := mem_comparedElems.mpr ⟨k, lane, active, 0, elem, rfl⟩
  obtain ⟨e, mem, -, wins⟩ := exists_winner listed
  obtain ⟨i, inside, set_, j, below, rfl⟩ := mem_comparedElems.mp mem
  exact ⟨i, inside, j, below, set_, wins⟩

end

theorem wins_comparedElems {s : State} {c : BitVec 10} {f : V1Form} {k h : Nat} :
    Wins f.t (comparedElems s c f) (elems f.t * k + h, elemOf f.t (laneOf (readV s c f.a) k) h) ↔
      ∀ i < 64, (readM s c f.m).getLsbD i = true → ∀ j < elems f.t,
        orderKey f.t (elemOf f.t (laneOf (readV s c f.a) i) j) ≤ orderKey f.t (elemOf f.t (laneOf (readV s c f.a) k) h) ∧
        (orderKey f.t (elemOf f.t (laneOf (readV s c f.a) i) j) = orderKey f.t (elemOf f.t (laneOf (readV s c f.a) k) h) →
          elems f.t * k + h ≤ elems f.t * i + j) := by
  constructor
  · intro wins i lane active j elem
    have most := wins _ (mem_comparedElems.mpr ⟨i, lane, active, j, elem, rfl⟩)
    exact most
  · intro best e mem
    obtain ⟨i, lane, active, j, elem, rfl⟩ := mem_comparedElems.mp mem
    exact best i lane active j elem

/-! ### Moving lanes, scalars and masks -/

section
variable {s : State} {c : BitVec 10} (agent : s.cur.agent = .prim c)
include agent

theorem execVperm_next {f : VForm} (runs : executes s f.g = true) : execVperm f s = .next
    (writeLanes s f.d (fun i => (readM s c f.m).getLsbD i) (fun i => laneOf (readV s c f.a) ((laneOf (readV s c f.b) i).toNat % 64)) 3) := by
  have low (x : Half) : fieldOf x 0 6 = x.toNat % 64 := by rw [fieldOf_zero, BitVec.toNat_setWidth]
  simp only [execVperm, low]
  rw [runOp_next _ runs, me_prim agent, activeOf_prim agent]

theorem execVrand_next {f : VForm} (runs : executes s f.g = true) : execVrand f s = .next
    (writeLanes s f.d (fun i => (readM s c f.m).getLsbD i) (fun i => zeluaMix (lowPair (readV s c f.a)) (lowPair (readV s c f.b)) i) 4) := by
  rw [execVrand, runOp_next _ runs, me_prim agent, activeOf_prim agent]

theorem execVshuf_next {f : VPatForm} (runs : executes s f.g = true) : execVshuf f s = .next
    (writeLanes s f.d (fun i => (readM s c f.m).getLsbD i) (shufflePat (readV s c f.a) f.c.toNat) 3) := by
  rw [execVshuf, runOp_next _ runs, me_prim agent, activeOf_prim agent]

theorem execVcx_next {f : VPatForm} (runs : executes s f.g = true) : execVcx f s = .next
    (writeLanes s f.d (fun _ => true) (fun l => joinElems f.t fun h =>
      cxElem f.t (readV s c f.a) (fun i => (readM s c f.m).getLsbD i) (fieldOf f.c 0 3) (f.c.getLsbD 3) l h) 2) := by
  rw [execVcx, runOp_next _ runs, me_prim agent, activeOf_prim agent]

theorem execViota_next {f : VIotaForm} (runs : executes s f.g = true) : execViota f s = .next
    (writeLanes s f.d (fun i => (readM s c f.m).getLsbD i)
      (fun i => BitVec.ofNat 32 ((List.range i).filter fun k => (readM s c f.m).getLsbD k).length) 2) := by
  simp only [execViota, countTrue_eq]
  rw [runOp_next _ runs, activeOf_prim agent]

theorem execVbc_next {f : VScalForm} (runs : executes s f.g = true) : execVbc f s = .next
    (writeLanes s f.d (fun i => (readM s c f.m).getLsbD i) (fun _ => splat f.t (readPrimS s c f.s)) 2) := by
  rw [execVbc, runOp_next _ runs, me_prim agent, activeOf_prim agent]

theorem lowestActive_none {m : BitVec 3} (empty : readM s c m = 0) : lowestActive s m = none := by
  rw [lowestActive, activeOf_prim agent, empty]
  exact firstTrue_none fun i _ => BitVec.getLsbD_zero

theorem lowestActive_some {m : BitVec 3} {k : Nat} (lane : k < 64) (active : (readM s c m).getLsbD k = true)
    (least : ∀ i < k, (readM s c m).getLsbD i = false) : lowestActive s m = some k := by
  rw [lowestActive, activeOf_prim agent]
  exact firstTrue_range_some lane active least

omit agent in
theorem execVins_none {f : VScalForm} (runs : executes s f.g = true) (none : lowestActive s f.m = none) : execVins f s = .next s := by
  rw [execVins, runOp_next _ runs, none]

theorem execVins_some {f : VScalForm} (runs : executes s f.g = true) {k : Nat} (lowest : lowestActive s f.m = some k) : execVins f s = .next
    (writeLanes s f.d (fun i => i = k) (fun _ => splat f.t (readPrimS s c f.s)) 2) := by
  rw [execVins, runOp_next _ runs, lowest, me_prim agent]

theorem execVext_none {f : VExtForm} (runs : executes s f.g = true) (none : lowestActive s f.m = none) :
    execVext f s = .next (writePrimS s c f.s 0 2) := by
  rw [execVext, runOp_next _ runs, none, me_prim agent]

theorem execVext_some {f : VExtForm} (runs : executes s f.g = true) {k : Nat} (lowest : lowestActive s f.m = some k) : execVext f s = .next
    (writePrimS s c f.s (if f.t = .i32 then (laneOf (readV s c f.a) k).signExtend 64 else (laneOf (readV s c f.a) k).setWidth 64) 2) := by
  rw [execVext, runOp_next _ runs, lowest, me_prim agent]

theorem maskOps_next {f : MaskForm} (runs : executes s f.g = true) :
    execMand f s = .next (writeM s c f.d (readM s c f.a &&& readM s c f.b) 2) ∧
    execMor f s = .next (writeM s c f.d (readM s c f.a ||| readM s c f.b) 2) ∧
    execMxor f s = .next (writeM s c f.d (readM s c f.a ^^^ readM s c f.b) 2) := by
  rw [execMand, execMor, execMxor, runOp_next _ runs, runOp_next _ runs, runOp_next _ runs, me_prim agent]
  exact ⟨rfl, rfl, rfl⟩

theorem execMnot_next {f : MaskUnForm} (runs : executes s f.g = true) : execMnot f s = .next (writeM s c f.d (~~~ readM s c f.a) 2) := by
  rw [execMnot, runOp_next _ runs, me_prim agent]

theorem execMpop_next {f : MaskOutForm} (runs : executes s f.g = true) : execMpop f s = .next
    (writePrimS s c f.s (BitVec.ofNat 64 ((List.range 64).filter fun i => (readM s c f.a).getLsbD i).length) 2) := by
  rw [execMpop, runOp_next _ runs, me_prim agent, popcount, countTrue_eq]

theorem execMfirst_next {f : MaskOutForm} (runs : executes s f.g = true) : ∃ n,
    execMfirst f s = .next (writePrimS s c f.s (BitVec.ofNat 64 n) 2) ∧ n ≤ 64 ∧
      (∀ i < n, (readM s c f.a).getLsbD i = false) ∧ (n < 64 → (readM s c f.a).getLsbD n = true) := by
  obtain ⟨n, eq, le, below, at_⟩ := firstTrue_range (fun i => (readM s c f.a).getLsbD i) 64
  exact ⟨n, by rw [execMfirst, runOp_next _ runs, me_prim agent, trailingZeros, eq], le, below, at_⟩

theorem execMtos_next {f : MaskOutForm} (runs : executes s f.g = true) : execMtos f s = .next (writePrimS s c f.s (readM s c f.a) 2) := by
  rw [execMtos, runOp_next _ runs, me_prim agent]

theorem execMfrom_next {f : MaskInForm} (runs : executes s f.g = true) : execMfrom f s = .next (writeM s c f.d (readPrimS s c f.s) 2) := by
  rw [execMfrom, runOp_next _ runs, me_prim agent]

end

/-- Settles O39. -/
theorem vectorMovesAndReductionsComplete : Obligations.VectorMovesAndReductionsComplete := by
  intro s c agent
  refine ⟨fun f runs => ⟨execVred_next runs, fun int => ?_, execVscan_next agent runs⟩, fun f runs => ⟨fun empty => ?_, fun k lane h elem best => ?_,
      fun some_ => ?_⟩,
    fun f runs => ⟨execVperm_next agent runs, execVrand_next agent runs⟩, fun f runs => ⟨execVshuf_next agent runs, execVcx_next agent runs⟩,
    fun f runs => ⟨execVbc_next agent runs, fun empty => execVins_none runs (lowestActive_none agent empty),
      fun k lane active least => execVins_some agent runs (lowestActive_some agent lane active least)⟩,
    fun f runs => ⟨fun empty => execVext_none agent runs (lowestActive_none agent empty),
      fun k lane active least => execVext_some agent runs (lowestActive_some agent lane active least)⟩,
    fun f runs => execViota_next agent runs, fun f runs => maskOps_next agent runs, fun f runs => execMnot_next agent runs,
    fun f runs => ⟨execMpop_next agent runs, execMfirst_next agent runs, execMtos_next agent runs⟩, fun f runs => execMfrom_next agent runs⟩
  · exact execVscan_int agent runs int
  · exact execVargmx_none agent runs (by rw [comparedElems_empty empty, argmax])
  · obtain ⟨active, most⟩ := best
    exact execVargmx_best agent runs lane elem active (wins_comparedElems.mpr most)
  · obtain ⟨k, lane, h, elem, active, wins⟩ := exists_wins some_
    exact ⟨k, lane, h, elem, active, wins_comparedElems.mp wins⟩

end Sys2Proof.Machine
end

section
/-! PROOFS. Words written out from the layouts (14 Tables Enc.6 to Enc.20). -/

namespace Sys2Proof.Machine

/-- Settles O56: every word is closed, so that its decoding is evaluated. -/
theorem specWordsDecode : Obligations.SpecWordsDecode :=
  ⟨by decide, by decide, by decide, by decide, by decide, by decide, by decide⟩

end Sys2Proof.Machine
end

section
/-! PROOFS. The X class (18 R439-R445; 11 R287): a beat, an MSCL and an array image on their way to their banks, MCLR and MSWAP. -/

namespace Sys2Proof.Machine

/-! ### Tables whose keys are moved -/

theorem tabGet_absent {α : Type} {d : α} {t : Tab α} {n : Nat} (absent : ∀ e ∈ t, e.1 ≠ n) : tabGet d t n = d := by
  induction t with
  | nil => rfl
  | cons e t ih =>
    obtain ⟨k, v⟩ := e
    rw [tabGet, if_neg (absent (k, v) List.mem_cons_self)]
    exact ih fun f mem => absent f (List.mem_cons_of_mem _ mem)

theorem tabGet_append_left {α : Type} {d : α} (t : Tab α) {u : Tab α} {n : Nat} (absent : ∀ e ∈ u, e.1 ≠ n) : tabGet d (t ++ u) n = tabGet d t n := by
  induction t with
  | nil => exact tabGet_absent absent
  | cons e t ih => rw [List.cons_append, tabGet, tabGet, ih]

theorem tabGet_append_right {α : Type} {d : α} {t : Tab α} (u : Tab α) {n : Nat} (absent : ∀ e ∈ t, e.1 ≠ n) : tabGet d (t ++ u) n = tabGet d u n := by
  induction t with
  | nil => rfl
  | cons e t ih =>
    obtain ⟨k, v⟩ := e
    rw [List.cons_append, tabGet, if_neg (absent (k, v) List.mem_cons_self)]
    exact ih fun f mem => absent f (List.mem_cons_of_mem _ mem)

/-- Entries of a part of a table, each under a key that stands for its own. -/
theorem tabGet_moved {α : Type} {d : α} (t : Tab α) {p : Nat → Bool} {g : Nat → Nat} {m n : Nat} (kept : p m = true)
    (moves : ∀ k, p k = true → (g k = n ↔ k = m)) : tabGet d ((t.filter fun e => p e.1).map fun e => (g e.1, e.2)) n = tabGet d t m := by
  induction t with
  | nil => rfl
  | cons e t ih =>
    obtain ⟨k, v⟩ := e
    by_cases keep : p k = true
    · simp only [List.filter_cons, keep, if_true, List.map_cons, tabGet, ih, moves k keep]
    · have other : k ≠ m := fun same => keep (same ▸ kept)
      simp only [List.filter_cons, keep, Bool.false_eq_true, if_false, tabGet, ih, other]

/-- The halves of a table of 2 n entries change places. -/
theorem tabGet_swapTab {α : Type} {d : α} {t : Tab α} {n i : Nat} (fits : ∀ e ∈ t, e.1 < 2 * n) (below : i < n) :
    tabGet d (swapTab n t) i = tabGet d t (n + i) ∧ tabGet d (swapTab n t) (n + i) = tabGet d t i := by
  constructor
  · rw [swapTab, tabGet_append_left]
    · exact tabGet_moved t (p := fun k => n ≤ k) (g := (· - n)) (by simp) fun k h => by have := of_decide_eq_true h; omega
    · intro e mem
      obtain ⟨f, -, rfl⟩ := List.mem_map.mp mem
      exact Nat.ne_of_gt (by omega)
  · rw [swapTab, tabGet_append_right]
    · exact tabGet_moved t (p := fun k => k < n) (g := (· + n)) (by simpa using below) fun k h => by omega
    · intro e mem
      obtain ⟨f, listed, rfl⟩ := List.mem_map.mp mem
      have := fits f (List.mem_filter.mp listed).1
      exact Nat.ne_of_lt (by omega)

/-! ### A descriptor's advance -/

@[simp] theorem advance_mem (s : State) (x : XSrc) : (advance s x).mem = s.mem := by
  cases x with
  | desc n => rw [advance]; split <;> simp
  | none | vec | keep => rfl

@[simp] theorem advance_cur (s : State) (x : XSrc) : (advance s x).cur = s.cur := by
  cases x with
  | desc n => rw [advance]; split <;> simp
  | none | vec | keep => rfl

/-- An advance starts a result on its way. -/
theorem advance_core {s : State} {c : BitVec 10} (agent : s.cur.agent = .prim c) (x : XSrc) :
    ∃ l, (advance s x).core c = { s.core c with pend := (s.core c).pend ++ l } := by
  have same : s.core c = { s.core c with pend := (s.core c).pend ++ [] } := by rw [List.append_nil]
  cases x with
  | desc n =>
    rw [advance, me_prim agent, writePrimS, addPend]
    dsimp only
    split
    · split
      · exact ⟨[], same⟩
      · exact ⟨_, core_mapCore_same ..⟩
    · exact ⟨[], same⟩
  | none | vec | keep => exact ⟨[], same⟩

/-! ### Array images -/

theorem imageCycles_eq (parts : BitVec 6) : imageCycles parts = 64 * ((if parts.getLsbD 4 then 1 else 0) + if parts.getLsbD 5 then 1 else 0) +
    ((List.range 4).filter fun i => parts.getLsbD i).length := by
  have banks : popcount (parts.extractLsb' 4 2) = (if parts.getLsbD 4 then 1 else 0) + if parts.getLsbD 5 then 1 else 0 := by
    simp [popcount, countTrue]
  have edges : popcount (parts.extractLsb' 0 4) = ((List.range 4).filter fun i => parts.getLsbD i).length := by
    rw [popcount, countTrue_eq]
    exact congrArg List.length (List.filter_congr fun i mem => by
      rw [BitVec.getLsbD_extractLsb', decide_eq_true (List.mem_range.mp mem), Bool.true_and, Nat.zero_add])
  rw [imageCycles, banks, edges]

section
variable {s : State} {c : BitVec 10} (agent : s.cur.agent = .prim c)
include agent

theorem image_next (f : ImgForm) (op : AccOp) :
    (issueAccess s (newAccess s op 1 1 (readPrimS s s.me f.dest) (imagePieces s f))).mapCore s.me (fun k => { k with serviceLeft := imageCycles f.parts }) =
      s.mapCore c fun k => { k with accs := k.accs ++ [newAccess s op 1 1 (readPrimS s c f.dest) (imagePieces s f)], serviceLeft := imageCycles f.parts } := by
  rw [issueAccess_prim agent, me_prim agent, mapCore_mapCore _ _ _ _ (accs_append_ne_reset _ _)]

theorem execMclr_next {f : ClrForm} (runs : executes s f.g = true) : reaches (execMclr f s) fun t => t.mem = s.mem ∧
    ∀ i, tabGet 0 (t.core c).acc i = if i / 4096 = (if f.bank then 1 else 0) then 0 else tabGet 0 (s.core c).acc i := by
  rw [execMclr, runOp_next _ runs, me_prim agent]
  refine ⟨_, rfl, rfl, fun i => ?_⟩
  rw [core_mapCore_same]
  simp

theorem execMswap_next {f : SwapForm} (runs : executes s f.g = true) (fits : ∀ e ∈ (s.core c).acc, e.1 < 8192) : reaches (execMswap f s) fun t =>
    t.mem = s.mem ∧ ∀ i < 4096, tabGet 0 (t.core c).acc i = tabGet 0 (s.core c).acc (4096 + i) ∧
      tabGet 0 (t.core c).acc (4096 + i) = tabGet 0 (s.core c).acc i := by
  rw [execMswap, runOp_next _ runs, me_prim agent]
  refine ⟨_, rfl, rfl, fun i below => ?_⟩
  rw [core_mapCore_same]
  exact tabGet_swapTab fits below

theorem accs_advance (x : XSrc) : ((advance s x).core c).accs = (s.core c).accs := by
  obtain ⟨l, core⟩ := advance_core agent x
  rw [core]

theorem pendFmt_advance (x : XSrc) : ((advance s x).core c).pendFmt = (s.core c).pendFmt := by
  obtain ⟨l, core⟩ := advance_core agent x
  rw [core]

theorem execMscl_next {f : SclForm} (runs : executes s f.g = true) (passes : msclTrap s f = none) : reaches (execMscl f s) fun t => ∃ a : Access,
    (t.core c).accs = (s.core c).accs ++ [a] ∧ a.op = .scl f (srcEdge s f.a) (srcEdge s f.b) ∧ t.mem = s.mem := by
  rw [execMscl, runOp_none _ passes runs]
  exact ⟨_, rfl, _, (accs_advance (s := issueAccess s _) agent _).trans (accs_issueAccess agent _), rfl, advance_mem ..⟩

end

/-! ### Beats -/

/-- The source whose rows a beat reads from a scratchpad, if it reads any. -/
def beatSource (f : BeatForm) : XSrc := if f.pushA && isDesc f.a then f.a else if f.pushB then f.b else .none

/-- The format word of a beat. -/
def beatFmt (s : State) (f : BeatForm) : Half :=
  if resolves f then (match resolveFmt s f with
    | .ok w => w
    | .error _ => 0) else 0

/-- The access of a beat. -/
def beatAccess (s : State) (f : BeatForm) : Access :=
  { newAccess s (.beat f (beatFmt s f) (if f.sparse then beatMeta s else 0) (srcEdge s f.a) (srcEdge s f.b) (beatMpc s f)) 1 6 (srcBase s (beatSource f)).1
      (if srcRemote s (beatSource f) then [] else srcPieces s (beatSource f)) with
    data2 := (srcBase s (beatSource f)).2 ||| (if srcRemote s (beatSource f) then 1 <<< 63 else 0)
    data := if f.drain && f.dkind then (readPrimS s s.me f.dest).setWidth 2048 else 0
    dest := if f.drain && !f.dkind then some (.v (f.dest.setWidth 5)) else none }

/-- The amount by which a remote push shifts its edge. -/
def pushShift (s : State) (f : BeatForm) : Nat :=
  if (if !(f.pushA && isDesc f.a) then f.shB else f.shA) then
    (if !(f.pushA && isDesc f.a) then (shiftAmount f (beatFmt s f)).2 else (shiftAmount f (beatFmt s f)).1)
  else 0

/-- A beat with the push of its remote source on their way. -/
def beatIssued (s : State) (f : BeatForm) : State :=
  if srcRemote s (beatSource f) then
    sendPush (issueAccess s (beatAccess s f)) { beatAccess s f with data2 := (srcBase s (beatSource f)).2 } (!(f.pushA && isDesc f.a)) (pushShift s f)
      (srcPieces s (beatSource f))
  else issueAccess s (beatAccess s f)

theorem execMbeat_next {s : State} {f : BeatForm} (runs : executes s f.g = true) (passes : mbeatTrap s f = none) : execMbeat f s = .next
    (if f.oneshot then (advance (beatIssued s f) (beatSource f)).mapCore (advance (beatIssued s f) (beatSource f)).me fun k => { k with pendFmt := none }
     else advance (beatIssued s f) (beatSource f)) := by
  rw [execMbeat, runOp_none _ passes runs]
  rfl

section
variable {s : State} {c : BitVec 10} (agent : s.cur.agent = .prim c)
include agent

theorem sendPush_prim (a : Access) (b : Bool) (n : Nat) (ps : List Piece) : (sendPush s a b n ps).mem = s.mem ∧ (sendPush s a b n ps).cur = s.cur ∧
    (∃ p : Access, ((sendPush s a b n ps).core c).accs = (s.core c).accs ++ [p] ∧ p.op = (if b then .pushB n else .pushA n) ∧ p.left = 4 ∧ p.pieces = ps) ∧
    ((sendPush s a b n ps).core c).pendFmt = (s.core c).pendFmt := by
  refine ⟨rfl, rfl, ?_⟩
  rw [sendPush, me_prim agent, core_mapCore_same, issueAccess_prim agent, core_mapCore_same]
  cases b with
  | false => exact ⟨⟨_, rfl, rfl, rfl, rfl⟩, rfl⟩
  | true => exact ⟨⟨_, rfl, rfl, rfl, rfl⟩, rfl⟩

/-- The accesses that a beat puts on its way: its own, and the push of a remote source. -/
theorem beatIssued_accs (f : BeatForm) : ∃ l, ((beatIssued s f).core c).accs = (s.core c).accs ++ beatAccess s f :: l ∧
    (srcRemote s (beatSource f) = false → l = [] ∧ (beatAccess s f).pieces = srcPieces s (beatSource f)) ∧
    (srcRemote s (beatSource f) = true → ∃ p n, l = [p] ∧ p.op = (if f.pushA && isDesc f.a then .pushA n else .pushB n) ∧ p.left = 4 ∧
      p.pieces = srcPieces s (beatSource f)) := by
  have own := accs_issueAccess agent (beatAccess s f)
  rw [beatIssued]
  cases remote : srcRemote s (beatSource f) with
  | false =>
    refine ⟨[], own, fun _ => ⟨rfl, ?_⟩, nofun⟩
    simp only [beatAccess, newAccess, remote, Bool.false_eq_true, if_false]
  | true =>
    rw [if_pos rfl]
    obtain ⟨-, -, ⟨p, accs, op, left, pieces⟩, -⟩ := sendPush_prim (s := issueAccess s (beatAccess s f)) agent { beatAccess s f with data2 := (srcBase s (beatSource f)).2 }
      (!(f.pushA && isDesc f.a)) (pushShift s f) (srcPieces s (beatSource f))
    rw [own, List.append_assoc] at accs
    refine ⟨[p], accs, nofun, fun _ => ⟨p, pushShift s f, rfl, op.trans ?_, left, pieces⟩⟩
    cases f.pushA && isDesc f.a with
    | false => rfl
    | true => rfl

/-- A beat's accesses leave the memory and the one-shot format alone. -/
theorem beatIssued_keeps (f : BeatForm) : (beatIssued s f).mem = s.mem ∧ (beatIssued s f).cur = s.cur ∧
    ((beatIssued s f).core c).pendFmt = (s.core c).pendFmt := by
  have own : ((issueAccess s (beatAccess s f)).core c).pendFmt = (s.core c).pendFmt := by rw [issueAccess_prim agent, core_mapCore_same]
  rw [beatIssued]
  split
  · obtain ⟨mem, cur, -, fmt⟩ := sendPush_prim (s := issueAccess s (beatAccess s f)) agent { beatAccess s f with data2 := (srcBase s (beatSource f)).2 }
      (!(f.pushA && isDesc f.a)) (pushShift s f) (srcPieces s (beatSource f))
    exact ⟨mem, cur, fmt.trans own⟩
  · exact ⟨rfl, rfl, own⟩

end

/-- A beat that traps on nothing has its format word. -/
theorem resolveFmt_beatFmt {s : State} {f : BeatForm} (runs : executes s f.g = true) (passes : mbeatTrap s f = none) (needed : resolves f = true) :
    resolveFmt s f = .ok (beatFmt s f) := by
  have legal : beatIllfmt s f = none := by
    simp only [mbeatTrap, runs, Bool.not_true, Bool.false_eq_true, if_false, firstTrap, List.findSome?_eq_none_iff] at passes
    exact passes (beatIllfmt s f) (by simp only [List.mem_cons, true_or, or_true])
  rw [beatIllfmt, if_neg (by simp [needed])] at legal
  rw [beatFmt, if_pos needed]
  cases word : resolveFmt s f with
  | error w => rw [word] at legal; exact absurd legal nofun
  | ok w => rfl

/-- Settles O40. -/
theorem matrixOpsComplete : Obligations.MatrixOpsComplete := by
  intro s c agent
  refine ⟨fun f runs passes => ?_, fun f runs passes => execMscl_next agent runs passes, fun f runs => execMclr_next agent runs,
    fun f runs fits => execMswap_next agent runs fits, fun f runs passes => ⟨?_, ?_⟩⟩
  · obtain ⟨l, accs, loc, remote⟩ := beatIssued_accs agent f
    obtain ⟨mem, cur, fmt⟩ := beatIssued_keeps agent f
    have later : (beatIssued s f).cur.agent = .prim c := cur ▸ agent
    have accs' := (accs_advance later (beatSource f)).trans accs
    have fmt' := (pendFmt_advance later (beatSource f)).trans fmt
    have mem' := (advance_mem (beatIssued s f) (beatSource f)).trans mem
    have me := me_prim (s := advance (beatIssued s f) (beatSource f)) ((advance_cur ..).symm ▸ later)
    refine ⟨_, execMbeat_next runs passes, beatAccess s f, l, ?_, ?_, loc, remote, fun one => ?_, fun many => ?_, beatFmt s f, _, beatMpc s f, rfl,
      resolveFmt_beatFmt runs passes, fun sparse => if_pos sparse⟩
    · split
      · rw [me, core_mapCore_same]; exact accs'
      · exact accs'
    · split
      · exact mem'
      · exact mem'
    · rw [if_pos one, me, core_mapCore_same]
    · rw [if_neg (by simp [many])]; exact fmt'
  · have next : execMsave f s = .next _ := runOp_none _ passes runs
    rw [image_next agent, imageCycles_eq] at next
    exact next
  · have next : execMload f s = .next _ := runOp_none _ passes runs
    rw [image_next agent, imageCycles_eq] at next
    exact next

end Sys2Proof.Machine
end

section
/-! PROOFS. A barrel thread's accesses (16 R386-R397; 10 R241, R260, R261): what a checked access does at once, and its statements. -/

namespace Sys2Proof.Machine

/-! ### What a read and a write leave of the thread -/

theorem noteInfos_mapMem (s : State) (a : Ag) (l : List RelInfo) : ∃ f, noteInfos s a l = s.mapMem f := by
  rw [noteInfos]
  split
  · exact ⟨id, rfl⟩
  · exact ⟨_, rfl⟩

/-- A read changes nothing but what memory remembers of it. -/
theorem noteRead_mapMem (a : Ag) (ks : List Nat) : ∀ s : State, ∃ f, noteRead s a ks = s.mapMem f := by
  induction ks with
  | nil => exact fun s => ⟨id, rfl⟩
  | cons k r ih =>
    intro s
    obtain ⟨f, first⟩ := noteInfos_mapMem s a (tabGet [] s.mem.relInfo k)
    obtain ⟨g, rest⟩ := ih (s.mapMem f)
    rw [noteRead, first, rest]
    exact ⟨g ∘ f, rfl⟩

/-- A checked access that passes goes on. -/
theorem checkedThread_passes {s : State} {r : Right} {plain reads : Bool} {p : Piece} (passes : pieceFail s s.ag r plain reads p = none) (a : Word)
    (k : State → State) : checkedThread s a r plain reads p k = k s := by
  rw [checkedThread, passes]

section
variable {s : State} {c : BitVec 10} {n : BitVec 3} (agent : s.cur.agent = .thread c n)
include agent

theorem ag_thread : s.ag = .thread c (n.setWidth 4) := by rw [State.ag, agent]; rfl

/-- The end of an operation leaves the registers alone. -/
theorem readX_finish (d : BitVec 6) : readX (finish s) c n d = readX s c n d := by
  rw [finish_thread agent, readX, readX, thread_mapThread_same]

theorem pc_finish : ((finish s).thread c n).pc = (s.thread c n).pc + 8 := by
  rw [finish_thread agent, thread_mapThread_same]

omit agent in
theorem pc_writeX (d : BitVec 6) (v : Word) : ((writeX s c n d v).thread c n).pc = (s.thread c n).pc := by
  rw [writeX]
  split
  · rfl
  · rw [thread_mapThread_same]

theorem load_thread {f : MemForm} {w : Nat} (runs : executes s f.g = true) (passes : memTrap s f w = none) (signed : Bool) :
    load s f w signed = .next (threadLoad s c n f w signed) := by
  rw [load, runOp_none _ passes runs]
  simp only [agent]

theorem store_thread {f : MemForm} {w : Nat} (runs : executes s f.g = true) (passes : memTrap s f w = none) :
    store s f w = .next (threadStore s c n f w) := by
  rw [store, runOp_none _ passes runs]
  simp only [agent]

/-! ### Loads and stores -/

theorem threadLoad_spad {f : MemForm} {w : Nat} {p : Piece} (place : placeOf s c f.mode (effAddr s f) w = .spad p) (signed : Bool)
    (passes : pieceFail s (.thread c (n.setWidth 4)) .read true true p = none) : ∃ g, threadLoad s c n f w signed =
      finish (writeX (s.mapMem g) c n f.d (extendLoad w signed (gatherPieces s [p]))) ∧ SameBytes s (s.mapMem g) := by
  rw [← ag_thread agent] at passes
  obtain ⟨g, eq⟩ := noteRead_mapMem s.ag ([p].flatMap Piece.words) s
  have same := noteRead_sameBytes s.ag ([p].flatMap Piece.words) s
  rw [eq] at same
  refine ⟨g, ?_, same⟩
  simp only [threadLoad, place]
  rw [checkedThread_passes passes, plainRead, eq]

theorem threadStore_spad {f : MemForm} {w : Nat} {p : Piece} (place : placeOf s c f.mode (effAddr s f) w = .spad p)
    (passes : pieceFail s (.thread c (n.setWidth 4)) .write true false p = none) : threadStore s c n f w =
      finish (plainWrite s (.thread c (n.setWidth 4)) ((readX s c n f.d).toNat % 2 ^ (8 * w)) [p]) := by
  rw [← ag_thread agent] at passes ⊢
  simp only [threadStore, place]
  rw [checkedThread_passes passes]

end

/-- Settles O33. -/
theorem threadLoadsAndStoresComplete : Obligations.ThreadLoadsAndStoresComplete := by
  intro s c n f w agent runs passes loads stores
  have loads_of {signed : Bool} {P : State → Prop} (ends : P (threadLoad s c n f w signed)) : loads signed P := by
    have all : reaches (load s f w signed) P := ⟨_, load_thread agent runs passes signed, ends⟩
    refine ⟨?_, ?_, ?_, ?_, ?_, ?_, ?_⟩
    all_goals rintro rfl rfl; exact all
  have stores_of {P : State → Prop} (ends : P (threadStore s c n f w)) : stores P := by
    have all : reaches (store s f w) P := ⟨_, store_thread agent runs passes, ends⟩
    refine ⟨?_, ?_, ?_, ?_⟩
    all_goals rintro rfl; exact all
  refine ⟨fun p place => ⟨fun signed free => loads_of ?_, fun fits whole free => stores_of ?_⟩, fun o place => ⟨fun signed => loads_of ?_, stores_of ?_⟩,
    fun ⟨e, place, glob⟩ => ⟨fun signed v u found => loads_of ?_, fun v u found => stores_of ?_⟩⟩
  · obtain ⟨g, eq, spad, phys⟩ := threadLoad_spad agent place signed free
    have later : (writeX (s.mapMem g) c n f.d (extendLoad w signed (gatherPieces s [p]))).cur.agent = .thread c n := (writeX_cur ..).symm ▸ agent
    rw [eq, finish_mem, writeX_mem]
    exact ⟨fun named => by rw [readX_finish later, readX_writeX _ _ _ _ _ named], by rw [pc_finish later, pc_writeX]; rfl, spad, phys⟩
  · have later : (plainWrite s (.thread c (n.setWidth 4)) ((readX s c n f.d).toNat % 2 ^ (8 * w)) [p]).cur.agent = .thread c n := agent
    rw [threadStore_spad agent place free]
    refine ⟨by rw [pc_finish later]; rfl, ?_, ?_⟩
    · rw [finish_mem]
      exact laggedWrite_phys ..
    · exact (laggedWrite_puts whole fits s _ 0 _).after (sameBytes_of_mem (finish_mem _))
  · simp only [threadLoad, place]
  · simp only [threadStore, place]
  · subst glob
    simp only [threadLoad, place, found, onGlob]
  · subst glob
    simp only [threadStore, place, found, onGlob]

end Sys2Proof.Machine
end

section
/-! PROOFS. A barrel thread's synchronising accesses and atomics (16 R392-R397), its FENCE and cache maintenance, and the service thread's
PLD and STT (16 R398-R401; 10 R264). -/

namespace Sys2Proof.Machine

/-- The cycles that a PWAIT waits at most (16 R393). -/
def waitBound (n : Half) : Option Nat := if n = BitVec.allOnes 32 then none else some n.toNat

/-- The write of a relaxed atomic, if it makes one. -/
def relaxedWrite (s : State) (a : Ag) (sc : Nat) (p : Piece) : Option Word → State
  | some w => syncWrite s a false sc w.toNat p
  | none => s

section
variable {s : State} {c : BitVec 10} {n : BitVec 3} (agent : s.cur.agent = .thread c n) {f : MemForm} {p : Piece}
  (place : placeOf s c f.mode (effAddr s f) 8 = .spad p)
include agent place

/-! ### Acquiring reads and releasing writes -/

theorem threadAcqRead_spad (passes : pieceFail s (.thread c (n.setWidth 4)) .read false true p = none) (regs : List (BitVec 6))
    (k : Nat → State → State) :
    threadAcqRead s c n f regs k = k (gatherPieces s [p]) (threadAcquire s c (n.setWidth 4) f.scope.toNat p.words) := by
  rw [← ag_thread agent] at passes
  simp only [threadAcqRead, place]
  rw [checkedThread_passes passes]

theorem threadRelWrite_spad (passes : pieceFail s (.thread c (n.setWidth 4)) .write false false p = none) : threadRelWrite s c n f =
    finish (syncWrite (threadRelease s c f.scope.toNat) (.thread c (n.setWidth 4)) true f.scope.toNat (readX s c n f.d).toNat p) := by
  rw [← ag_thread agent] at passes ⊢
  simp only [threadRelWrite, place]
  rw [checkedThread_passes passes]

/-! ### PWAIT -/

/-- A read that counts: of a word that is not 0, without a wait, or after it. -/
theorem threadPwait_reads (passes : pieceFail s (.thread c (n.setWidth 4)) .read false true p = none)
    (counts : gatherPieces s [p] ≠ 0 ∨ (readX s c n f.d).setWidth 32 = (0 : Half) ∨ (s.thread c n).lastRead = true) : threadPwait s c n f =
      finish (writePCode (writeX (threadAcquire s c (n.setWidth 4) f.scope.toNat p.words) c n f.d (BitVec.ofNat 64 (gatherPieces s [p]))) f.p
        (gatherPieces s [p] ≠ 0) 0) := by
  rw [← ag_thread agent] at passes
  simp only [threadPwait, place]
  rw [checkedThread_passes passes, if_neg]
  rintro ⟨zero, waits, first⟩
  rcases counts with h | h | h
  · exact h zero
  · exact waits h
  · rw [h] at first; exact absurd first (by decide)

/-- The first read of a word that is 0: the thread waits. -/
theorem threadPwait_waits (passes : pieceFail s (.thread c (n.setWidth 4)) .read false true p = none) (zero : gatherPieces s [p] = 0)
    (waits : (readX s c n f.d).setWidth 32 ≠ (0 : Half)) (first : (s.thread c n).lastRead = false) : threadPwait s c n f =
      s.mapThread c n fun th => { th with
        st := .pwait false (spadWordKey p.core p.off.toNat) (waitBound ((readX s c n f.d).setWidth 32)) } := by
  rw [← ag_thread agent] at passes
  simp only [threadPwait, place]
  rw [checkedThread_passes passes, if_pos ⟨zero, waits, by rw [first]; rfl⟩]
  rfl

/-! ### Atomics -/

/-- A relaxed atomic. -/
theorem threadAtomic_spad (passes : pieceFail s (.thread c (n.setWidth 4)) .atomic false true p = none) (relaxed : f.ord = .rlx) (op : AtomOp) :
    threadAtomic s c n f op =
      finish (writeX (relaxedWrite (noteRead s (.thread c (n.setWidth 4)) p.words) (.thread c (n.setWidth 4)) f.scope.toNat p
        (atomResult op (BitVec.ofNat 64 (gatherPieces s [p])) (readX s c n f.d) (readX s c n (f.d + 1)))) c n f.d (BitVec.ofNat 64 (gatherPieces s [p]))) := by
  rw [← ag_thread agent] at passes ⊢
  have ag : (noteRead s s.ag p.words).ag = s.ag := by
    obtain ⟨g, eq⟩ := noteRead_mapMem s.ag p.words s
    rw [eq]; rfl
  simp only [threadAtomic, place]
  rw [checkedThread_passes passes, relaxed]
  simp only [ordRel, ordAcq, Bool.false_eq_true, if_false, Bool.false_and, ag]
  cases atomResult op (BitVec.ofNat 64 (gatherPieces s [p])) (readX s c n f.d) (readX s c n (f.d + 1)) with
  | none => rfl
  | some w => rfl

end

section
variable {s : State} {c : BitVec 10} {n : BitVec 3} (agent : s.cur.agent = .thread c n) {f : MemForm} {p : Piece} (runs : executes s f.g = true)
  (passes : memTrap s f 8 = none)
include agent runs passes

theorem atomic_thread (op : AtomOp) : atomic s f op = .next (threadAtomic s c n f op) := by
  rw [atomic, runOp_none _ passes runs]
  simp only [agent]

theorem execLda_thread : execLda f s = .next (threadAcqRead s c n f (f.a :: srcRegs f.i) fun v s => finish (writeX s c n f.d (BitVec.ofNat 64 v))) := by
  rw [execLda, runOp_none _ passes runs]
  simp only [agent]

theorem execPtest_thread : execPtest f s = .next (threadAcqRead s c n f (f.a :: srcRegs f.i) fun v s =>
    finish (writePCode (writeX s c n f.d (BitVec.ofNat 64 v)) f.p (v ≠ 0) 0)) := by
  rw [execPtest, runOp_none _ passes runs]
  simp only [agent]

theorem execPwait_thread : execPwait f s = .next (threadPwait s c n f) := by
  rw [execPwait, runOp_none _ passes runs]
  simp only [agent]

theorem execStrl_thread : execStrl f s = .next (threadRelWrite s c n f) := by
  rw [execStrl, runOp_none _ passes runs]
  simp only [agent]

theorem execPraise_thread : execPraise f s = .next (threadRelWrite s c n f) := by
  rw [execPraise, runOp_none _ passes runs]
  simp only [agent]

variable (place : placeOf s c f.mode (effAddr s f) 8 = .spad p) (free : pieceFail s (.thread c (n.setWidth 4)) .atomic false false p = none)
include place free

/-- An LRW whose thread comes to hold the granule. -/
theorem execLrw_held {t : State} (starts : (s.thread c n).st ≠ .lrw) (sound : p.poisoned t = false)
    (held : joinQueue s (bankQueue p.core p.off.toNat) (spadWordKey p.core p.off.toNat) (.thread c n) = .held t) : execLrw f s =
      .next (finish (writePCode (writeX (lrwAcquire t c n f.scope.toNat p.words) c n f.d (BitVec.ofNat 64 (gatherPieces t [p]))) f.p true 0)) := by
  rw [← ag_thread agent] at free
  rw [execLrw, runOp_none _ passes runs]
  simp only [agent, place]
  rw [checkedThread_passes free, threadLrw, if_neg starts, held]
  simp only [sound, Bool.false_eq_true, if_false]

/-- An SCH of a thread that does not hold the granule. -/
theorem execSch_fails (free' : holds s (bankQueue p.core p.off.toNat) (spadWordKey p.core p.off.toNat) (.thread c n) = false) :
    execSch f s = .next (finish (writePCode s f.p false 0)) := by
  rw [← ag_thread agent] at free
  rw [execSch, runOp_none _ passes runs]
  simp only [agent, place]
  rw [checkedThread_passes free, free', if_neg (by decide)]

end

/-- Settles O34. -/
theorem threadSyncAccessesComplete : Obligations.ThreadSyncAccessesComplete := by
  intro s c n f p agent runs passes place
  refine ⟨fun free => ⟨?_, ?_, fun counts => ?_, fun zero waits first => ?_⟩, fun free => ⟨?_, ?_⟩,
    fun free => ⟨fun t starts sound held => execLrw_held agent runs passes place free starts sound held,
      fun unheld => execSch_fails agent runs passes place free unheld⟩, fun free relaxed => ?_⟩
  · exact (execLda_thread agent runs passes).trans (congrArg _ (threadAcqRead_spad agent place free ..))
  · exact (execPtest_thread agent runs passes).trans (congrArg _ (threadAcqRead_spad agent place free ..))
  · exact (execPwait_thread agent runs passes).trans (congrArg _ (threadPwait_reads agent place free counts))
  · exact ⟨_, (execPwait_thread agent runs passes).trans (congrArg _ (threadPwait_waits agent place free zero waits first)), congrArg Thread.st (thread_mapThread_same ..)⟩
  · exact (execStrl_thread agent runs passes).trans (congrArg _ (threadRelWrite_spad agent place free))
  · exact (execPraise_thread agent runs passes).trans (congrArg _ (threadRelWrite_spad agent place free))
  · have atom (op : AtomOp) := (atomic_thread agent runs passes op).trans (congrArg _ (threadAtomic_spad agent place free relaxed op))
    exact ⟨atom .add, atom .and, atom .or, atom .xor, atom .min, atom .max, atom .minn, atom .maxn, atom .xch, atom .cas⟩

end Sys2Proof.Machine
end

section
/-! PROOFS. A thread's FENCE and cache maintenance, and the service thread's PLD and STT (16 R398-R401; 10 R264). -/

namespace Sys2Proof.Machine

section
variable {s : State} {c : BitVec 10} {n : BitVec 3} (agent : s.cur.agent = .thread c n)
include agent

/-! ### FENCE -/

theorem execFence_relaxed {f : FenceForm} (runs : executes s f.g = true) (relaxed : f.ord = .rlx) : execFence f s = .next (finish s) := by
  rw [execFence, runOp_next _ runs]
  simp only [agent, relaxed, ordRel, ordAcq, Bool.false_eq_true, if_false]

theorem execFence_release {f : FenceForm} (runs : executes s f.g = true) (release : f.ord = .rel) : execFence f s =
    .next (finish (fenceRelease (threadRelease s c f.scope.toNat) (.thread c (n.setWidth 4)) f.scope.toNat)) := by
  rw [execFence, runOp_next _ runs]
  simp only [agent, release, ordRel, ordAcq, Bool.false_eq_true, if_false, if_true]

/-! ### Cache maintenance -/

theorem cacheOp_thread {f : MemForm} (runs : executes s f.g = true) (inside : (effAddr s f).toNat < 2 ^ 57)
    (cached : inAperture (effAddr s f).toNat = false) (k : BitVec 10 → BitVec 3 → Nat → State → State) :
    cacheOp s f k = .next (k c n (effAddr s f).toNat s) := by
  have passes : (if executes s f.g && (effAddr s f).toNat ≥ 2 ^ 57 then some (addrTrap s .sprange (effAddr s f)) else none) = none :=
    if_neg (by rw [decide_eq_false (Nat.not_le.mpr inside), Bool.and_false]; decide)
  rw [cacheOp, runOp_none _ passes runs]
  simp only [agent, cached, Bool.false_eq_true, if_false]

theorem execCflush_line {f : MemForm} (runs : executes s f.g = true) (inside : (effAddr s f).toNat < 2 ^ 57)
    (cached : inAperture (effAddr s f).toNat = false) {d : DLine} (line : dcFind (s.core c) (effAddr s f).toNat = some d) : execCflush f s =
    .next (finish (setDcache (writeBackLine s c d) c (mapIf (fun e => e.vline = d.vline) DLine.cleaned (s.core c).dcache))) := by
  rw [execCflush, cacheOp_thread agent runs inside cached, line]

theorem execCinv_next {f : MemForm} (runs : executes s f.g = true) (inside : (effAddr s f).toNat < 2 ^ 57)
    (cached : inAperture (effAddr s f).toNat = false) : execCinv f s = .next (finish (dcDrop s c (effAddr s f).toNat)) := by
  rw [execCinv, cacheOp_thread agent runs inside cached]

theorem execCpre_fills {f : MemForm} (runs : executes s f.g = true) (inside : (effAddr s f).toNat < 2 ^ 57)
    (cached : inAperture (effAddr s f).toNat = false) {leaf : Word} {r : Bool} {pa : Nat} (absent : dcFind (s.core c) (effAddr s f).toNat = none)
    (hit : look s (ctxOfThread s c n) (effAddr s f).toNat .read = .hit leaf r pa) (cacheable : pteUncached leaf = false)
    (free : fillHeld s (ctxOfThread s c n) leaf (effAddr s f).toNat pa 1 = false) :
    execCpre f s = .next (finish (dcFill s c (ctxOfThread s c n) (effAddr s f).toNat leaf pa)) := by
  rw [execCpre, cacheOp_thread agent runs inside cached, absent, if_neg (by decide), hit]
  simp only [cacheable, free, Bool.or_false, Bool.false_eq_true, if_false]

/-! ### PLD and STT -/

theorem inService_thread : inService s = decide (n = 7) := by
  rw [inService, agent]

theorem takeTrap_priv (m : BitVec 8) : takeTrap s { bundleTrap s .priv 0 with mask := m } = takeThreadTrap s c n .priv 0 := by
  rw [takeTrap, agent]; rfl

theorem execPld_next {f : MemForm} (service : n = 7) (runs : executes s f.g = true) (inside : (effAddr s f).toNat < 2 ^ 52)
    (aligned : (effAddr s f).toNat % 8 = 0) : execPld f s = .next (finish (writeX (threadAcquire
      (if dramPoisoned s (effAddr s f).toNat then countUncorr s (quadOf c) else s) c 7 4 (physKeys (effAddr s f).toNat 8)) c n f.d
      (pldWord s (effAddr s f).toNat))) := by
  have passes : pldTrap f s = none := by
    rw [pldTrap, inService_thread agent, decide_eq_true service, runs, if_neg (by decide), if_neg (by decide), if_neg (Nat.not_le.mpr inside),
      if_neg (not_not_intro aligned)]
  rw [execPld, runOp_none _ passes runs]
  simp only [agent]
  subst service
  rfl

theorem execStt_next {f : MemForm} (service : n = 7) (runs : executes s f.g = true)
    (legal : sttOk s (readR s f.d) (readR s f.a) (readB s f.i) = true) : execStt f s =
    .next (finish (installLeaf s ((readB s f.i).setWidth 8) ((readR s f.a).setWidth 6) (fieldOf (readR s f.a) 16 41) ((readR s f.a).getLsbD 10)
      (readR s f.d) (fieldOf (readB s f.i) 16 16))) := by
  have passes : sttTrap f s = none := by
    rw [sttTrap, inService_thread agent, decide_eq_true service, runs, if_neg (by decide), if_neg (by decide)]
    exact if_pos legal
  rw [execStt, runOp_none _ passes runs]
  rfl

/-- Outside the service thread PLD and STT take PRIV. -/
theorem service_priv {f : MemForm} (other : n ≠ 7) : execPld f s = .next (takeThreadTrap s c n .priv 0) ∧
    execStt f s = .next (takeThreadTrap s c n .priv 0) := by
  have outside : (!inService s) = true := by rw [inService_thread agent, decide_eq_false other]; rfl
  constructor
  · rw [execPld, pldTrap, if_pos outside, runOp_trap, takeTrap_priv agent]
  · rw [execStt, sttTrap, if_pos outside, runOp_trap, takeTrap_priv agent]

end

/-- Settles O35. -/
theorem cacheAndServiceOpsComplete : Obligations.CacheAndServiceOpsComplete := fun _ _ _ agent =>
  ⟨fun _ runs relaxed => execFence_relaxed agent runs relaxed, fun _ runs release => execFence_release agent runs release,
    fun _ runs inside cached => ⟨fun _ line => execCflush_line agent runs inside cached line, execCinv_next agent runs inside cached,
      fun _ _ _ absent hit cacheable free => execCpre_fills agent runs inside cached absent hit cacheable free⟩,
    fun _ service runs inside aligned => execPld_next agent service runs inside aligned,
    fun _ service runs legal => execStt_next agent service runs legal, fun _ other => service_priv agent other⟩

end Sys2Proof.Machine
end

section
/-! PROOFS. Copy jobs at their issue, and their status (19 R451, R452): what a release leaves of the clusters' jobs, and the statement. -/

namespace Sys2Proof.Machine

/-! ### What the write-back of a core's cache leaves alone (08 R197) -/

/-- An observation that shows nothing of memory, of the cores' caches and of the agenda. -/
structure BlindToLines {α : Type} (g : State → α) : Prop where
  mem : ∀ s f, g (s.mapMem f) = g s
  dcache : ∀ s c l, g (setDcache s c l) = g s
  events : ∀ s l, g (s.pushEvents l) = g s

section
variable {α : Type} {g : State → α} (h : BlindToLines g)
include h

theorem claimLine_unseen (s : State) (x : BitVec 6) (leaf : Word) (va pa : Nat) : g (claimLine s x leaf va pa) = g s := by
  rw [claimLine]
  split
  · rfl
  · exact (h.mem _ _).trans (h.mem _ _)

theorem storeLine_unseen (s : State) (d : DLine) : g (storeLine s d) = g s := by
  rw [storeLine]
  split
  · rfl
  · exact (h.events _ _).trans ((h.mem _ _).trans ((foldl_keeps g (fun _ _ => h.mem _ _) _ _).trans (claimLine_unseen h _ _ _ _ _)))

theorem yieldNear_unseen (s : State) (c : BitVec 10) (pa : Nat) : g (yieldNear s c pa) = g s := by
  rw [yieldNear]
  split
  · rfl
  · split
    · rfl
    · exact (h.mem _ _).trans ((h.dcache _ _ _).trans (foldl_keeps g (storeLine_unseen h) _ _))

theorem writeBackLine_unseen (s : State) (c : BitVec 10) (d : DLine) : g (writeBackLine s c d) = g s := by
  rw [writeBackLine]
  split
  · rfl
  · exact (storeLine_unseen h _ d).trans (yieldNear_unseen h s c _)

theorem threadRelease_unseen (s : State) (c : BitVec 10) (sc : Nat) : g (threadRelease s c sc) = g s := by
  rw [threadRelease]
  split
  · exact (h.dcache _ _ _).trans (foldl_keeps g (fun u d => writeBackLine_unseen h u c d) _ _)
  · rfl

theorem releaseReady_unseen (s : State) (sc : Nat) : g (releaseReady s sc) = g s := by
  rw [releaseReady]
  split
  · rfl
  · exact threadRelease_unseen h s _ sc

end

/-- A change of the cores that leaves their launches and the threads' launches alone leaves the performing agent's context alone. -/
theorem myCtx_mapCore (s : State) (c : BitVec 10) {f : Core → Core} (occ : ∀ k, (f k).occ = k.occ) (threads : ∀ k, (f k).threads = k.threads) :
    (s.mapCore c f).myCtx = s.myCtx := by
  have same (d : BitVec 10) : ((s.mapCore c f).core d).occ = (s.core d).occ ∧ ((s.mapCore c f).core d).threads = (s.core d).threads := by
    rw [core_mapCore]
    split
    · next here => subst here; exact ⟨occ _, threads _⟩
    · exact ⟨rfl, rfl⟩
  have cur : (s.mapCore c f).cur = s.cur := rfl
  have occs : (s.mapCore c f).occ? = s.occ? := rfl
  simp only [State.myCtx, cur, ctxOfCore, ctxOfThread, State.thread, same, occs]

theorem myCtx_unseen : BlindToLines State.myCtx :=
  ⟨fun _ _ => rfl, fun s c _ => myCtx_mapCore s c (fun _ => rfl) fun _ => rfl, fun _ _ => rfl⟩

theorem jobs_mapCluster (s : State) (m n : BitVec 6) {f : Cluster → Cluster} (keeps : ∀ k, (f k).jobs = k.jobs) :
    ((s.mapCluster m f).cluster n).jobs = (s.cluster n).jobs := by
  rw [cluster_mapCluster]
  split
  · next here => subst here; exact keeps _
  · rfl

/-- A release is counted beside the jobs. -/
theorem countRelease_clusters (s : State) (a : Ag) (sc : Nat) : (countRelease s a sc).clusters = s.clusters ∨
    ∃ m f, (countRelease s a sc).clusters = (s.mapCluster m f).clusters ∧ ∀ k, (f k).jobs = k.jobs := by
  rw [countRelease]
  split
  · exact .inl rfl
  · refine .inr ?_
    dsimp only
    rw [apply_ite State.clusters, State.pushEvents_clusters, ite_self]
    exact ⟨_, _, rfl, fun _ => rfl⟩

theorem countRelease_jobs (s : State) (a : Ag) (sc : Nat) (n : BitVec 6) : ((countRelease s a sc).cluster n).jobs = (s.cluster n).jobs := by
  rcases countRelease_clusters s a sc with same | ⟨m, f, same, keeps⟩
  · rw [State.cluster, same, State.cluster]
  · rw [State.cluster, same]
    exact jobs_mapCluster s m n keeps

theorem countRelease_myCtx (s : State) (a : Ag) (sc : Nat) : (countRelease s a sc).myCtx = s.myCtx := by
  rw [countRelease]
  split
  · rfl
  · dsimp only
    split
    · rfl
    · rfl

/-! ### The issue of a job -/

/-- The issuer after the release of the job in slot j (R451; 21 R475). -/
def jobReleased (s : State) (j : Nat) : State :=
  if s.myThread = 8 then
    issueAccess s { newAccess s (.jobRel j) 6 6 0 [] with data2 := (s.cluster s.myCluster).nextBurgee.setWidth 64 }
  else releaseAt (releaseReady s 1) s.ag 1 (jobIssueKey s.myCluster.toNat j)

theorem jobReleased_keeps (s : State) (j : Nat) (n : BitVec 6) :
    ((jobReleased s j).cluster n).jobs = (s.cluster n).jobs ∧ (jobReleased s j).myCtx = s.myCtx := by
  rw [jobReleased]
  split
  · exact ⟨rfl, myCtx_mapCore s _ (fun _ => rfl) fun _ => rfl⟩
  · have jobs := countRelease_jobs (releaseReady s 1) s.ag 1 n
    have ctx := countRelease_myCtx (releaseReady s 1) s.ag 1
    have clusters : (releaseReady s 1).clusters = s.clusters := releaseReady_unseen ⟨fun _ _ => rfl, fun _ _ _ => rfl, fun _ _ => rfl⟩ s 1
    have same : (releaseReady s 1).cluster n = s.cluster n := congrArg (tabGet Cluster.reset · n.toNat) clusters
    exact ⟨jobs.trans (congrArg Cluster.jobs same), ctx.trans (releaseReady_unseen myCtx_unseen s 1)⟩

theorem cluster_finish (s : State) (n : BitVec 6) : (finish s).cluster n = s.cluster n := by
  rw [finish]
  split <;> rfl

theorem cluster_writeE (s : State) (d : BitVec 6) (v : Word) (n : BitVec 6) : (writeE s d v).cluster n = s.cluster n := by
  rw [writeE]
  split
  · rw [landE]; split <;> rfl
  · rw [writeX]; split <;> rfl

/-- What a job's issue writes: the job in its slot, which no earlier job of its burgee has released, and the burgee. -/
theorem issueJob_eq {s : State} (i : Instr) (f : E2Form) (virt : Bool) {j : Nat} (slot : jobSlot (s.cluster s.myCluster) (s.myThread ≠ 8) = some j) :
    ∃ (x : Job) (m : Mem → Mem), x.st = .queued ∧ x.burgee = (s.cluster s.myCluster).nextBurgee ∧ x.desc = eA s f.a ∧ x.virt = virt ∧
      x.ctx = (jobReleased s j).myCtx ∧ issueJob s i f virt = finish (writeE (((setJob (jobReleased s j) s.myCluster j x).mapMem m).mapCluster s.myCluster
        fun k => { k with nextBurgee := (s.cluster s.myCluster).nextBurgee + 1 }) f.d ((s.cluster s.myCluster).nextBurgee.setWidth 64)) := by
  simp only [issueJob, slot]
  by_cases prim : s.myThread = 8
  · simp only [jobReleased, prim, decide_true, if_true]
    exact ⟨_, _, rfl, rfl, rfl, rfl, rfl, rfl⟩
  · simp only [jobReleased, prim, decide_false, Bool.false_eq_true, if_false]
    exact ⟨_, _, rfl, rfl, rfl, rfl, rfl, rfl⟩

/-- A job that is issued takes its slot and the next burgee, and leaves the other slots alone. -/
theorem issueJob_takes {s : State} (i : Instr) (f : E2Form) (virt : Bool) {j : Nat} (slot : jobSlot (s.cluster s.myCluster) (s.myThread ≠ 8) = some j) :
    ∃ x : Job, x.st = .queued ∧ x.burgee = (s.cluster s.myCluster).nextBurgee ∧ x.desc = eA s f.a ∧ x.virt = virt ∧ x.ctx = s.myCtx ∧
      ((issueJob s i f virt).cluster s.myCluster).nextBurgee = (s.cluster s.myCluster).nextBurgee + 1 ∧
      ((issueJob s i f virt).cluster s.myCluster).jobs = tabPut .reset (s.cluster s.myCluster).jobs j x := by
  obtain ⟨jobs, ctx⟩ := jobReleased_keeps s j s.myCluster
  obtain ⟨x, m, st, burgee, desc, kind, owner, eq⟩ := issueJob_eq i f virt slot
  have put : ((setJob (jobReleased s j) s.myCluster j x).mapMem m).cluster s.myCluster = (setJob (jobReleased s j) s.myCluster j x).cluster s.myCluster := rfl
  refine ⟨x, st, burgee, desc, kind, owner.trans ctx, ?_, ?_⟩
  · rw [eq, cluster_finish, cluster_writeE, cluster_mapCluster_same]
  · rw [eq, cluster_finish, cluster_writeE, cluster_mapCluster_same, put, setJob, cluster_mapCluster_same]
    dsimp only
    rw [jobs]

/-! ### Status -/

section
variable {s : State} (d : BitVec 6) {b : BitVec 16}

theorem observeJob_none (absent : findJob (s.cluster s.myCluster) s.myCtx b = none) : observeJob s d b = finish (writeE s d 5) := by
  simp only [observeJob, absent]

/-- A job that has not finished is reported and stays. -/
theorem observeJob_unfinished {j : Nat} (found : findJob (s.cluster s.myCluster) s.myCtx b = some j)
    (open_ : ((s.cluster s.myCluster).job j).unfinished = true) :
    observeJob s d b = finish (writeE s d (jobStatus ((s.cluster s.myCluster).job j))) := by
  have notDone : ((s.cluster s.myCluster).job j).st ≠ .done := fun ended => by
    rw [Job.unfinished, ended] at open_
    exact absurd open_ (by decide)
  simp only [observeJob, found, open_, notDone, decide_false, Bool.false_and, Bool.false_eq_true, if_false, if_true]

/-- A finished job that releases nothing is reported, and its slot is freed. -/
theorem observeJob_finished {j : Nat} (found : findJob (s.cluster s.myCluster) s.myCtx b = some j)
    (ended : ((s.cluster s.myCluster).job j).unfinished = false) (silent : ((s.cluster s.myCluster).job j).control.getLsbD 15 = false) :
    observeJob s d b = finish (writeE (setJob s s.myCluster j .reset) d (jobStatus ((s.cluster s.myCluster).job j))) := by
  simp only [observeJob, found, ended, silent, Bool.and_false, Bool.false_eq_true, if_false]

end

section
variable {s : State} {f : E2Form} (runs : executes s f.g = true) (first : s.cur.retry = false)
include runs first

theorem execCpyq_next : execCpyq f s = .next (observeJob s f.d ((readR s f.a).setWidth 16)) := by
  rw [execCpyq, runE_next _ runs first, eA_first first]

theorem execCpyw_next (ends : ∀ j, findJob (s.cluster s.myCluster) s.myCtx ((readR s f.a).setWidth 16) = some j →
    ((s.cluster s.myCluster).job j).unfinished = false) : execCpyw f s = .next (observeJob s f.d ((readR s f.a).setWidth 16)) := by
  rw [execCpyw, runE_next _ runs first, eA_first first]
  dsimp only
  split
  · next j found => rw [if_neg (by rw [ends j found]; decide)]
  · rfl

theorem execCpyk_none (absent : findJob (s.cluster s.myCluster) s.myCtx ((readR s f.a).setWidth 16) = none) :
    execCpyk f s = .next (finish (writeE s f.d 5)) := by
  rw [execCpyk, runE_next _ runs first, eA_first first]
  simp only [absent]

theorem execCpyk_some {j : Nat} (found : findJob (s.cluster s.myCluster) s.myCtx ((readR s f.a).setWidth 16) = some j) :
    execCpyk f s = .next (finish (writeE (cancelJob s s.myCluster j) f.d (jobStatus ((s.cluster s.myCluster).job j)))) := by
  rw [execCpyk, runE_next _ runs first, eA_first first]
  simp only [found]

theorem execCpy_next (passes : cpyTrap s f false = none) : execCpy f s = .next (issueJob s (.cpy f) f false) := by
  rw [execCpy, passes, runE_next _ runs first]

theorem execCpyV_next (passes : cpyTrap s f true = none) : execCpyV f s = .next (issueJob s (.cpyV f) f true) := by
  rw [execCpyV, passes, runE_next _ runs first]

end

/-- Settles O41. -/
theorem copyJobOpsComplete : Obligations.CopyJobOpsComplete := by
  intro s f runs first cl b k issued
  have takes {i : Instr} {virt : Bool} {j : Nat} (slot : jobSlot k (s.myThread ≠ 8) = some j) : issued (issueJob s i f virt) j virt := by
    obtain ⟨x, st, burgee, desc, kind, ctx, next, jobs⟩ := issueJob_takes i f virt slot
    have here : ((issueJob s i f virt).cluster s.myCluster).job j = x := by rw [Cluster.job, jobs, tabGet_tabPut_same]
    have others (n : Nat) (other : n ≠ j) : ((issueJob s i f virt).cluster s.myCluster).job n = (s.cluster s.myCluster).job n := by
      rw [Cluster.job, jobs, tabGet_tabPut_ne _ _ other.symm, Cluster.job]
    rw [← here] at st burgee desc kind ctx
    exact ⟨next, st, burgee, desc.trans (eA_first first _), kind, ctx, fun n _ => others n⟩
  refine ⟨fun j slot => ⟨fun passes => ⟨_, execCpy_next runs first passes, takes slot⟩, fun passes => ⟨_, execCpyV_next runs first passes, takes slot⟩⟩,
    fun absent => ⟨?_, ?_, execCpyk_none runs first absent⟩, fun j found open_ => ⟨?_, execCpyk_some runs first found⟩,
    fun j found ended silent => ⟨?_, ?_, execCpyk_some runs first found⟩⟩
  · exact (execCpyq_next runs first).trans (congrArg _ (observeJob_none f.d absent))
  · exact (execCpyw_next runs first fun j found => absurd (absent.symm.trans found) nofun).trans (congrArg _ (observeJob_none f.d absent))
  · exact (execCpyq_next runs first).trans (congrArg _ (observeJob_unfinished f.d found open_))
  · exact (execCpyq_next runs first).trans (congrArg _ (observeJob_finished f.d found ended silent))
  · refine (execCpyw_next runs first fun i there => ?_).trans (congrArg _ (observeJob_finished f.d found ended silent))
    obtain rfl : j = i := Option.some.inj (found.symm.trans there)
    exact ended

end Sys2Proof.Machine
end

section
/-! PROOFS. Halyard instructions at their issue and at their engine cycle (19 R447, R455-R459; 06 R139, R148, R150). -/

namespace Sys2Proof.Machine

section
variable {s : State} {c : BitVec 10} (agent : s.cur.agent = .prim c)
include agent

theorem readR_prim (r : BitVec 6) : readR s r = readPrimS s c r := by simp only [readR, agent]

theorem eOperand_retry (again : s.cur.retry = true) (r : BitVec 6) (kept : Word) : eOperand s r kept = kept := by
  simp only [eOperand, agent, again, if_true]

/-! ### Issue -/

/-- An instruction of a guidon goes to its engine cycle. -/
theorem halOp_placed {t : Option TrapInfo} {g : Guard} (passes : t = none) (runs : executes s g = true) (first : s.cur.retry = false)
    (guidon : isGuidon s c = true) (i : Instr) (d ra rb : BitVec 6) (two : Bool) (act : State → Nat → Word → HRes) :
    halOp s i t g d two false ra rb act = .next ((placeE (earlyRelease s c 1 (halIssueKey c)) c d).mapCore c fun k => { k with
      hacts := k.hacts ++ [eRecord (placeE (earlyRelease s c 1 (halIssueKey c)) c d) i (readPrimS s c ra) (readPrimS s c rb)] }) := by
  rw [halOp, passes, runE_next _ runs first]
  simp only [agent, guidon, first, eA_first first, eB_first first, readR_prim agent, Bool.not_true, Bool.not_false, Bool.false_eq_true, if_false, if_true]

/-- An instruction of a follower takes the guidon's result. -/
theorem halOp_follows {t : Option TrapInfo} {g : Guard} (passes : t = none) (runs : executes s g = true) (first : s.cur.retry = false)
    (follower : isGuidon s c = false) {r : Word × Word} (result : tabGet none (s.core (guidonOf s c)).hres s.cur.gborn = some r) (i : Instr)
    (d ra rb : BitVec 6) (waits : Bool) (act : State → Nat → Word → HRes) :
    halOp s i t g d false waits ra rb act = .next (landE s c (s.core c).tick d r.1) := by
  rw [halOp, passes, runE_next _ runs first]
  simp only [agent, follower, followHal, result, Bool.not_false, Bool.false_eq_true, if_false, if_true]

/-! ### The engine cycle -/

/-- An action that does not wait is performed at its engine cycle. -/
theorem halOp_does (again : s.cur.retry = true) (guidon : isGuidon s c = true) (i : Instr) (t : Option TrapInfo) (g : Guard) (d ra rb : BitVec 6)
    (two : Bool) {act : State → Nat → Word → HRes} {r0 r1 : Word} {u : State}
    (done : (withEngine s (halDir s s.cur.opA) fun v => act v (halDir s s.cur.opA) s.cur.opB) = .done r0 r1 u) :
    halOp s i t g d two false ra rb act = .next (deliverHal u c s.cur.born d two r0 r1) := by
  rw [halOp, runE_retry _ _ _ agent again]
  simp only [agent, guidon, again, eA, eB, eOperand_retry agent again, done, Bool.not_true, Bool.false_and, Bool.false_eq_true, if_false]

/-- An action that may wait is performed two cycles after its issue, after the core's earlier accesses. -/
theorem halOp_late (again : s.cur.retry = true) (guidon : isGuidon s c = true) (later : s.cur.issued + 2 ≤ s.cycle) (alone : (s.core c).hacts = [])
    (noPwait : (s.core c).pwait = none) (noLrw : (s.core c).lrwWait = none) (i : Instr) (t : Option TrapInfo) (g : Guard) (d ra rb : BitVec 6)
    (two : Bool) {act : State → Nat → Word → HRes} {r0 r1 : Word} {u v : State}
    (settled : v = { settleFirst s c (fun a => a.born ≤ s.cur.born) 4 with cur := s.cur })
    (done : (withEngine v (halDir v s.cur.opA) fun w => act w (halDir v s.cur.opA) s.cur.opB) = .done r0 r1 u) :
    halOp s i t g d two true ra rb act = .next (deliverHal u c s.cur.born d two r0 r1) := by
  subst settled
  have due : ¬ s.cycle < s.cur.issued + 2 := Nat.not_lt.mpr later
  rw [halOp, runE_retry _ _ _ agent again]
  simp only [agent, guidon, again, eA, eB, eOperand_retry agent again, due, alone, noPwait, noLrw, done, List.isEmpty_nil, Option.isSome_none,
    decide_false, Bool.or_false, Bool.and_false, Bool.not_true, Bool.false_eq_true, if_false, if_true]

end

/-! ### HREAD -/

theorem takeRelease_cur (s : State) (a : Ag) (sc : Nat) (r : RelInfo) : (takeRelease s a sc r).cur = s.cur := by
  rw [takeRelease]
  split
  · split
    · rfl
    · rfl
  · rfl

theorem acquireWords_cur (a : Ag) (sc : Nat) (keys : List Nat) : ∀ s : State, (acquireWords s a sc keys).cur = s.cur := by
  induction keys with
  | nil => exact fun _ => rfl
  | cons k r ih => exact fun s => (ih _).trans (foldl_keeps State.cur (fun s i => takeRelease_cur s a sc i) _ s)

/-- A field of a halyard that is live. -/
theorem execHread_live {s : State} {c : BitVec 10} (agent : s.cur.agent = .prim c) (again : s.cur.retry = true) (f : HreadForm)
    (later : s.cur.issued + 2 ≤ s.cycle) (live : (s.halAt (halDir s s.cur.opA)).st = .live) : execHread f s =
      .next (landE (acquireKeys s 1 [halRelKey (halDir s s.cur.opA)]) c s.cur.born f.d
        (hreadField (leNat (recordBytes (s.halAt (halDir s s.cur.opA)) (halNum (halDir s s.cur.opA)))) f.c.toNat)) := by
  have after : ¬ s.cycle < s.cur.issued + 2 := Nat.not_lt.mpr later
  have cur : (acquireKeys s 1 [halRelKey (halDir s s.cur.opA)]).cur = s.cur := by
    simp only [acquireKeys, agent]
    exact acquireWords_cur _ _ _ s
  have plain (v : Word) (d : BitVec 6) : (landE (acquireKeys s 1 [halRelKey (halDir s s.cur.opA)]) c s.cur.born d v).cur = s.cur := by
    rw [landE]
    split
    · exact cur
    · exact cur
  rw [execHread, runE_retry _ _ _ agent again, hreadOp]
  simp only [agent, again, after, eA, eOperand_retry agent again, if_true, if_false, hreadValue, live]
  rw [if_neg (by decide), writeE]
  simp only [agent, eBorn, cur, again, if_true]
  rw [finish_prim ((congrArg Cur.agent (plain ..)).trans agent)]

/-- Settles O42. -/
theorem halyardOpsComplete : Obligations.HalyardOpsComplete := by
  intro s c agent
  refine ⟨fun f e first runs guidon => ?_, fun again guidon => ⟨fun f => ?_, fun f => ?_, fun f later live => execHread_live agent again f later live⟩,
    fun f r first runs follower result => ?_⟩
  · have placed (i : Instr) {t : Option TrapInfo} (passes : t = none) (act : State → Nat → Word → HRes) :=
      halOp_placed agent passes runs first guidon i f.d f.a f.b false act
    refine ⟨?_, ?_, ?_, ?_, ?_, ?_⟩
    · rintro rfl; exact placed (.htent f) rfl actHtent
    · rintro rfl; exact placed (.hckpt f) rfl actHckpt
    · rintro rfl passes; exact placed (.hcommit f) passes actHcommit
    · rintro rfl; exact placed (.hplayHold f) rfl _
    · rintro rfl; exact placed (.hplaySource f) rfl _
    · rintro rfl; exact placed (.hplayHorizon f) rfl _
  · have does (i : Instr) (t : Option TrapInfo) (act : State → Nat → Word → HRes) {r0 r1 : Word} {u : State} :=
      halOp_does agent again guidon i t f.g f.d f.a f.b false (act := act) (r0 := r0) (r1 := r1) (u := u)
    have late (i : Instr) (act : State → Nat → Word → HRes) (later : s.cur.issued + 2 ≤ s.cycle) (alone : (s.core c).hacts = [])
        (noPwait : (s.core c).pwait = none) (noLrw : (s.core c).lrwWait = none) {r0 r1 : Word} {u : State} :=
      halOp_late agent again guidon later alone noPwait noLrw i none f.g f.d f.a f.b false (act := act) (r0 := r0) (r1 := r1) (u := u) rfl
    exact ⟨fun _ _ _ => does (.htent f) none actHtent, fun _ _ _ => does (.hcommit f) _ actHcommit,
      fun h1 h2 h3 h4 _ _ _ => late (.hframe f) actHframe h1 h2 h3 h4, fun _ _ _ => does (.hckpt f) none actHckpt,
      fun _ _ _ => does (.hplayHold f) none _, fun _ _ _ => does (.hplaySource f) none _, fun _ _ _ => does (.hplayHorizon f) none _,
      fun h1 h2 h3 h4 _ _ _ => late (.hbindOpen f) actOpen h1 h2 h3 h4⟩
  · have late (i : Instr) (t : Option TrapInfo) (two : Bool) (act : State → Nat → Word → HRes) (later : s.cur.issued + 2 ≤ s.cycle)
        (alone : (s.core c).hacts = []) (noPwait : (s.core c).pwait = none) (noLrw : (s.core c).lrwWait = none) {r0 r1 : Word} {u : State} :=
      halOp_late agent again guidon later alone noPwait noLrw i t f.g f.d f.a 0 two (act := act) (r0 := r0) (r1 := r1) (u := u) rfl
    exact ⟨fun h1 h2 h3 h4 _ _ _ => late (.hbindBind f) none false actBind h1 h2 h3 h4, fun h1 h2 h3 h4 _ _ _ => late (.hbindPark f) none false actPark h1 h2 h3 h4,
      fun h1 h2 h3 h4 _ _ _ => late (.hbindClose f) none false actClose h1 h2 h3 h4, fun h1 h2 h3 h4 _ _ _ => late (.hcut f) _ true (actHcut false) h1 h2 h3 h4,
      fun h1 h2 h3 h4 _ _ _ => late (.hcutT f) _ true (actHcut true) h1 h2 h3 h4⟩
  · have follows (i : Instr) {t : Option TrapInfo} (passes : t = none) (waits : Bool) (act : State → Nat → Word → HRes) :=
      halOp_follows agent passes runs first follower result i f.d f.a f.b waits act
    have open_ : hcommitTrap s f = none := by
      rw [hcommitTrap, me_prim agent, ifExecutes, if_pos runs, follower]; rfl
    exact ⟨follows (.htent f) rfl false actHtent, follows (.hframe f) rfl true actHframe, follows (.hckpt f) rfl false actHckpt,
      follows (.hplayHold f) rfl false _, follows (.hplaySource f) rfl false _, follows (.hplayHorizon f) rfl false _,
      follows (.hbindOpen f) rfl true actOpen, follows (.hcommit f) open_ false actHcommit⟩

end Sys2Proof.Machine
end

section
/-! PROOFS. Copy jobs at work: how a job starts, moves an element and ends (19 R449-R451, R454; 21 R475). -/

namespace Sys2Proof.Machine

/-! ### What the cycle of a job comes to -/

section
variable {s : State} {cl : BitVec 6} {j : Nat} (at_cl : s.ev.ix = cl.toNat) (slot : s.ev.value.toNat = j)

include at_cl in
theorem ofNat_evIx : BitVec.ofNat 6 s.ev.ix = cl := by rw [at_cl, BitVec.ofNat_toNat, BitVec.setWidth_eq]

include at_cl slot

/-- The start of a startable job whose descriptor is read without poison. -/
theorem execCopyJobStart_read {v : Nat} {t : State} (can : jobStartable s ((s.cluster cl).job j) = true)
    (read : descRead (takeIssue s cl j) cl j ((s.cluster cl).job j) = .ok v [] t) :
    let y := { jobOfDesc ((t.cluster cl).job j) v with st := .running }
    let u := setJob t cl j y
    execCopyJobStart s = .next (if descBad u cl y v then faultJob u cl j 0x60 ((s.cluster cl).job j).desc
      else if y.total = 0 then finishJob (descAcquire u cl j y) cl j .done else descAcquire u cl j y) := by
  simp only [execCopyJobStart, ofNat_evIx at_cl, slot, can, read, Bool.not_true, Bool.false_eq_true, if_false, List.isEmpty_nil]

/-- The cycle of a running job with an element left. -/
theorem execCopyElement_goes (goes : jobGoes ((s.cluster cl).job j) = true) :
    execCopyElement s = .next (doElement s cl j ((s.cluster cl).job j)) := by
  simp only [execCopyElement, ofNat_evIx at_cl, slot, goes, if_true]

/-- The end of a running job with no element left. -/
theorem execCopyJobFinish_ends (runs : ((s.cluster cl).job j).st = .running)
    (spent : ((s.cluster cl).job j).total ≤ ((s.cluster cl).job j).next) :
    execCopyJobFinish s = .next (finishJob s cl j .done) := by
  simp only [execCopyJobFinish, ofNat_evIx at_cl, slot, runs, spent, decide_true, Bool.and_self, if_true]
end

/-! ### Elements (19 R450) -/

section
variable {s t : State} {cl : BitVec 6} {j : Nat} {x : Job} (sound : x.peerBad = 0)
include sound

/-- An element from a virtual address is written as it was read. -/
theorem doElement_virtual {v : Nat} {bad : List Nat} (plain : x.answer = none) (kind : x.skind = 0)
    (read : jobRead s cl j x (virtPlace s (elementAddr x.src Dim.sstr x) x.esize) x.esize = .ok v bad t) :
    doElement s cl j x = writeElement t cl j ((t.cluster cl).job j) v bad (elementAddr x.src Dim.sstr x) := by
  simp [doElement, sound, plain, kind, read]

/-- An element from a scratchpad is written as it was read. -/
theorem doElement_scratchpad {v : Nat} {bad : List Nat} (plain : x.answer = none) (kind : x.skind = 1)
    (read : jobRead s cl j x (spadPlace s x (fieldOf x.control 4 2) (elementAddr x.src Dim.sstr x) x.esize) x.esize = .ok v bad t) :
    doElement s cl j x = writeElement t cl j ((t.cluster cl).job j) v bad (elementAddr x.src Dim.sstr x) := by
  simp [doElement, sound, plain, kind, read]

/-- An element that a peer has answered is written with the answer's bytes. -/
theorem doElement_answered {l : List Byte} (answered : x.answer = some l) (bytes : l ≠ []) :
    doElement s cl j x = writeElement s cl j x (leNat l) [] (elementAddr x.src Dim.sstr x) := by
  cases l with
  | nil => exact absurd rfl bytes
  | cons b l => simp [doElement, sound, answered]
end

/-! ### The end of a job (19 R454) -/

theorem clusters_queueFor (s : State) (owner : Option Nat) (c : BitVec 10) (cause : Word) :
    (queueFor s owner c cause).clusters = s.clusters := by
  unfold queueFor
  split
  · rfl
  split
  · exact State.mapOcc_clusters ..
  split
  · rfl
  · rfl

theorem cluster_jobIrq (s : State) (x : Job) (cl : BitVec 6) : (jobIrq s x).cluster cl = s.cluster cl := by
  unfold jobIrq
  split
  · exact congrArg (tabGet _ · _) (clusters_queueFor ..)
  · rfl

theorem job_setJob (s : State) (cl : BitVec 6) (j : Nat) (x : Job) : ((setJob s cl j x).cluster cl).job j = x := by
  rw [setJob, cluster_mapCluster_same, Cluster.job, tabGet_tabPut_same]

/-- A job that finishes is left in the state it finishes with. -/
theorem st_finishJob (s : State) (cl : BitVec 6) (j : Nat) (st : JobState) : (((finishJob s cl j st).cluster cl).job j).st = st := by
  simp only [finishJob, cluster_jobIrq, job_setJob]

/-- Settles O20. -/
theorem copyJobsAdvance : Obligations.CopyJobsAdvance := by
  intro s cl j at_cl slot
  refine ⟨fun v t can read => ?_, fun x v bad t eq goes sound plain kind read => ?_, fun x v bad t eq goes sound plain kind read => ?_,
    fun x l eq goes sound answered bytes => ?_, fun runs spent => ?_⟩
  · have starts := execCopyJobStart_read at_cl slot can read
    refine ⟨fun bad => starts.trans ?_, fun good more => starts.trans ?_, fun good none => starts.trans ?_⟩
    · rw [if_pos bad]
    · rw [if_neg (Bool.not_eq_true _ ▸ good), if_neg more]
    · rw [if_neg (Bool.not_eq_true _ ▸ good), if_pos none]
  · subst eq
    exact (execCopyElement_goes at_cl slot goes).trans (congrArg _ (doElement_virtual sound plain kind read))
  · subst eq
    exact (execCopyElement_goes at_cl slot goes).trans (congrArg _ (doElement_scratchpad sound plain kind read))
  · subst eq
    exact (execCopyElement_goes at_cl slot goes).trans (congrArg _ (doElement_answered sound answered bytes))
  · exact ⟨_, execCopyJobFinish_ends at_cl slot runs spent, st_finishJob s cl j .done⟩

end Sys2Proof.Machine
end

section
/-! PROOFS. The events of the fabric (07 R159, R163-R170, R179, R180; 08 R201, R208): beats of the mesh, misses and page faults,
invalidations, interleave domains, memory errors, reservations and race tags. -/

namespace Sys2Proof.Machine

/-! ### A beat of the mesh -/

section
variable {s : State} {b : Beat} {rest : List Beat} (first : takeFirst (fun b => b.at_ ≤ s.cycle) s.sched.beats = some (b, rest))
include first

/-- The first beat leaves the mesh before it moves. -/
theorem execMeshBeat_first : exec .meshBeat s = .next
    (let u := s.mapSched fun m => { m with beats := rest }
     if b.port = 5 then
       if (s.core (coreAt b.router b.core)).occ = some b.occ then receiveBeat u (coreAt b.router b.core) b.ch b.val
       else dropBeat u b.router.toNat
     else match takers u b with
       | [] => dropBeat u b.router.toNat
       | l => l.foldl (fun s e => moveBeat s b e) u) := by
  change execMeshBeat s = _
  unfold execMeshBeat
  rw [first] <;> rfl

theorem execMeshBeat_taken (port : b.port ≠ 5) (taken : takers (s.mapSched fun m => { m with beats := rest }) b ≠ []) :
    exec .meshBeat s = .next ((takers (s.mapSched fun m => { m with beats := rest }) b).foldl (fun s e => moveBeat s b e)
      (s.mapSched fun m => { m with beats := rest })) := by
  rw [execMeshBeat_first first]
  dsimp only
  rw [if_neg port]
  split
  · contradiction
  · rfl
end

/-- An entry of a running program that takes the beat is among the takers. -/
theorem mem_takers {s : State} {b : Beat} {id : Nat} {o : Occ} {r : Router} {e : RouterEntry} (listed : (id, o) ∈ occList s)
    (router : o.router = some r) (owns : o.ownsPorts = true) (mem : e ∈ r.entries) (takes : takesBeat b (r.phaseAt s.cycle) e = true) :
    e ∈ takers s b := by
  refine List.mem_flatMap.mpr ⟨(id, o), listed, ?_⟩
  simp only [router, owns, if_true]
  exact List.mem_filter.mpr ⟨mem, takes⟩

/-- Settles O8: where the first beat stands, and whether an entry takes it. -/
theorem meshBeatMoves : Obligations.MeshBeatMoves := by
  intro s b rest first
  refine ⟨fun port held => ?_, fun port lost => ?_, fun port none => ?_, execMeshBeat_taken first,
    fun id o r e listed router owns mem takes => mem_takers listed router owns mem takes⟩
  · rw [execMeshBeat_first first, if_pos port, if_pos held]
  · rw [execMeshBeat_first first, if_pos port, if_neg lost]
  · rw [execMeshBeat_first first, if_neg port, none]

/-! ### Misses and page faults -/

theorem misses_mapMiss (s : State) (h : BitVec 8) (e : Nat) (f : Miss → Miss) :
    tabGet none ((mapMiss s h e f).slice h).misses e = (tabGet none (s.slice h).misses e).map f := by
  rw [mapMiss, slice_mapSlice, if_pos rfl, tabGet_tabPut_same]

/-- The only miss of a slice, held, goes to a mailbox with room. -/
theorem execMailboxPost_one {s : State} {h : BitVec 8} {k : Nat} {m : Miss} (at_h : s.ev.ix = h.toNat) (only : (s.slice h).misses = [(k, some m)])
    (held : m.stage = .held) (room : (mailOf s h).length < 32) :
    exec .mailboxPost s = .next ((mapMiss s h k fun m => { m with stage := .posted }).mapMem fun q =>
      { q with mail := tabPut [] q.mail (walkerOf h).toNat (tabGet [] q.mail (walkerOf h).toNat ++ [{ slice := h, entry := BitVec.ofNat 6 k }]) }) := by
  change execMailboxPost s = _
  simp only [execMailboxPost, at_h, BitVec.ofNat_toNat, BitVec.setWidth_eq, only, List.foldl_cons, List.foldl_nil, held, room, decide_true,
    Bool.and_self, if_true]

theorem ctx_beginInval (s : State) (x : BitVec 6) (kind va : Nat) :
    ((beginInval s x kind va).ctx x).busy = true ∧ ((beginInval s x kind va).ctx x).inval = some (kind, va) := by
  rw [beginInval, ctx_mapCtx_same]
  exact ⟨rfl, rfl⟩

/-- No slice keeps a translation of an invalidated range. -/
theorem invalidate_drops (s : State) (x : BitVec 6) (r : Nat × Nat) (h : BitVec 8) :
    ∀ t ∈ ((invalidate s x r).slice h).tlb, transIn r x t = false := by
  intro t mem
  rw [invalidate, State.slice, State.mapMem_mem, tabGet_tabMap _ _ _ rfl] at mem
  simpa using (List.mem_filter.mp mem).2

theorem endInval_ends {s : State} {x : BitVec 6} {r : Nat × Nat} (runs : (s.ctx x).inval = some r) :
    ((endInval s x).ctx x).busy = false ∧ ((endInval s x).ctx x).inval = none ∧
      ∀ h, ∀ t ∈ ((endInval s x).slice h).tlb, transIn r x t = false := by
  unfold endInval
  rw [runs]
  dsimp only
  rw [ctx_mapCtx_same]
  exact ⟨rfl, rfl, invalidate_drops _ x r⟩

/-- A thread whose response arrives runs on. -/
theorem execSliceResponse_runs {s : State} {c : BitVec 10} {n : BitVec 3} {line : Nat} (core : s.ev.core = c)
    (thread : s.ev.thread = n.setWidth 4) (waits : (s.thread c n).st = .response line) :
    reaches (exec .sliceResponse s) fun t => (t.thread c n).st = .running := by
  have low : s.ev.thread.setWidth 3 = n := by
    rw [thread, BitVec.setWidth_setWidth_of_le _ (by decide), BitVec.setWidth_eq]
  refine ⟨_, rfl, ?_⟩
  rw [core, low, waits]
  dsimp only
  rw [thread_mapThread_same]

/-- Settles O9, event by event. -/
theorem translationEventsTakeEffect : Obligations.TranslationEventsTakeEffect := by
  intro s
  refine ⟨fun h k m at_h only held room => ?_, fun h m at_h found => ?_, fun h e only => ?_, fun h e only => ⟨?_, ?_⟩,
    ⟨_, rfl, ctx_beginInval ..⟩, ⟨_, rfl, ctx_beginInval ..⟩, ⟨_, rfl, ctx_beginInval ..⟩,
    fun r runs => ⟨_, rfl, endInval_ends runs⟩, fun c n line core thread waits => execSliceResponse_runs core thread waits⟩
  · refine ⟨_, execMailboxPost_one at_h only held room, ?_, ?_⟩
    · refine (congrArg (Option.map (·.stage)) (misses_mapMiss s h k _)).trans ?_
      rw [only]
      simp [tabGet]
    · rw [mailOf, State.mapMem_mem, tabGet_tabPut_same]
      rfl
  · change execPagefault s = _
    simp only [execPagefault, at_h, BitVec.ofNat_toNat, BitVec.setWidth_eq, found]
  · change execTranslationTimeout s = _
    rw [execTranslationTimeout, only]
    rfl
  · change execXinvalResume s = _
    rw [execXinvalResume, answerFault, only]
    rfl
  · change execXinvalFail s = _
    rw [execXinvalFail, answerFault, only]
    rfl

/-! ### Interleave domains -/

theorem dom_mapDom (s : State) (d n : Nat) (f : Dom → Dom) : (mapDom s d f).dom n = if d = n then f (s.dom d) else s.dom n := by
  simp only [mapDom, State.dom, State.mapSched_sched, tabGet_tabPut]

/-- One change made to every domain of a list; it may be made twice. -/
theorem dom_foldl_mapDom {f : Dom → Dom} (twice : ∀ k, f (f k) = f k) (l : List Nat) (s : State) (n : Nat) :
    (l.foldl (fun s d => mapDom s d f) s).dom n = if n ∈ l then f (s.dom n) else s.dom n := by
  induction l generalizing s with
  | nil => rfl
  | cons d l ih =>
    rw [List.foldl_cons, ih, dom_mapDom]
    by_cases same : d = n
    · subst same
      simp [twice]
    · simp [same, Ne.symm same]

theorem dom_setPending (s : State) (l : List DomChange) (n : Nat) :
    (setPending s l).dom n = if n ∈ l.flatMap (affected s) then { s.dom n with pending := true } else s.dom n :=
  dom_foldl_mapDom (f := fun k => { k with pending := true }) (fun _ => rfl) _ s n

theorem domChanges_setPending (s : State) (l : List DomChange) : (setPending s l).sched.domChanges = s.sched.domChanges :=
  foldl_keeps (fun u => u.sched.domChanges) (f := fun s n => mapDom s n fun k => { k with pending := true }) (fun _ _ => rfl) _ s

/-- The command processor's registers are no part of the stores. -/
theorem sched_blind : BlindToStores State.sched := ⟨fun _ _ => rfl, fun _ _ _ => rfl, fun _ _ _ => rfl, fun _ _ => rfl⟩

theorem sched_foldl_evictLine (s : State) (l : List Nat) : (l.foldl evictLine s).sched = s.sched :=
  foldl_keeps State.sched (evictLine_blind sched_blind) l s

theorem sched_dropReservations (s : State) (a : Agent) : (dropReservations s a).sched = s.sched :=
  foldl_keeps State.sched (fun u e => by split <;> rfl) _ s

/-- Whatever joining a queue comes to, the command processor's registers stand. -/
theorem sched_joinQueue (s : State) (q granule : Nat) (a : Agent) :
    match joinQueue s q granule a with
    | .full => True
    | .held t | .waits t => t.sched = s.sched := by
  unfold joinQueue
  dsimp only
  generalize (_ || _) = full
  cases full with
  | true => trivial
  | false =>
    have kept := sched_dropReservations s a
    simp only [Bool.false_eq_true, if_false]
    generalize holds _ q granule a = held
    cases held with
    | true => exact kept
    | false => exact kept

theorem sched_walkInstall (s : State) (x : BitVec 6) (va : Nat) : ((walkInstall s x va).getD s).sched = s.sched := by
  unfold walkInstall
  split <;> rfl

theorem sched_serveHeld (s : State) (w : LrwHold) : (serveHeld s w).sched = s.sched := by
  unfold serveHeld
  extract_lets th u
  split
  · rfl
  · have walked : u.sched = s.sched := by
      unfold u
      split
      · rfl
      · exact sched_walkInstall s w.ctx w.va
    clear_value u
    refine Eq.trans ?_ walked
    split
    · rfl
    · next pa _ =>
      have joined := sched_joinQueue u (sliceQueue (homeSlice u w.ctx w.va)) (physWordKey pa) (.thread w.core w.thread)
      split
      · rfl
      · next eq => rw [eq] at joined; exact joined
      · next eq => rw [eq] at joined; exact joined

/-- The end of a change as the command processor's registers show it: PENDING is cleared, but for the changes that still wait. -/
theorem sched_endChange (s : State) (old : List Nat) (r : List DomChange) :
    (endChange s old r).sched = (setPending (old.foldl (fun s n => mapDom s n fun k => { k with pending := false }) s) r).sched :=
  foldl_keeps State.sched sched_serveHeld _ _

theorem endChange_domChanges (s : State) (old : List Nat) (r : List DomChange) : (endChange s old r).sched.domChanges = s.sched.domChanges := by
  rw [sched_endChange, domChanges_setPending]
  exact foldl_keeps (fun u => u.sched.domChanges) (f := fun s n => mapDom s n fun k => { k with pending := false }) (fun _ _ => rfl) old s

theorem endChange_ctx (s : State) (old : List Nat) (r : List DomChange) (x : BitVec 6) : (endChange s old r).ctx x = s.ctx x := by
  rw [State.ctx, sched_endChange]
  exact (setPending_ctx _ r x).trans (foldl_keeps (State.ctx · x) (fun u n => mapDom_ctx u n _ x) old s)

/-- The end of a change leaves where a domain lies alone, and nothing is pending where no change waits. -/
theorem endChange_dom (s : State) (old : List Nat) (r : List DomChange) (n : Nat) :
    ((endChange s old r).dom n).base = (s.dom n).base ∧ ((endChange s old r).dom n).mask = (s.dom n).mask ∧
      (n ∈ old → r = [] → ((endChange s old r).dom n).pending = false) := by
  have stands : (endChange s old r).dom n =
      (setPending (old.foldl (fun s n => mapDom s n fun k => { k with pending := false }) s) r).dom n := by
    rw [State.dom, sched_endChange]
    rfl
  have cleared := dom_foldl_mapDom (f := fun k => { k with pending := false }) (fun _ => rfl) old s n
  rw [stands, dom_setPending, cleared]
  refine ⟨?_, ?_, fun mem none => ?_⟩
  · split <;> split <;> rfl
  · split <;> split <;> rfl
  · subst none
    rw [if_pos mem]
    rfl

/-- The oldest change, once its queues have drained. -/
theorem execDomainChangeComplete_drained {s : State} {d : DomChange} {r : List DomChange} (oldest : s.sched.domChanges = d :: r)
    (ready : drained s d = true) : exec .domainChangeComplete s = .next
      (endChange (applyChange (((changedLines s d).foldl evictLine s).mapSched fun m => { m with domChanges := r }) d) (affected s d) r) := by
  change execDomainChangeComplete s = _
  simp only [execDomainChangeComplete, oldest, ready, Bool.not_true, Bool.false_eq_true, if_false]

theorem execDomselWrite_own {s : State} (seen : reachable s s.ev.who = true) (own : s.ev.who = .fn (fnOf s.ev.ctx)) :
    exec .domselWrite s = .next (writeDomsel s s.ev.ctx s.ev.value) := by
  change execDomselWrite s = _
  rw [execDomselWrite, if_pos (by simp [seen, ← own])]

/-- A region whose number a write of DOMSEL changes is affected under the number it has. -/
theorem mem_affected_sel {s : State} {x : BitVec 6} {v : Word} {j : Nat} (region : j < 8)
    (moves : fieldOf (s.ctx x).domsel (6 * j) 6 ≠ fieldOf v (6 * j) 6) : fieldOf (s.ctx x).domsel (6 * j) 6 ∈ affected s (.sel x v) :=
  List.mem_map.mpr ⟨j, List.mem_filter.mpr ⟨List.mem_range.mpr region, decide_eq_true moves⟩, rfl⟩

/-- Settles O10: the two writes, then the completion of either change. -/
theorem domainEventsTakeEffect : Obligations.DomainEventsTakeEffect := by
  intro s
  refine ⟨fun d seen owner at_d power aligned => ?_, fun seen own unused => ?_, fun seen own used => ?_, fun d b m r oldest ready => ?_,
    fun x v r oldest ready => ?_⟩
  · have written : exec .domcfgWrite s = .next ((mapDom s d.toNat fun k => { k with pending := true }).mapSched fun k =>
        { k with domChanges := k.domChanges ++ [.cfg d (s.ev.value.extractLsb' 0 8) (s.ev.value.extractLsb' 8 8)] }) := by
      change execDomcfgWrite s = _
      simp only [execDomcfgWrite, writeDomcfg, ownerWrite_owner _ seen owner, at_d, BitVec.ofNat_toNat, BitVec.setWidth_eq, power, aligned,
        ne_eq, not_true, decide_false, Bool.or_self, Bool.false_eq_true, if_false]
    have dom := dom_mapDom s d.toNat d.toNat fun k => { k with pending := true }
    rw [if_pos rfl] at dom
    exact ⟨_, written, (congrArg Dom.pending dom :), (congrArg Dom.base dom :), rfl⟩
  · refine ⟨_, execDomselWrite_own seen own, ?_⟩
    rw [writeDomsel, if_neg (by simp [unused])]
    exact congrArg Ctx.domsel (ctx_mapCtx_same ..)
  · refine ⟨_, execDomselWrite_own seen own, ?_⟩
    rw [writeDomsel, if_pos used]
    refine ⟨congrArg Ctx.domsel (setPending_ctx s _ _), congrArg (· ++ _) (domChanges_setPending s _), fun j region moves => ?_⟩
    have pending := dom_setPending s [.sel s.ev.ctx (putField s.ev.value 48 16 0)] (fieldOf (s.ctx s.ev.ctx).domsel (6 * j) 6)
    rw [if_pos (by simpa using mem_affected_sel region moves)] at pending
    exact congrArg Dom.pending pending
  · refine ⟨_, execDomainChangeComplete_drained oldest ready, endChange_domChanges .., ?_⟩
    obtain ⟨base, mask, clear⟩ := endChange_dom (applyChange (((changedLines s (.cfg d b m)).foldl evictLine s).mapSched fun q =>
      { q with domChanges := r }) (.cfg d b m)) (affected s (.cfg d b m)) r d.toNat
    rw [base, mask, applyChange, dom_mapDom, if_pos rfl]
    exact ⟨rfl, rfl, clear (List.mem_singleton.mpr rfl)⟩
  · refine ⟨_, execDomainChangeComplete_drained oldest ready, endChange_domChanges .., ?_⟩
    rw [endChange_ctx, applyChange, ctx_mapCtx_same]

/-! ### Memory errors, reservations and race tags -/

/-- A corrected error is counted in its quadrant, wherever it is. -/
theorem execCorrectedError_counts (s : State) : reaches (exec .correctedError s) fun t =>
    tabGet 0 t.mgmt.eccC (quadOfSite s.ev.site).toNat = tabGet 0 s.mgmt.eccC (quadOfSite s.ev.site).toNat + 1 ∧
    match coreOfSite s.ev.site with
    | some c => (t.core c).eccLeft = 25
    | none => t.cores = s.cores := by
  refine ⟨_, rfl, ?_⟩
  generalize coreOfSite s.ev.site = site
  cases site with
  | none => exact ⟨tabGet_tabPut_same .., rfl⟩
  | some c => exact ⟨tabGet_tabPut_same .., congrArg Core.eccLeft (core_mapCore_same ..)⟩

theorem execUncorrectableError_scratchpad {s : State} {c : BitVec 10} {o : BitVec 20} (site : s.ev.site = .scratchpad c o) :
    exec .uncorrectableError s = .next ((countUncorr s (quadOf c)).mapMem fun m =>
      { m with spoison := tabPut false m.spoison (spadWordKey c o.toNat) true }) := by
  change execUncorrectableError s = _
  simp only [execUncorrectableError, site, quadOfSite]

theorem execUncorrectableError_memory {s : State} {p : BitVec 52} (site : s.ev.site = .memory p) :
    exec .uncorrectableError s = .next ((countUncorr s (quadOfPhys p.toNat)).mapMem fun m =>
      { m with poison := tabPut false m.poison (p.toNat / 8) true }) := by
  change execUncorrectableError s = _
  simp only [execUncorrectableError, site, quadOfSite]

theorem execUncorrectableError_register {s : State} {c : BitVec 10} (site : s.ev.site = .core c) (register : s.ev.flag = false) :
    exec .uncorrectableError s = .next ((countUncorr s (quadOf c)).mapCore c fun k =>
      { k with rpoison := tabPut false k.rpoison s.ev.ix true }) := by
  change execUncorrectableError s = _
  simp only [execUncorrectableError, site, quadOfSite, register, Bool.false_eq_true, if_false]

/-- Settles O11, event by event. -/
theorem errorEventsTakeEffect : Obligations.ErrorEventsTakeEffect := by
  intro s
  obtain ⟨t, corrects, counted, core⟩ := execCorrectedError_counts s
  refine ⟨fun c at_c => ?_, fun outside => ?_, fun last => ⟨_, rfl, ?_⟩, fun c o site => ?_, fun p site => ?_, fun c site register => ?_, rfl,
    fun n at_n => ⟨_, rfl, fun k => ?_⟩⟩
  · rw [at_c] at core
    exact ⟨t, corrects, core, counted⟩
  · rw [outside] at core
    exact ⟨t, corrects, core, counted⟩
  · exact (congrArg Core.eccLeft (core_mapCore_same ..)).trans (by rw [if_pos last])
  · exact ⟨_, execUncorrectableError_scratchpad site, by simp, tabGet_tabPut_same ..⟩
  · exact ⟨_, execUncorrectableError_memory site, by simp⟩
  · exact ⟨_, execUncorrectableError_register site register, by simp⟩
  · refine (tabGet_tabMap (d := RaceTag.none) _ s.mem.stags k (ite_self _)).trans ?_
    simp [at_n, and_assoc]

end Sys2Proof.Machine
end

section
/-! PROOFS. Thread placement, tracing, vectors on the static mesh, live masks and migration (19 R462-R467). -/

namespace Sys2Proof.Machine

/-! ### TSPAWN and TWAKE (R462) -/

section
variable {s : State} {f : ESpawnForm} (first : s.cur.retry = false) (runs : executes s f.g = true) (passes : spawnTrap s f = none)
  {o : BitVec 10} (target : (if f.other then coreAt (clusterOf s.me) ((readR s f.b).setWidth 4) else s.me) = o)
include first runs passes target

/-- What becomes of a pointer to core o, as the occurrence of that core and its ready queue have it. -/
theorem spawnOp_next (wake : Bool) : spawnOp s f wake = .next
    (if (s.core o).occ ≠ s.myOcc || s.myOcc.isNone then finish (writeE s f.d 2)
     else if (s.core o).readyq.length ≥ 256 then finish (writeE s f.d 0)
     else if wake then finish (writeE (appendReady s o (.of (readR s f.a) true)) f.d 1)
     else match s.cur.agent with
      | .prim c => finish (writeE (appendReady (issueAccess s (newAccess s (.spawn o) 6 6 (readR s f.a) [])) o (.made (readR s f.a) c)) f.d 1)
      | .thread c t => match spawnWrite (releaseReady s 1) c (t.setWidth 3) s.myCtx (readR s f.a) with
        | .wait s => s
        | .fail w => takeTrap s (trapAt w (readR s f.a))
        | .ok u => finish (writeE (appendReady u o (.of (readR s f.a) false)) f.d 1)) := by
  subst target
  rw [spawnOp, passes, runE_next _ runs first]
  simp only [eA_first first, eB_first first, State.myCluster] <;> rfl

theorem spawnOp_elsewhere (wake : Bool) (other : (s.core o).occ ≠ s.myOcc) : spawnOp s f wake = .next (finish (writeE s f.d 2)) := by
  rw [spawnOp_next first runs passes target, if_pos (by simp [other])]

variable (held : s.myOcc.isSome = true) (own : (s.core o).occ = s.myOcc)
include held own

theorem spawnOp_full (wake : Bool) (full : 256 ≤ (s.core o).readyq.length) : spawnOp s f wake = .next (finish (writeE s f.d 0)) := by
  rw [spawnOp_next first runs passes target, if_neg (by simp [own, Option.isSome_iff_ne_none.mp held]), if_pos full]

theorem execTwake_room (room : (s.core o).readyq.length < 256) :
    exec (.twake f) s = .next (finish (writeE (appendReady s o (.of (readR s f.a) true)) f.d 1)) := by
  change spawnOp s f true = _
  rw [spawnOp_next first runs passes target, if_neg (by simp [own, Option.isSome_iff_ne_none.mp held]), if_neg (Nat.not_le.mpr room),
    if_pos rfl]

/-- A primary's pointer is made visible by its release, which is on its way. -/
theorem execTspawn_prim (room : (s.core o).readyq.length < 256) {c : BitVec 10} (agent : s.cur.agent = .prim c) :
    exec (.tspawn f) s = .next (finish (writeE (appendReady
      (s.mapCore c fun k => { k with accs := k.accs ++ [newAccess s (.spawn o) 6 6 (readR s f.a) []] }) o (.made (readR s f.a) c)) f.d 1)) := by
  change spawnOp s f false = _
  rw [spawnOp_next first runs passes target, if_neg (by simp [own, Option.isSome_iff_ne_none.mp held]), if_neg (Nat.not_le.mpr room),
    if_neg Bool.false_ne_true, agent, ← me_prim agent]
  rfl

/-- A thread's pointer follows its own write of the frame's STATE. -/
theorem execTspawn_thread (room : (s.core o).readyq.length < 256) {c : BitVec 10} {n : BitVec 3} (agent : s.cur.agent = .thread c n) {t : State}
    (written : spawnWrite (releaseReady s 1) c n s.myCtx (readR s f.a) = .ok t) :
    exec (.tspawn f) s = .next (finish (writeE (appendReady t o (.of (readR s f.a) false)) f.d 1)) := by
  change spawnOp s f false = _
  rw [spawnOp_next first runs passes target, if_neg (by simp [own, Option.isSome_iff_ne_none.mp held]), if_neg (Nat.not_le.mpr room),
    if_neg Bool.false_ne_true, agent]
  dsimp only
  rw [BitVec.setWidth_eq, written]
end

/-! ### The other operations (R463-R467) -/

/-- A trace record names its agent as its source. -/
theorem execTrace_next {s : State} {f : E3Form} (first : s.cur.retry = false) (runs : executes s f.g = true) :
    exec (.trace f) s = .next (finish (traceRecord s (quadOf s.me)
      (match s.cur.agent with
        | .prim _ => s.me.toNat % 256
        | .thread _ t => 0x1000 + 8 * (s.me.toNat % 256) + t.toNat)
      (fieldOf (readR s f.a) 0 8) s.myCtx (payload2 (readR s f.d).toNat (readR s f.b).toNat))) := by
  change execTrace f s = _
  rw [execTrace, runE_next _ runs first]
  simp only [eA_first first, eB_first first, eOperand_first first] <;> rfl

theorem execVsend_next {s : State} {f : MeshForm} {c : BitVec 10} {r : Router} (first : s.cur.retry = false) (agent : s.cur.agent = .prim c)
    (runs : executes s f.g = true) (router : routerOf s c = some r) (passes : vsendTrap s f = none) :
    exec (.vsend f) s = .next (s.mapCore c fun k => { k with inject := k.inject ++
      [{ ch := f.ch, val := readV s c f.v, sent := 0, phase := (r.phaseAt s.cycle + 1) % r.period }] }) := by
  change execVsend f s = _
  rw [execVsend, passes, runE_next _ runs first]
  simp only [me_prim agent, router]

theorem beatsVector_four (b0 b1 b2 b3 : BitVec 512) : beatsVector [b0, b1, b2, b3] = (b3 ++ b2 ++ b1 ++ b0).setWidth 2048 := by
  rw [BitVec.setWidth_eq, BitVec.append_assoc, BitVec.append_assoc]
  rfl

theorem execVrecv_next {s : State} {f : MeshForm} {c : BitVec 10} {b0 b1 b2 b3 : BitVec 512} (first : s.cur.retry = false)
    (agent : s.cur.agent = .prim c) (runs : executes s f.g = true) (beats : recvBuf (s.core c) f.ch = [b0, b1, b2, b3])
    (whole : (s.core c).ovf.getLsbD f.ch.toNat = false) :
    exec (.vrecv f) s = .next (clearRecv (writeV s c f.v ((b3 ++ b2 ++ b1 ++ b0).setWidth 2048) 4) c f.ch) := by
  have passes : vrecvTrap s f = none := by
    simp only [vrecvTrap, ifExecutes, me_prim agent, beats, whole, List.length_cons, List.length_nil, Bool.or_false, runs, if_true]
    rfl
  change execVrecv f s = _
  rw [execVrecv, passes]
  dsimp only
  rw [runE_next _ runs first, me_prim agent, beats, beatsVector_four]

theorem execLive_next {s : State} {f : LiveForm} {c : BitVec 10} {n : BitVec 3} (first : s.cur.retry = false) (agent : s.cur.agent = .thread c n)
    (runs : executes s f.g = true) (passes : liveTrap s f = none) : exec (.live f) s = .next
      (finish (s.mapThread c n fun th => { th with live := (readB s f.b).setWidth 32 &&& 0xFFFFFFFE })) := by
  change execLive f s = _
  rw [execLive, passes, runE_next _ runs first, agent]
  rfl

theorem execMigr_next {s : State} {f : MigrForm} {c : BitVec 10} {n : BitVec 3} (first : s.cur.retry = false) (agent : s.cur.agent = .thread c n)
    (runs : executes s f.g = true) (core : (readR s f.a).toNat < 1024) : exec (.migr f) s = .next
      (if readR s f.a = c.setWidth 64 then finish s else departTo s c n ((readR s f.a).setWidth 10) true (readMask [f.a])) := by
  have passes : migrTrap s f = none := by
    simp only [migrTrap, ifExecutes, eA_first first, ge_iff_le, Nat.not_le.mpr core, if_false, ite_self]
  have own : (readR s f.a).setWidth 10 = c ↔ readR s f.a = c.setWidth 64 := by
    constructor <;> intro same <;> bv_omega
  change execMigr f s = _
  rw [execMigr, passes, runE_next _ runs first, agent]
  simp only [eA_first first, own]

/-- Settles O45, operation by operation. -/
theorem placementMeshAndTraceComplete : Obligations.PlacementMeshAndTraceComplete := by
  intro s first
  refine ⟨fun f runs passes => ⟨fun held own room => ⟨?_, ?_, ?_⟩, fun held own full => ⟨?_, ?_⟩, fun other => ⟨?_, ?_⟩⟩,
    fun f runs => ⟨_, execTrace_next first runs, _, rfl, fun c agent => ?_, fun c n agent => ?_⟩,
    fun f c r agent runs router passes => execVsend_next first agent runs router passes,
    fun f c b0 b1 b2 b3 agent runs beats whole => execVrecv_next first agent runs beats whole,
    fun f c n agent runs passes => execLive_next first agent runs passes,
    fun f c n agent runs core => ⟨fun own => ?_, fun other => ?_⟩⟩
  · exact execTwake_room first runs passes rfl held own room
  · exact fun c agent => execTspawn_prim first runs passes rfl held own room agent
  · exact fun c n t agent written => execTspawn_thread first runs passes rfl held own room agent written
  · exact spawnOp_full first runs passes rfl held own false full
  · exact spawnOp_full first runs passes rfl held own true full
  · exact spawnOp_elsewhere first runs passes rfl false other
  · exact spawnOp_elsewhere first runs passes rfl true other
  · rw [agent, me_prim agent]
  · rw [agent, me_thread agent]
  · rw [execMigr_next first agent runs core, if_pos own]
  · rw [execMigr_next first agent runs core, if_neg other]

end Sys2Proof.Machine
end

section
/-! SUPPORT. Memory in its canonical form: what it says of a state and of what an operation answers, and the changes of a state that
do not reach the three stores (07 R177; 09 R221, R222). The sections after this one take it through the model's functions, a lemma for
each, in the order in which the model defines them. -/

namespace Sys2Proof.Machine

/-- Memory stands in its canonical form. -/
def MemWf (s : State) : Prop := s.mem.wf = true

/-! What an operation answers is canonical when the states in it are. -/

def OutWf : Host.Outcome State Fault Refusal → Prop
  | .next s => MemWf s
  | _ => True

def SndWf {α : Type} (p : α × State) : Prop := MemWf p.2

def OptWf : Option State → Prop
  | some s => MemWf s
  | none => True

def BothWf (p : Option State × State) : Prop := OptWf p.1 ∧ MemWf p.2

def GRes.Wf : GRes → Prop
  | .ok _ s | .wait s => MemWf s
  | .fail _ | .xlate => True

def FRes.Wf : FRes → Prop
  | .ok s | .wait s => MemWf s
  | .fail _ => True

def FRead.Wf : FRead → Prop
  | .ok _ s | .wait s => MemWf s
  | .fail _ => True

def CwRes.Wf : CwRes → Prop
  | .ok s | .wait s => MemWf s
  | .trap _ => True

def Join.Wf : Join → Prop
  | .held s | .waits s => MemWf s
  | .full => True

def EngRes.Wf : EngRes → Prop
  | .wait s => MemWf s
  | .ok | .fail => True

def SqRes.Wf : SqRes → Prop
  | .ok _ s => MemWf s
  | .reserve | .fail _ => True

def FLook.Wf : FLook → Prop
  | .wait s => MemWf s
  | .spad _ | .glob _ _ _ _ | .fail _ => True

def HRes.Wf : HRes → Prop
  | .done _ _ s | .wait s => MemWf s
  | .trap _ => True

def JumpRes.Wf : JumpRes → Prop
  | .go s | .wait s => MemWf s
  | .trap _ => True

def Prep.Wf : Prep → Prop
  | .ok s | .wait s | .refuse _ s | .gone s => MemWf s

def PeerRes.Wf : PeerRes → Prop
  | .ok _ s | .wait _ s => MemWf s
  | .fail => True

def JobRes.Wf : JobRes → Prop
  | .ok _ _ s | .wait s => MemWf s
  | .pause | .fault _ => True

def BarRes.Wf : BarRes → Prop
  | .ok _ _ s | .wait s | .abort s => MemWf s

def Plan.state : Plan → State
  | .done s | .run _ s => s

def Plan.Wf (p : Plan) : Prop := MemWf p.state

/-- What holds of an answer holds of what it is found to be. -/
theorem holds_of_eq {α : Type} {P : α → Prop} {a b : α} (eq : a = b) (h : P a) : P b := eq ▸ h

theorem Plan.wf_done {s : State} (h : MemWf s) : Plan.Wf (.done s) := h

theorem Plan.wf_run {i} {s : State} (h : MemWf s) : Plan.Wf (.run i s) := h

theorem sndWf_mk {α : Type} {a : α} {s : State} (h : MemWf s) : SndWf (a, s) := h

theorem ite_wf {p : Prop} [Decidable p] {s t : State} (hs : MemWf s) (ht : MemWf t) : MemWf (if p then s else t) := by
  split
  · exact hs
  · exact ht

/-- For the other answers, as `ite_wf` is for a state. -/
theorem ite_holds {α : Type} {P : α → Prop} {p : Prop} [Decidable p] {a b : α} (ha : P a) (hb : P b) : P (if p then a else b) := by
  split
  · exact ha
  · exact hb

/-- What changes a state outside its memory keeps the form. -/
theorem frame_wf {s t : State} (h : MemWf s) (same : t.mem = s.mem := by rfl) : MemWf t := (congrArg Mem.wf same).trans h

/-- `frame_wf` for a record written out, whose other fields need not be looked at. -/
theorem mk_wf {time power links owner mgmt trace sched mem clusters cores freeCount inbox agenda cur ev} (h : Mem.wf mem = true) :
    MemWf ⟨time, power, links, owner, mgmt, trace, sched, mem, clusters, cores, freeCount, inbox, agenda, cur, ev⟩ := h

/-- `foldl_wf`, of states alone. -/
theorem foldl_memWf {α : Type} {f : State → α → State} (hf : ∀ u a, MemWf u → MemWf (f u a)) {l : List α} {s : State} (h : MemWf s) :
    MemWf (l.foldl f s) := foldl_wf f hf l s h

/-- What changes memory outside its three stores keeps the form. -/
theorem stores_wf {s : State} {f : Mem → Mem} (h : MemWf s) (phys : (f s.mem).phys = s.mem.phys := by rfl)
    (spad : (f s.mem).spad = s.mem.spad := by rfl) (imem : (f s.mem).imem = s.mem.imem := by rfl) : MemWf (s.mapMem f) :=
  mapMem_wf h phys spad imem

section
variable {s : State} (h : MemWf s)
include h

theorem setCore_wf {c k} : MemWf (s.setCore c k) := frame_wf h rfl
theorem mapCore_wf {c f} : MemWf (s.mapCore c f) := frame_wf h rfl
theorem mapThread_wf {c n f} : MemWf (s.mapThread c n f) := frame_wf h rfl
theorem mapCluster_wf {n f} : MemWf (s.mapCluster n f) := frame_wf h rfl
theorem mapSched_wf {f} : MemWf (s.mapSched f) := frame_wf h rfl
theorem mapCtx_wf {n f} : MemWf (s.mapCtx n f) := frame_wf h rfl
theorem setOcc_wf {n o} : MemWf (s.setOcc n o) := frame_wf h rfl
theorem mapOcc_wf {n f} : MemWf (s.mapOcc n f) := frame_wf h rfl
theorem pushEvents_wf {l} : MemWf (s.pushEvents l) := frame_wf h rfl
theorem mapMgmt_wf {f} : MemWf (s.mapMgmt f) := frame_wf h rfl
theorem mapHalKey_wf {k f} : MemWf (s.mapHalKey k f) := frame_wf h rfl
theorem mapTime_wf {f} : MemWf (s.mapTime f) := frame_wf h rfl
theorem mapLink_wf {n f} : MemWf (s.mapLink n f) := frame_wf h rfl
theorem mapOwner_wf {f} : MemWf (s.mapOwner f) := frame_wf h rfl
theorem mapTrace_wf {n f} : MemWf (s.mapTrace n f) := frame_wf h rfl

end

end Sys2Proof.Machine
end

section
/-! SUPPORT. Canonical memory through the state's accessors and global memory (07 R177). -/

namespace Sys2Proof.Machine

set_option Elab.async false

variable {s : State}

/-! ### Counts, wakes and the state's accessors -/

theorem countRelease_wf (h : MemWf s) {a sc} : MemWf (countRelease s a sc) := frame_wf h (countRelease_mem ..)

theorem takeRelease_wf (h : MemWf s) {a sc r} : MemWf (takeRelease s a sc r) := frame_wf h (takeRelease_mem ..)

theorem takeReleases_wf (h : MemWf s) {a sc l} : MemWf (takeReleases s a sc l) := frame_wf h (takeReleases_mem ..)

theorem acquireWords_wf (h : MemWf s) {a sc l} : MemWf (acquireWords s a sc l) := frame_wf h (acquireWords_mem ..)

theorem acquireGranule_wf (h : MemWf s) {a sc key} : MemWf (acquireGranule s a sc key) := frame_wf h (acquireGranule_mem ..)

theorem countUncorr_wf (h : MemWf s) {q} : MemWf (countUncorr s q) := frame_wf h (countUncorr_mem ..)

theorem wakeSpad_wf (h : MemWf s) {ws} : MemWf (wakeSpad s ws) := frame_wf h (wakeSpad_mem ..)

theorem wakePhys_wf (h : MemWf s) {pa n} : MemWf (wakePhys s pa n) := frame_wf h (wakePhys_mem ..)

/-! ### Global memory and the scavenger data cache -/

theorem tlbTouch_wf (h : MemWf s) {home t} : MemWf (tlbTouch s home t) := stores_wf h

theorem requestMiss_wf (h : MemWf s) {home x va k who permission} :
    MemWf (requestMiss s home x va k who permission).2 := by
  unfold requestMiss
  split
  · exact h
  · split
    · exact stores_wf h
    · split
      · exact h
      · exact stores_wf h

theorem leaveMisses_wf (h : MemWf s) {w} : MemWf (leaveMisses s w) := stores_wf h

theorem setDcache_wf (h : MemWf s) {c l} : MemWf (setDcache s c l) := mapCore_wf h

theorem dcClean_wf (h : MemWf s) {c} : MemWf (dcClean s c) := setDcache_wf (foldl_memWf (fun _ _ hu => writeBackLine_wf _ _ _ hu) h)

theorem dcAcquire_wf (h : MemWf s) {c} : MemWf (dcAcquire s c) := setDcache_wf (dcClean_wf h)

theorem dcDrop_wf (h : MemWf s) {c va} : MemWf (dcDrop s c va) := dcOut_wf _ _ _ h

theorem dcEmpty_wf (h : MemWf s) {c} : MemWf (dcEmpty s c) := dcOut_wf _ _ _ h

theorem serveLines_wf (h : MemWf s) {x leaf va pa n} :
    MemWf (serveLines s x leaf va pa n) := foldl_memWf (fun _ _ hu => recallNear_wf _ _ (holdLine_wf _ _ _ _ _ hu)) h

theorem dcInsert_wf (h : MemWf s) {c d} :
    MemWf (dcInsert s c d) := by
  unfold dcInsert
  extract_lets l set
  split
  · exact setDcache_wf h
  · exact setDcache_wf (sendHome_wf _ _ _ h)

theorem dcFill_wf (h : MemWf s) {c x va leaf pa} :
    MemWf (dcFill s c x va leaf pa) := by
  unfold dcFill
  extract_lets u
  have hu : MemWf u := recallNear_wf _ _ (holdLine_wf _ _ _ _ _ h)
  exact dcInsert_wf hu

theorem dcPut_wf (h : MemWf s) {c d va n v rel} : MemWf (dcPut s c d va n v rel) := dcInsert_wf h

theorem threadMiss_wf (h : MemWf s) {c t x va k perm} :
    GRes.Wf (threadMiss s c t x va k perm) := by
  unfold threadMiss
  split
  · exact trivial
  · extract_lets _
    split
    · next eq => exact mapThread_wf (holds_of_eq (P := SndWf) eq (requestMiss_wf h))
    · next eq => exact mapThread_wf (holds_of_eq (P := SndWf) eq (requestMiss_wf h))

theorem threadHold_wf (h : MemWf s) {c t} : GRes.Wf (threadHold s c t) := mapThread_wf h

theorem threadServe_wf (h : MemWf s) {c t x va kind k} (hk : ∀ x y t, MemWf t → GRes.Wf (k x y t)) :
    GRes.Wf (threadServe s c t x va kind k) := by
  unfold threadServe
  split
  · exact threadMiss_wf h
  · exact hk _ _ _ (tlbTouch_wf h)

theorem threadLook_wf (h : MemWf s) {c t x va kind k} (hk : ∀ x y t, MemWf t → GRes.Wf (k x y t)) :
    GRes.Wf (threadLook s c t x va kind k) := ite_holds (threadHold_wf h) (threadServe_wf h fun _ _ _ hu => hk _ _ _ hu)

theorem noteReplica_wf (h : MemWf s) {q leaf pa} : MemWf (noteReplica s q leaf pa) := ite_wf (stores_wf h) h

theorem threadFill_wf (h : MemWf s) {c t x va kind} :
    GRes.Wf (threadFill s c t x va kind) := by
  unfold threadFill
  split
  · exact threadHold_wf h
  · exact mapThread_wf (stores_wf h)

theorem globLoad_wf (h : MemWf s) {c t x va n} :
    GRes.Wf (globLoad s c t x va n) := by
  unfold globLoad
  extract_lets a
  split
  · exact ite_holds (threadMiss_wf h) (ite_holds trivial (setDcache_wf (noteInfos_wf _ _ _ h)))
  · refine threadLook_wf h fun _ _ _ hu => ?_
    split
    · exact ite_holds trivial (noteRead_wf _ _ _ (recallNear_wf _ _ hu))
    · split
      · exact trivial
      · exact threadFill_wf (noteReplica_wf hu)

theorem globStore_wf (h : MemWf s) {c t x va n v} :
    GRes.Wf (globStore s c t x va n v) := by
  unfold globStore
  extract_lets +onlyGivenNames a
  split
  · extract_lets +onlyGivenNames pa
    split
    · exact threadMiss_wf h
    · split
      · exact trivial
      · split
        · exact homeWrite_wf _ _ _ _ _ _ _ _ _ (dcDrop_wf h)
        · extract_lets +onlyGivenNames u
          have hu : MemWf u := setLineMark_wf _ _ _ (holdLine_wf _ _ _ _ _ h)
          exact dcPut_wf hu
  · refine threadLook_wf h fun _ _ _ hu => ?_
    split
    · exact homeWrite_wf _ _ _ _ _ _ _ _ _ hu
    · split
      · exact trivial
      · exact ite_holds (homeWrite_wf _ _ _ _ _ _ _ _ _ hu) (threadFill_wf hu)

theorem homeReady_wf (h : MemWf s) {c x leaf sc va pa} :
    MemWf (homeReady s c x leaf sc va pa) :=
  ite_wf (evictLine_wf _ _ (dcDrop_wf h)) (recallNear_wf _ _ (holdLine_wf _ _ _ _ _ (dcDrop_wf h)))

theorem threadAcquire_wf (h : MemWf s) {c t sc keys} :
    MemWf (threadAcquire s c t sc keys) := ite_wf (dcAcquire_wf (acquireWords_wf h)) (acquireWords_wf h)

theorem threadTake_wf (h : MemWf s) {c t sc l} :
    MemWf (threadTake s c t sc l) := ite_wf (dcAcquire_wf (takeReleases_wf h)) (takeReleases_wf h)

theorem threadRelease_wf (h : MemWf s) {c sc} : MemWf (threadRelease s c sc) := ite_wf (dcClean_wf h) h

theorem globSyncRead_wf (h : MemWf s) {c t x sc va kind a} (ha : ∀ x t, MemWf t → GRes.Wf (a x t)) :
    GRes.Wf (globSyncRead s c t x sc va kind a) := by
  unfold globSyncRead
  refine threadLook_wf h fun _ _ _ hu => ?_
  split
  · split
    · exact ite_holds trivial (ha _ _ hu)
    · exact threadFill_wf hu
  · exact ite_holds (threadHold_wf hu) (ite_holds trivial (ha _ _ (homeReady_wf hu)))

theorem globPutWord_wf (h : MemWf s) {c sc va pa v rel} :
    MemWf (globPutWord s c sc va pa v rel) := by
  unfold globPutWord
  split
  · exact dcPut_wf h
  · extract_lets u
    have hu : MemWf u := physStore_wf _ _ _ _ (dropReplicas_wf _ _ (recallNear_wf _ _ h))
    exact wakePhys_wf (stores_wf hu)

theorem globSyncWrite_wf (h : MemWf s) {c t release sc va pa v} :
    MemWf (globSyncWrite s c t release sc va pa v) := by
  unfold globSyncWrite
  extract_lets +onlyGivenNames a
  split
  · extract_lets +onlyGivenNames u
    have hu : MemWf u := countRelease_wf (threadRelease_wf h)
    exact stores_wf (globPutWord_wf hu)
  · exact globPutWord_wf h

theorem placeAtomic_wf (h : MemWf s) {c x va pa leaf} :
    MemWf (placeAtomic s c x va pa leaf) := by
  unfold placeAtomic
  extract_lets ix n put
  split
  · exact h
  · split
    · exact setLineMark_wf _ _ _ (recallNear_wf _ _ (holdLine_wf _ _ _ _ _ (dcDrop_wf (ite_wf (mapCore_wf h) h))))
    · exact setLineMark_wf _ _ _ (dcFill_wf (recallNear_wf _ _ (dcDrop_wf (ite_wf (mapCore_wf h) h))))

theorem holdNear_wf (h : MemWf s) {c va} : MemWf (holdNear s c va) := setDcache_wf h

theorem walkInstall_wf (h : MemWf s) {x va} :
    OptWf (walkInstall s x va) := by
  unfold walkInstall
  split
  · exact trivial
  · exact stores_wf h

end Sys2Proof.Machine
end

section
/-! SUPPORT. Canonical memory through registers, frames, traps and operands (09, 10, 14). -/

namespace Sys2Proof.Machine

set_option Elab.async false

variable {s : State}

/-! ### Registers, records, frames and traps -/

theorem addPend_wf (h : MemWf s) {c d v bound} : MemWf (addPend s c d v bound) := frame_wf h (addPend_mem ..)

theorem addFlags_wf (h : MemWf s) {c vf ms bound} : MemWf (addFlags s c vf ms bound) := frame_wf h (addFlags_mem ..)

theorem writePrimS_wf (h : MemWf s) {c n v bound} : MemWf (writePrimS s c n v bound) := frame_wf h (writePrimS_mem ..)

theorem writePrimQ_wf (h : MemWf s) {c n v bound} : MemWf (writePrimQ s c n v bound) := frame_wf h (writePrimQ_mem ..)

theorem writeV_wf (h : MemWf s) {c n v bound} : MemWf (writeV s c n v bound) := frame_wf h (writeV_mem ..)

theorem writeM_wf (h : MemWf s) {c n v bound} : MemWf (writeM s c n v bound) := frame_wf h (writeM_mem ..)

theorem writeX_wf (h : MemWf s) {c t n v} : MemWf (writeX s c t n v) := frame_wf h (writeX_mem ..)

theorem writeF_wf (h : MemWf s) {c t n v} : MemWf (writeF s c t n v) := frame_wf h (writeF_mem ..)

theorem writeR_wf (h : MemWf s) {n v bound} : MemWf (writeR s n v bound) := frame_wf h (writeR_mem ..)

theorem writeP_wf (h : MemWf s) {n v bound} : MemWf (writeP s n v bound) := frame_wf h (writeP_mem ..)

theorem raiseFlags_wf (h : MemWf s) {vf bound} : MemWf (raiseFlags s vf bound) := frame_wf h (raiseFlags_mem ..)

theorem finish_wf (h : MemWf s) : MemWf (finish s) := frame_wf h (finish_mem ..)

theorem jumpTo_wf (h : MemWf s) {target} : MemWf (jumpTo s target) := frame_wf h (jumpTo_mem ..)

theorem sendMsix_wf (h : MemWf s) {fn vector} : MemWf (sendMsix s fn vector) := frame_wf h (sendMsix_mem ..)

theorem loseEvent_wf (h : MemWf s) {x} : MemWf (loseEvent s x) := frame_wf h (loseEvent_mem ..)

theorem queueCause_wf (h : MemWf s) {c cause} : MemWf (queueCause s c cause) := frame_wf h (queueCause_mem ..)

theorem killOccurrence_wf (h : MemWf s) {id st cause} :
    MemWf (killOccurrence s id st cause) := frame_wf h (killOccurrence_mem ..)

theorem stopGang_wf (h : MemWf s) {c r} : MemWf (stopGang s c r) := frame_wf h (stopGang_mem ..)

theorem frameWrite_wf (h : MemWf s) {c t x fp parts} :
    FRes.Wf (frameWrite s c t x fp parts) := by
  unfold frameWrite
  extract_lets a
  split
  · exact ite_holds trivial (ite_holds trivial (foldl_memWf (fun _ _ hu => plainWrite_wf _ _ _ _ hu) h))
  · refine ite_holds trivial ?_
    generalize look : threadLook s c t x fp .write _ = r
    have hr : GRes.Wf r := by
      refine holds_of_eq look (threadLook_wf h fun leaf pa t ht => ?_)
      extract_lets u
      have hu : MemWf u := foldl_memWf (fun _ _ hv => dcDrop_wf hv) ht
      exact ite_holds trivial (ite_holds (threadHold_wf hu) (foldl_memWf (fun _ _ hv => homeWriteAll_wf _ _ _ _ _ _ _ _ hv) hu))
    cases r with
    | ok _ u => exact hr
    | wait u => exact hr
    | fail _ => exact trivial
    | xlate => exact trivial

theorem frameRead_wf (h : MemWf s) {c t x fp} :
    FRead.Wf (frameRead s c t x fp) := by
  unfold frameRead
  extract_lets a p
  refine ite_holds (ite_holds trivial (ite_holds trivial h)) (ite_holds trivial ?_)
  generalize look : threadLook s c t x fp .read _ = r
  have hr : GRes.Wf r := holds_of_eq look (threadLook_wf h fun leaf pa u hu =>
    ite_holds (threadHold_wf hu) (ite_holds trivial (serveLines_wf (foldl_memWf (fun _ _ hv => dcDrop_wf hv) hu))))
  cases r with
  | ok _ u => exact hr
  | wait u => exact hr
  | fail _ => exact trivial
  | xlate => exact trivial

theorem freeThread_wf (h : MemWf s) {c t} : MemWf (freeThread s c t) := frame_wf h (freeThread_mem ..)

theorem takeThreadTrap_wf (h : MemWf s) {c t cause info} :
    MemWf (takeThreadTrap s c t cause info) := by
  unfold takeThreadTrap
  extract_lets th
  split
  · exact mapMgmt_wf (stores_wf (mapThread_wf h))
  · next x count u _ =>
    have hcount (v : State) (hv : MemWf v) : MemWf (count v) := ite_wf (countUncorr_wf hv) hv
    have hu : MemWf u := ite_wf h (mapThread_wf h)
    split
    · next eq => exact mapThread_wf (holds_of_eq (P := FRes.Wf) eq (frameWrite_wf hu))
    · exact frameFault_wf _ _ _ _ _ _ _ (freeThread_wf (hcount _ hu))
    · next eq =>
        exact eventRecord_wf _ _ _ _ _ _ (freeThread_wf (hcount _ (holds_of_eq (P := FRes.Wf) eq (frameWrite_wf hu))))

theorem takeTrap_wf (h : MemWf s) {t} :
    MemWf (takeTrap s t) := by
  unfold takeTrap
  split
  · exact takePrimTrap_wf _ _ _ h
  · exact takeThreadTrap_wf h

theorem resumeHeld_wf (h : MemWf s) {c} : MemWf (resumeHeld s c) := frame_wf h (resumeHeld_mem ..)

theorem failThread_wf (h : MemWf s) {f addr} :
    MemWf (failThread s f addr) := by
  unfold failThread
  split
  · exact h
  · exact takeTrap_wf h

theorem failPrim_wf (h : MemWf s) {c bundle slot f addr} : MemWf (failPrim s c bundle slot f addr) := mapCore_wf h

theorem failAccess_wf (h : MemWf s) {c a due f addr} : MemWf (failAccess s c a due f addr) := frame_wf h (failAccess_mem ..)

theorem keepCtl_wf (h : MemWf s) {c} : MemWf (keepCtl s c) := ite_wf (mapCore_wf h) h

/-! ### Codes and guards -/

theorem writeFloat_wf (h : MemWf s) {d r bound} : MemWf (writeFloat s d r bound) := raiseFlags_wf (writeR_wf h)

/-! ### Operands -/

theorem cwReady_wf (h : MemWf s) {b} :
    CwRes.Wf (cwReady s b) := by
  unfold cwReady
  split
  · next w o c t _ =>
      extract_lets va served
      have hserved (u) (hu : MemWf u) : CwRes.Wf (served u) := by
        unfold served
        split
        · exact ite_holds trivial hu
        · exact hu
      refine ite_holds trivial (ite_holds trivial (ite_holds trivial (ite_holds (hserved _ h) ?_)))
      generalize look : threadLook s c t _ va.toNat .read _ = r
      have hr : GRes.Wf r := holds_of_eq look (threadLook_wf h fun leaf pa u hu =>
        ite_holds (threadHold_wf hu) (mapCore_wf (recallNear_wf _ _ (holdLine_wf _ _ _ _ _ hu))))
      cases r with
      | ok _ u => exact hserved u hr
      | wait u => exact hr
      | fail _ => exact trivial
      | xlate => exact trivial
  · exact h

theorem writePCode_wf (h : MemWf s) {p v bound} : MemWf (writePCode s p v bound) := ite_wf h (writeP_wf h)

/-! ### Failed accesses -/

theorem goesOn_wf (h : MemWf s) {c a op v} : MemWf (goesOn s c a op v) := frame_wf h (goesOn_mem ..)

/-! ### How one operation runs -/

theorem runOp_wf (h : MemWf s) {t g body} (hbody : ∀ t, MemWf t → MemWf (body t)) :
    OutWf (runOp s t g body) := by
  unfold runOp
  split
  · exact takeTrap_wf h
  · exact ite_wf (hbody _ h) (finish_wf h)

theorem runB_wf (h : MemWf s) {g b body} (hbody : ∀ t, MemWf t → MemWf (body t)) :
    OutWf (runB s g b body) := by
  unfold runB
  split
  · split
    · next eq => exact hbody _ (holds_of_eq (P := CwRes.Wf) eq (cwReady_wf h))
    · next eq => exact holds_of_eq (P := CwRes.Wf) eq (cwReady_wf h)
    · exact takeTrap_wf h
  · exact finish_wf h

end Sys2Proof.Machine
end

section
/-! SUPPORT. Canonical memory through the memory operations (16). -/

namespace Sys2Proof.Machine

set_option Elab.async false

variable {s : State}

theorem issueAccess_wf (h : MemWf s) {a} : MemWf (issueAccess s a) := mapCore_wf h

theorem mapQueue_wf (h : MemWf s) {q f} : MemWf (mapQueue s q f) := stores_wf h

theorem dropReservations_wf (h : MemWf s) {a} : MemWf (dropReservations s a) := foldl_memWf (fun _ _ hu => ite_wf (mapQueue_wf hu) hu) h

theorem dropWaits_wf (h : MemWf s) {a} : MemWf (dropWaits s a) := foldl_memWf (fun _ _ hu => ite_wf (mapQueue_wf hu) hu) h

theorem dropOccWaits_wf (h : MemWf s) {id} : MemWf (dropOccWaits s id) := foldl_memWf (fun _ _ hu => ite_wf (mapQueue_wf hu) hu) h

theorem joinQueue_wf (h : MemWf s) {q granule a} :
    Join.Wf (joinQueue s q granule a) := by
  unfold joinQueue
  extract_lets +onlyGivenNames _ l barrel
  split
  · exact trivial
  · extract_lets +onlyGivenNames v
    have hv : MemWf v := mapQueue_wf (dropReservations_wf h)
    exact ite_holds hv hv

theorem landAt_wf (h : MemWf s) {c a d v} : MemWf (landAt s c a d v) := frame_wf h (landAt_mem ..)

theorem checkedPrim_wf (h : MemWf s) {c a r plain reads k} (hk : ∀ t, MemWf t → MemWf (k t)) :
    MemWf (checkedPrim s c a r plain reads k) := by
  unfold checkedPrim
  extract_lets other ps
  clear_value other
  have hmap (f : Access → Core → Core) : MemWf (match other with
      | some e => s.mapCore c (f e)
      | none => s) := by
    cases other
    · exact h
    · exact mapCore_wf h
  split
  · exact failAccess_wf (hmap _)
  · exact hk _ (hmap _)

theorem primAcquire_wf (h : MemWf s) {c a} : MemWf (primAcquire s c a) := frame_wf h (primAcquire_mem ..)

theorem lrwRead_wf (h : MemWf s) {c a} : MemWf (lrwRead s c a) := frame_wf h (lrwRead_mem ..)

theorem fenceAcquire_wf (h : MemWf s) {a sc} : MemWf (fenceAcquire s a sc) := takeReleases_wf h

theorem fenceRelease_wf (h : MemWf s) {a sc} : MemWf (fenceRelease s a sc) := stores_wf (countRelease_wf h)

theorem lagAccesses_wf (h : MemWf s) {c p} : MemWf (lagAccesses s c p) := mapCore_wf h

theorem earlyRelease_wf (h : MemWf s) {c sc key} :
    MemWf (earlyRelease s c sc key) := noteRelease_wf _ _ _ _ (countRelease_wf (lagAccesses_wf h))

theorem performMem_wf (h : MemWf s) {c a} :
    MemWf (performMem s c a) := by
  unfold performMem
  extract_lets ag
  generalize a.op = op
  cases op with
  | load n signed => exact checkedPrim_wf h fun _ hu => landAt_wf (noteRead_wf _ _ _ hu)
  | store n => exact checkedPrim_wf h fun _ hu => laggedWrite_wf _ _ _ _ _ hu
  | ldv => exact checkedPrim_wf h fun _ hu => ite_wf (mapCore_wf (noteRead_wf _ _ _ hu)) (landAt_wf (noteRead_wf _ _ _ hu))
  | stv => exact checkedPrim_wf h fun _ hu => laggedWrite_wf _ _ _ _ _ hu
  | gath vi => exact checkedPrim_wf h fun _ hu => landAt_wf (noteRead_wf _ _ _ hu)
  | scat vi => exact checkedPrim_wf h fun _ hu => laggedWrite_wf _ _ _ _ _ hu
  | lda => exact checkedPrim_wf h fun _ hu => primAcquire_wf hu
  | ptest => exact checkedPrim_wf h fun _ hu => primAcquire_wf hu
  | strl => exact checkedPrim_wf h fun _ hu => foldl_memWf (fun _ _ hv => syncWrite_wf _ _ _ _ _ _ hv) hu
  | praise => exact checkedPrim_wf h fun _ hu => foldl_memWf (fun _ _ hv => syncWrite_wf _ _ _ _ _ _ hv) hu
  | pwait n => exact checkedPrim_wf h fun _ hu => ite_wf (primAcquire_wf hu) (mapCore_wf hu)
  | pwaitLast => exact checkedPrim_wf h fun _ hu => primAcquire_wf hu
  | lrw =>
      refine checkedPrim_wf h fun u hu => ?_
      split
      · exact hu
      · split
        · exact landAt_wf (landAt_wf (dropReservations_wf hu))
        · next eq => exact lrwRead_wf (holds_of_eq (P := Join.Wf) eq (joinQueue_wf hu))
        · next eq => exact mapCore_wf (holds_of_eq (P := Join.Wf) eq (joinQueue_wf hu))
  | lrwRead => exact lrwRead_wf h
  | sch =>
      refine checkedPrim_wf h fun u hu => ?_
      split
      · exact hu
      · exact ite_wf (goesOn_wf hu) (landAt_wf hu)
  | schWrite =>
      generalize a.pieces = ps
      cases ps with
      | nil => exact h
      | cons p _ => exact ite_wf (landAt_wf (mapQueue_wf (syncWrite_wf _ _ _ _ _ _ h))) (landAt_wf h)
  | atomic op ord =>
      refine checkedPrim_wf h fun u hu => ?_
      split
      · exact hu
      · extract_lets old v w
        have hw : MemWf w := landAt_wf (ite_wf (acquireWords_wf hu) (noteRead_wf _ _ _ hu))
        split
        · exact goesOn_wf hw
        · exact goesOn_wf hw
  | atomWrite rel => exact foldl_memWf (fun _ _ hu => syncWrite_wf _ _ _ _ _ _ hu) h
  | fence acq =>
      cases acq
      · exact fenceRelease_wf h
      · exact fenceAcquire_wf h
  | hoistRel => exact earlyRelease_wf h
  | hoistAcq => exact acquireWords_wf h
  | _ => exact h

theorem departTo_wf (h : MemWf s) {c t o next extra} : MemWf (departTo s c t o next extra) := mapThread_wf h

theorem onGlob_wf (h : MemWf s) {a r k} (hr : GRes.Wf r) (hk : ∀ x t, MemWf t → MemWf (k x t)) :
    MemWf (onGlob s a r k) := by
  unfold onGlob
  split
  · exact hk _ _ hr
  · exact hr
  · exact failThread_wf h
  · exact takeTrap_wf h

theorem checkedThread_wf (h : MemWf s) {a r plain reads p k} (hk : ∀ t, MemWf t → MemWf (k t)) :
    MemWf (checkedThread s a r plain reads p k) := by
  unfold checkedThread
  split
  · exact failThread_wf h
  · exact hk _ h

theorem threadLoad_wf (h : MemWf s) {c t f n signed} :
    MemWf (threadLoad s c t f n signed) := by
  unfold threadLoad
  extract_lets a done
  have hdone (v u) (hu : MemWf u) : MemWf (done v u) := finish_wf (writeX_wf hu)
  clear_value done
  split
  · exact checkedThread_wf h fun u hu => hdone _ _ (plainRead_wf _ _ _ hu)
  · exact departTo_wf h
  · exact onGlob_wf h (globLoad_wf h) hdone

theorem threadStore_wf (h : MemWf s) {c t f n} :
    MemWf (threadStore s c t f n) := by
  unfold threadStore
  extract_lets a _
  split
  · exact checkedThread_wf h fun _ hu => finish_wf (plainWrite_wf _ _ _ _ hu)
  · exact departTo_wf h
  · exact onGlob_wf h (globStore_wf h) fun _ _ hu => finish_wf hu

theorem load_wf (h : MemWf s) {f n signed} :
    OutWf (load s f n signed) := by
  unfold load
  refine runOp_wf h fun _ hu => ?_
  split
  · exact issueAccess_wf hu
  · exact threadLoad_wf hu

theorem store_wf (h : MemWf s) {f n} :
    OutWf (store s f n) := by
  unfold store
  refine runOp_wf h fun _ hu => ?_
  split
  · exact issueAccess_wf hu
  · exact threadStore_wf hu

theorem issueRows_wf (h : MemWf s) {m op bound a ps d v} :
    MemWf (issueRows s m op bound a ps d v) := by
  unfold issueRows
  split
  · exact issueAccess_wf (issueAccess_wf h)
  · exact issueAccess_wf h

theorem threadAcqRead_wf (h : MemWf s) {c t f regs k} (hk : ∀ x t, MemWf t → MemWf (k x t)) :
    MemWf (threadAcqRead s c t f regs k) := by
  unfold threadAcqRead
  extract_lets a sc
  split
  · exact checkedThread_wf h fun _ hu => hk _ _ (threadAcquire_wf hu)
  · exact departTo_wf h
  · exact onGlob_wf h (globSyncRead_wf h fun _ _ hu => threadTake_wf hu) fun _ _ hu => hk _ _ hu

theorem threadRelWrite_wf (h : MemWf s) {c t f} :
    MemWf (threadRelWrite s c t f) := by
  unfold threadRelWrite
  extract_lets a sc _
  split
  · exact checkedThread_wf h fun _ hu => finish_wf (syncWrite_wf _ _ _ _ _ _ (threadRelease_wf hu))
  · exact departTo_wf h
  · exact onGlob_wf h (globSyncRead_wf h fun _ _ hu => globSyncWrite_wf hu) fun _ _ hu => finish_wf hu

theorem execLda_wf (h : MemWf s) {f} :
    OutWf (execLda f s) := by
  unfold execLda
  refine runOp_wf h fun _ hu => ?_
  split
  · exact issueAccess_wf hu
  · exact threadAcqRead_wf hu fun _ _ hv => finish_wf (writeX_wf hv)

theorem primRelease_wf (h : MemWf s) {f op} : MemWf (primRelease s f op) := issueAccess_wf h

theorem execStrl_wf (h : MemWf s) {f} :
    OutWf (execStrl f s) := by
  unfold execStrl
  refine runOp_wf h fun _ hu => ?_
  split
  · exact primRelease_wf hu
  · exact threadRelWrite_wf hu

theorem execPraise_wf (h : MemWf s) {f} :
    OutWf (execPraise f s) := by
  unfold execPraise
  refine runOp_wf h fun _ hu => ?_
  split
  · exact primRelease_wf hu
  · exact threadRelWrite_wf hu

theorem execPtest_wf (h : MemWf s) {f} :
    OutWf (execPtest f s) := by
  unfold execPtest
  refine runOp_wf h fun _ hu => ?_
  split
  · exact issueAccess_wf hu
  · exact threadAcqRead_wf hu fun _ _ hv => finish_wf (writePCode_wf (writeX_wf hv))

theorem threadPwait_wf (h : MemWf s) {c t f} :
    MemWf (threadPwait s c t f) := by
  unfold threadPwait
  extract_lets a sc n last sleep done
  split
  · exact checkedThread_wf h fun _ hu => ite_wf (mapThread_wf hu) (finish_wf (writePCode_wf (writeX_wf (threadAcquire_wf hu))))
  · exact departTo_wf h
  · exact onGlob_wf h (globSyncRead_wf h fun _ _ hu => ite_holds (mapThread_wf hu) (threadTake_wf hu)) fun _ _ hu => finish_wf
      (writePCode_wf (writeX_wf hu))

theorem execPwait_wf (h : MemWf s) {f} :
    OutWf (execPwait f s) := by
  unfold execPwait
  refine runOp_wf h fun _ hu => ?_
  split
  · exact issueAccess_wf hu
  · exact threadPwait_wf hu

theorem threadLrw_wf (h : MemWf s) {c t f q g k} (hk : ∀ t, MemWf t → MemWf (k t)) :
    MemWf (threadLrw s c t f q g k) := by
  unfold threadLrw
  extract_lets me
  split
  · exact ite_wf (hk _ h) h
  · split
    · exact finish_wf (writePCode_wf (writeX_wf (dropReservations_wf h)))
    · next eq => exact hk _ (holds_of_eq (P := Join.Wf) eq (joinQueue_wf h))
    · next eq => exact mapThread_wf (holds_of_eq (P := Join.Wf) eq (joinQueue_wf h))

theorem holdLrw_wf (h : MemWf s) {c t x va} : GRes.Wf (holdLrw s c t x va) := threadHold_wf (ite_wf h (stores_wf h))

theorem lrwLook_wf (h : MemWf s) {c t x sc va} :
    GRes.Wf (lrwLook s c t x sc va) :=
  ite_holds (holdLrw_wf h) (threadServe_wf h fun _ _ _ hu => ite_holds (threadHold_wf hu) (homeReady_wf hu))

theorem lrwAcquire_wf (h : MemWf s) {c t sc keys} :
    MemWf (lrwAcquire s c t sc keys) := threadAcquire_wf (foldl_memWf (fun _ _ hu => acquireGranule_wf hu) h)

theorem execLrw_wf (h : MemWf s) {f} :
    OutWf (execLrw f s) := by
  unfold execLrw
  refine runOp_wf h fun _ hu => ?_
  split
  · exact issueAccess_wf hu
  · next c _ _ =>
    extract_lets +onlyGivenNames a sc x done
    have hdone (v u) (hu : MemWf u) : MemWf (done v u) := finish_wf (writePCode_wf (writeX_wf hu))
    clear_value done
    split
    · exact checkedThread_wf hu fun _ hv => threadLrw_wf hv fun _ hw => ite_wf (failThread_wf hw) (hdone _ _ (lrwAcquire_wf hw))
    · exact departTo_wf hu
    · extract_lets +onlyGivenNames read
      have hread (pa u) (hu : MemWf u) : MemWf (read pa u) := by
        have hnear : MemWf (if sc = 4 then evictLine u pa else recallNear (dcDrop u c a.toNat) pa) :=
          ite_wf (evictLine_wf _ _ hu) (recallNear_wf _ _ (dcDrop_wf hu))
        exact ite_wf (failThread_wf hnear) (hdone _ _ (lrwAcquire_wf hnear))
      clear_value read
      refine ite_wf ?_ (onGlob_wf hu (lrwLook_wf hu) fun _ _ hv => threadLrw_wf hv fun _ hw => hread _ _ hw)
      split
      · exact hread _ _ hu
      · exact hu

theorem execSch_wf (h : MemWf s) {f} :
    OutWf (execSch f s) := by
  unfold execSch
  refine runOp_wf h fun _ hu => ?_
  extract_lets a
  split
  · exact issueAccess_wf hu
  · extract_lets sc _ me leave
    split
    · refine checkedThread_wf hu fun _ hv => ?_
      extract_lets q
      split
      · exact finish_wf (writePCode_wf (mapQueue_wf (syncWrite_wf _ _ _ _ _ _ (threadRelease_wf hv))))
      · exact finish_wf (writePCode_wf hv)
    · exact departTo_wf hu
    · exact onGlob_wf hu (threadServe_wf hu fun _ _ _ hv => ite_holds (threadHold_wf hv)
        (ite_holds (mapQueue_wf (globSyncWrite_wf (homeReady_wf hv))) hv)) fun _ _ hv => finish_wf (writePCode_wf hv)

theorem threadAtomic_wf (h : MemWf s) {c t f op} :
    MemWf (threadAtomic s c t f op) := by
  unfold threadAtomic
  extract_lets +onlyGivenNames a sc x y regs
  split
  · refine checkedThread_wf h fun u hu => ?_
    extract_lets +onlyGivenNames released old acquired written
    have hreleased : MemWf released := ite_wf (threadRelease_wf hu) hu
    have hacquired : MemWf acquired := ite_wf (acquireWords_wf hreleased) (noteRead_wf _ _ _ hreleased)
    have hwritten : MemWf written := by
      unfold written
      split
      · exact syncWrite_wf _ _ _ _ _ _ hacquired
      · exact hacquired
    exact finish_wf (writeX_wf (ite_wf (dcAcquire_wf hwritten) hwritten))
  · exact departTo_wf h
  · refine onGlob_wf h (threadLook_wf h fun leaf pa u hu => ?_) fun _ _ hu => finish_wf (writeX_wf hu)
    extract_lets +onlyGivenNames cx
    refine ite_holds trivial (ite_holds (threadHold_wf hu) ?_)
    extract_lets +onlyGivenNames released placed home old read ag acquired written
    have hplaced : MemWf placed := placeAtomic_wf (ite_wf (threadRelease_wf hu) hu)
    have hhome : MemWf home := ite_wf (homeReady_wf hplaced) hplaced
    have hacquired : MemWf acquired := ite_wf (takeReleases_wf hhome) (noteInfos_wf _ _ _ hhome)
    have hwritten : MemWf written := by
      unfold written
      split
      · exact globSyncWrite_wf hacquired
      · exact hacquired
    exact ite_wf (dcAcquire_wf (holdNear_wf hwritten)) (holdNear_wf hwritten)

theorem atomic_wf (h : MemWf s) {f op} :
    OutWf (atomic s f op) := by
  unfold atomic
  refine runOp_wf h fun _ hu => ?_
  split
  · exact issueAccess_wf hu
  · exact threadAtomic_wf hu

theorem execFence_wf (h : MemWf s) {f} :
    OutWf (execFence f s) := by
  unfold execFence
  refine runOp_wf h fun u hu => ?_
  split
  · extract_lets v
    have hv : MemWf v := ite_wf (issueAccess_wf hu) hu
    exact ite_wf (issueAccess_wf hv) hv
  · extract_lets sc released acquired cleaned
    have hreleased : MemWf released := ite_wf (fenceRelease_wf (threadRelease_wf hu)) hu
    have hacquired : MemWf acquired := fenceAcquire_wf hreleased
    have hcleaned : MemWf cleaned := ite_wf (ite_wf (dcAcquire_wf hacquired) hacquired) hreleased
    exact finish_wf hcleaned

theorem cacheOp_wf (h : MemWf s) {f k} (hk : ∀ x y z t, MemWf t → MemWf (k x y z t)) :
    OutWf (cacheOp s f k) := by
  unfold cacheOp
  refine runOp_wf h fun _ hu => ?_
  split
  · exact hu
  · exact ite_wf (finish_wf hu) (hk _ _ _ _ hu)

theorem execCflush_wf (h : MemWf s) {f} :
    OutWf (execCflush f s) := by
  unfold execCflush
  refine cacheOp_wf h fun _ _ _ _ hu => ?_
  refine finish_wf ?_
  split
  · exact setDcache_wf (writeBackLine_wf _ _ _ hu)
  · exact hu

theorem execCpre_wf (h : MemWf s) {f} :
    OutWf (execCpre f s) := by
  unfold execCpre
  refine cacheOp_wf h fun _ _ _ _ hu => ?_
  refine finish_wf ?_
  split
  · exact hu
  · split
    · exact ite_wf hu (dcFill_wf hu)
    · exact hu

theorem execPld_wf (h : MemWf s) {f} :
    OutWf (execPld f s) := by
  unfold execPld
  refine runOp_wf h fun _ hu => ?_
  split
  · exact hu
  · exact finish_wf (writeX_wf (threadAcquire_wf (ite_wf (countUncorr_wf hu) hu)))

theorem wakeRequester_wf (h : MemWf s) {w failed} :
    MemWf (wakeRequester s w failed) := by
  unfold wakeRequester
  split
  · exact mapThread_wf h
  · exact mapCluster_wf h
  · exact pushEvents_wf h
  · exact mapHalKey_wf h
  · exact mapOcc_wf h
  · exact mapSched_wf h
  · exact mapCore_wf h
  · exact mapSched_wf h
  · exact pushEvents_wf h

theorem endMiss_wf (h : MemWf s) {home e failed} :
    MemWf (endMiss s home e failed) := by
  unfold endMiss
  split
  · exact h
  · exact foldl_memWf (fun _ _ hu => wakeRequester_wf hu) (stores_wf h)

theorem installLeaf_wf (h : MemWf s) {home x page huge leaf e} :
    MemWf (installLeaf s home x page huge leaf e) := by
  unfold installLeaf
  extract_lets _
  split
  · exact ite_wf (endMiss_wf (stores_wf h)) (stores_wf h)
  · exact stores_wf h

end Sys2Proof.Machine
end

section
/-! SUPPORT. Canonical memory through the halyard engine (06). -/

namespace Sys2Proof.Machine

set_option Elab.async false

variable {s : State}

theorem halCheck_wf (h : MemWf s) {plain dir a} :
    EngRes.Wf (halCheck plain s dir a) := by
  induction a with
  | nil => exact trivial
  | cons e r ih =>
    obtain ⟨va, n, k⟩ := e
    unfold halCheck
    extract_lets x ctx ag
    split
    · refine ite_holds h (ite_holds trivial ?_)
      split
      · exact trivial
      · exact ih
    · refine ite_holds trivial ?_
      split
      · exact ite_holds h (ite_holds trivial ih)
      · exact ite_holds trivial (ite_holds h (requestMiss_wf h))

theorem halReady_wf (h : MemWf s) {dir l} : EngRes.Wf (halReady s dir l) := halCheck_wf h

theorem recordReady_wf (h : MemWf s) {dir} : EngRes.Wf (recordReady s dir) := halCheck_wf h

theorem halHold_wf (h : MemWf s) {dir l} :
    MemWf (halHold s dir l) := by
  unfold halHold
  refine foldl_memWf (fun _ _ hu => ?_) h
  split
  · exact hu
  · split
    · extract_lets u
      have hu : MemWf u := by
        unfold u
        split
        · exact noteReplica_wf hu
        · exact hu
      exact serveLines_wf hu
    · exact hu

theorem halPut_wf (h : MemWf s) {dir ag through va n v} :
    MemWf (halPut s dir ag through va n v) := by
  unfold halPut
  split
  · exact plainWrite_wf _ _ _ _ h
  · split
    · exact homeWriteAll_wf _ _ _ _ _ _ _ _ h
    · exact h

theorem halWrite_wf (h : MemWf s) {dir va n v} : MemWf (halWrite s dir va n v) := halPut_wf h

theorem releaseAt_wf (h : MemWf s) {a sc key} : MemWf (releaseAt s a sc key) := noteRelease_wf _ _ _ _ (countRelease_wf h)

theorem writeRecord_wf (h : MemWf s) {dir ag} :
    MemWf (writeRecord s dir ag) := by
  unfold writeRecord
  extract_lets _ va _ v
  have hv : MemWf v := ite_wf (setTags_wf _ _ _ (halPut_wf h)) (halPut_wf h)
  exact noteRelease_wf _ _ _ _ (countRelease_wf hv)

theorem commitToken_wf (h : MemWf s) {dir tok f} : MemWf (commitToken s dir tok f) := mapHalKey_wf (halWrite_wf (halWrite_wf h))

theorem commitTokens_wf (h : MemWf s) {dir f l} : MemWf (commitTokens s dir f l) := foldl_memWf (fun _ _ hu => commitToken_wf hu) h

theorem queueFor_wf (h : MemWf s) {owner c cause} :
    MemWf (queueFor s owner c cause) := by
  unfold queueFor
  split
  · exact h
  · split
    · exact mapOcc_wf h
    · exact ite_wf (queueCause_wf h) h

theorem orPennant_wf (h : MemWf s) {dir e} :
    MemWf (orPennant s dir e) := by
  unfold orPennant
  extract_lets +onlyGivenNames _ va ag
  split
  · extract_lets +onlyGivenNames p
    split
    · exact h
    · exact syncWrite_wf _ _ _ _ _ _ h
  · split
    · extract_lets +onlyGivenNames _ v
      have hv : MemWf v := countRelease_wf (recallNear_wf _ _ (holdLine_wf _ _ _ _ _ h))
      exact wakePhys_wf (noteRelease_wf _ _ _ _ (physStore_wf _ _ _ _ (dropReplicas_wf _ _ hv)))
    · exact h

theorem raiseHal_wf (h : MemWf s) {dir e} :
    MemWf (raiseHal s dir e) := by
  unfold raiseHal
  extract_lets _ _
  split
  · exact ite_wf (queueFor_wf (ite_wf (orPennant_wf h) h)) (ite_wf (orPennant_wf h) h)
  · exact ite_wf (orPennant_wf h) h

theorem faultHal_wf (h : MemWf s) {dir} : MemWf (faultHal s dir) := eventRecord_wf _ _ _ _ _ _ (raiseHal_wf (mapHalKey_wf h))

theorem failHal_wf (h : MemWf s) {dir l} : MemWf (failHal s dir l) := faultHal_wf (ite_wf (countUncorr_wf h) h)

theorem advanceP_wf (h : MemWf s) {dir now} :
    MemWf (advanceP s dir now) := ite_wf h (ite_wf (raiseHal_wf (mapHalKey_wf h)) (mapHalKey_wf h))

theorem lateFrame_wf (h : MemWf s) {dir cause seq late} :
    MemWf (lateFrame s dir cause seq late) := by
  unfold lateFrame
  extract_lets _ _ _
  split
  · exact queueFor_wf (raiseHal_wf (mapHalKey_wf h))
  · exact eventRecord_wf _ _ _ _ _ _ (raiseHal_wf (mapHalKey_wf h))

theorem lowerCut_wf (h : MemWf s) {dir c} : MemWf (lowerCut s dir c) := mapHalKey_wf h

theorem lateIf_wf (h : MemWf s) {dir cause seq l} :
    MemWf (lateIf s dir cause seq l) := by
  unfold lateIf
  split
  · exact lateFrame_wf h
  · exact h

theorem queueFrame_wf (h : MemWf s) {dir v arrival p gap live} :
    MemWf (queueFrame s dir v arrival p gap live) := by
  unfold queueFrame
  extract_lets f x lateD cut lateP numbered cutback moved cutat flags n entered queued gapped late
  have hnumbered : MemWf numbered := mapHalKey_wf h
  have hcutback : MemWf cutback := by
    unfold cutback
    clear_value cut
    cases cut with
    | none => exact hnumbered
    | some c => exact lowerCut_wf hnumbered
  have hmoved : MemWf moved := ite_wf (mapHalKey_wf hcutback) hcutback
  have hqueued : MemWf queued := mapHalKey_wf (halWrite_wf hmoved)
  have hgapped : MemWf gapped := ite_wf (raiseHal_wf hqueued) hqueued
  have hlate : MemWf late := ite_wf (lateIf_wf (lateIf_wf hgapped)) hgapped
  exact raiseHal_wf hlate

theorem takeFrame_wf (h : MemWf s) {dir v arrival p live} :
    MemWf (takeFrame s dir v arrival p live) := ite_wf (mapHalKey_wf h) (ite_wf (raiseHal_wf (mapHalKey_wf h)) (queueFrame_wf h))

theorem jobIrq_wf (h : MemWf s) {j} : MemWf (jobIrq s j) := ite_wf (queueFor_wf h) h

theorem cancelJob_wf (h : MemWf s) {cl n} : MemWf (cancelJob s cl n) := ite_wf (jobIrq_wf (mapCluster_wf (leaveMisses_wf h))) h

theorem cancelBound_wf (h : MemWf s) {dir} : MemWf (cancelBound s dir) := foldl_memWf (fun _ _ hu => cancelJob_wf hu) h

theorem cutAction_wf (h : MemWf s) {dir tentative} :
    MemWf (cutAction s dir tentative) := by
  unfold cutAction
  extract_lets _ gold told c dropped dropin first playend _ lines u v
  have hu : MemWf u := cancelBound_wf (mapHalKey_wf h)
  have hv : MemWf v := foldl_memWf (fun _ _ hu => discardLine_wf _ _ hu) hu
  exact mapHalKey_wf hv

theorem evalQueued_wf {s0 : State} (h : MemWf s) {dir l} : MemWf (evalQueued s0 s dir l) := by
  induction l generalizing s with
  | nil => exact h
  | cons e r ih =>
    unfold evalQueued
    extract_lets x va v f arrival flags u w
    have hu : MemWf u := ite_wf (lateFrame_wf h) h
    exact ih (ite_wf (lowerCut_wf (halWrite_wf (halWrite_wf (lateIf_wf hu)))) hu)

theorem bindHal_wf (h : MemWf s) {dir g owner} :
    MemWf (bindHal s dir g owner) := by
  unfold bindHal
  extract_lets +onlyGivenNames wasParked _
  split
  · extract_lets +onlyGivenNames _ v
    have hv : MemWf v := mapHalKey_wf (evalQueued_wf (advanceP_wf (mapHalKey_wf h)))
    exact mapSched_wf hv
  · exact mapHalKey_wf h

theorem parkHal_wf (h : MemWf s) {dir} : MemWf (parkHal s dir) := writeRecord_wf (mapHalKey_wf h)

theorem closeHal_wf (h : MemWf s) {dir} :
    MemWf (closeHal s dir) := by
  unfold closeHal
  extract_lets ag _ was v
  have hv : MemWf v := mapHalKey_wf (ite_wf (cancelBound_wf h) h)
  exact ite_wf hv (writeRecord_wf hv)

theorem parkNow_wf (h : MemWf s) {dir} : MemWf (parkNow s dir) := ite_wf (parkHal_wf h) (mapHalKey_wf (faultHal_wf h))

end Sys2Proof.Machine
end

section
/-! SUPPORT. Canonical memory through the C, S, V and array operations (11, 15, 17, 18). -/

namespace Sys2Proof.Machine

set_option Elab.async false

variable {s : State}

/-! ### The C class (15) -/

theorem transferTo_wf (h : MemWf s) {target iret} : MemWf (transferTo s target iret) := mapCore_wf h

theorem writeLink_wf (h : MemWf s) : MemWf (writeLink s) := addPend_wf h

theorem startLoop_wf (h : MemWf s) {l n e} : MemWf (startLoop s l n e) := ite_wf (mapCore_wf h) (mapCore_wf h)

theorem holdUntil_wf (h : MemWf s) {hold} : MemWf (holdUntil s hold) := ite_wf (mapCore_wf h) h

/-! ### The S class (15) -/

theorem alu_wf (h : MemWf s) {f bound op} : OutWf (alu s f bound op) := runB_wf h fun _ hu => finish_wf (writeR_wf hu)

theorem alu3_wf (h : MemWf s) {f bound op} : OutWf (alu3 s f bound op) := runB_wf h fun _ hu => finish_wf (writeR_wf hu)

theorem unary_wf (h : MemWf s) {f bound op} : OutWf (unary s f bound op) := runOp_wf h fun _ hu => finish_wf (writeR_wf hu)

theorem compare_wf (h : MemWf s) {f bound op} : OutWf (compare s f bound op) := runB_wf h fun _ hu => finish_wf (writeP_wf hu)

theorem float2_wf (h : MemWf s) {f op} : OutWf (float2 s f op) := runB_wf h fun _ hu => finish_wf (writeFloat_wf hu)

/-! ### The V class (17) -/

theorem writeLanes_wf (h : MemWf s) {d act f bound} : MemWf (writeLanes s d act f bound) := writeV_wf h

theorem writeElems_wf (h : MemWf s) {d m t f bound} : MemWf (writeElems s d m t f bound) := raiseFlags_wf (writeLanes_wf h)

theorem vec2_wf (h : MemWf s) {f trap bound op} : OutWf (vec2 s f trap bound op) := runOp_wf h fun _ hu => writeElems_wf hu

theorem vec3_wf (h : MemWf s) {f op} : OutWf (vec3 s f op) := runOp_wf h fun _ hu => writeElems_wf hu

theorem vec1_wf (h : MemWf s) {f op} : OutWf (vec1 s f op) := runOp_wf h fun _ hu => writeElems_wf hu

theorem lane2_wf (h : MemWf s) {f op} : OutWf (lane2 s f op) := runOp_wf h fun _ hu => writeLanes_wf hu

theorem vecCmp_wf (h : MemWf s) {f op} : OutWf (vecCmp s f op) := runOp_wf h fun _ hu => raiseFlags_wf (writeM_wf hu)

theorem vecFn_wf (h : MemWf s) {f op} : OutWf (vecFn s f op) := runOp_wf h fun _ hu => writeElems_wf hu

theorem execVins_wf (h : MemWf s) {f} :
    OutWf (execVins f s) := by
  unfold execVins
  refine runOp_wf h fun _ hu => ?_
  split
  · exact hu
  · exact writeLanes_wf hu

/-! ### The brick array (11, 18) -/

theorem advance_wf (h : MemWf s) {x} : MemWf (advance s x) := frame_wf h (advance_mem ..)

theorem landFlags_wf (h : MemWf s) {c born due ms} : MemWf (landFlags s c born due ms) := ite_wf h (mapCore_wf h)

theorem putEdge_wf (h : MemWf s) {c b f} : MemWf (putEdge s c b f) := mapCore_wf h

theorem shiftEdge_wf (h : MemWf s) {c b n} : MemWf (shiftEdge s c b n) := putEdge_wf h

theorem performDrain_wf (h : MemWf s) {c a f} : MemWf (performDrain s c a f) := ite_wf (mapCore_wf h) (landFlags_wf (landAt_wf h))

theorem failRow_wf (h : MemWf s) {c a x} : MemWf (failRow s c a x) := failAccess_wf h

theorem sendPush_wf (h : MemWf s) {a b shift ps} : MemWf (sendPush s a b shift ps) := mapCore_wf (issueAccess_wf h)

theorem pushEdge_wf (h : MemWf s) {c b fromSpad a regs} : MemWf (pushEdge s c b fromSpad a regs) := putEdge_wf (mapCore_wf h)

theorem performVerbs_wf (h : MemWf s) {c a f w mw ra rb mpc rem} :
    MemWf (performVerbs s c a f w mw ra rb mpc rem) := by
  unfold performVerbs
  extract_lets bank amt remA remB pushedA pushedB counted sum macs fold folded shiftedA shiftedB
  have hA : MemWf pushedA := ite_wf (pushEdge_wf h) h
  have hB : MemWf pushedB := ite_wf (pushEdge_wf hA) hA
  have hcounted : MemWf counted := by
    unfold counted
    split
    · exact mapCore_wf hB
    · exact hB
  have hmacs : MemWf macs := ite_wf (landFlags_wf (mapCore_wf hcounted)) hcounted
  have hfolded : MemWf folded := ite_wf (landFlags_wf (mapCore_wf hmacs)) hmacs
  have hshiftedA : MemWf shiftedA := ite_wf (shiftEdge_wf hfolded) hfolded
  have hshiftedB : MemWf shiftedB := ite_wf (shiftEdge_wf hshiftedA) hshiftedA
  exact ite_wf (performDrain_wf hshiftedB) hshiftedB

theorem performBeat_wf (h : MemWf s) {c a f w mw ra rb mpc} :
    MemWf (performBeat s c a f w mw ra rb mpc) := by
  unfold performBeat
  extract_lets rem _
  split
  · exact performVerbs_wf h
  · split
    · exact failRow_wf h
    · exact performVerbs_wf (noteRead_wf _ _ _ h)

theorem performPush_wf (h : MemWf s) {c a b shift} :
    MemWf (performPush s c a b shift) := by
  unfold performPush
  split
  · exact failRow_wf (mapCore_wf h)
  · exact shiftEdge_wf (pushEdge_wf (noteRead_wf _ _ _ h))

theorem performDrainWrite_wf (h : MemWf s) {c a} :
    MemWf (performDrainWrite s c a) := by
  unfold performDrainWrite
  split
  · exact failPrim_wf h
  · exact mapCore_wf (laggedWrite_wf _ _ _ _ _ h)

theorem performScl_wf (h : MemWf s) {c a f ra rb} :
    MemWf (performScl s c a f ra rb) := by
  unfold performScl
  split
  · exact failRow_wf h
  · exact mapCore_wf (noteRead_wf _ _ _ h)

theorem settleArray_wf (h : MemWf s) {c} :
    MemWf (settleArray s c) := by
  unfold settleArray
  extract_lets l _
  refine foldl_memWf (fun _ _ hu => ?_) (mapCore_wf h)
  split
  · exact performPush_wf hu
  · exact performPush_wf hu
  · exact hu

theorem performImage_wf (h : MemWf s) {c a f load} :
    MemWf (performImage s c a f load) := by
  unfold performImage
  extract_lets _ ps
  split
  · exact failAccess_wf (settleArray_wf h)
  · exact foldl_memWf (fun _ _ hu => ite_wf (mapCore_wf (noteRead_wf _ _ _ hu)) (plainWrite_wf _ _ _ _ hu)) (settleArray_wf h)

theorem performX_wf (h : MemWf s) {c a} :
    MemWf (performX s c a) := by
  unfold performX
  split
  · exact performBeat_wf h
  · exact performPush_wf h
  · exact performPush_wf h
  · exact performDrainWrite_wf h
  · exact performScl_wf h
  · exact performImage_wf h
  · exact performImage_wf h
  · exact performMem_wf h

theorem execMbeat_wf (h : MemWf s) {f} :
    OutWf (execMbeat f s) := by
  unfold execMbeat
  refine runOp_wf h fun _ hu => ?_
  extract_lets _ _ base rem a _ b _ _ y
  have hy : MemWf y := advance_wf (ite_wf (sendPush_wf (issueAccess_wf hu)) (issueAccess_wf hu))
  exact ite_wf (mapCore_wf hy) hy

end Sys2Proof.Machine
end

section
/-! SUPPORT. Canonical memory through the E and G operations (19). -/

namespace Sys2Proof.Machine

set_option Elab.async false

variable {s : State}

/-! ### The E class (19) -/

theorem landE_wf (h : MemWf s) {c born d v} : MemWf (landE s c born d v) := ite_wf h (mapCore_wf h)

theorem writeE_wf (h : MemWf s) {d v} :
    MemWf (writeE s d v) := by
  unfold writeE
  split
  · exact landE_wf h
  · exact writeX_wf h

theorem waitE_wf (h : MemWf s) {i a b} :
    MemWf (waitE s i a b) := by
  unfold waitE
  split
  · exact mapCore_wf h
  · exact mapThread_wf h

theorem runE_wf (h : MemWf s) {t g body} (hbody : ∀ t, MemWf t → MemWf (body t)) :
    OutWf (runE s t g body) := by
  unfold runE
  split
  · exact ite_holds (hbody _ h) (runOp_wf h fun _ hu => hbody _ hu)
  · exact runOp_wf h fun _ hu => hbody _ hu

theorem acquireKeys_wf (h : MemWf s) {sc keys} :
    MemWf (acquireKeys s sc keys) := by
  unfold acquireKeys
  split
  · exact acquireWords_wf h
  · exact threadAcquire_wf h

theorem releaseReady_wf (h : MemWf s) {sc} :
    MemWf (releaseReady s sc) := by
  unfold releaseReady
  split
  · exact h
  · exact threadRelease_wf h

theorem setJob_wf (h : MemWf s) {cl j x} : MemWf (setJob s cl j x) := mapCluster_wf h

theorem countIssue_wf (h : MemWf s) {cl j} : MemWf (countIssue s cl j) := ite_wf h (setJob_wf (releaseAt_wf h))

theorem performJobRel_wf (h : MemWf s) {c j a} : MemWf (performJobRel s c j a) := ite_wf (countIssue_wf h) (countRelease_wf h)

theorem issueJob_wf (h : MemWf s) {i f virt} :
    MemWf (issueJob s i f virt) := by
  unfold issueJob
  extract_lets a cl
  split
  · exact waitE_wf h
  · extract_lets access issued queued cleared
    have hissued : MemWf issued := ite_wf (issueAccess_wf h) (releaseAt_wf (releaseReady_wf h))
    have hqueued : MemWf queued := setJob_wf hissued
    have hcleared : MemWf cleared := stores_wf hqueued
    exact finish_wf (writeE_wf (mapCluster_wf hcleared))

theorem observeJob_wf (h : MemWf s) {d b} :
    MemWf (observeJob s d b) := by
  unfold observeJob
  extract_lets cl
  split
  · exact finish_wf (writeE_wf h)
  · extract_lets _ _ v
    have hv : MemWf v := ite_wf (ite_wf (acquireKeys_wf h) h) (setJob_wf (ite_wf (acquireKeys_wf h) h))
    exact finish_wf (writeE_wf hv)

theorem execCpyw_wf (h : MemWf s) {f} :
    OutWf (execCpyw f s) := by
  unfold execCpyw
  refine runE_wf h fun _ hu => ?_
  extract_lets a
  split
  · exact ite_wf (waitE_wf hu) (observeJob_wf hu)
  · exact observeJob_wf hu

theorem execCpyk_wf (h : MemWf s) {f} :
    OutWf (execCpyk f s) := by
  unfold execCpyk
  refine runE_wf h fun _ hu => ?_
  extract_lets cl
  split
  · exact finish_wf (writeE_wf hu)
  · exact finish_wf (writeE_wf (cancelJob_wf hu))

theorem mapStageQ_wf (h : MemWf s) {j f} :
    MemWf (mapStageQ s j f) := by
  unfold mapStageQ
  split
  · exact mapCluster_wf h
  · exact h

theorem fireArms_wf (h : MemWf s) {j} : MemWf (fireArms s j) := foldl_memWf (fun _ _ hu => queueFor_wf hu) (mapStageQ_wf h)

theorem sqPerform_wf (h : MemWf s) {put j off} :
    SqRes.Wf (sqPerform s put j off) := by
  unfold sqPerform
  extract_lets q a buf e
  refine ite_holds trivial (ite_holds (ite_holds trivial ?_) (ite_holds h (ite_holds trivial ?_)))
  · split
    · exact trivial
    · exact fireArms_wf (mapStageQ_wf (syncWrite_wf _ _ _ _ _ _ (releaseReady_wf (plainRead_wf _ _ _ h))))
  · split
    · exact trivial
    · exact fireArms_wf (mapStageQ_wf (plainWrite_wf _ _ _ _ (acquireKeys_wf h)))

theorem pushTrap_wf (h : MemWf s) {c t} : MemWf (pushTrap s c t) := mapCore_wf h

theorem sqOp_wf (h : MemWf s) {f put} :
    OutWf (sqOp s f put) := by
  unfold sqOp
  refine runE_wf h fun _ hu => ?_
  extract_lets +onlyGivenNames j b
  split
  · exact issueAccess_wf hu
  · extract_lets +onlyGivenNames q
    refine ite_wf (waitE_wf hu) ?_
    split
    · next eq => exact finish_wf (writeE_wf (holds_of_eq (P := SqRes.Wf) eq (sqPerform_wf hu)))
    · exact takeTrap_wf hu
    · exact failThread_wf hu

theorem performSq_wf (h : MemWf s) {c a put j} :
    MemWf (performSq s c a put j) := by
  unfold performSq
  extract_lets cur u v
  have hu : MemWf u := frame_wf h
  have hv : MemWf v := ite_wf (lagAccesses_wf hu) hu
  split
  · next eq => exact landAt_wf (holds_of_eq (P := SqRes.Wf) eq (sqPerform_wf hv))
  · exact pushTrap_wf hv
  · exact failAccess_wf hv

theorem sqlenOp_wf (h : MemWf s) {f arm} :
    OutWf (sqlenOp s f arm) := by
  unfold sqlenOp
  refine runE_wf h fun _ hu => ?_
  extract_lets +onlyGivenNames j q
  split
  · split
    · exact pushTrap_wf hu
    · exact takeTrap_wf hu
  · extract_lets +onlyGivenNames _ _
    refine finish_wf ?_
    split
    · exact writeE_wf hu
    · exact fireArms_wf (mapStageQ_wf (writeE_wf hu))

theorem frameLook_wf (h : MemWf s) {a x fp kind who failed} :
    FLook.Wf (frameLook s a x fp kind who failed) := by
  unfold frameLook
  split
  · exact ite_holds trivial (ite_holds trivial trivial)
  · split
    · exact trivial
    · split
      · exact ite_holds trivial trivial
      · exact requestMiss_wf h

theorem framePut_wf (h : MemWf s) {a l parts} (hl : FLook.Wf l) :
    MemWf (framePut s a l parts) := by
  unfold framePut
  split
  · exact foldl_memWf (fun _ _ hu => plainWrite_wf _ _ _ _ hu) h
  · exact foldl_memWf (fun _ _ hu => homeWriteAll_wf _ _ _ _ _ _ _ _ hu) h
  · exact h

theorem putReady_wf (h : MemWf s) {a l key} (hl : FLook.Wf l) :
    MemWf (putReady s a l key) := by
  unfold putReady
  split
  · exact noteRelease_wf _ _ _ _ (syncWrite_wf _ _ _ _ _ _ h)
  · extract_lets _ v
    have hv : MemWf v := ite_wf (evictLine_wf _ _ (countRelease_wf h)) (recallNear_wf _ _ (holdLine_wf _ _ _ _ _ (countRelease_wf h)))
    exact noteRelease_wf _ _ _ _ (wakePhys_wf (physStore_wf _ _ _ _ (dropReplicas_wf _ _ hv)))
  · exact h

theorem spawnWrite_wf (h : MemWf s) {c t x fp} :
    FRes.Wf (spawnWrite s c t x fp) := by
  unfold spawnWrite
  extract_lets a
  split
  · split
    · exact trivial
    · exact putReady_wf h (frameLook_wf h)
  · refine ite_holds trivial ?_
    generalize look : threadLook s c t x fp.toNat .write _ = r
    have hr : GRes.Wf r := holds_of_eq look (threadLook_wf h fun _ _ _ hu =>
      ite_holds trivial (putReady_wf (dcDrop_wf hu) trivial))
    cases r with
    | ok _ u => exact hr
    | wait u => exact hr
    | fail _ => exact trivial
    | xlate => exact trivial

theorem appendReady_wf (h : MemWf s) {o e} : MemWf (appendReady s o e) := mapCore_wf h

theorem makeReady_wf (h : MemWf s) {c o fp failed} :
    MemWf (makeReady s c o fp failed) := by
  unfold makeReady
  extract_lets x show_
  split
  · next eq => exact mapCore_wf (holds_of_eq (P := FLook.Wf) eq (frameLook_wf h))
  · exact mapCore_wf (releaseAt_wf h)
  · exact mapCore_wf (putReady_wf h (frameLook_wf h))

theorem performSpawn_wf (h : MemWf s) {c o a} : MemWf (performSpawn s c o a) := makeReady_wf h

theorem lateReady_wf (h : MemWf s) {o} :
    MemWf (lateReady s o) := by
  unfold lateReady
  refine foldl_memWf (fun _ _ hu => ?_) h
  split
  · exact makeReady_wf hu
  · exact hu

theorem spawnOp_wf (h : MemWf s) {f wake} :
    OutWf (spawnOp s f wake) := by
  unfold spawnOp
  refine runE_wf h fun _ hu => ?_
  extract_lets a o
  split
  · exact finish_wf (writeE_wf hu)
  · split
    · exact finish_wf (writeE_wf hu)
    · split
      · exact finish_wf (writeE_wf (appendReady_wf hu))
      · split
        · exact finish_wf (writeE_wf (appendReady_wf (issueAccess_wf hu)))
        · split
          · next eq => exact holds_of_eq (P := FRes.Wf) eq (spawnWrite_wf (releaseReady_wf hu))
          · exact takeTrap_wf hu
          · next eq => exact finish_wf (writeE_wf (appendReady_wf (holds_of_eq (P := FRes.Wf) eq (spawnWrite_wf (releaseReady_wf hu)))))

theorem performOne_wf (h : MemWf s) {c a} :
    MemWf (performOne s c a) := by
  unfold performOne
  split
  · exact performSq_wf h
  · exact performJobRel_wf h
  · exact performSpawn_wf h
  · exact performX_wf h

theorem settleFirst_wf (h : MemWf s) {c p n} : MemWf (settleFirst s c p n) := by
  induction n generalizing s with
  | zero => exact h
  | succ n ih => exact ite_wf h (ih (foldl_memWf (fun _ _ hu => performOne_wf (mapCore_wf hu)) h))

theorem settleHoist_wf (h : MemWf s) {c a} :
    MemWf (settleHoist s c a) := by
  unfold settleHoist
  refine foldl_memWf (fun _ _ hu => ?_) h
  split
  · exact settleFirst_wf hu
  · exact hu

theorem performAcc_wf (h : MemWf s) {c a} :
    MemWf (performAcc s c a) := by
  unfold performAcc
  split
  · exact performOne_wf (settleHoist_wf h)
  · exact performOne_wf h

theorem performAll_wf (h : MemWf s) {c l} : MemWf (performAll s c l) := foldl_memWf (fun _ _ hu => performAcc_wf (mapCore_wf hu)) h

theorem afterEarlier_wf (h : MemWf s) {c born} : MemWf (afterEarlier s c born) := foldl_memWf (fun _ _ hu => performAcc_wf hu) h

theorem refuse_wf (h : MemWf s) {st} : HRes.Wf (refuse s st) := h

theorem withEngine_wf (h : MemWf s) {dir act} (hact : ∀ t, MemWf t → HRes.Wf (act t)) :
    HRes.Wf (withEngine s dir act) := by
  unfold withEngine
  extract_lets e
  have hres := hact (acquireWords s e 1 [halIssueKey s.me]) (acquireWords_wf h)
  split
  · next eq => exact acquireWords_wf (releaseAt_wf (holds_of_eq (P := HRes.Wf) eq hres))
  · exact hres

theorem deliverHal_wf (h : MemWf s) {c born d two r0 r1} :
    MemWf (deliverHal s c born d two r0 r1) := mapCore_wf (ite_wf (landE_wf (landE_wf h)) (landE_wf h))

theorem placeE_wf (h : MemWf s) {c d} : MemWf (placeE s c d) := landE_wf h

theorem followHal_wf (h : MemWf s) {c d two} :
    MemWf (followHal s c d two) := by
  unfold followHal
  split
  · exact h
  · exact ite_wf (landE_wf (landE_wf h)) (landE_wf h)

theorem tokenTrap_wf (h : MemWf s) {c d off} : MemWf (tokenTrap s c d off) := failPrim_wf (mapCore_wf h)

theorem waitHal_wf (h : MemWf s) {c i a b} : MemWf (waitHal s c i a b) := mapCore_wf h

theorem halOp_wf (h : MemWf s) {i t g d two waits ra rb act} (hact : ∀ u dir b, MemWf u → HRes.Wf (act u dir b)) :
    OutWf (halOp s i t g d two waits ra rb act) := by
  unfold halOp
  refine runE_wf h fun u hu => ?_
  split
  · exact hu
  · extract_lets a b early placed settled resumed dir
    have hresumed : MemWf resumed := ite_wf (mk_wf (settleFirst_wf hu)) hu
    clear_value resumed
    refine ite_wf (followHal_wf hu) (ite_wf ?_ (ite_wf (waitE_wf hu) ?_))
    · exact ite_wf (waitE_wf (earlyRelease_wf hu)) (mapCore_wf (placeE_wf (earlyRelease_wf hu)))
    · split
      · next eq => exact deliverHal_wf (holds_of_eq (P := HRes.Wf) eq (withEngine_wf hresumed fun _ hv => hact _ _ _ hv))
      · next eq =>
          have hw := holds_of_eq (P := HRes.Wf) eq (withEngine_wf hresumed fun _ hv => hact _ _ _ hv)
          exact ite_wf (waitE_wf hw) (waitHal_wf hw)
      · exact tokenTrap_wf hresumed

theorem countEngine_wf (h : MemWf s) {dir l} : MemWf (countEngine s dir l) := ite_wf (countUncorr_wf h) h

theorem whenReady_wf (h : MemWf s) {dir needs k} (hk : ∀ t, MemWf t → HRes.Wf (k t)) :
    HRes.Wf (whenReady s dir needs k) := by
  unfold whenReady
  split
  · exact hk _ (halHold_wf h)
  · next eq => exact holds_of_eq (P := EngRes.Wf) eq (halReady_wf h)
  · exact refuse_wf (failHal_wf h)

theorem whenLive_wf (h : MemWf s) {dir k} (hk : ∀ x, HRes.Wf (k x)) :
    HRes.Wf (whenLive s dir k) := ite_holds (refuse_wf h) (ite_holds (refuse_wf h) (hk _))

theorem actHtent_wf (h : MemWf s) {dir b} : HRes.Wf (actHtent s dir b) := whenLive_wf h fun _ => ite_holds (refuse_wf h) (mapHalKey_wf h)

theorem actHcommit_wf (h : MemWf s) {dir b} :
    HRes.Wf (actHcommit s dir b) := by
  unfold actHcommit
  refine whenLive_wf h fun _ => ?_
  extract_lets off n
  split
  · exact refuse_wf h
  · exact ite_holds trivial (ite_holds (refuse_wf (faultHal_wf h)) (whenReady_wf h fun _ hv => (commitTokens_wf hv)))

theorem afterCut_wf (h : MemWf s) {dir w k} (hk : ∀ t, MemWf t → HRes.Wf (k t)) :
    HRes.Wf (afterCut s dir w k) := ite_holds (hk _ (mapHalKey_wf h)) h

theorem actHframe_wf (h : MemWf s) {dir b} :
    HRes.Wf (actHframe s dir b) := by
  unfold actHframe
  refine whenLive_wf h fun _ => ?_
  extract_lets va commit
  have hcommit (u) (hu : MemWf u) : HRes.Wf (commit u) := whenReady_wf hu fun _ hv => mapHalKey_wf (commitTokens_wf hv)
  clear_value commit
  split
  · exact afterCut_wf h hcommit
  · exact ite_holds (refuse_wf h) (ite_holds (refuse_wf h)
      (whenReady_wf h fun u hu => ite_holds (refuse_wf hu) (ite_holds (cutAction_wf hu) (hcommit u hu))))

theorem actHcut_wf (h : MemWf s) {tentative dir x} :
    HRes.Wf (actHcut tentative s dir x) := by
  unfold actHcut
  refine whenLive_wf h fun _ => ?_
  split
  · exact afterCut_wf h fun _ hv => hv
  · exact ite_holds (refuse_wf h) (whenReady_wf h fun _ hv => cutAction_wf hv)

theorem actHckpt_wf (h : MemWf s) {dir b} : HRes.Wf (actHckpt s dir b) := whenLive_wf h fun _ => ite_holds (refuse_wf h) (mapHalKey_wf h)

theorem actHplay_wf (h : MemWf s) {set dir b} : HRes.Wf (actHplay set s dir b) := whenLive_wf h fun _ => mapHalKey_wf h

theorem openFailed_wf (h : MemWf s) {dir} : HRes.Wf (openFailed s dir) := mapHalKey_wf h

theorem openWith_wf (h : MemWf s) {dir hal addr} :
    HRes.Wf (openWith s dir hal addr) := by
  unfold openWith
  split
  · next eq => exact holds_of_eq (P := EngRes.Wf) eq (halReady_wf h)
  · exact ite_holds (faultHal_wf (mapHalKey_wf (countEngine_wf h))) (openFailed_wf h)
  · exact ite_holds (openFailed_wf (halHold_wf h)) (writeRecord_wf (mapHalKey_wf (halHold_wf h)))

theorem dropRecordLines_wf (h : MemWf s) {dir va} :
    MemWf (dropRecordLines s dir va) := by
  unfold dropRecordLines
  split
  · exact ite_wf h (foldl_memWf (fun _ _ hu => evictLine_wf _ _ hu) h)
  · exact h

theorem actOpen_wf (h : MemWf s) {dir b} :
    HRes.Wf (actOpen s dir b) := by
  unfold actOpen
  extract_lets +onlyGivenNames _
  split
  · exact h
  · split
    · exact h
    · split
      · exact h
      · split
        · next eq => exact holds_of_eq (P := EngRes.Wf) eq (halCheck_wf h)
        · exact ite_holds (faultHal_wf (mapHalKey_wf (countEngine_wf h))) (openFailed_wf h)
        · extract_lets +onlyGivenNames _ v
          have hv : MemWf v := dropRecordLines_wf (acquireWords_wf h)
          exact ite_holds (openWith_wf hv) (openFailed_wf hv)

theorem actBind_wf (h : MemWf s) {dir x} :
    HRes.Wf (actBind s dir x) := by
  unfold actBind
  extract_lets _ cl no
  split
  · exact h
  · split
    · exact h
    · split
      · exact h
      · split
        · next eq => exact holds_of_eq (P := EngRes.Wf) eq (halReady_wf h)
        · exact failHal_wf h
        · exact bindHal_wf (halHold_wf h)

theorem actPark_wf (h : MemWf s) {dir x} :
    HRes.Wf (actPark s dir x) := by
  unfold actPark
  extract_lets _
  split
  · exact h
  · split
    · exact h
    · split
      · next eq => exact holds_of_eq (P := EngRes.Wf) eq (recordReady_wf h)
      · exact faultHal_wf h
      · exact parkHal_wf h

theorem actClose_wf (h : MemWf s) {dir x} :
    HRes.Wf (actClose s dir x) := by
  unfold actClose
  extract_lets _
  split
  · next eq => exact holds_of_eq (P := EngRes.Wf) eq (ite_holds trivial (recordReady_wf h))
  · exact closeHal_wf h

theorem hreadValue_wf (h : MemWf s) {i f a} :
    MemWf (hreadValue s i f a) := by
  unfold hreadValue
  extract_lets dir _ give
  split
  · exact finish_wf (writeE_wf (acquireKeys_wf h))
  · split
    · exact finish_wf (writeE_wf (acquireKeys_wf (dropRecordLines_wf h)))
    · next eq => exact waitE_wf (holds_of_eq (P := EngRes.Wf) eq (halCheck_wf h))
    · exact finish_wf (writeE_wf (acquireKeys_wf (mapHalKey_wf (countEngine_wf h))))

theorem hreadOp_wf (h : MemWf s) {i f} :
    MemWf (hreadOp s i f) := by
  unfold hreadOp
  extract_lets a _ own
  split
  · exact ite_wf (ite_wf (waitE_wf h) (hreadValue_wf h)) (ite_wf (mapCore_wf (placeE_wf h)) (waitE_wf h))
  · exact ite_wf (hreadValue_wf h) (waitE_wf h)

theorem traceRecord_wf (h : MemWf s) {q source kind x payload} :
    MemWf (traceRecord s q source kind x payload) :=
  ite_wf (mapTrace_wf (mapTrace_wf h)) (mapTrace_wf (physStore_wf _ _ _ _ (mapTrace_wf h)))

theorem clearRecv_wf (h : MemWf s) {c ch} : MemWf (clearRecv s c ch) := mapCore_wf h

theorem execVrecv_wf (h : MemWf s) {f} :
    OutWf (execVrecv f s) := by
  unfold execVrecv
  split
  · exact clearRecv_wf (takeTrap_wf h)
  · exact runE_wf h fun _ hu => clearRecv_wf (writeV_wf hu)

theorem execLive_wf (h : MemWf s) {f} :
    OutWf (execLive f s) := by
  unfold execLive
  refine runE_wf h fun _ hu => ?_
  split
  · exact hu
  · exact finish_wf (mapThread_wf hu)

theorem execMigr_wf (h : MemWf s) {f} :
    OutWf (execMigr f s) := by
  unfold execMigr
  refine runE_wf h fun _ hu => ?_
  split
  · exact hu
  · exact ite_wf (finish_wf hu) (departTo_wf hu)

/-! ### The G class (19) -/

theorem jumpReady_wf (h : MemWf s) {c t target} :
    JumpRes.Wf (jumpReady s c t target) := by
  unfold jumpReady
  split
  · exact trivial
  · split
    · exact trivial
    · split
      · exact h
      · split
        · next eq => exact holds_of_eq (P := GRes.Wf) eq (threadLook_wf h fun _ _ _ hu => hu)
        · next eq => exact holds_of_eq (P := GRes.Wf) eq (threadLook_wf h fun _ _ _ hu => hu)
        · exact h
        · exact trivial

theorem jumpOp_wf (h : MemWf s) {target link} :
    MemWf (jumpOp s target link) := by
  unfold jumpOp
  split
  · exact h
  · split
    · exact takeTrap_wf h
    · next eq => exact holds_of_eq (P := JumpRes.Wf) eq (jumpReady_wf h)
    · next eq =>
        extract_lets back
        refine jumpTo_wf ?_
        split
        · exact writeX_wf (holds_of_eq (P := JumpRes.Wf) eq (jumpReady_wf h))
        · exact holds_of_eq (P := JumpRes.Wf) eq (jumpReady_wf h)

theorem execSleepu_wf (h : MemWf s) {f} :
    OutWf (execSleepu f s) := by
  unfold execSleepu
  extract_lets wake
  split
  · exact mapThread_wf (finish_wf h)
  · exact finish_wf h

theorem saveFrame_wf (h : MemWf s) {st k} (hk : ∀ w x y z t, MemWf t → MemWf (k w x y z t)) :
    OutWf (saveFrame s st k) := by
  unfold saveFrame
  split
  · exact h
  · extract_lets th _
    split
    · next eq => exact holds_of_eq (P := FRes.Wf) eq (frameWrite_wf h)
    · exact takeTrap_wf h
    · next eq => exact hk _ _ _ _ _ (freeThread_wf (releaseAt_wf (holds_of_eq (P := FRes.Wf) eq (frameWrite_wf h))))

theorem execTyield_wf (h : MemWf s) :
    OutWf (execTyield s) := by
  unfold execTyield
  split
  · exact h
  · exact ite_holds (finish_wf h) (saveFrame_wf h fun _ _ _ _ _ hu => appendReady_wf hu)

theorem execTexit_wf (h : MemWf s) :
    OutWf (execTexit s) := by
  unfold execTexit
  split
  · exact h
  · extract_lets th
    split
    · next eq => exact holds_of_eq (P := FRes.Wf) eq (frameWrite_wf h)
    · exact freeThread_wf h
    · next eq => exact freeThread_wf (holds_of_eq (P := FRes.Wf) eq (frameWrite_wf h))

end Sys2Proof.Machine
end

section
/-! SUPPORT. Canonical memory through power, time, ownership, boot and the service threads (01, 03, 10). -/

namespace Sys2Proof.Machine

set_option Elab.async false

variable {s : State}

/-! ### Power, time, ownership and boot (01, 03) -/

theorem ownViolation_wf (h : MemWf s) : MemWf (ownViolation s) := frame_wf h

theorem ownerWrite_wf (h : MemWf s) {w f} (hf : ∀ t, MemWf t → MemWf (f t)) :
    MemWf (ownerWrite s w f) := ite_wf h (ite_wf (hf _ h) (ownViolation_wf h))

theorem answer_wf (h : MemWf s) {a} : MemWf (answer s a) := mapMgmt_wf h

theorem sendFreeMsix_wf (h : MemWf s) : MemWf (sendFreeMsix s) := sendMsix_wf h

theorem writeGrant_wf (h : MemWf s) {w n v} : MemWf (writeGrant s w n v) := ownerWrite_wf h fun _ hu => ite_wf hu (frame_wf hu)

theorem applyCap_wf (h : MemWf s) :
    MemWf (applyCap s) := by
  unfold applyCap
  extract_lets set_ grant u v
  have hset (w i g) (hw : MemWf w) : MemWf (set_ w i g) := mapCluster_wf hw
  have hu : MemWf u := foldl_memWf (fun _ _ hw => ite_wf (hset _ _ _ hw) hw) h
  have hv : MemWf v := foldl_memWf (fun _ _ hw => hset _ _ _ hw) hu
  exact mk_wf hv

theorem lowerGrants_wf (h : MemWf s) : MemWf (lowerGrants s) := ite_wf (applyCap_wf h) h

theorem writeBoot_wf (h : MemWf s) {f} : MemWf (writeBoot s f) := mapMgmt_wf h

theorem powerOff_wf : MemWf (powerOff s) := reset_mem_wf

theorem thermalActions_wf (h : MemWf s) :
    MemWf (thermalActions s) := by
  unfold thermalActions
  extract_lets +onlyGivenNames hot trips
  split
  · extract_lets +onlyGivenNames warn warned
    have hwarned : MemWf warned := foldl_memWf (fun _ _ hu => mapMgmt_wf hu) h
    exact frame_wf hwarned
  · exact powerOff_wf

theorem execGatingCommit_wf (h : MemWf s) :
    OutWf (execGatingCommit s) := by
  unfold execGatingCommit
  extract_lets c
  split
  · exact ite_wf (ite_wf (mapCore_wf h) (mapCore_wf h)) h
  · exact h

theorem wakeCore_wf (h : MemWf s) {c} :
    MemWf (wakeCore s c) := by
  unfold wakeCore
  split
  · exact mapCore_wf h
  · exact mapCore_wf h
  · exact h

theorem execUngatingComplete_wf (h : MemWf s) :
    OutWf (execUngatingComplete s) := by
  unfold execUngatingComplete
  extract_lets c
  split
  · exact ite_wf (mapCore_wf h) h
  · exact h

theorem relink_wf (h : MemWf s) : MemWf (relink s) := mapTime_wf h

theorem shiftTimers_wf (h : MemWf s) {x} : MemWf (shiftTimers s x) := ite_wf h (frame_wf h)

theorem chooseSource_wf (h : MemWf s) : MemWf (chooseSource s) := shiftTimers_wf (mapTime_wf h)

theorem measureOffset_wf (h : MemWf s) {source x} : MemWf (measureOffset s source x) := mapTime_wf h

theorem lockSource_wf (h : MemWf s) {source x} :
    MemWf (lockSource s source x) := by
  unfold lockSource
  split
  · exact h
  · extract_lets later _ v
    have hv : MemWf v := ite_wf (mapTime_wf h) (chooseSource_wf (mapTime_wf h))
    exact ite_wf (measureOffset_wf hv) hv

theorem loseSource_wf (h : MemWf s) {source} : MemWf (loseSource s source) := ite_wf (chooseSource_wf (mapTime_wf h)) (mapTime_wf h)

theorem writeTimecfg_wf (h : MemWf s) {w v} :
    MemWf (writeTimecfg s w v) := ownerWrite_wf h fun _ hu => ite_wf hu (chooseSource_wf (mapTime_wf hu))

theorem setHolder_wf (h : MemWf s) {holder} : MemWf (setHolder s holder) := sendFreeMsix_wf (mapMgmt_wf (mapOwner_wf h))

theorem ownerCommand_wf (h : MemWf s) {w cmd} :
    MemWf (ownerCommand s w cmd) := by
  unfold ownerCommand
  extract_lets c
  split
  · exact h
  · split
    · exact ite_wf (setHolder_wf h) h
    · exact ite_wf (setHolder_wf h) h
    · exact ite_wf (mapOwner_wf h) h
    · exact ite_wf (setHolder_wf h) h
    · exact h

theorem execHandoverLapse_wf (h : MemWf s) :
    OutWf (execHandoverLapse s) := by
  unfold execHandoverLapse
  split
  · exact ite_wf (mapOwner_wf h) h
  · exact h

theorem writeOwner_wf (h : MemWf s) {w v} :
    MemWf (writeOwner s w v) := by
  unfold writeOwner
  extract_lets u
  have hu : MemWf u := ite_wf h (ite_wf (mapOwner_wf h) (ite_wf h (ownViolation_wf h)))
  exact ownerCommand_wf hu

theorem writeBootStep_wf (h : MemWf s) {n f} : MemWf (writeBootStep s n f) := writeBoot_wf h

theorem writeTraceBase_wf (h : MemWf s) {w q v} : MemWf (writeTraceBase s w q v) := ownerWrite_wf h fun _ hu => mapTrace_wf hu

theorem writeTraceCfg_wf (h : MemWf s) {w q v} : MemWf (writeTraceCfg s w q v) := ownerWrite_wf h fun _ hu => ite_wf hu (mapTrace_wf hu)

theorem beginStep_wf (h : MemWf s) {n} :
    MemWf (beginStep s n) := ite_wf (foldl_memWf (fun _ _ hu => mapLink_wf hu) (mapMgmt_wf h)) (mapMgmt_wf h)

theorem makeAlias_wf (h : MemWf s) : MemWf (makeAlias s) := ite_wf h (ite_wf (mapMgmt_wf (writeBoot_wf h)) (mapMgmt_wf h))

theorem failStep_wf (h : MemWf s) {n} :
    MemWf (failStep s n) :=
  ite_wf (mapMgmt_wf (writeBootStep_wf h)) (ite_wf (mapMgmt_wf (writeBootStep_wf h)) (mapMgmt_wf (writeBootStep_wf h)))

theorem passStep_wf (h : MemWf s) {n} :
    MemWf (passStep s n) := by
  unfold passStep
  extract_lets ran
  split
  · exact mapMgmt_wf h
  · exact mapOwner_wf h
  · exact mapMgmt_wf h
  · exact mapMgmt_wf h
  · exact makeAlias_wf h
  · exact h

theorem leaveOut_wf (h : MemWf s) {n} : MemWf (leaveOut s n) := ite_wf (mapMgmt_wf h) (foldl_memWf (fun _ _ hu => mapLink_wf hu) h)

theorem execBootStep_wf (h : MemWf s) :
    OutWf (execBootStep s) := by
  unfold execBootStep
  extract_lets n
  split
  · exact h
  · split
    · exact beginStep_wf (leaveOut_wf (writeBootStep_wf h))
    · split
      · exact failStep_wf h
      · exact beginStep_wf (writeBootStep_wf (passStep_wf h))

/-! ### The service threads (10) -/

theorem putWalk_wf (h : MemWf s) {c w} : MemWf (putWalk s c w) := stores_wf h

theorem popMail_wf (h : MemWf s) {c} : MemWf (popMail s c) := stores_wf h

theorem dropStale_wf (h : MemWf s) {c} : MemWf (dropStale s c) := ite_wf h (stores_wf h)

theorem wakeService_wf (h : MemWf s) {c} :
    MemWf (wakeService s c) := by
  unfold wakeService
  extract_lets _
  split
  · exact ite_wf (mapThread_wf (dropStale_wf h)) (dropStale_wf h)
  · exact ite_wf (dropStale_wf h) (mapThread_wf (dropStale_wf h))
  · exact dropStale_wf h

theorem restService_wf (h : MemWf s) {c} :
    MemWf (restService s c) := by
  unfold restService
  extract_lets th u
  have hu : MemWf u := mapThread_wf h
  clear_value u
  refine ite_wf h ?_
  split
  · exact ite_wf (popMail_wf hu) hu
  · extract_lets w fault
    have hfault (perm) : MemWf (fault perm) := frame_wf (popMail_wf hu)
    refine ite_wf (popMail_wf hu) ?_
    split
    · exact putWalk_wf hu
    · exact ite_wf (putWalk_wf hu) (hfault true)
    · exact hfault false

end Sys2Proof.Machine
end

section
/-! SUPPORT. Canonical memory through the mesh, translation, domains and memory errors (07). -/

namespace Sys2Proof.Machine

set_option Elab.async false

variable {s : State}

theorem dropBeat_wf (h : MemWf s) {r} : MemWf (dropBeat s r) := mapSched_wf h

theorem receiveBeat_wf (h : MemWf s) {c ch v} : MemWf (receiveBeat s c ch v) := ite_wf (mapCore_wf (dropBeat_wf h)) (mapCore_wf h)

theorem moveBeat_wf (h : MemWf s) {b e} :
    MemWf (moveBeat s b e) := by
  unfold moveBeat
  split
  · exact mapSched_wf h
  · split
    · exact mapSched_wf h
    · exact dropBeat_wf h

theorem holdBeats_wf (h : MemWf s) {id} : MemWf (holdBeats s id) := mapOcc_wf (mapSched_wf h)

theorem freeBeats_wf (h : MemWf s) {id} : MemWf (freeBeats s id) := pushEvents_wf (mapOcc_wf (mapSched_wf h))

theorem execMeshBeat_wf (h : MemWf s) :
    OutWf (execMeshBeat s) := by
  unfold execMeshBeat
  split
  · exact h
  · extract_lets _
    split
    · exact ite_wf (receiveBeat_wf (mapSched_wf h)) (dropBeat_wf (mapSched_wf h))
    · split
      · exact dropBeat_wf (mapSched_wf h)
      · exact foldl_memWf (fun _ _ hu => moveBeat_wf hu) (mapSched_wf h)

theorem injectCore_wf (h : MemWf s) {c} :
    MemWf (injectCore s c) := by
  unfold injectCore
  split
  · exact ite_wf h (mapSched_wf (mapCore_wf h))
  · exact h

theorem injectBeats_wf (h : MemWf s) : MemWf (injectBeats s) := foldl_memWf (fun _ _ hu => injectCore_wf hu) h

theorem mapMiss_wf (h : MemWf s) {home e f} : MemWf (mapMiss s home e f) := stores_wf h

theorem execMailboxPost_wf (h : MemWf s) :
    OutWf (execMailboxPost s) := by
  unfold execMailboxPost
  extract_lets _
  refine foldl_memWf (fun _ _ hu => ?_) h
  split
  · exact ite_wf (stores_wf hu) hu
  · exact hu

theorem reportFault_wf (h : MemWf s) {home e perm} : MemWf (reportFault s home e perm) := stores_wf h

theorem execPagefault_wf (h : MemWf s) :
    OutWf (execPagefault s) := by
  unfold execPagefault
  extract_lets _ e
  split
  · exact h
  · exact eventRecord_wf _ _ _ _ _ _ (reportFault_wf h)

theorem failMiss_wf (h : MemWf s) {home e} :
    MemWf (failMiss s home e) := by
  unfold failMiss
  split
  · exact h
  · exact endMiss_wf h

theorem answerFault_wf (h : MemWf s) {x id resume} :
    MemWf (answerFault s x id resume) := foldl_memWf (fun _ _ hu => ite_wf (mapMiss_wf hu) (failMiss_wf hu)) h

theorem dropLines_wf (h : MemWf s) {c p} : MemWf (dropLines s c p) := mapCore_wf (dcOut_wf _ _ _ h)

theorem invalidate_wf (h : MemWf s) {x r} :
    MemWf (invalidate s x r) := by
  unfold invalidate
  extract_lets u
  have hu : MemWf u := foldl_memWf (fun _ _ hu => dropLines_wf hu) h
  exact stores_wf (foldl_memWf (fun _ _ hu => evictLine_wf _ _ hu) hu)

theorem endInval_wf (h : MemWf s) {x} :
    MemWf (endInval s x) := by
  unfold endInval
  split
  · exact h
  · extract_lets u
    have hu : MemWf u := by
      unfold u
      refine foldl_memWf (fun _ _ hu => ?_) h
      split
      · exact ite_wf (putWalk_wf hu) hu
      · exact hu
    exact mapCtx_wf (invalidate_wf hu)

theorem beginInval_wf (h : MemWf s) {x kind va} : MemWf (beginInval s x kind va) := mapCtx_wf (endInval_wf h)

theorem mapDom_wf (h : MemWf s) {d f} : MemWf (mapDom s d f) := mapSched_wf h

theorem writeDomcfg_wf (h : MemWf s) {w d v} :
    MemWf (writeDomcfg s w d v) := ownerWrite_wf h fun _ hu => ite_wf hu (mapSched_wf (mapDom_wf hu))

theorem setPending_wf (h : MemWf s) {l} : MemWf (setPending s l) := foldl_memWf (fun _ _ hu => mapDom_wf hu) h

theorem writeDomsel_wf (h : MemWf s) {x v} : MemWf (writeDomsel s x v) := ite_wf (mapSched_wf (setPending_wf h)) (mapCtx_wf h)

theorem applyChange_wf (h : MemWf s) {a} :
    MemWf (applyChange s a) := by
  unfold applyChange
  split
  · exact mapDom_wf h
  · exact mapCtx_wf h

theorem serveHeld_wf (h : MemWf s) {w} :
    MemWf (serveHeld s w) := by
  unfold serveHeld
  extract_lets th u
  have hu : MemWf u := by
    unfold u
    split
    · exact h
    · cases eq : walkInstall s w.ctx w.va with
      | none => exact h
      | some t => exact holds_of_eq (P := OptWf) eq (walkInstall_wf h)
  clear_value u
  refine ite_wf h ?_
  split
  · exact hu
  · split
    · exact hu
    · next eq => exact mapThread_wf (holds_of_eq (P := Join.Wf) eq (joinQueue_wf hu))
    · next eq => exact mapThread_wf (holds_of_eq (P := Join.Wf) eq (joinQueue_wf hu))

theorem endChange_wf (h : MemWf s) {old r} :
    MemWf (endChange s old r) := by
  unfold endChange
  extract_lets u v
  have hu : MemWf u := setPending_wf (foldl_memWf (fun _ _ hu => mapDom_wf hu) h)
  have hv : MemWf v := foldl_memWf (fun _ _ hu => serveHeld_wf hu) hu
  exact stores_wf hv

theorem execDomainChangeComplete_wf (h : MemWf s) :
    OutWf (execDomainChangeComplete s) := by
  unfold execDomainChangeComplete
  split
  · exact h
  · split
    · exact h
    · extract_lets old u
      have hu : MemWf u := mapSched_wf (foldl_memWf (fun _ _ hu => evictLine_wf _ _ hu) h)
      exact endChange_wf (applyChange_wf hu)

theorem freeFill_wf (h : MemWf s) {c t} : MemWf (freeFill s c t) := stores_wf h

theorem fillThread_wf (h : MemWf s) {c t x va leaf pa} : MemWf (fillThread s c t x va leaf pa) := ite_wf h (dcFill_wf h)

theorem execSliceResponse_wf (h : MemWf s) :
    OutWf (execSliceResponse s) := by
  unfold execSliceResponse
  extract_lets +onlyGivenNames c t
  split
  · extract_lets +onlyGivenNames _ _ v
    have hv : MemWf v := by
      unfold v
      split
      · exact fillThread_wf (freeFill_wf h)
      · split
        · exact fillThread_wf (freeFill_wf h)
        · exact freeFill_wf h
    exact mapThread_wf hv
  · exact h

theorem execCorrectedError_wf (h : MemWf s) :
    OutWf (execCorrectedError s) := by
  unfold execCorrectedError
  extract_lets q _
  split
  · exact mapCore_wf (mapMgmt_wf h)
  · exact mapMgmt_wf h

theorem poisonLine_wf (h : MemWf s) {pa} :
    MemWf (poisonLine s pa) := by
  unfold poisonLine
  extract_lets dirty u
  have hu : MemWf u := settleLine_wf _ _ h
  clear_value u
  split
  · exact stores_wf hu
  · exact hu

theorem execUncorrectableError_wf (h : MemWf s) :
    OutWf (execUncorrectableError s) := by
  unfold execUncorrectableError
  extract_lets a _
  split
  · exact ite_wf (stores_wf h) (mapCore_wf (countUncorr_wf h))
  · exact countUncorr_wf h
  · exact ite_wf (poisonLine_wf (countUncorr_wf h)) (stores_wf h)
  · exact ite_wf (faultHal_wf (countUncorr_wf h)) (countUncorr_wf h)
  · exact stores_wf h
  · exact stores_wf h
  · exact countUncorr_wf h

end Sys2Proof.Machine
end

section
/-! SUPPORT. Canonical memory through the preparation of occurrences and the primaries' cycle (04, 09). -/

namespace Sys2Proof.Machine

set_option Elab.async false

variable {s : State}

/-! ### Preparation of occurrences (04) -/

theorem setValid_wf (h : MemWf s) {e v} : MemWf (setValid s e v) := mapSched_wf h

theorem addOcc_wf (h : MemWf s) {e i shared instant} : MemWf (addOcc s e i shared instant).2 := mapSched_wf (setOcc_wf h)

theorem mapQueueOf_wf (h : MemWf s) {x q f} : MemWf (mapQueueOf s x q f) := mapCtx_wf h

theorem reservePower_wf (h : MemWf s) {cs n add} : MemWf (reservePower s cs n add) := foldl_memWf (fun _ _ hu => mapCluster_wf hu) h

theorem releasePower_wf (h : MemWf s) {id} :
    MemWf (releasePower s id) := by
  unfold releasePower
  split
  · exact h
  · exact mapOcc_wf (reservePower_wf h)

theorem releaseQueues_wf (h : MemWf s) {id o} : MemWf (releaseQueues s id o) := foldl_memWf (fun _ _ hu => mapCluster_wf hu) h

theorem retireOcc_wf (h : MemWf s) {id} :
    MemWf (retireOcc s id) := by
  unfold retireOcc
  split
  · exact h
  · extract_lets _ v
    have hv : MemWf v := setOcc_wf (leaveMisses_wf (mapQueueOf_wf h))
    split
    · exact ite_wf (setValid_wf hv) hv
    · exact hv

theorem unbindHals_wf (h : MemWf s) {id} : MemWf (unbindHals s id) := foldl_memWf (fun _ _ hu => parkNow_wf hu) h

theorem clearCore_wf (h : MemWf s) {c} : MemWf (clearCore s c) := mapCore_wf (dcEmpty_wf h)

theorem freeCore_wf (h : MemWf s) {c} : MemWf (freeCore s c) := mapSched_wf (clearCore_wf h)

theorem freeCores_wf (h : MemWf s) {id o} : MemWf (freeCores s id o) := foldl_memWf (fun _ _ hu => freeCore_wf hu) h

theorem releaseAll_wf (h : MemWf s) {id} :
    MemWf (releaseAll s id) := by
  unfold releaseAll
  split
  · exact h
  · exact mapSched_wf (freeCores_wf (unbindHals_wf (releaseQueues_wf (releasePower_wf h))))

theorem refuseOcc_wf (h : MemWf s) {id reason} :
    MemWf (refuseOcc s id reason) := by
  unfold refuseOcc
  extract_lets _ v
  have hv : MemWf v := releaseAll_wf (eventRecord_wf _ _ _ _ _ _ h)
  split
  · exact hv
  · exact retireOcc_wf (completionRecord_wf _ _ _ _ _ _ _ hv)

theorem lateRecord_wf (h : MemWf s) {id o reason lateness} : MemWf (lateRecord s id o reason lateness) := eventRecord_wf _ _ _ _ _ _ h

theorem endSkip_wf (h : MemWf s) {id o} : MemWf (endSkip s id o) := retireOcc_wf (completionAt_wf _ _ _ _ _ _ _ _ h)

theorem skipOcc_wf (h : MemWf s) {id o reason} :
    MemWf (skipOcc s id o reason) := by
  unfold skipOcc
  extract_lets u
  have hu : MemWf u := releaseAll_wf (lateRecord_wf h)
  exact ite_wf (endSkip_wf hu) (mapOcc_wf hu)

theorem lateOcc_wf (h : MemWf s) {id reason} :
    MemWf (lateOcc s id reason) := by
  unfold lateOcc
  split
  · exact h
  · exact ite_wf h (ite_wf (skipOcc_wf h) (mapOcc_wf h))

theorem Prep.andThen_wf {p k} (hp : Prep.Wf p) (hk : ∀ t, MemWf t → Prep.Wf (k t)) :
    Prep.Wf (Prep.andThen p k) := by
  unfold Prep.andThen
  split
  · exact hk _ hp
  · exact hp

theorem prepServe_wf (h : MemWf s) {x leaf kind va pa n} :
    MemWf (prepServe s x leaf kind va pa n) := ite_wf (foldl_memWf (fun _ _ hu => evictLine_wf _ _ hu) h) (serveLines_wf h)

theorem prepRead_wf (h : MemWf s) {id o kind reason k a} (hk : ∀ t, MemWf t → Prep.Wf (k t)) :
    Prep.Wf (prepRead s id o kind reason k a) := by
  induction a generalizing s with
  | nil => exact hk s h
  | cons p r ih =>
    unfold prepRead
    refine ite_holds h ?_
    split
    · exact ite_holds h (ite_holds h (ih (prepServe_wf h)))
    · refine ite_holds h (ite_holds h ?_)
      extract_lets slice
      split
      · next eq => exact mapOcc_wf (holds_of_eq (P := SndWf) eq (requestMiss_wf h))
      · next eq => exact holds_of_eq (P := SndWf) eq (requestMiss_wf h)

theorem prepRecord_wf (h : MemWf s) {id} :
    Prep.Wf (prepRecord s id) := by
  unfold prepRecord
  split
  · exact h
  · split
    · exact h
    · extract_lets unowned u
      have hu : Prep.Wf u := by
        unfold u
        refine prepRead_wf h fun _ hu => ?_
        extract_lets _ _
        split
        · exact mapOcc_wf hu
        · split
          · exact endSkip_wf (mapOcc_wf hu)
          · split
            · exact mapOcc_wf hu
            · split
              · exact mapOcc_wf hu
              · split
                · exact mapOcc_wf hu
                · exact mapOcc_wf hu
      clear_value u
      split
      · exact ite_holds (retireOcc_wf hu) hu
      · exact hu

theorem routerDone_wf (h : MemWf s) {id period sync l} : Prep.Wf (routerDone s id period sync l) := ite_holds h (mapOcc_wf h)

theorem routerSections_wf (h : MemWf s) {id o period sync n va l} :
    Prep.Wf (routerSections id o period sync n va l s) := by
  induction n generalizing s va l with
  | zero => exact routerDone_wf h
  | succ n ih =>
    exact prepRead_wf h fun t ht => ite_holds ht (prepRead_wf ht fun u hu => ite_holds hu (ih hu))

theorem prepRouter_wf (h : MemWf s) {id} :
    Prep.Wf (prepRouter s id) := by
  unfold prepRouter
  split
  · exact h
  · exact ite_holds h (ite_holds (mapOcc_wf h) (prepRead_wf h fun _ hu => ite_holds hu (routerSections_wf hu)))

theorem makeQueues_wf (h : MemWf s) {id o} : MemWf (makeQueues s id o) := foldl_memWf (fun _ _ hu => mapCluster_wf hu) h

theorem prepReserve_wf (h : MemWf s) {id} :
    Prep.Wf (prepReserve s id) := by
  unfold prepReserve
  split
  · exact h
  · split
    · exact h
    · split
      · exact h
      · split
        · exact h
        · extract_lets _ v
          have hv : MemWf v := mapOcc_wf (ite_wf h (reservePower_wf h))
          exact ite_holds hv (mapOcc_wf (ite_wf (makeQueues_wf hv) hv))

theorem bindAll_wf (h : MemWf s) {id o a} :
    Prep.Wf (bindAll id o a s) := by
  induction a generalizing s with
  | nil => exact mapOcc_wf h
  | cons b r ih =>
    unfold bindAll
    extract_lets dir x g
    refine ite_holds (ih h) (ite_holds h ?_)
    split
    · next eq => exact holds_of_eq (P := EngRes.Wf) eq (halReady_wf h)
    · exact failHal_wf h
    · exact ih (bindHal_wf (halHold_wf h))

theorem prepHalyards_wf (h : MemWf s) {id} :
    Prep.Wf (prepHalyards s id) := by
  unfold prepHalyards
  split
  · exact h
  · exact ite_holds h (bindAll_wf h)

theorem readImage_wf (h : MemWf s) {id o k} (hk : ∀ x t, MemWf t → Prep.Wf (k x t)) :
    Prep.Wf (readImage s id o k) := by
  unfold readImage
  extract_lets va
  refine prepRead_wf h fun _ hu => ?_
  split
  · exact hu
  · exact prepRead_wf hu fun _ hv => ite_holds hv (prepRead_wf hv fun _ hw => hk _ _ hw)

theorem prepImage_wf (h : MemWf s) {id} :
    Prep.Wf (prepImage s id) := by
  unfold prepImage
  split
  · exact h
  · exact ite_holds h (readImage_wf h fun _ _ hu => ite_holds hu (ite_holds hu (mapOcc_wf hu)))

theorem prepare_wf (h : MemWf s) {id} :
    MemWf (prepare s id) := by
  unfold prepare
  extract_lets u
  have hu : Prep.Wf u := by
    unfold u
    refine Prep.andThen_wf (Prep.andThen_wf (prepRecord_wf h) fun _ hu => prepRouter_wf hu) fun _ hu => ?_
    split
    · exact hu
    · split
      · exact Prep.andThen_wf (Prep.andThen_wf (prepReserve_wf hu) fun _ hv => prepHalyards_wf hv) fun _ hv => prepImage_wf hv
      · exact hu
  clear_value u
  split
  · exact hu
  · exact hu
  · exact hu
  · exact refuseOcc_wf hu

theorem noteRun_wf (h : MemWf s) {c v} : MemWf (noteRun s c v) := mapSched_wf h

theorem loadCore_wf (h : MemWf s) {id o c l} :
    MemWf (loadCore s id o c l) := by
  unfold loadCore
  extract_lets u
  have hu : MemWf u := ite_wf h (noteRun_wf (loadData_wf _ _ _ _ (loadCode_wf _ _ _ h)))
  exact mapCore_wf (loadTags_wf _ _ (clearCore_wf hu))

theorem execImageLoad_wf (h : MemWf s) :
    OutWf (execImageLoad s) := by
  unfold execImageLoad
  extract_lets c
  split
  · exact h
  · split
    · exact h
    · generalize load : readImage s _ _ _ = p
      have hp : Prep.Wf p := holds_of_eq load (readImage_wf h fun _ _ hu => loadCore_wf hu)
      cases p with
      | ok t => exact mapOcc_wf hp
      | wait t => exact hp
      | gone t => exact hp
      | refuse reason t => exact refuseOcc_wf hp

/-! ### Fetching -/

theorem seenBy_wf (h : MemWf s) {c b sl} : MemWf (seenBy s c b sl) := frame_wf h

theorem debitPrimary_wf (h : MemWf s) {c n} : MemWf (debitPrimary s c n) := ite_wf h (mapCluster_wf h)

theorem chargeCredit_wf (h : MemWf s) {c occ} :
    MemWf (chargeCredit s c occ) := by
  unfold chargeCredit
  split
  · exact h
  · exact ite_wf h (mapSched_wf (mapCore_wf h))

/-! ### The cycle of the primaries (09) -/

theorem serveLate_wf (h : MemWf s) {c advance l} :
    MemWf (serveLate s c advance l) := ite_wf (performAll_wf (mapCore_wf h)) (mapCore_wf (performAll_wf (mapCore_wf h)))

theorem runLocks_wf (h : MemWf s) {d ws} : MemWf (runLocks s d ws) := performAll_wf (mapCore_wf h)

theorem lateService_wf (h : MemWf s) :
    MemWf (lateService s).2 := by
  unfold lateService
  extract_lets go flat order all late lost gang serve locked u
  have hu : MemWf u := by
    refine foldl_memWf (fun v c hv => ?_) h
    unfold serve
    split
    · exact ite_wf hv (serveLate_wf hv)
    · exact ite_wf (serveLate_wf hv) hv
  exact foldl_memWf (fun _ _ hv => runLocks_wf hv) hu

theorem goCycle_wf (h : MemWf s) {svc} :
    MemWf (goCycle s svc) := by
  unfold goCycle
  extract_lets u cs fr v
  have hu : MemWf u := foldl_memWf (fun _ _ hu => wakeService_wf hu) h
  have hv : MemWf v := foldl_memWf (fun _ _ hu => mapCore_wf hu) hu
  exact frame_wf hv

theorem moveMarks_wf (h : MemWf s) {c} :
    MemWf (moveMarks s c) :=
  ite_wf h (foldl_memWf (fun _ _ hu => ite_wf (settleFirst_wf hu) (performAll_wf (settleFirst_wf hu))) (mapCore_wf h))

theorem activeAccesses_wf (h : MemWf s) {c} : MemWf (activeAccesses s c) := performAll_wf (mapCore_wf h)

theorem idleCycle_wf (h : MemWf s) {c} : MemWf (idleCycle s c) := mapCore_wf h

theorem endBundle_wf (h : MemWf s) {c b} : MemWf (endBundle s c b) := mapCore_wf h

theorem boundaryTrap_wf (h : MemWf s) {c f} : MemWf (boundaryTrap s c f) := takePrimTrap_wf _ _ _ h

theorem sendFeed_wf (h : MemWf s) {c b ui} : MemWf (sendFeed s c b ui) := foldl_memWf (fun _ _ hu => mapCore_wf hu) h

theorem beginBundle_wf (h : MemWf s) {c b all found} :
    MemWf (beginBundle s c b all found) := by
  unfold beginBundle
  split
  · split
    · exact boundaryTrap_wf h
    · exact mapCore_wf h
  · exact mapCore_wf (debitPrimary_wf (chargeCredit_wf h))

theorem issueGuidon_wf (h : MemWf s) {c} : MemWf (issueGuidon s c).2 := ite_wf (sendFeed_wf (beginBundle_wf h)) (beginBundle_wf h)

theorem followHandler_wf (h : MemWf s) {c ui} :
    MemWf (followHandler s c ui) := by
  unfold followHandler
  split
  · exact h
  · exact mapCore_wf h

theorem issueFollower_wf (h : MemWf s) {c} :
    MemWf (issueFollower s c).2 := by
  unfold issueFollower
  extract_lets _
  split
  · split
    · extract_lets v
      have hv : MemWf v := followHandler_wf (mapCore_wf (mapCore_wf h))
      split
      · exact mapCore_wf hv
      · exact beginBundle_wf hv
    · exact mapCore_wf h
  · exact mapCore_wf h

end Sys2Proof.Machine
end

section
/-! SUPPORT. Canonical memory through scheduling and the frames at the engine (04, 05, 06). -/

namespace Sys2Proof.Machine

set_option Elab.async false

variable {s : State}

/-! ### Scheduling (04, 05) -/

theorem mapUnit_wf (h : MemWf s) {id c f} : MemWf (mapUnit s id c f) := mapOcc_wf h

theorem preemptUnits_wf (h : MemWf s) {id us} : MemWf (preemptUnits s id us) := mapOcc_wf h

theorem putBack_wf (h : MemWf s) {id o} : MemWf (putBack s id o) := mapQueueOf_wf (mapOcc_wf (releaseAll_wf h))

theorem toStore_wf (h : MemWf s) {id o u} :
    MemWf (toStore s id o u) := by
  unfold toStore
  extract_lets v
  have hv : MemWf v := reservePower_wf (foldl_memWf (fun _ _ hu => freeCore_wf hu) h)
  exact ite_wf (mapQueueOf_wf (mapUnit_wf hv)) (mapUnit_wf hv)

theorem claimCore_wf (h : MemWf s) {id pre c} :
    MemWf (claimCore s id pre c) := by
  unfold claimCore
  split
  · exact h
  · split
    · exact putBack_wf h
    · split
      · exact h
      · split
        · exact ite_wf (toStore_wf h) h
        · exact ite_wf (preemptUnits_wf h) h

theorem beginTimed_wf (h : MemWf s) {id posted} :
    MemWf (beginTimed s id posted) := by
  unfold beginTimed
  split
  · exact h
  · extract_lets pre busy live _ v w
    have hv : MemWf v := ite_wf (lateOcc_wf (ite_wf (lateOcc_wf h) h)) (ite_wf (lateOcc_wf h) h)
    have hw : MemWf w := prepare_wf (ite_wf (foldl_memWf (fun _ _ hu => wakeCore_wf hu) hv) hv)
    exact ite_wf (foldl_memWf (fun _ _ hu => claimCore_wf hu) hw) hw

theorem execPreparationBegin_wf (h : MemWf s) :
    OutWf (execPreparationBegin s) := by
  unfold execPreparationBegin
  extract_lets e i
  change MemWf _
  refine ite_wf (prepare_wf h) ?_
  split
  · extract_lets r u
    have hu : MemWf u := beginTimed_wf (addOcc_wf h)
    exact ite_wf (pushEvents_wf hu) hu
  · exact h

theorem startOcc_wf (h : MemWf s) {id o} :
    MemWf (startOcc s id o) := by
  unfold startOcc
  extract_lets u v
  have hu : MemWf u := foldl_memWf (fun _ _ hu => noteRun_wf (mapCore_wf hu)) h
  have hv : MemWf v := by
    unfold v
    split
    · exact lateRecord_wf hu
    · exact hu
  exact ite_wf (mapSched_wf (mapTime_wf (mapOcc_wf hv))) (mapTime_wf (mapOcc_wf hv))

theorem beginOcc_wf (h : MemWf s) {id o} : MemWf (beginOcc s id o) := ite_wf (refuseOcc_wf h) (startOcc_wf h)

theorem execOccurrenceStart_wf (h : MemWf s) :
    OutWf (execOccurrenceStart s) := by
  unfold execOccurrenceStart
  split
  · exact h
  · exact ite_wf (beginOcc_wf h) h

theorem execSharedStart_wf (h : MemWf s) :
    OutWf (execSharedStart s) := by
  unfold execSharedStart
  split
  · exact h
  · exact ite_wf (beginOcc_wf h) h

theorem execOccurrenceInstant_wf (h : MemWf s) :
    OutWf (execOccurrenceInstant s) := by
  unfold execOccurrenceInstant
  split
  · exact h
  · exact ite_wf h (lateOcc_wf (mapOcc_wf h))

theorem enqueueShared_wf (h : MemWf s) {e} : MemWf (enqueueShared s e) := prepare_wf (mapQueueOf_wf (addOcc_wf h))

theorem armEntry_wf (h : MemWf s) {e} : MemWf (armEntry s e) := mapSched_wf (setValid_wf h)

theorem stopGangAt_wf (h : MemWf s) {g r} :
    MemWf (stopGangAt s g r) := by
  unfold stopGangAt
  extract_lets frozen u
  have hu : MemWf u := ite_wf (foldl_memWf (fun _ _ hu => mapCore_wf hu) (mapCore_wf h)) h
  exact ite_wf hu (foldl_memWf (fun _ _ hu => mapCore_wf hu) hu)

theorem stopForPreempt_wf (h : MemWf s) {cs} :
    MemWf (stopForPreempt s cs) := foldl_memWf (fun _ _ hu => mapCore_wf hu) (foldl_memWf (fun _ _ hu => stopGangAt_wf hu) h)

theorem stopForKill_wf (h : MemWf s) {cs} : MemWf (stopForKill s cs) := foldl_memWf (fun _ _ hu => stopGangAt_wf hu) h

theorem dropMisses_wf (h : MemWf s) {c} : MemWf (dropMisses s c) := foldl_memWf (fun _ _ hu => leaveMisses_wf hu) h

theorem quiesce_wf (h : MemWf s) {c} :
    MemWf (quiesce s c) := by
  unfold quiesce
  extract_lets _ wait _ w
  have hw : MemWf w := foldl_memWf (fun _ _ hu => dropWaits_wf hu) (dropWaits_wf (settleFirst_wf h))
  exact mapCore_wf (mapSched_wf (dropMisses_wf (dcEmpty_wf hw)))

theorem stopUnit_wf (h : MemWf s) {id u} :
    MemWf (stopUnit s id u) := by
  unfold stopUnit
  extract_lets ph _ _ x
  have hx : MemWf x := stopForPreempt_wf (ite_wf (holdBeats_wf (mapUnit_wf h)) (mapUnit_wf h))
  exact ite_wf hx (mapUnit_wf (foldl_memWf (fun _ _ hu => quiesce_wf hu) hx))

theorem cancelJobs_wf (h : MemWf s) {id} : MemWf (cancelJobs s id) := foldl_memWf (fun _ _ hu => cancelJob_wf hu) h

theorem discardCore_wf (h : MemWf s) {c} :
    MemWf (discardCore s c) := by
  unfold discardCore
  extract_lets _ v
  have hv : MemWf v := foldl_memWf (fun _ _ hu => dropReservations_wf hu) (dropReservations_wf h)
  exact mapCore_wf (mapSched_wf (dropMisses_wf hv))

theorem discardMoored_wf (h : MemWf s) {id} : MemWf (discardMoored s id) := mapSched_wf h

theorem discardOcc_wf (h : MemWf s) {id o} :
    MemWf (discardOcc s id o) := cancelJobs_wf (dropOccWaits_wf (discardMoored_wf (foldl_memWf (fun _ _ hu => discardCore_wf hu) h)))

theorem restartOcc_wf (h : MemWf s) {id o} :
    MemWf (restartOcc s id o) := by
  unfold restartOcc
  extract_lets _ v
  have hv : MemWf v := mapOcc_wf (freeCores_wf (releasePower_wf (discardOcc_wf h)))
  exact ite_wf (mapQueueOf_wf hv) hv

theorem stopWhole_wf (h : MemWf s) {id o} :
    MemWf (stopWhole s id o) :=
  ite_wf (stopForKill_wf h) (ite_wf (mapOcc_wf (discardOcc_wf (stopForKill_wf h))) (restartOcc_wf (stopForKill_wf h)))

theorem execStopCycle_wf (h : MemWf s) :
    OutWf (execStopCycle s) := by
  unfold execStopCycle
  extract_lets id
  split
  · exact h
  · exact ite_wf (stopWhole_wf h) (foldl_memWf (fun _ _ hu => stopUnit_wf hu) h)

theorem holdCores_wf (h : MemWf s) {id cs r} : MemWf (holdCores s id cs r) := foldl_memWf (fun _ _ hu => mapCore_wf (wakeCore_wf hu)) h

theorem chooseUnit_wf (h : MemWf s) {id o c cs} :
    MemWf (chooseUnit s id o c cs) := pushEvents_wf (mapUnit_wf (holdCores_wf (reservePower_wf h)))

theorem restartAgain_wf (h : MemWf s) {id o} : MemWf (restartAgain s id o) := pushEvents_wf (mapOcc_wf (holdCores_wf (reservePower_wf h)))

theorem takeCandidate_wf (h : MemWf s) {e} :
    MemWf (takeCandidate s e) := by
  unfold takeCandidate
  extract_lets id _
  split
  · exact mapQueueOf_wf h
  · split
    · exact chooseUnit_wf (mapQueueOf_wf h)
    · exact ite_wf (restartAgain_wf (mapQueueOf_wf h)) (prepare_wf (mapOcc_wf (holdCores_wf (mapQueueOf_wf h))))

theorem selectShared_wf (h : MemWf s) {n} :
    MemWf (selectShared n s) := by
  induction n generalizing s with
  | zero => exact h
  | succ n ih =>
    unfold selectShared
    split
    · exact h
    · exact ih (takeCandidate_wf h)

theorem resumeTimed_wf (h : MemWf s) :
    MemWf (resumeTimed s) :=
  foldl_memWf (fun _ _ hu => ite_wf hu (ite_wf (ite_wf (restartAgain_wf hu) hu)
    (foldl_memWf (fun _ _ hv => ite_wf (chooseUnit_wf hv) hv) hu))) h

theorem refuseFenced_wf (h : MemWf s) :
    MemWf (refuseFenced s) := foldl_memWf (fun _ _ hu => ite_wf hu (ite_wf (refuseOcc_wf hu) (ite_wf (killOccurrence_wf hu) hu))) h

theorem afterFree_wf (h : MemWf s) : MemWf (afterFree s) := mapSched_wf (selectShared_wf (resumeTimed_wf (refuseFenced_wf h)))

theorem claimForTimed_wf (h : MemWf s) :
    MemWf (claimForTimed s) := foldl_memWf (fun _ _ hu => ite_wf hu (foldl_memWf (fun _ _ hv => claimCore_wf hv) hu)) h

theorem storeUnit_wf (h : MemWf s) {id o u} : MemWf (storeUnit id o s u) := toStore_wf (mapOcc_wf h)

theorem execSnapshotComplete_wf (h : MemWf s) :
    OutWf (execSnapshotComplete s) := by
  unfold execSnapshotComplete
  extract_lets id
  split
  · exact h
  · exact afterFree_wf (foldl_memWf (fun _ _ hu => storeUnit_wf hu) h)

theorem restoreUnits_wf (h : MemWf s) {id o us l} :
    MemWf (restoreUnits id o us l s) := by
  unfold restoreUnits
  extract_lets back u
  have hu : MemWf u := foldl_memWf (fun _ _ hu => restoreCore_wf _ _ _ _ _ hu) h
  exact ite_wf (freeBeats_wf (mapOcc_wf (pushEvents_wf hu))) (mapOcc_wf (pushEvents_wf hu))

theorem execRestoreComplete_wf (h : MemWf s) :
    OutWf (execRestoreComplete s) := by
  unfold execRestoreComplete
  extract_lets id
  split
  · exact h
  · split
    · exact h
    · generalize restore : readImage s _ _ _ = p
      have hp : Prep.Wf p := holds_of_eq restore (readImage_wf h fun _ _ hu => restoreUnits_wf hu)
      cases p with
      | ok t => exact hp
      | wait t => exact hp
      | gone t => exact hp
      | refuse reason t => exact killOccurrence_wf hp

theorem sharingPreempt_wf (h : MemWf s) {e} :
    MemWf (sharingPreempt s e) := by
  unfold sharingPreempt
  split
  · exact h
  · exact ite_wf h (foldl_memWf (fun _ _ hu => preemptUnits_wf hu) h)

theorem parkOwned_wf (h : MemWf s) {l} : BothWf (parkOwned s l) := by
  induction l generalizing s with
  | nil => exact ⟨h, h⟩
  | cons dir r ih =>
    unfold parkOwned
    extract_lets x
    split
    · exact ih (parkHal_wf h)
    · next eq => exact ⟨trivial, holds_of_eq (P := EngRes.Wf) eq (recordReady_wf h)⟩
    · exact ih (mapHalKey_wf (failHal_wf h))

theorem closeOcc_wf (h : MemWf s) {id o status cause} :
    MemWf (closeOcc s id o status cause) := by
  unfold closeOcc
  extract_lets u _ w
  have hu : MemWf u := foldl_memWf (fun _ _ hu => dcEmpty_wf hu) h
  have hw : MemWf w := releasePower_wf (releaseQueues_wf (completionRecord_wf _ _ _ _ _ _ _ hu))
  exact afterFree_wf (lowerGrants_wf (retireOcc_wf (freeCores_wf hw)))

theorem execOccurrenceEnd_wf (h : MemWf s) :
    OutWf (execOccurrenceEnd s) := by
  unfold execOccurrenceEnd
  extract_lets id
  change MemWf _
  split
  · exact h
  · refine ite_wf h ?_
    split
    · next eq => exact (holds_of_eq (P := BothWf) eq (parkOwned_wf h)).2
    · next eq => exact closeOcc_wf (holds_of_eq (P := BothWf) eq (parkOwned_wf h)).1

theorem watchTick_wf (h : MemWf s) : MemWf (watchTick s) := ite_wf h (foldl_memWf (fun _ _ hu => ite_wf (mapOcc_wf hu) hu) h)

theorem wdRecord_wf (h : MemWf s) {id o reason v} : MemWf (wdRecord s id o reason v) := eventRecord_wf _ _ _ _ _ _ h

theorem execWatchdogPreempt_wf (h : MemWf s) :
    OutWf (execWatchdogPreempt s) := by
  unfold execWatchdogPreempt
  split
  · exact h
  · exact ite_wf h (ite_wf (mapOcc_wf h) (preemptUnits_wf (wdRecord_wf (mapOcc_wf h))))

theorem execWatchdogKill_wf (h : MemWf s) :
    OutWf (execWatchdogKill s) := by
  unfold execWatchdogKill
  split
  · exact h
  · exact ite_wf h (killOccurrence_wf (wdRecord_wf (mapOcc_wf h)))

theorem fenceCore_wf (h : MemWf s) {c} : MemWf (fenceCore s c) := mapSched_wf (freeCore_wf (discardCore_wf h))

theorem fenceAway_wf (h : MemWf s) {c} :
    MemWf (fenceAway s c) := by
  unfold fenceAway
  extract_lets _
  split
  · exact killOccurrence_wf (mapCore_wf (mapSched_wf h))
  · exact mapSched_wf h

theorem fenceOcc_wf (h : MemWf s) {id o} :
    MemWf (fenceOcc s id o) := by
  unfold fenceOcc
  extract_lets away cs _ act frz v _ _ y
  have hv : MemWf v := foldl_memWf (fun _ _ hu => fenceAway_wf hu) (foldl_memWf (fun _ _ hu => fenceCore_wf hu)
    (discardOcc_wf (wdRecord_wf (mapOcc_wf h))))
  have hy : MemWf y := freeCores_wf (releasePower_wf (releaseQueues_wf (completionRecord_wf _ _ _ _ _ _ _ (unbindHals_wf hv))))
  exact afterFree_wf (lowerGrants_wf (retireOcc_wf hy))

theorem execWatchdogFence_wf (h : MemWf s) :
    OutWf (execWatchdogFence s) := by
  unfold execWatchdogFence
  split
  · exact h
  · exact ite_wf h (fenceOcc_wf h)

theorem clearEntries_wf (h : MemWf s) {x} : MemWf (clearEntries s x) := foldl_memWf (fun _ _ hu => ite_wf (setValid_wf hu) hu) h

theorem createCtx_wf (h : MemWf s) {x} : MemWf (createCtx s x) := ite_wf h (mapCtx_wf (clearEntries_wf h))

theorem killCtx_wf (h : MemWf s) {x} : MemWf (killCtx s x) := foldl_memWf (fun _ _ hu => ite_wf (killOccurrence_wf hu) hu) h

theorem stopCtx_wf (h : MemWf s) {x} : MemWf (stopCtx s x) := ite_wf h (mapCtx_wf (killCtx_wf (clearEntries_wf h)))

theorem closeAll_wf (h : MemWf s) {l} : BothWf (closeAll s l) := by
  induction l generalizing s with
  | nil => exact ⟨h, h⟩
  | cons dir r ih =>
    unfold closeAll
    split
    · next eq => exact ⟨trivial, holds_of_eq (P := EngRes.Wf) eq (recordReady_wf h)⟩
    · exact ih (closeHal_wf h)

theorem clearContext_wf (h : MemWf s) {x} : MemWf (clearContext s x) := writeDomsel_wf (mapCtx_wf h)

theorem execContextFree_wf (h : MemWf s) :
    OutWf (execContextFree s) := by
  unfold execContextFree
  extract_lets x
  change MemWf _
  refine ite_wf h ?_
  split
  · next eq => exact (holds_of_eq (P := BothWf) eq (closeAll_wf h)).2
  · next u _ eq =>
      have hu : MemWf u := (holds_of_eq (P := BothWf) eq (closeAll_wf h)).1
      exact ite_wf (clearContext_wf (mapCtx_wf (mapSched_wf hu))) (mapCtx_wf (mapSched_wf hu))

theorem clearWindows_wf (h : MemWf s) {n xs} :
    MemWf (clearWindows s n xs) := foldl_memWf (fun _ _ hu => ite_wf (clearContext_wf hu) (mapCtx_wf hu)) (mapSched_wf h)

theorem writeEntry_wf (h : MemWf s) {e l} :
    MemWf (writeEntry s e l) := by
  unfold writeEntry
  split
  · split
    · exact mapCtx_wf h
    · split
      · exact ite_wf h (pushEvents_wf h)
      · exact h
  · extract_lets put u
    have hu : MemWf u := foldl_memWf (fun _ _ hu => mapSched_wf hu) h
    exact ite_wf (pushEvents_wf hu) hu

theorem writeFrames_wf (h : MemWf s) {fn l} : MemWf (writeFrames s fn l) := pushEvents_wf (mapSched_wf h)

theorem execScheduleEntryWrite_wf (h : MemWf s) :
    OutWf (execScheduleEntryWrite s) := by
  unfold execScheduleEntryWrite
  extract_lets +onlyGivenNames n
  split
  · extract_lets +onlyGivenNames frame o
    split
    · exact h
    · split
      · exact answer_wf h
      · split
        · exact writeFrames_wf h
        · refine foldl_memWf (fun _ _ hu => ?_) h
          split
          · exact writeEntry_wf hu
          · exact hu
  · exact h

/-! ### Frames at the engine (06) -/

theorem dropFrame_wf (h : MemWf s) {x v arrival reason} : MemWf (dropFrame s x v arrival reason) := eventRecord_wf _ _ _ _ _ _ (mapCtx_wf h)

theorem execFrameSubmit_wf (h : MemWf s) :
    OutWf (execFrameSubmit s) := by
  unfold execFrameSubmit
  split
  · exact ite_wf h (ite_wf (dropFrame_wf h) (mapSched_wf h))
  · exact h

theorem playOn_wf (h : MemWf s) {dir n} : MemWf (playOn s dir n) := by
  induction n generalizing s with
  | zero => exact h
  | succ n ih =>
    unfold playOn
    extract_lets x
    refine ite_wf h ?_
    split
    · exact failHal_wf h
    · next eq => exact holds_of_eq (P := EngRes.Wf) eq (halReady_wf h)
    · next u _ _ =>
      have hu : MemWf u := mapHalKey_wf (halHold_wf h)
      exact ite_wf (ih (ite_wf (raiseHal_wf hu) hu)) h

theorem handleFrame_wf (h : MemWf s) {dir k} :
    MemWf (handleFrame s dir k) := by
  unfold handleFrame
  split
  · exact h
  · extract_lets +onlyGivenNames _ t
    split
    · exact h
    · extract_lets +onlyGivenNames _ _
      split
      · exact dropFrame_wf (mapSched_wf h)
      · exact dropFrame_wf (mapSched_wf h)
      · extract_lets +onlyGivenNames l
        split
        · next eq => exact holds_of_eq (P := EngRes.Wf) eq (halReady_wf h)
        · exact takeFrame_wf (halHold_wf (mapSched_wf h))
        · exact dropFrame_wf (failHal_wf (mapSched_wf h))

theorem execCutComplete_wf (h : MemWf s) :
    OutWf (execCutComplete s) := by
  unfold execCutComplete
  split
  · exact ite_wf (mapHalKey_wf h) h
  · exact h

end Sys2Proof.Machine
end

section
/-! SUPPORT. Canonical memory through the barrel's cycle and the events of the cores (09, 10). -/

namespace Sys2Proof.Machine

set_option Elab.async false

variable {s : State}

/-! ### The barrel's cycle (10) -/

theorem fetchLine_wf (h : MemWf s) {c t} :
    MemWf (fetchLine s c t) := by
  unfold fetchLine
  extract_lets th
  refine ite_wf h ?_
  split
  · exact ite_wf (takeThreadTrap_wf h) h
  · generalize look : threadLook s c t _ th.pc.toNat .image _ = r
    have hr : GRes.Wf r := holds_of_eq look (threadLook_wf h fun leaf pa u hu =>
      ite_holds (threadHold_wf hu) (mapCore_wf (mapThread_wf (recallNear_wf _ _ (holdLine_wf _ _ _ _ _ hu)))))
    cases r with
    | ok _ u => exact mapThread_wf hr
    | wait u => exact hr
    | fail _ => exact h
    | xlate => exact takeThreadTrap_wf h

theorem deny_wf (h : MemWf s) {c t until_ f} : MemWf (deny s c t until_ f) := mapThread_wf (mapCore_wf h)

theorem issueAttempt_wf (h : MemWf s) {c t w} :
    MemWf (issueAttempt s c t w) := by
  unfold issueAttempt
  extract_lets n _ v
  have hv : MemWf v := chargeCredit_wf (mapCluster_wf h)
  exact mapThread_wf hv

theorem countTaken_wf (h : MemWf s) {c i} : MemWf (countTaken s c i) := mapCore_wf h

theorem noteClass_wf (h : MemWf s) {c i t} : MemWf (noteClass s c i t) := mapThread_wf h

theorem take_wf (h : MemWf s) {c i t w} : MemWf (take s c i t w) := countTaken_wf (noteClass_wf (issueAttempt_wf h))

theorem postAccess_wf (h : MemWf s) {c i t w x} : MemWf (postAccess s c i t w x) := mapThread_wf (issueAttempt_wf h)

theorem issueService_wf (h : MemWf s) {c i} :
    MemWf (issueService s c i).2 := by
  unfold issueService
  split
  · exact h
  · extract_lets u
    have hu : MemWf u := mapThread_wf (take_wf h)
    exact frame_wf hu

theorem offer_wf (h : MemWf s) {c i} : MemWf (offer s c i).2 := by
  change SndWf (offer s c i)
  unfold offer
  refine ite_holds h ?_
  extract_lets u
  have hu : MemWf u := mapCore_wf h
  split
  · exact hu
  · next t w _ =>
      extract_lets v picked
      have hv : MemWf v := mapCore_wf hu
      have hpicked : MemWf picked := mk_wf hv
      clear_value picked
      have trap (cause info) : SndWf (α := Option Instr) (none, takeThreadTrap (take picked c i t w) c (BitVec.ofNat 3 t) cause info) :=
        sndWf_mk (takeThreadTrap_wf (take_wf hpicked))
      refine ite_holds (deny_wf hpicked) (ite_holds (issueService_wf hpicked) (ite_holds (trap _ _) ?_))
      split
      · exact trap _ _
      · split
        · exact sndWf_mk (postAccess_wf hpicked)
        · exact sndWf_mk (take_wf hpicked)

theorem decidePosts_wf (h : MemWf s) :
    MemWf (decidePosts s) := by
  unfold decidePosts
  split
  · exact h
  · exact foldl_memWf (fun _ _ hu => ite_wf (ite_wf (deny_wf hu) (countTaken_wf (mapThread_wf hu))) (ite_wf (mapThread_wf hu) hu)) h

theorem decideNet_wf (h : MemWf s) {c} :
    MemWf (decideNet s c) := by
  unfold decideNet
  refine foldl_memWf (fun _ _ hu => ?_) h
  split
  · exact ite_wf (deny_wf hu) hu
  · exact hu

theorem settle_wf (h : MemWf s) : MemWf (settle s) := by
  unfold settle
  split
  · exact frame_wf h
  · extract_lets u r v ui ho
    have hv : MemWf v := lateService_wf (decidePosts_wf h)
    exact frame_wf hv

/-! ### Events of the cores (09, 10) -/

theorem execAccessTrap_wf (h : MemWf s) :
    OutWf (execAccessTrap s) := by
  unfold execAccessTrap
  split
  · exact takePrimTrap_wf _ _ _ h
  · exact h

theorem jobAcquire_wf (h : MemWf s) {c w} : MemWf (jobAcquire s c w) := ite_wf h (foldl_memWf (fun _ _ hu => acquireWords_wf hu) h)

theorem execUserInterruptTake_wf (h : MemWf s) :
    OutWf (execUserInterruptTake s) := by
  unfold execUserInterruptTake
  extract_lets c
  split
  · exact mapCore_wf (jobAcquire_wf h)
  · exact h

theorem execTrapctlKill_wf (h : MemWf s) :
    OutWf (execTrapctlKill s) := by
  unfold execTrapctlKill
  split
  · exact ite_wf (killOccurrence_wf h) h
  · exact h

theorem hoistTrap_wf (h : MemWf s) {w} :
    MemWf (hoistTrap s w) := by
  unfold hoistTrap
  extract_lets u f found v
  have hv : MemWf v := mapCore_wf (mapSched_wf h)
  clear_value found v
  cases found with
  | none => exact takePrimTrap_wf _ _ _ hv
  | some x => exact boundaryTrap_wf hv

theorem execHoistArrival_wf (h : MemWf s) :
    OutWf (execHoistArrival s) := by
  unfold execHoistArrival
  extract_lets +onlyGivenNames c
  split
  · exact h
  · extract_lets +onlyGivenNames n _
    split
    · exact foldl_memWf (fun _ _ hu => hoistTrap_wf hu) h
    · exact ite_wf (mapCore_wf (mapSched_wf h)) (foldl_memWf (fun _ _ hu => hoistTrap_wf hu) h)

theorem syncRouter_wf (h : MemWf s) {c n} :
    MemWf (syncRouter s c n) := by
  unfold syncRouter
  split
  · exact mapOcc_wf h
  · exact h

theorem hoistSync_wf (h : MemWf s) {c ahead scope parts} : MemWf (hoistSync s c ahead scope parts) := mapCore_wf h

theorem releaseHoist_wf (h : MemWf s) {parts w} :
    MemWf (releaseHoist s parts w) := syncRouter_wf (foldl_memWf (fun _ _ hu => hoistSync_wf hu) (mapCore_wf h))

theorem releaseGroup_wf (h : MemWf s) {w} : MemWf (releaseGroup s w) := foldl_memWf (fun _ _ hu => releaseHoist_wf hu) (mapSched_wf h)

theorem execHoistRelease_wf (h : MemWf s) :
    OutWf (execHoistRelease s) := by
  unfold execHoistRelease
  split
  · exact h
  · split
    · exact h
    · exact ite_wf h (releaseGroup_wf h)

theorem execPhaseHoldEnd_wf (h : MemWf s) :
    OutWf (execPhaseHoldEnd s) := by
  unfold execPhaseHoldEnd
  extract_lets c
  split
  · split
    · split
      · exact mapCore_wf h
      · exact mapCore_wf h
    · exact mapCore_wf h
  · exact h

theorem grantLrw_wf (h : MemWf s) {c} :
    MemWf (grantLrw s c) := by
  unfold grantLrw
  split
  · exact ite_wf (mapCore_wf h) h
  · exact h

theorem startThread_wf (h : MemWf s) {c t occ frame pc live f x} : MemWf (startThread s c t occ frame pc live f x) := mapThread_wf h

theorem acquireFrame_wf (h : MemWf s) {c t x fp} : MemWf (acquireFrame s c t x fp) := threadAcquire_wf h

theorem loadFrame_wf (h : MemWf s) {c t wake} :
    MemWf (loadFrame s c t wake) := by
  unfold loadFrame
  extract_lets th t3 x fp keep lose
  have hlose (u w) (hu : MemWf u) : MemWf (lose u w) := frameFault_wf _ _ _ _ _ _ _ (mapThread_wf hu)
  generalize read : frameRead s c t3 x fp = r
  have hr : FRead.Wf r := holds_of_eq read (frameRead_wf h)
  cases r with
  | wait u => exact mapThread_wf hr
  | fail w => exact hlose _ _ h
  | ok v u =>
      have hu : MemWf u := hr
      refine ite_wf (mapThread_wf hu) ?_
      generalize write : frameWrite u c t3 x fp _ = q
      have hq : FRes.Wf q := holds_of_eq write (frameWrite_wf hu)
      cases q with
      | wait w => exact mapThread_wf hq
      | fail w => exact hlose _ _ hu
      | ok w =>
          have hw : MemWf w := hq
          exact ite_wf (takeThreadTrap_wf (startThread_wf (acquireFrame_wf hw))) (startThread_wf (acquireFrame_wf hw))

theorem takePointer_wf (h : MemWf s) {c t fp wake} : MemWf (takePointer s c t fp wake) := loadFrame_wf (mapThread_wf h)

theorem resumePacket_wf (h : MemWf s) {c t p} : MemWf (resumePacket s c t p) := threadAcquire_wf (startThread_wf h)

theorem execFrameResume_wf (h : MemWf s) :
    OutWf (execFrameResume s) := by
  unfold execFrameResume
  extract_lets c
  split
  · exact h
  · split
    · exact loadFrame_wf h
    · exact h
    · split
      · exact ite_wf (takePointer_wf (mapCore_wf h)) (resumePacket_wf (mapCore_wf h))
      · exact takePointer_wf (mapCore_wf h)
      · exact h

theorem departThread_wf (h : MemWf s) {c t o next extra} :
    MemWf (departThread s c t o next extra) := by
  unfold departThread
  extract_lets th _ live _ v
  have hv : MemWf v := releaseAt_wf (threadRelease_wf (dropReservations_wf h))
  exact ite_wf (takeThreadTrap_wf (mapThread_wf hv)) (mapSched_wf (mapThread_wf hv))

theorem execMigrationDeparture_wf (h : MemWf s) :
    OutWf (execMigrationDeparture s) := by
  unfold execMigrationDeparture
  extract_lets c t
  split
  · exact departThread_wf h
  · exact h

theorem dropPacket_wf (h : MemWf s) {n} : MemWf (dropPacket s n) := mapSched_wf h

theorem moorPacket_wf (h : MemWf s) {n p} :
    MemWf (moorPacket s n p) := by
  unfold moorPacket
  extract_lets a key old lost
  have hlost (w) : MemWf (lost w) := frameFault_wf _ _ _ _ _ _ _ (dropPacket_wf h)
  clear_value lost
  split
  · next eq => exact holds_of_eq (P := FLook.Wf) eq (frameLook_wf h)
  · exact hlost _
  · extract_lets put
    have hput (tail) (htail : ∀ t ∈ tail, FLook.Wf t) : MemWf (put s tail) := by
      refine mapSched_wf (dropPacket_wf ?_)
      cases tail with
      | none => exact framePut_wf (framePut_wf h (frameLook_wf h)) (frameLook_wf h)
      | some t => exact framePut_wf (framePut_wf (framePut_wf h (frameLook_wf h)) (frameLook_wf h)) (htail t rfl)
    clear_value put
    refine ite_wf (hput none fun t ht => absurd ht (Option.not_mem_none t)) ?_
    split
    · next eq => exact holds_of_eq (P := FLook.Wf) eq (frameLook_wf h)
    · exact hlost _
    · exact hput _ fun t ht => Option.mem_some.1 ht ▸ frameLook_wf h

theorem execMigrationArrival_wf (h : MemWf s) :
    OutWf (execMigrationArrival s) := by
  unfold execMigrationArrival
  extract_lets n
  split
  · exact h
  · extract_lets c gone
    split
    · exact eventRecord_wf _ _ _ _ _ _ (dropPacket_wf h)
    · split
      · split
        · exact resumePacket_wf (dropPacket_wf h)
        · exact ite_wf (mapCore_wf (dropPacket_wf h)) (moorPacket_wf h)
      · exact moorPacket_wf h

theorem moveMoored_wf (h : MemWf s) {c l} (hl : FLook.Wf l) : MemWf (moveMoored s c l) := mapCore_wf (mapSched_wf (framePut_wf h hl))

theorem moorAwaits_wf (h : MemWf s) {key b} : MemWf (moorAwaits s key b) := mapSched_wf h

theorem execMooringMove_wf (h : MemWf s) :
    OutWf (execMooringMove s) := by
  unfold execMooringMove
  extract_lets c x key m
  change MemWf _
  refine ite_wf (moorAwaits_wf h) ?_
  split
  · next eq => exact moorAwaits_wf (holds_of_eq (P := FLook.Wf) eq (frameLook_wf h))
  · exact frameFault_wf _ _ _ _ _ _ _ (mapSched_wf (moorAwaits_wf h))
  · exact moveMoored_wf (moorAwaits_wf h) (frameLook_wf h)

end Sys2Proof.Machine
end

section
/-! SUPPORT. Canonical memory through the links and the copy jobs (02, 19). -/

namespace Sys2Proof.Machine

set_option Elab.async false

variable {s : State}

/-! ### Links (02) -/

theorem output_wf (h : MemWf s) {n f} : MemWf (output s n f) := frame_wf h

theorem transmit_wf (h : MemWf s) {n f} : MemWf (transmit s n f) := output_wf (mapLink_wf h)

theorem sendBare_wf (h : MemWf s) {n kind len nak payload} : MemWf (sendBare s n kind len nak payload) := ite_wf h (output_wf h)

theorem putFlit_wf (h : MemWf s) {n fresh f} : MemWf (putFlit s n fresh f) := ite_wf (transmit_wf h) (mapLink_wf h)

theorem flushLink_wf (h : MemWf s) {n} : MemWf (flushLink s n) := foldl_memWf (fun _ _ hu => putFlit_wf hu) (mapLink_wf h)

theorem laterMessage_wf (h : MemWf s) {f} : MemWf (laterMessage s f) := frame_wf h

theorem countDrop_wf (h : MemWf s) : MemWf (countDrop s) := frame_wf h

theorem trySend_wf (h : MemWf s) {f lost} (hlost : ∀ t, MemWf t → MemWf (lost t)) :
    MemWf (trySend s f lost) := ite_wf (pushEvents_wf h) (ite_wf (hlost _ (countDrop_wf h)) (putFlit_wf h))

theorem loseMessage_wf (h : MemWf s) {f} : MemWf (loseMessage s f) := ite_wf h (ite_wf (laterMessage_wf h) (trySend_wf h fun _ hu => hu))

theorem dropFlit_wf (h : MemWf s) {f} : MemWf (dropFlit s f) := loseMessage_wf (countDrop_wf h)

theorem sendFlit_wf (h : MemWf s) {f} : MemWf (sendFlit s f) := trySend_wf h fun _ hu => loseMessage_wf hu

theorem sendMessage_wf (h : MemWf s) {f} : MemWf (sendMessage s f) := ite_wf (laterMessage_wf h) (sendFlit_wf h)

theorem postMessage_wf (h : MemWf s) {f} : MemWf (postMessage s f) := sendMessage_wf (frame_wf h)

theorem forward_wf (h : MemWf s) {f} : MemWf (forward s f) := ite_wf (dropFlit_wf h) (sendFlit_wf h)

theorem sendReplay_wf (h : MemWf s) {n} : MemWf (sendReplay s n) := foldl_memWf (fun _ _ hu => output_wf hu) h

theorem resend_wf (h : MemWf s) {n} :
    MemWf (resend s n) := ite_wf h (ite_wf (pushEvents_wf (sendReplay_wf (mapLink_wf h))) (sendReplay_wf (mapLink_wf h)))

theorem failFlit_wf (h : MemWf s) {n} : MemWf (failFlit s n) := sendBare_wf (mapLink_wf h)

theorem countUncorrectable_wf (h : MemWf s) {n} : MemWf (countUncorrectable s n) := ite_wf (pushEvents_wf (mapLink_wf h)) (mapLink_wf h)

theorem takeHeader_wf (h : MemWf s) {n f} : MemWf (takeHeader s n f) := flushLink_wf (ite_wf (resend_wf (mapLink_wf h)) (mapLink_wf h))

theorem acceptFlit_wf (h : MemWf s) {n f} : MemWf (acceptFlit s n f) := sendBare_wf (sendBare_wf (mapLink_wf h))

theorem arrive_wf (h : MemWf s) {kind deliver} (hdeliver : ∀ x t, MemWf t → MemWf (deliver x t)) :
    MemWf (arrive s kind deliver) := by
  unfold arrive
  extract_lets +onlyGivenNames f
  split
  · exact hdeliver _ _ h
  · extract_lets +onlyGivenNames n
    split
    · exact h
    · split
      · exact failFlit_wf (countUncorrectable_wf h)
      · split
        · exact failFlit_wf h
        · extract_lets +onlyGivenNames _
          split
          · exact hdeliver _ _ (takeHeader_wf h)
          · extract_lets +onlyGivenNames l
            split
            · extract_lets +onlyGivenNames v
              have hv : MemWf v := acceptFlit_wf (takeHeader_wf h)
              exact ite_wf (hdeliver _ _ hv) (forward_wf hv)
            · exact ite_wf (sendBare_wf (takeHeader_wf h)) (sendBare_wf (takeHeader_wf h))

theorem respond_wf (h : MemWf s) {f fault data} : MemWf (respond s f fault data) := sendFlit_wf h

theorem peerAccess_wf (h : MemWf s) {f} :
    PeerRes.Wf (peerAccess s f) := by
  unfold peerAccess
  extract_lets va x n through kind
  clear_value kind
  split
  · refine ite_holds trivial (ite_holds trivial ?_)
    split
    · exact plainWrite_wf _ _ _ _ h
    · split
      · exact syncWrite_wf _ _ _ _ _ _ h
      · exact h
    · exact h
  · refine ite_holds h ?_
    split
    · exact h
    · extract_lets u
      have hu : MemWf u := ite_wf (foldl_memWf (fun _ _ hu => evictLine_wf _ _ hu) h) (serveLines_wf h)
      refine ite_holds trivial ?_
      split
      · exact homeWriteAll_wf _ _ _ _ _ _ _ _ hu
      · split
        · exact homeWrite_wf _ _ _ _ _ _ _ _ _ hu
        · exact hu
      · exact hu

theorem holdRequest_wf (h : MemWf s) {f permission id} :
    MemWf (holdRequest s f permission id) := ite_wf (frame_wf h) (requestMiss_wf (frame_wf h))

theorem serveRequest_wf (h : MemWf s) {f} :
    MemWf (serveRequest f s) := by
  unfold serveRequest
  extract_lets again id gone
  split
  · exact respond_wf (frame_wf h)
  · split
    · next eq => exact respond_wf (frame_wf (holds_of_eq (P := PeerRes.Wf) eq (peerAccess_wf h)))
    · exact respond_wf (frame_wf h)
    · next eq => exact holdRequest_wf (holds_of_eq (P := PeerRes.Wf) eq (peerAccess_wf h))

theorem mapJob_wf (h : MemWf s) {cl j f} : MemWf (mapJob s cl j f) := setJob_wf h

theorem peerRequest_wf (h : MemWf s) {cl j kind dev x va n scope data} :
    MemWf (peerRequest s cl j kind dev x va n scope data) := by
  unfold peerRequest
  split
  · exact h
  · extract_lets b cmd links u
    have hu : MemWf u := mk_wf h
    exact sendFlit_wf (mapJob_wf hu)

theorem endRequest_wf (h : MemWf s) {r bad data} : MemWf (endRequest s r bad data) := ite_wf (setJob_wf (frame_wf h)) (frame_wf h)

theorem takeResponse_wf (h : MemWf s) {f} :
    MemWf (takeResponse f s) := by
  unfold takeResponse
  split
  · exact h
  · exact ite_wf (endRequest_wf h) (endRequest_wf h)

theorem execLinkRequestTimeout_wf (h : MemWf s) :
    OutWf (execLinkRequestTimeout s) := by
  unfold execLinkRequestTimeout
  split
  · exact h
  · exact endRequest_wf h

theorem takeMessage_wf (h : MemWf s) {f} :
    MemWf (takeMessage f s) := by
  unfold takeMessage
  split
  · exact frame_wf h
  · exact ite_wf (laterMessage_wf h) h
  · exact h

theorem takeSample_wf (h : MemWf s) {n x d} :
    MemWf (takeSample s n x d) := ite_wf (mapLink_wf h) (ite_wf (measureOffset_wf (mapLink_wf h)) (lockSource_wf (mapLink_wf h)))

theorem linkDown_wf (h : MemWf s) {n} :
    MemWf (linkDown s n) := by
  unfold linkDown
  extract_lets l _ v
  have hv : MemWf v := foldl_memWf (fun _ _ hu => dropFlit_wf hu) (foldl_memWf (fun _ _ hu => loseMessage_wf hu) (relink_wf (mapLink_wf h)))
  exact writeBootStep_wf (ite_wf (sendFreeMsix_wf (mapMgmt_wf hv)) (mapMgmt_wf hv))

theorem execLinkTrainingDone_wf (h : MemWf s) :
    OutWf (execLinkTrainingDone s) := by
  unfold execLinkTrainingDone
  extract_lets n
  split
  · exact h
  · split
    · exact linkDown_wf h
    · exact ite_wf h (flushLink_wf (sendReplay_wf (relink_wf (mapLink_wf h))))

theorem writeRoute_wf (h : MemWf s) {w d v} : MemWf (writeRoute s w d v) := ownerWrite_wf h fun _ hu => frame_wf hu

/-! ### Copy jobs (19) -/

theorem finishJob_wf (h : MemWf s) {cl j st} : MemWf (finishJob s cl j st) := jobIrq_wf (setJob_wf (ite_wf (releaseAt_wf h) h))

theorem jobRecord_wf (h : MemWf s) {cl j cause addr} : MemWf (jobRecord s cl j cause addr) := eventRecord_wf _ _ _ _ _ _ h

theorem faultJob_wf (h : MemWf s) {cl j cause addr} : MemWf (faultJob s cl j cause addr) := finishJob_wf (mapJob_wf (jobRecord_wf h))

theorem notePoison_wf (h : MemWf s) {cl j addr} :
    MemWf (notePoison s cl j addr) := ite_wf (countUncorr_wf h) (mapJob_wf (jobRecord_wf (countUncorr_wf h)))

theorem jobMiss_wf (h : MemWf s) {cl j x va kind permission} :
    JobRes.Wf (jobMiss s cl j x va kind permission) := by
  unfold jobMiss
  split
  · exact trivial
  · split
    · exact h
    · extract_lets _
      split
      · next eq => exact mapJob_wf (holds_of_eq (P := SndWf) eq (requestMiss_wf h))
      · next eq => exact holds_of_eq (P := SndWf) eq (requestMiss_wf h)

theorem jobRead_wf (h : MemWf s) {cl j x p n} :
    JobRes.Wf (jobRead s cl j x p n) := by
  unfold jobRead
  extract_lets a
  split
  · exact trivial
  · split
    · exact trivial
    · split
      · exact trivial
      · exact h
  · split
    · exact h
    · split
      · exact jobMiss_wf h
      · exact ite_holds trivial (serveLines_wf h)

theorem poisonSpad_wf (h : MemWf s) {ps bad} : MemWf (poisonSpad s ps bad) := stores_wf h

theorem jobWrite_wf (h : MemWf s) {cl j x p n v bad} :
    JobRes.Wf (jobWrite s cl j x p n v bad) := by
  unfold jobWrite
  extract_lets a
  split
  · exact trivial
  · split
    · exact trivial
    · split
      · exact trivial
      · exact poisonSpad_wf (plainWrite_wf _ _ _ _ h)
  · split
    · exact h
    · split
      · exact jobMiss_wf h
      · exact ite_holds trivial (ite_holds trivial (stores_wf (homeWriteAll_wf _ _ _ _ _ _ _ _ h)))

theorem takeIssue_wf (h : MemWf s) {cl j} : MemWf (takeIssue s cl j) := acquireWords_wf (mapCluster_wf (countIssue_wf h))

theorem descAcquire_wf (h : MemWf s) {cl j x} :
    MemWf (descAcquire s cl j x) := by
  unfold descAcquire
  extract_lets a sc
  split
  · exact h
  · split
    · exact acquireWords_wf h
    · split
      · exact acquireWords_wf h
      · exact h
      · split
        · exact acquireWords_wf h
        · exact h

theorem descSees_wf (h : MemWf s) {cl j x} :
    MemWf (descSees s cl j x) := by
  unfold descSees
  split
  · exact h
  · exact descAcquire_wf h
  · split
    · exact h
    · split
      · exact h
      · exact descAcquire_wf (serveLines_wf h)

theorem descRead_wf (h : MemWf s) {cl j x} :
    JobRes.Wf (descRead s cl j x) := by
  unfold descRead
  extract_lets a _
  split
  · split
    · exact jobRead_wf (descSees_wf h)
    · split
      · exact trivial
      · split
        · exact trivial
        · exact descSees_wf h
  · exact jobRead_wf (descSees_wf h)

theorem execCopyJobStart_wf (h : MemWf s) :
    OutWf (execCopyJobStart s) := by
  unfold execCopyJobStart
  extract_lets cl j x u
  have hu : MemWf u := takeIssue_wf h
  clear_value u
  change MemWf _
  refine ite_wf h ?_
  split
  · exact hu
  · next eq => exact holds_of_eq (P := JobRes.Wf) eq (descRead_wf hu)
  · exact faultJob_wf (ite_wf (countUncorr_wf hu) hu)
  · next v bad w eq =>
      have hw : MemWf w := holds_of_eq (P := JobRes.Wf) eq (descRead_wf hu)
      refine ite_wf (faultJob_wf (countUncorr_wf hw)) ?_
      exact ite_wf (faultJob_wf (setJob_wf hw))
        (ite_wf (finishJob_wf (descAcquire_wf (setJob_wf hw))) (descAcquire_wf (setJob_wf hw)))

theorem readTag_wf (h : MemWf s) {cl j x} :
    JobRes.Wf (readTag s cl j x) := by
  unfold readTag
  split
  · next v bad u eq =>
      have hu : MemWf u := holds_of_eq (P := JobRes.Wf) eq (jobRead_wf h)
      exact hu
  · exact jobRead_wf h

theorem nextElement_wf (h : MemWf s) {cl j} : MemWf (nextElement s cl j) := mapJob_wf h

theorem writeElement_wf (h : MemWf s) {cl j x v bad start} :
    MemWf (writeElement s cl j x v bad start) := by
  unfold writeElement
  extract_lets n dst poison o
  have hpoison (u) (hu : MemWf u) : MemWf (poison u) := ite_wf hu (notePoison_wf hu)
  refine ite_wf (peerRequest_wf (hpoison _ h)) (ite_wf ?_ ?_)
  · refine ite_wf h (ite_wf (faultJob_wf h) ?_)
    generalize tag : readTag s cl j x = r
    have hr : JobRes.Wf r := holds_of_eq tag (readTag_wf h)
    cases r with
    | pause => exact h
    | wait t => exact hr
    | fault c => exact faultJob_wf h
    | ok tag badTag t => exact nextElement_wf (writeCode_wf _ _ _ _ _ _ (ite_wf (hpoison _ hr) (notePoison_wf hr)))
  · generalize written : jobWrite s cl j x _ n v bad = r
    have hr : JobRes.Wf r := holds_of_eq written (jobWrite_wf h)
    cases r with
    | pause => exact h
    | wait t => exact hr
    | fault c => exact faultJob_wf h
    | ok _ _ t => exact nextElement_wf (hpoison _ hr)

theorem doElement_wf (h : MemWf s) {cl j x} :
    MemWf (doElement s cl j x) := by
  unfold doElement
  extract_lets src
  split
  · exact faultJob_wf h
  · split
    · exact nextElement_wf h
    · exact writeElement_wf h
    · split
      · exact peerRequest_wf h
      · split
        · exact h
        · next eq => exact holds_of_eq (P := JobRes.Wf) eq (jobRead_wf h)
        · exact faultJob_wf h
        · next eq => exact writeElement_wf (holds_of_eq (P := JobRes.Wf) eq (jobRead_wf h))

end Sys2Proof.Machine
end

section
/-! SUPPORT. Canonical memory through the host port, the resets and the agenda (03). -/

namespace Sys2Proof.Machine

set_option Elab.async false

variable {s : State}

/-! ### The host port (03) -/

theorem writeDevnum_wf (h : MemWf s) {w v} : MemWf (writeDevnum s w v) := ownerWrite_wf h fun _ hu => frame_wf hu

theorem writeLinkstat_wf (h : MemWf s) {w n v} : MemWf (writeLinkstat s w n v) := ownerWrite_wf h fun _ hu => mapLink_wf hu

theorem writeAdmin_wf (h : MemWf s) {w o v} :
    MemWf (writeAdmin s w o v) := by
  unfold writeAdmin
  refine ite_wf h ?_
  refine ite_wf (writeOwner_wf h) ?_
  refine ite_wf (writeDevnum_wf h) ?_
  refine ite_wf (writeTimecfg_wf h) ?_
  refine ite_wf (writeLinkstat_wf h) ?_
  refine ite_wf (writeRoute_wf h) ?_
  refine ite_wf (writeGrant_wf h) ?_
  refine ite_wf (writeTraceBase_wf h) ?_
  exact ite_wf (writeTraceCfg_wf h) (ite_wf (writeDomcfg_wf h) (ite_wf (ownerWrite_wf h fun _ hu => hu) h))

theorem writeXinval_wf (h : MemWf s) {x v} :
    MemWf (writeXinval s x v) := by
  unfold writeXinval
  split
  · exact h
  · split
    · exact beginInval_wf h
    · exact beginInval_wf h
    · exact beginInval_wf h
    · exact answerFault_wf h
    · exact answerFault_wf h
    · exact h

theorem writeTrapctl_wf (h : MemWf s) {x v} :
    MemWf (writeTrapctl s x v) := by
  unfold writeTrapctl
  split
  · exact h
  · split
    · exact pushEvents_wf h
    · exact pushEvents_wf h
    · exact h

theorem writeCtxctl_wf (h : MemWf s) {x w v} :
    MemWf (writeCtxctl s x w v) := by
  unfold writeCtxctl
  split
  · exact h
  · split
    · exact createCtx_wf h
    · exact stopCtx_wf h
    · exact h

theorem writeOwnCtx_wf (h : MemWf s) {x o v} :
    MemWf (writeOwnCtx s x o v) := by
  unfold writeOwnCtx
  extract_lets put n
  split
  · exact ite_wf (mapCtx_wf h) h
  · exact ite_wf (mapCtx_wf h) h
  · exact ite_wf (mapCtx_wf h) h
  · exact ite_wf (mapCtx_wf h) h
  · exact ite_wf (mapCtx_wf h) h
  · exact writeDomsel_wf h
  · exact writeXinval_wf h
  · exact writeTrapctl_wf h
  · exact h

theorem writePfCtx_wf (h : MemWf s) {x o v} :
    MemWf (writePfCtx s x o v) := by
  unfold writePfCtx
  extract_lets put n
  split
  · exact ite_wf (mapCtx_wf h) h
  · exact ite_wf (mapCtx_wf h) h
  · exact ite_wf (mapCtx_wf h) h
  · exact h

theorem writeCtx_wf (h : MemWf s) {n x o v} :
    MemWf (writeCtx s n x o v) := ite_wf (writeCtxctl_wf h) (ite_wf (ite_wf (writePfCtx_wf h) h) (ite_wf (writeOwnCtx_wf h) h))

theorem writeMsix_wf (h : MemWf s) {fn o v} :
    MemWf (writeMsix s fn o v) := ite_wf h (ite_wf (mapMgmt_wf h) (sendMsix_wf (mapMgmt_wf (mapMgmt_wf h))))

theorem writeConfig_wf (h : MemWf s) {fn} : MemWf (writeConfig s fn) := ite_wf (writeMsix_wf h) (ite_wf (mapMgmt_wf h) h)

theorem execRegisterWrite_wf (h : MemWf s) :
    OutWf (execRegisterWrite s) := by
  unfold execRegisterWrite
  extract_lets w o half n v
  change MemWf _
  clear_value w
  refine ite_wf h (ite_wf ?_ (ite_wf (answer_wf h) (ite_wf h ?_)))
  · cases w with
    | fn n => exact writeConfig_wf h
    | _ => exact h
  · split
    · exact writeAdmin_wf h
    · exact writeCtx_wf h
    · exact h

theorem barScratch_wf (h : MemWf s) {va n write v} :
    BarRes.Wf (barScratch s va n write v) := ite_holds h (ite_holds (plainWrite_wf _ _ _ _ h) (ite_wf (countUncorr_wf h) h))

theorem barPart_wf (h : MemWf s) {x leaf va pa n write v} :
    BarRes.Wf (barPart s x leaf va pa n write v) :=
  ite_holds (homeWrite_wf _ _ _ _ _ _ _ _ _ h) (ite_wf (countUncorr_wf (evictLine_wf _ _ h)) (evictLine_wf _ _ h))

theorem barParts_wf (h : MemWf s) {fn id va write v l r} (hr : BarRes.Wf r) :
    BarRes.Wf (barParts s fn id va write v l r) := by
  induction l generalizing r with
  | nil => exact hr
  | cons p rest ih =>
    obtain ⟨a, n⟩ := p
    unfold barParts
    extract_lets kind
    split
    · split
      · exact requestMiss_wf h
      · split
        · next new bad t eq =>
            have ht : MemWf t := holds_of_eq (P := BarRes.Wf) eq (barPart_wf hr)
            exact ih ht
        · exact barPart_wf hr
    · exact hr

theorem barAccess_wf (h : MemWf s) {fn id va n write failed v} :
    BarRes.Wf (barAccess s fn id va n write failed v) := ite_holds h (ite_holds (barScratch_wf h) (ite_holds h (barParts_wf h h)))

theorem barOp_wf (h : MemWf s) {write} :
    MemWf (barOp s write) := by
  unfold barOp
  split
  · next fn _ =>
    extract_lets again old id n va gone
    have hgone (u) (hu : MemWf u) : MemWf (gone u) := mapMgmt_wf hu
    refine ite_wf (ite_wf h (answer_wf h)) (ite_wf h (ite_wf (answer_wf h) ?_))
    generalize access : barAccess s fn id va.toNat n write s.ev.flag _ = r
    have hr : BarRes.Wf r := holds_of_eq access (barAccess_wf h)
    cases r with
    | ok v bad u => exact ite_wf (hgone u hr) (answer_wf (hgone u hr))
    | abort u => exact ite_wf (hgone u hr) (answer_wf (hgone u hr))
    | wait u => exact mapMgmt_wf (hgone u hr)
  · exact h

/-! ### Resets -/

theorem coldReset_wf (h : MemWf s) : MemWf (coldReset s) := by
  obtain ⟨hphys, _, _⟩ := (Mem.wf_iff _).1 h
  exact beginStep_wf ((Mem.wf_iff _).2 ⟨hostCells_wf _ hphys, rfl, rfl⟩)

theorem execBootFailReset_wf (h : MemWf s) :
    OutWf (execBootFailReset s) := by
  unfold execBootFailReset
  split
  · exact coldReset_wf h
  · exact h

theorem closeLive_wf (h : MemWf s) {dir} : MemWf (closeLive s dir) := ite_wf h (closeHal_wf h)

theorem warmReset_wf (h : MemWf s) : MemWf (warmReset s) := by
  unfold warmReset
  extract_lets u
  have hu : MemWf u := foldl_memWf (fun _ _ hu => closeLive_wf hu) h
  clear_value u
  obtain ⟨hphys, hspad, himem⟩ := (Mem.wf_iff _).1 hu
  refine beginStep_wf (mk_wf ?_)
  exact (Mem.wf_iff _).2 ⟨hphys, hspad, himem⟩

/-! ### The agenda -/

theorem selection_wf (h : MemWf s) :
    MemWf (selection s) := by
  unfold selection
  extract_lets timed u
  have hu : MemWf u := ite_wf (resumeTimed_wf (claimForTimed_wf h)) h
  exact ite_wf (afterFree_wf hu) hu

theorem bringDue_wf (h : MemWf s) : MemWf (bringDue s) := pushEvents_wf (selection_wf h)

theorem noteIdle_wf (h : MemWf s) : MemWf (noteIdle s) := foldl_memWf (fun _ _ hu => mapCore_wf (wakeCore_wf hu)) h

theorem closeCycle_wf (h : MemWf s) : MemWf (closeCycle s) := pushEvents_wf (noteIdle_wf h)

theorem nextCycle_wf (h : MemWf s) :
    MemWf (nextCycle s) := by
  unfold nextCycle
  split
  · exact frame_wf h
  · extract_lets _ out _ w x
    have hw : MemWf w := foldl_memWf (fun _ _ hu => lateReady_wf (grantLrw_wf hu)) (frame_wf h)
    have hx : MemWf x := watchTick_wf (injectBeats_wf hw)
    exact frame_wf hx

theorem planBundle_wf (h : MemWf s) {c m} :
    Plan.Wf (planBundle s c m) := by
  unfold planBundle
  split
  · exact h
  · split
    · exact endBundle_wf h
    · exact frame_wf h

theorem planIssue_wf (h : MemWf s) {c} : Plan.Wf (planIssue s c) := by
  unfold planIssue
  extract_lets k kept begun accessed issued
  have hkept : MemWf kept := keepCtl_wf h
  have hbegun : MemWf begun := mapCore_wf hkept
  have haccessed : MemWf accessed := activeAccesses_wf hbegun
  have hissued : SndWf issued := ite_holds (issueGuidon_wf haccessed) (issueFollower_wf haccessed)
  clear_value issued accessed
  exact ite_holds (planBundle_wf h) (ite_holds h (ite_holds (mapCore_wf (moveMarks_wf (mapCore_wf hkept)))
    (ite_holds hbegun (ite_holds (mapCore_wf hbegun) (ite_holds (idleCycle_wf haccessed) (planBundle_wf hissued))))))

theorem planRetry_wf (h : MemWf s) {c} :
    Plan.Wf (planRetry s c) := by
  unfold planRetry
  extract_lets k
  split
  · exact frame_wf h
  · split
    · exact h
    · exact frame_wf h

theorem saveTrapped_wf (h : MemWf s) {c} :
    MemWf (saveTrapped s c) := by
  unfold saveTrapped
  refine foldl_memWf (fun _ _ hu => ?_) h
  extract_lets th
  split
  · exact ite_wf (takeThreadTrap_wf hu) hu
  · exact hu

theorem planThreads_wf (h : MemWf s) {c} : Plan.Wf (planThreads s c) := by
  unfold planThreads
  extract_lets u
  have hu : MemWf u := saveTrapped_wf (decideNet_wf h)
  split
  · extract_lets cls v
    have hv : MemWf v := mapThread_wf hu
    exact Plan.wf_run (mk_wf hv)
  · exact Plan.wf_done (foldl_memWf (fun _ _ hv => fetchLine_wf hv) hu)

theorem planOffer_wf (h : MemWf s) {c i} :
    Plan.Wf (planOffer s c i) := by
  unfold planOffer
  split
  · next eq => exact holds_of_eq (P := SndWf) eq (offer_wf h)
  · next eq => exact holds_of_eq (P := SndWf) eq (offer_wf h)

theorem plan_wf (h : MemWf s) : Plan.Wf (plan s) := by
  unfold plan
  split
  · exact nextCycle_wf h
  · extract_lets u
    have hu : MemWf u := frame_wf h
    clear_value u
    split
    · exact frame_wf hu
    · exact bringDue_wf hu
    · exact settle_wf hu
    · exact goCycle_wf hu
    · exact planIssue_wf hu
    · exact planRetry_wf hu
    · exact planThreads_wf hu
    · exact planOffer_wf hu
    · exact restService_wf hu
    · exact closeCycle_wf hu

end Sys2Proof.Machine
end

section
/-! PROOFS. Memory stays canonical (07 R177; 09 R221, R222): every instruction and every event keeps the form, and so does a step. -/

namespace Sys2Proof.Machine

set_option Elab.async false

variable {s : State}

/-- Each by the lemma about the function that carries it out. -/
theorem exec_wf (h : MemWf s) : ∀ i, OutWf (exec i s)
  | .coldReset => (coldReset_wf h : OutWf (execColdReset s))
  | .warmReset => (ite_wf (warmReset_wf h) h : OutWf (execWarmReset s))
  | .functionLevelReset => (mapMgmt_wf (clearWindows_wf (foldl_memWf (fun _ _ hu => stopCtx_wf hu) h)) : OutWf (execFunctionLevelReset s))
  | .tokenPeriodStart => (thermalActions_wf (frame_wf h) : OutWf (execTokenPeriodStart s))
  | .grantWrite => (writeGrant_wf h : OutWf (execGrantWrite s))
  | .powerCap => (ite_wf (answer_wf h) (answer_wf (applyCap_wf (frame_wf h))) : OutWf (execPowerCap s))
  | .gatingPrepare => (ite_wf (mapCore_wf h) h : OutWf (execGatingPrepare s))
  | .gatingCommit => execGatingCommit_wf h
  | .ungatingComplete => execUngatingComplete_wf h
  | .timeSourceLock => (lockSource_wf h : OutWf (execTimeSourceLock s))
  | .timeSourceLoss => (ite_wf (loseSource_wf h) h : OutWf (execTimeSourceLoss s))
  | .timecfgWrite => (writeTimecfg_wf h : OutWf (execTimecfgWrite s))
  | .linkTrainingDone => execLinkTrainingDone_wf h
  | .linkRetrain => (relink_wf (mapLink_wf h) : OutWf (execLinkRetrain s))
  | .idle => (arrive_wf h fun _ _ hu => hu : OutWf (execIdle s))
  | .read => (arrive_wf h fun _ _ hu => serveRequest_wf hu : OutWf (execRead s))
  | .readrsp => (arrive_wf h fun _ _ hu => takeResponse_wf hu : OutWf (execReadrsp s))
  | .write => (arrive_wf h fun _ _ hu => serveRequest_wf hu : OutWf (execWrite s))
  | .writeack => (arrive_wf h fun _ _ hu => takeResponse_wf hu : OutWf (execWriteack s))
  | .atomic => (arrive_wf h fun _ _ hu => serveRequest_wf hu : OutWf (execAtomic s))
  | .atomicrsp => (arrive_wf h fun _ _ hu => takeResponse_wf hu : OutWf (execAtomicrsp s))
  | .message => (ite_wf (postMessage_wf h) (arrive_wf h fun _ _ hu => takeMessage_wf hu) : OutWf (execMessage s))
  | .time => (arrive_wf h fun _ _ hu => ite_wf (mapLink_wf hu) (takeSample_wf (mapLink_wf hu)) : OutWf (execTime s))
  | .linkctl => (arrive_wf h fun _ _ hu => ite_wf hu (flushLink_wf (foldl_memWf (fun _ _ hv => mapLink_wf hv) hu)) : OutWf (execLinkctl s))
  | .routeWrite => (writeRoute_wf h : OutWf (execRouteWrite s))
  | .routeStallDiscard => (ite_wf h (foldl_memWf (fun _ _ hu => dropFlit_wf hu) (mapLink_wf h)) : OutWf (execRouteStallDiscard s))
  | .linkRequestTimeout => execLinkRequestTimeout_wf h
  | .messageRetry => (foldl_memWf (fun _ _ hu => sendMessage_wf hu) (frame_wf h) : OutWf (execMessageRetry s))
  | .timeFlitSend => (ite_wf h (ite_wf (mapLink_wf h) (sendBare_wf (mapLink_wf h))) : OutWf (execTimeFlitSend s))
  | .neighbourSourceLost => (ite_wf (loseSource_wf h) h : OutWf (execNeighbourSourceLost s))
  | .bar4Read => (barOp_wf h : OutWf (execBar4Read s))
  | .bar4Write => (barOp_wf h : OutWf (execBar4Write s))
  | .claim => (ownerCommand_wf h : OutWf (execClaim s))
  | .release => (ownerCommand_wf h : OutWf (execRelease s))
  | .handover => (ownerCommand_wf h : OutWf (execHandover s))
  | .accept => (ownerCommand_wf h : OutWf (execAccept s))
  | .handoverLapse => execHandoverLapse_wf h
  | .registerWrite => execRegisterWrite_wf h
  | .pldmSensorRead => (ite_wf (answer_wf h) (answer_wf h) : OutWf (execPldmSensorRead s))
  | .telemetryRefresh => (mapMgmt_wf (ite_wf (frame_wf h) h) : OutWf (execTelemetryRefresh s))
  | .firmwareUpdate =>
      (ite_wf (answer_wf (ite_wf (writeBootStep_wf (mapMgmt_wf h)) (mapMgmt_wf h))) (answer_wf (mapMgmt_wf h)) :
        OutWf (execFirmwareUpdate s))
  | .clearBootMark => (ite_wf (answer_wf h) (answer_wf (writeBootStep_wf h)) : OutWf (execClearBootMark s))
  | .spdmRequest => (ite_wf h (ite_wf (answer_wf h) (ite_wf (answer_wf (mapMgmt_wf h)) (answer_wf h))) : OutWf (execSpdmRequest s))
  | .tracebaseWrite => (writeTraceBase_wf h : OutWf (execTracebaseWrite s))
  | .tracecfgWrite => (writeTraceCfg_wf h : OutWf (execTracecfgWrite s))
  | .bootStep => execBootStep_wf h
  | .bootFailReset => execBootFailReset_wf h
  | .functionEnable => (ite_wf h (mapCtx_wf (mapSched_wf h)) : OutWf (execFunctionEnable s))
  | .create => (ite_wf (createCtx_wf h) h : OutWf (execCreate s))
  | .destroy => (ite_wf (stopCtx_wf h) h : OutWf (execDestroy s))
  | .contextFree => execContextFree_wf h
  | .scheduleEntryWrite => execScheduleEntryWrite_wf h
  | .validSet => (ite_wf h (ite_wf (enqueueShared_wf (armEntry_wf h)) (armEntry_wf h)) : OutWf (execValidSet s))
  | .validClear =>
      (ite_wf h (foldl_memWf (fun _ _ hu => ite_wf (retireOcc_wf (releaseAll_wf hu)) hu) (setValid_wf h)) :
        OutWf (execValidClear s))
  | .preparationBegin => execPreparationBegin_wf h
  | .imageLoad => execImageLoad_wf h
  | .occurrenceStart => execOccurrenceStart_wf h
  | .occurrenceEnd => execOccurrenceEnd_wf h
  | .frameSubmit => execFrameSubmit_wf h
  | .roundStart => (afterFree_wf (foldl_memWf (fun _ _ hu => sharingPreempt_wf hu) (frame_wf h)) : OutWf (execRoundStart s))
  | .sharedStart => execSharedStart_wf h
  | .stopCycle => execStopCycle_wf h
  | .snapshotComplete => execSnapshotComplete_wf h
  | .unitResume => (ite_wf (prepare_wf h) (mapUnit_wf h) : OutWf (execUnitResume s))
  | .restoreComplete => execRestoreComplete_wf h
  | .watchdogPreempt => execWatchdogPreempt_wf h
  | .watchdogKill => execWatchdogKill_wf h
  | .watchdogFence => execWatchdogFence_wf h
  | .phaseHoldEnd => execPhaseHoldEnd_wf h
  | .playbackAdvance => (playOn_wf h : OutWf (execPlaybackAdvance s))
  | .mergeFrame => (handleFrame_wf h : OutWf (execMergeFrame s))
  | .cutFrame => (handleFrame_wf h : OutWf (execCutFrame s))
  | .endFrame => (handleFrame_wf h : OutWf (execEndFrame s))
  | .cutComplete => execCutComplete_wf h
  | .meshBeat => execMeshBeat_wf h
  | .mailboxPost => execMailboxPost_wf h
  | .pagefault => execPagefault_wf h
  | .translationTimeout => (foldl_memWf (fun _ _ hu => failMiss_wf hu) h : OutWf (execTranslationTimeout s))
  | .invpage => (beginInval_wf h : OutWf (execInvpage s))
  | .invhuge => (beginInval_wf h : OutWf (execInvhuge s))
  | .invall => (beginInval_wf h : OutWf (execInvall s))
  | .xinvalResume => (answerFault_wf h : OutWf (execXinvalResume s))
  | .xinvalFail => (answerFault_wf h : OutWf (execXinvalFail s))
  | .invalidationComplete => (endInval_wf h : OutWf (execInvalidationComplete s))
  | .domcfgWrite => (writeDomcfg_wf h : OutWf (execDomcfgWrite s))
  | .domselWrite => (ite_wf (writeDomsel_wf h) h : OutWf (execDomselWrite s))
  | .domainChangeComplete => execDomainChangeComplete_wf h
  | .correctedError => execCorrectedError_wf h
  | .eccFreezeEnd => (mapCore_wf h : OutWf (execEccFreezeEnd s))
  | .uncorrectableError => execUncorrectableError_wf h
  | .reservationRevoke => (mapQueue_wf h : OutWf (execReservationRevoke s))
  | .raceTagSweep => (stores_wf h : OutWf (execRaceTagSweep s))
  | .accessTrap => execAccessTrap_wf h
  | .uiTimerFire => (ite_wf (foldl_memWf (fun _ _ hu => mapCore_wf hu) (queueCause_wf h)) h : OutWf (execUiTimerFire s))
  | .userInterruptTake => execUserInterruptTake_wf h
  | .trapctlResume => (ite_wf (resumeHeld_wf h) h : OutWf (execTrapctlResume s))
  | .trapctlKill => execTrapctlKill_wf h
  | .hoistArrival => execHoistArrival_wf h
  | .hoistRelease => execHoistRelease_wf h
  | .holdRelease => (mapCore_wf h : OutWf (execHoldRelease s))
  | .pwaitWake => (ite_wf (mapCore_wf h) (mapThread_wf h) : OutWf (execPwaitWake s))
  | .pwaitTimeout => (ite_wf (mapCore_wf h) (mapThread_wf h) : OutWf (execPwaitTimeout s))
  | .frameResume => execFrameResume_wf h
  | .sleepExpiry => (mapThread_wf h : OutWf (execSleepExpiry s))
  | .migrationDeparture => execMigrationDeparture_wf h
  | .migrationArrival => execMigrationArrival_wf h
  | .mooringMove => execMooringMove_wf h
  | .copyJobStart => execCopyJobStart_wf h
  | .copyElement => (ite_wf (doElement_wf h) h : OutWf (execCopyElement s))
  | .copyJobFinish => (ite_wf (finishJob_wf h) h : OutWf (execCopyJobFinish s))
  | .add f => (alu_wf h : OutWf (execAdd f s))
  | .sub f => (alu_wf h : OutWf (execSub f s))
  | .addw f => (alu_wf h : OutWf (execAddw f s))
  | .subw f => (alu_wf h : OutWf (execSubw f s))
  | .mul f => (alu_wf h : OutWf (execMul f s))
  | .mulh f => (alu_wf h : OutWf (execMulh f s))
  | .mulhn f => (alu_wf h : OutWf (execMulhn f s))
  | .div f => (alu_wf h : OutWf (execDiv f s))
  | .divn f => (alu_wf h : OutWf (execDivn f s))
  | .rem f => (alu_wf h : OutWf (execRem f s))
  | .remn f => (alu_wf h : OutWf (execRemn f s))
  | .and f => (alu_wf h : OutWf (execAnd f s))
  | .or f => (alu_wf h : OutWf (execOr f s))
  | .xor f => (alu_wf h : OutWf (execXor f s))
  | .andn f => (alu_wf h : OutWf (execAndn f s))
  | .orn f => (alu_wf h : OutWf (execOrn f s))
  | .shl f => (alu_wf h : OutWf (execShl f s))
  | .shr f => (alu_wf h : OutWf (execShr f s))
  | .sra f => (alu_wf h : OutWf (execSra f s))
  | .rotr f => (alu_wf h : OutWf (execRotr f s))
  | .clz f => (unary_wf h : OutWf (execClz f s))
  | .ctz f => (unary_wf h : OutWf (execCtz f s))
  | .popc f => (unary_wf h : OutWf (execPopc f s))
  | .brev f => (unary_wf h : OutWf (execBrev f s))
  | .min f => (alu_wf h : OutWf (execMin f s))
  | .max f => (alu_wf h : OutWf (execMax f s))
  | .minn f => (alu_wf h : OutWf (execMinn f s))
  | .maxn f => (alu_wf h : OutWf (execMaxn f s))
  | .cmp f => (compare_wf h : OutWf (execCmp f s))
  | .cmpn f => (compare_wf h : OutWf (execCmpn f s))
  | .mov f => (unary_wf h : OutWf (execMov f s))
  | .li f => (runB_wf h fun _ hu => finish_wf (writeR_wf hu) : OutWf (execLi f s))
  | .movx f => (unary_wf h : OutWf (execMovx f s))
  | .extr f => (alu_wf h : OutWf (execExtr f s))
  | .insr f => (alu3_wf h : OutWf (execInsr f s))
  | .sxt f => (alu_wf h : OutWf (execSxt f s))
  | .zxt f => (alu_wf h : OutWf (execZxt f s))
  | .lea f => (alu_wf h : OutWf (execLea f s))
  | .pand f => (runOp_wf h fun _ hu => finish_wf (writeP_wf hu) : OutWf (execPand f s))
  | .por f => (runOp_wf h fun _ hu => finish_wf (writeP_wf hu) : OutWf (execPor f s))
  | .pxor f => (runOp_wf h fun _ hu => finish_wf (writeP_wf hu) : OutWf (execPxor f s))
  | .pnot f => (runOp_wf h fun _ hu => finish_wf (writeP_wf hu) : OutWf (execPnot f s))
  | .pmov f => (runOp_wf h fun _ hu => finish_wf (writeP_wf hu) : OutWf (execPmov f s))
  | .pset f => (runOp_wf h fun _ hu => finish_wf (writeP_wf hu) : OutWf (execPset f s))
  | .fadd f => (float2_wf h : OutWf (execFadd f s))
  | .fsub f => (float2_wf h : OutWf (execFsub f s))
  | .fmul f => (float2_wf h : OutWf (execFmul f s))
  | .ffma f => (runB_wf h fun _ hu => finish_wf (writeFloat_wf hu) : OutWf (execFfma f s))
  | .fmin f => (float2_wf h : OutWf (execFmin f s))
  | .fmax f => (float2_wf h : OutWf (execFmax f s))
  | .fcmp f => (runB_wf h fun _ hu => finish_wf (raiseFlags_wf (writeP_wf hu)) : OutWf (execFcmp f s))
  | .fcvtI2f f => (runOp_wf h fun _ hu => finish_wf (writeFloat_wf hu) : OutWf (execFcvtI2f f s))
  | .fcvtN2f f => (runOp_wf h fun _ hu => finish_wf (writeFloat_wf hu) : OutWf (execFcvtN2f f s))
  | .fcvtF2i f => (runOp_wf h fun _ hu => finish_wf (raiseFlags_wf (writeR_wf hu)) : OutWf (execFcvtF2i f s))
  | .fcvtF2n f => (runOp_wf h fun _ hu => finish_wf (raiseFlags_wf (writeR_wf hu)) : OutWf (execFcvtF2n f s))
  | .mfc f => (runOp_wf h fun _ hu => finish_wf (writeR_wf hu) : OutWf (execMfc f s))
  | .mtc f => (runOp_wf h fun _ hu => finish_wf (addPend_wf hu) : OutWf (execMtc f s))
  | .now f => (runOp_wf h fun _ hu => finish_wf (writeR_wf hu) : OutWf (execNow f s))
  | .cyc f => (runOp_wf h fun _ hu => finish_wf (writeR_wf hu) : OutWf (execCyc f s))
  | .mix f => (alu_wf h : OutWf (execMix f s))
  | .hset f => (runOp_wf h fun _ hu => finish_wf (addPend_wf hu) : OutWf (execHset f s))
  | .hget f => (runOp_wf h fun _ hu => finish_wf (writeR_wf hu) : OutWf (execHget f s))
  | .ldb f => (load_wf h : OutWf (execLdb f s))
  | .ldbn f => (load_wf h : OutWf (execLdbn f s))
  | .ldh f => (load_wf h : OutWf (execLdh f s))
  | .ldhn f => (load_wf h : OutWf (execLdhn f s))
  | .ldw f => (load_wf h : OutWf (execLdw f s))
  | .ldwn f => (load_wf h : OutWf (execLdwn f s))
  | .ldd f => (load_wf h : OutWf (execLdd f s))
  | .stb f => (store_wf h : OutWf (execStb f s))
  | .sth f => (store_wf h : OutWf (execSth f s))
  | .stw f => (store_wf h : OutWf (execStw f s))
  | .std f => (store_wf h : OutWf (execStd f s))
  | .ldv f => (runOp_wf h fun _ hu => issueRows_wf hu : OutWf (execLdv f s))
  | .stv f => (runOp_wf h fun _ hu => issueRows_wf hu : OutWf (execStv f s))
  | .vgath f => (runOp_wf h fun _ hu => issueAccess_wf hu : OutWf (execVgath f s))
  | .vscat f => (runOp_wf h fun _ hu => issueAccess_wf hu : OutWf (execVscat f s))
  | .lda f => execLda_wf h
  | .strl f => execStrl_wf h
  | .praise f => execPraise_wf h
  | .ptest f => execPtest_wf h
  | .pwait f => execPwait_wf h
  | .lrw f => execLrw_wf h
  | .sch f => execSch_wf h
  | .aadd f => (atomic_wf h : OutWf (execAadd f s))
  | .aand f => (atomic_wf h : OutWf (execAand f s))
  | .aor f => (atomic_wf h : OutWf (execAor f s))
  | .axor f => (atomic_wf h : OutWf (execAxor f s))
  | .amin f => (atomic_wf h : OutWf (execAmin f s))
  | .amax f => (atomic_wf h : OutWf (execAmax f s))
  | .aminn f => (atomic_wf h : OutWf (execAminn f s))
  | .amaxn f => (atomic_wf h : OutWf (execAmaxn f s))
  | .axch f => (atomic_wf h : OutWf (execAxch f s))
  | .acas f => (atomic_wf h : OutWf (execAcas f s))
  | .fence f => execFence_wf h
  | .cflush f => execCflush_wf h
  | .cinv f => (cacheOp_wf h fun _ _ _ _ hu => finish_wf (dcDrop_wf hu) : OutWf (execCinv f s))
  | .cpre f => execCpre_wf h
  | .pld f => execPld_wf h
  | .stt f => (runOp_wf h fun _ hu => finish_wf (installLeaf_wf hu) : OutWf (execStt f s))
  | .vadd f => (vec2_wf h : OutWf (execVadd f s))
  | .vsub f => (vec2_wf h : OutWf (execVsub f s))
  | .vmul f => (vec2_wf h : OutWf (execVmul f s))
  | .vmulh f => (vec2_wf h : OutWf (execVmulh f s))
  | .vfma f => (vec3_wf h : OutWf (execVfma f s))
  | .vfms f => (vec3_wf h : OutWf (execVfms f s))
  | .vmin f => (vec2_wf h : OutWf (execVmin f s))
  | .vmax f => (vec2_wf h : OutWf (execVmax f s))
  | .vabs f => (vec1_wf h : OutWf (execVabs f s))
  | .vneg f => (vec1_wf h : OutWf (execVneg f s))
  | .vand f => (lane2_wf h : OutWf (execVand f s))
  | .vor f => (lane2_wf h : OutWf (execVor f s))
  | .vxor f => (lane2_wf h : OutWf (execVxor f s))
  | .vnot f => (vec1_wf h : OutWf (execVnot f s))
  | .vshl f => (vec2_wf h : OutWf (execVshl f s))
  | .vshr f => (vec2_wf h : OutWf (execVshr f s))
  | .vsra f => (vec2_wf h : OutWf (execVsra f s))
  | .vcmp f => (vecCmp_wf h : OutWf (execVcmp f s))
  | .vcmpx f => (vecCmp_wf h : OutWf (execVcmpx f s))
  | .vsel f => (runOp_wf h fun _ hu => writeLanes_wf hu : OutWf (execVsel f s))
  | .vcvt f => (runOp_wf h fun _ hu => writeElems_wf hu : OutWf (execVcvt f s))
  | .vpack f => (runOp_wf h fun _ hu => writeElems_wf hu : OutWf (execVpack f s))
  | .vunpk f => (runOp_wf h fun _ hu => writeElems_wf (writeElems_wf hu) : OutWf (execVunpk f s))
  | .vqdec f => (runOp_wf h fun _ hu => writeLanes_wf hu : OutWf (execVqdec f s))
  | .vexp2 f => (vecFn_wf h : OutWf (execVexp2 f s))
  | .vlog2 f => (vecFn_wf h : OutWf (execVlog2 f s))
  | .vrcp f => (vecFn_wf h : OutWf (execVrcp f s))
  | .vrsq f => (vecFn_wf h : OutWf (execVrsq f s))
  | .vsqrt f => (vecFn_wf h : OutWf (execVsqrt f s))
  | .vred f => (runOp_wf h fun _ hu => raiseFlags_wf (writeLanes_wf hu) : OutWf (execVred f s))
  | .vscan f => (runOp_wf h fun _ hu => raiseFlags_wf (writeLanes_wf hu) : OutWf (execVscan f s))
  | .vperm f => (runOp_wf h fun _ hu => writeLanes_wf hu : OutWf (execVperm f s))
  | .vshuf f => (runOp_wf h fun _ hu => writeLanes_wf hu : OutWf (execVshuf f s))
  | .vbc f => (runOp_wf h fun _ hu => writeLanes_wf hu : OutWf (execVbc f s))
  | .vext f => (runOp_wf h fun _ hu => writePrimS_wf hu : OutWf (execVext f s))
  | .vins f => execVins_wf h
  | .vcx f => (runOp_wf h fun _ hu => writeLanes_wf hu : OutWf (execVcx f s))
  | .vargmx f => (runOp_wf h fun _ hu => writeLanes_wf hu : OutWf (execVargmx f s))
  | .vrand f => (runOp_wf h fun _ hu => writeLanes_wf hu : OutWf (execVrand f s))
  | .viota f => (runOp_wf h fun _ hu => writeLanes_wf hu : OutWf (execViota f s))
  | .mand f => (runOp_wf h fun _ hu => writeM_wf hu : OutWf (execMand f s))
  | .mor f => (runOp_wf h fun _ hu => writeM_wf hu : OutWf (execMor f s))
  | .mxor f => (runOp_wf h fun _ hu => writeM_wf hu : OutWf (execMxor f s))
  | .mnot f => (runOp_wf h fun _ hu => writeM_wf hu : OutWf (execMnot f s))
  | .mpop f => (runOp_wf h fun _ hu => writePrimS_wf hu : OutWf (execMpop f s))
  | .mfirst f => (runOp_wf h fun _ hu => writePrimS_wf hu : OutWf (execMfirst f s))
  | .mfrom f => (runOp_wf h fun _ hu => writeM_wf hu : OutWf (execMfrom f s))
  | .mtos f => (runOp_wf h fun _ hu => writePrimS_wf hu : OutWf (execMtos f s))
  | .mbeat f => execMbeat_wf h
  | .mscl f => (runOp_wf h fun _ hu => advance_wf (issueAccess_wf hu) : OutWf (execMscl f s))
  | .mclr f => (runOp_wf h fun _ hu => mapCore_wf hu : OutWf (execMclr f s))
  | .mswap f => (runOp_wf h fun _ hu => mapCore_wf hu : OutWf (execMswap f s))
  | .msave f => (runOp_wf h fun _ hu => mapCore_wf (issueAccess_wf hu) : OutWf (execMsave f s))
  | .mload f => (runOp_wf h fun _ hu => mapCore_wf (issueAccess_wf hu) : OutWf (execMload f s))
  | .br f => (runOp_wf h fun _ hu => transferTo_wf hu : OutWf (execBr f s))
  | .bri f => (runOp_wf h fun _ hu => transferTo_wf hu : OutWf (execBri f s))
  | .call f => (runOp_wf h fun _ hu => writeLink_wf (transferTo_wf hu) : OutWf (execCall f s))
  | .calli f => (runOp_wf h fun _ hu => writeLink_wf (transferTo_wf hu) : OutWf (execCalli f s))
  | .ret f => (runOp_wf h fun _ hu => transferTo_wf hu : OutWf (execRet f s))
  | .loop f => (runOp_wf h fun _ hu => startLoop_wf hu : OutWf (execLoop f s))
  | .loopx f => (runOp_wf h fun _ hu => startLoop_wf hu : OutWf (execLoopx f s))
  | .holdcImm f => (runOp_wf h fun _ hu => holdUntil_wf hu : OutWf (execHoldcImm f s))
  | .holdcReg f => (runOp_wf h fun _ hu => holdUntil_wf hu : OutWf (execHoldcReg f s))
  | .holdu f => (runOp_wf h fun _ hu => holdUntil_wf hu : OutWf (execHoldu f s))
  | .halt f => (runOp_wf h fun _ hu => mapCore_wf hu : OutWf (execHalt f s))
  | .trap f => (runOp_wf h fun _ hu => hu : OutWf (execTrap f s))
  | .brk f => (runOp_wf h fun _ hu => hu : OutWf (execBrk f s))
  | .iret f => (runOp_wf h fun _ hu => transferTo_wf hu : OutWf (execIret f s))
  | .uien f => (runOp_wf h fun _ hu => mapCore_wf hu : OutWf (execUien f s))
  | .uidis f => (runOp_wf h fun _ hu => mapCore_wf hu : OutWf (execUidis f s))
  | .ifence f => (runOp_wf h fun _ hu => holdUntil_wf (mapCore_wf hu) : OutWf (execIfence f s))
  | .phase f => (runOp_wf h fun _ hu => mapCore_wf hu : OutWf (execPhase f s))
  | .mseek f => (runOp_wf h fun _ hu => addPend_wf hu : OutWf (execMseek f s))
  | .setfReg f => (runOp_wf h fun _ hu => addPend_wf hu : OutWf (execSetfReg f s))
  | .setfLit f => (runOp_wf h fun _ hu => addPend_wf hu : OutWf (execSetfLit f s))
  | .fmtReg f => (runOp_wf h fun _ hu => addPend_wf hu : OutWf (execFmtReg f s))
  | .fmtLit f => (runOp_wf h fun _ hu => addPend_wf hu : OutWf (execFmtLit f s))
  | .cpy f => (runE_wf h fun _ hu => issueJob_wf hu : OutWf (execCpy f s))
  | .cpyV f => (runE_wf h fun _ hu => issueJob_wf hu : OutWf (execCpyV f s))
  | .cpyq f => (runE_wf h fun _ hu => observeJob_wf hu : OutWf (execCpyq f s))
  | .cpyw f => execCpyw_wf h
  | .cpyk f => execCpyk_wf h
  | .hbindOpen f => (halOp_wf h fun _ _ _ hu => actOpen_wf hu : OutWf (execHbindOpen f s))
  | .hbindBind f => (halOp_wf h fun _ _ _ hu => actBind_wf hu : OutWf (execHbindBind f s))
  | .hbindPark f => (halOp_wf h fun _ _ _ hu => actPark_wf hu : OutWf (execHbindPark f s))
  | .hbindClose f => (halOp_wf h fun _ _ _ hu => actClose_wf hu : OutWf (execHbindClose f s))
  | .hread f => (runE_wf h fun _ hu => hreadOp_wf hu : OutWf (execHread f s))
  | .hframe f => (halOp_wf h fun _ _ _ hu => actHframe_wf hu : OutWf (execHframe f s))
  | .htent f => (halOp_wf h fun _ _ _ hu => actHtent_wf hu : OutWf (execHtent f s))
  | .hcommit f => (halOp_wf h fun _ _ _ hu => actHcommit_wf hu : OutWf (execHcommit f s))
  | .hcut f => (halOp_wf h fun _ _ _ hu => actHcut_wf hu : OutWf (execHcut f s))
  | .hcutT f => (halOp_wf h fun _ _ _ hu => actHcut_wf hu : OutWf (execHcutT f s))
  | .hckpt f => (halOp_wf h fun _ _ _ hu => actHckpt_wf hu : OutWf (execHckpt f s))
  | .hplayHold f => (halOp_wf h fun _ _ _ hu => actHplay_wf hu : OutWf (execHplayHold f s))
  | .hplaySource f => (halOp_wf h fun _ _ _ hu => actHplay_wf hu : OutWf (execHplaySource f s))
  | .hplayHorizon f => (halOp_wf h fun _ _ _ hu => actHplay_wf hu : OutWf (execHplayHorizon f s))
  | .sqput f => (sqOp_wf h : OutWf (execSqput f s))
  | .sqget f => (sqOp_wf h : OutWf (execSqget f s))
  | .sqlen f => (sqlenOp_wf h : OutWf (execSqlen f s))
  | .sqlenArmHigh f => (sqlenOp_wf h : OutWf (execSqlenArmHigh f s))
  | .sqlenArmLow f => (sqlenOp_wf h : OutWf (execSqlenArmLow f s))
  | .tspawn f => (spawnOp_wf h : OutWf (execTspawn f s))
  | .twake f => (spawnOp_wf h : OutWf (execTwake f s))
  | .trace f => (runE_wf h fun _ hu => finish_wf (traceRecord_wf hu) : OutWf (execTrace f s))
  | .vsend f => (runE_wf h fun _ hu => mapCore_wf hu : OutWf (execVsend f s))
  | .vrecv f => execVrecv_wf h
  | .live f => execLive_wf h
  | .migr f => execMigr_wf h
  | .jmp f => (runOp_wf h fun _ hu => jumpOp_wf hu : OutWf (execJmp f s))
  | .jr f => (jumpOp_wf h : OutWf (execJr f s))
  | .jal f => (jumpOp_wf h : OutWf (execJal f s))
  | .jalr f => (jumpOp_wf h : OutWf (execJalr f s))
  | .sleepu f => execSleepu_wf h
  | .tyield => execTyield_wf h
  | .tyieldPark => (saveFrame_wf h fun _ _ _ _ _ hu => hu : OutWf (execTyieldPark s))
  | .texit => execTexit_wf h
  | .sysc f => (saveFrame_wf h fun _ _ _ _ _ hu => eventRecord_wf _ _ _ _ _ _ hu : OutWf (execSysc f s))
  | .trapg f => (takeTrap_wf h : OutWf (execTrapg f s))
  | .occurrenceInstant => execOccurrenceInstant_wf h
  | .powerLoss => (powerOff_wf : OutWf (execPowerLoss s))
  | .functionDisable => (ite_wf h (mapSched_wf (stopCtx_wf h)) : OutWf (execFunctionDisable s))
  | .timeSourceSample => (measureOffset_wf h : OutWf (execTimeSourceSample s))
  | .pldmBaseRequest => (ite_wf (answer_wf h) (answer_wf h) : OutWf (execPldmBaseRequest s))
  | .sliceResponse => execSliceResponse_wf h

/-- A step is the rest of the agenda's task or the instruction that it names. -/
theorem step_wf {t : State} (h : MemWf s) (eq : step s = .next t) : MemWf t := by
  have hplan : Plan.Wf (plan s) := plan_wf h
  unfold step at eq
  generalize plan s = p at hplan eq
  cases p with
  | done u => exact holds_of_eq (P := OutWf) eq hplan
  | run i u => exact holds_of_eq (P := OutWf) eq (exec_wf (s := u) hplan i)

/-- Settles O58: what a step does outside its instruction keeps the form (`plan_wf`), and so does every instruction and event
(`exec_wf`). -/
theorem memoryStaysCanonical : Obligations.MemoryStaysCanonical := fun _ _ h eq => step_wf h eq

end Sys2Proof.Machine
end
